-- ==== Sys2Proof/Word.lean ====
section
/-!
DEFINITION. The word types of the Sunath and their plainest arithmetic (R1 to R3 of spec/00): bytes, words, doubles,
origin labels. Little-endian joining and splitting of bytes are in Machine/Bits.lean.
-/

namespace Sys2Proof

/-- A byte, the smallest addressable unit (R3). -/
abbrev Byte := BitVec 8

/-- A word of 32 bits, the width of a V register (R3, R26). -/
abbrev Word := BitVec 32

/-- A double of 64 bits (R3). -/
abbrev Double := BitVec 64

/-- An origin label: a 64-bit set of origins; union is the bitwise OR (R7, R126). -/
abbrev Label := BitVec 64

/-- The empty label. -/
def Label.none : Label := 0#64

/-- The label that holds one origin (R321). -/
def Label.origin (o : Nat) : Label := BitVec.ofNat 64 (2 ^ (o % 64))

/-- Union of a list of labels. -/
def Label.union (ls : List Label) : Label := ls.foldl (· ||| ·) 0#64

/-- Containment of labels. -/
def Label.subset (a b : Label) : Bool := a &&& b == a

end Sys2Proof
end

