-- ==== Sys2Proof/Config.lean ====
section
/-!
DEFINITION. What an implementation fixes and the spec leaves open: the free values. Each is an opaque constant: nothing in
Lean can compute it, so a statement about it holds for every value (notes/assumptions 5, 9, 12).
-/

namespace Sys2Proof.Config

/-- A fresh unspecified word for each value of State.tick (R8; log 9). DESIGN CHOICE: free. -/
opaque freeWord : Nat → Word

/-- A fresh unspecified byte for each value of State.tick (R8, R273; log 9). DESIGN CHOICE: free. -/
opaque freeByte : Nat → Byte

/-- The core cycles that a step takes beyond one, for each value of State.tick (log 5). DESIGN CHOICE: free. -/
opaque freeCycles : Nat → Nat

/-- The value of a core's cycle counter when State.cycles was 0: cores have no common time base (R377; log 5). -/
opaque clockBase : Nat → Nat

/-- The keys that the management core's random source gives at the n-th fill of a key slot (R332; log 12). -/
opaque randomKey : Nat → BitVec 256

/-- The key pair of key slot 0, the hypervisor's (R73; log 12). -/
opaque hypervisorKey : BitVec 256

/-- Whether both vendor signatures of a management image verify (R379; log 12). -/
opaque vendorVerify : List Byte → Bool

/-- The Ed25519 signature made with the device identity key over a message (R382; log 12). -/
opaque ed25519Sign : List Byte → List Byte

/-- The ML-DSA-65 signature made with the device identity key over a message (R382; log 12). -/
opaque mldsaSign : List Byte → List Byte

/-- The bytes that the context engine writes into a page of a save area: their layout is not architectural (R309;
notes/assumptions 23). -/
opaque saveImage : Nat → List Byte

/-- The firmware of the host cores, which Bafin measures (R379). -/
opaque hostFirmware : List Byte

/-- The components that Bafin has loaded since its last write of STATE (R382, R383). -/
opaque components : Nat → List (List Byte)

/-- The rounded result of a special function where the model's interval does not decide it; arguments: the function's
number, the format's number, the operand's bits (R193; log 19). No operand is known for which it is used. -/
opaque freeSpecial : Nat → Nat → Nat → Nat

/-- The optional features this implementation offers, bits 0 to 5 of FOFF0 (R385; log 11). -/
opaque offeredFeatures : BitVec 6

/-- Which thread at a PARK point the balancer retires when it may (R46, R304; log 20). -/
opaque retires : Nat → Bool

end Sys2Proof.Config
end

