-- ==== Sys2Proof/Machine/Bits.lean ====
section
/-!
DEFINITION. Bit-field, sign-extension and element helpers (R1, R126, R136).
-/

namespace Sys2Proof.Machine

/-- Bits [lo + n − 1 : lo] of a number. -/
def bits (v lo n : Nat) : Nat := (v >>> lo) % 2 ^ n

/-- One bit of a number. -/
def bit (v i : Nat) : Bool := v.testBit i

/-- Sign extension of the low `n` bits to an unbounded integer (R126). -/
def sext (v n : Nat) : Int :=
  let x := v % 2 ^ n
  if n ≠ 0 ∧ 2 ^ (n - 1) ≤ x then (x : Int) - (2 ^ n : Nat) else x

/-- The low `n` bits read by signedness (R131): natural when `nat`. -/
def readInt (nat : Bool) (n v : Nat) : Int := if nat then ((v % 2 ^ n : Nat) : Int) else sext v n

/-- An integer modulo 2^n as a number (R131). -/
def wrap (n : Nat) (i : Int) : Nat := (i % (2 ^ n : Nat)).toNat

/-- The least and greatest integer of a width and signedness (R131). -/
def intMin (nat : Bool) (n : Nat) : Int := if nat then 0 else -((2 ^ (n - 1) : Nat) : Int)

/-- The greatest integer of a width and signedness (R131). -/
def intMax (nat : Bool) (n : Nat) : Int := if nat then ((2 ^ n : Nat) : Int) - 1 else ((2 ^ (n - 1) : Nat) : Int) - 1

/-- An exact integer narrowed to `n` bits: clamped under SAT, otherwise modulo 2^n (R131). -/
def narrow (sat nat : Bool) (n : Nat) (i : Int) : Nat :=
  if sat then wrap n (max (intMin nat n) (min (intMax nat n) i)) else wrap n i

/-- Elements of width `w` of a `total`-bit value, element 0 first (R136). -/
def splitElems (w : Nat) : Nat → Nat → List Nat
  | 0, _ => []
  | k + 1, v => v % 2 ^ w :: splitElems w k (v / 2 ^ w)

/-- Elements joined, element 0 lowest (R136). -/
def joinElems (w : Nat) : List Nat → Nat
  | [] => 0
  | x :: xs => x % 2 ^ w + 2 ^ w * joinElems w xs

/-- The number of one bits among the low `n`. -/
def popCount : Nat → Nat → Nat
  | 0, _ => 0
  | n + 1, v => v % 2 + popCount n (v / 2)

/-- The low `n` bits reversed. -/
def revBits : Nat → Nat → Nat
  | 0, _ => 0
  | n + 1, v => (v % 2) * 2 ^ n + revBits n (v / 2)

/-- The zero bits below the lowest one bit, or the width. -/
def ctz : Nat → Nat → Nat
  | 0, _ => 0
  | n + 1, v => if v % 2 = 1 then 0 else 1 + ctz n (v / 2)

/-- The zero bits above the highest one bit of `n` bits, or the width. -/
def clz (n v : Nat) : Nat := if v % 2 ^ n = 0 then n else n - 1 - Nat.log2 (v % 2 ^ n)

/-- `n / d` rounded up. -/
def ceilDiv (n d : Nat) : Nat := (n + d - 1) / d

/-- Bits set in a list of positions. -/
def maskOf (ls : List Nat) : Nat := ls.foldl (fun m l => m ||| 2 ^ l) 0

/-- The positions below `n` set in a mask, ascending. -/
def lanesOf (n m : Nat) : List Nat := (List.range n).filter (fun l => m.testBit l)

/-- The exclusive OR of two Booleans read as bits. -/
def xorB (a b : Bool) : Bool := a != b

end Sys2Proof.Machine
end

