-- ==== Sys2Proof/Machine/Num.lean ====
section
/-!
DEFINITION. Floating-point formats, exact values, rounding and exact sums (R132 to R145 of spec/06), and the special
functions of R193 (spec/08).
-/

namespace Sys2Proof.Machine

/-- The floating formats of R133. -/
inductive Fmt where
  | f64 | f32 | bf16 | f16 | e4m3 | e5m2 | e3m2 | e2m3 | e2m1
deriving DecidableEq, Repr

/-- Exponent bits (R133). -/
def Fmt.ebits : Fmt → Nat
  | .f64 => 11 | .f32 => 8 | .bf16 => 8 | .f16 => 5 | .e4m3 => 4 | .e5m2 => 5 | .e3m2 => 3 | .e2m3 => 2 | .e2m1 => 2

/-- Fraction bits (R133). -/
def Fmt.mbits : Fmt → Nat
  | .f64 => 52 | .f32 => 23 | .bf16 => 7 | .f16 => 10 | .e4m3 => 3 | .e5m2 => 2 | .e3m2 => 2 | .e2m3 => 3 | .e2m1 => 1

/-- Exponent bias (R133). -/
def Fmt.bias : Fmt → Nat
  | .f64 => 1023 | .f32 => 127 | .bf16 => 127 | .f16 => 15 | .e4m3 => 7 | .e5m2 => 15 | .e3m2 => 3 | .e2m3 => 1 | .e2m1 => 1

/-- Bits of an encoding (R133). -/
def Fmt.width (f : Fmt) : Nat := 1 + f.ebits + f.mbits

/-- Whether the format has infinities: E all ones, M = 0 (R133). -/
def Fmt.hasInf : Fmt → Bool
  | .f64 | .f32 | .bf16 | .f16 | .e5m2 => true
  | _ => false

/-- Whether the format has NaN (R133). -/
def Fmt.hasNan (f : Fmt) : Bool := f.hasInf || f == .e4m3

/-- The canonical NaN; +0 in a format without NaN (R133, R139). -/
def Fmt.nan : Fmt → Nat
  | .f64 => 0x7FF8000000000000 | .f32 => 0x7FC00000 | .bf16 => 0x7FC0 | .f16 => 0x7E00 | .e4m3 => 0x7F | .e5m2 => 0x7E
  | _ => 0

/-- The encoding of the largest finite magnitude, positive (R133). -/
def Fmt.maxBits (f : Fmt) : Nat :=
  match f with
  | .e4m3 => 0x7E
  | _ => if f.hasInf then 2 ^ (f.ebits + f.mbits) - 2 ^ f.mbits - 1 else 2 ^ (f.ebits + f.mbits) - 1

/-- The encoding of +∞ in a format that has it (R133). -/
def Fmt.infBits (f : Fmt) : Nat := 2 ^ (f.ebits + f.mbits) - 2 ^ f.mbits

/-- A sign bit at the top of an encoding. -/
def Fmt.signed (f : Fmt) (neg : Bool) (mag : Nat) : Nat := if neg then mag + 2 ^ (f.ebits + f.mbits) else mag

/-- The exponent of the subnormal spacing (R137). -/
def Fmt.emin (f : Fmt) : Int := 1 - (f.bias : Int) - (f.mbits : Int)

/-- NaN, an infinity, or (−1)^neg × x with x = m × 2^e, or m × 2^e < x < (m + 1) × 2^e when `sticky`. -/
inductive FloatVal where
  | nan
  | inf (neg : Bool)
  | fin (neg : Bool) (m : Nat) (e : Int) (sticky : Bool)
deriving DecidableEq, Repr

/-- A signed zero. -/
def FloatVal.zero (neg : Bool) : FloatVal := .fin neg 0 0 false

/-- Whether a value is a zero. -/
def FloatVal.isZero : FloatVal → Bool
  | .fin _ 0 _ false => true
  | _ => false

/-- The sign of a value, false for NaN. -/
def FloatVal.neg? : FloatVal → Bool
  | .nan => false
  | .inf n => n
  | .fin n _ _ _ => n

/-- The value with its sign inverted. -/
def FloatVal.negate : FloatVal → FloatVal
  | .nan => .nan
  | .inf n => .inf (!n)
  | .fin n m e s => .fin (!n) m e s

/-- The value of an encoding; under FTZ a subnormal counts as a zero of its sign (R132, R133, R140). -/
def Fmt.decode (f : Fmt) (ftz : Bool) (v : Nat) : FloatVal :=
  let neg := v.testBit (f.ebits + f.mbits)
  let ex := bits v f.mbits f.ebits
  let fr := bits v 0 f.mbits
  if f.hasInf && ex == 2 ^ f.ebits - 1 then (if fr = 0 then .inf neg else .nan)
  else if f == .e4m3 && ex == 15 && fr == 7 then .nan
  else if ex = 0 then (if ftz then .zero neg else .fin neg fr f.emin false)
  else .fin neg (fr + 2 ^ f.mbits) (f.emin + (ex - 1 : Nat)) false

/-- Rounding modes (R137); RSR carries its width W and random bits (R138). -/
inductive RMode where
  | rne | rtz | rup | rdn | rto
  | rsr (w rand : Nat)
deriving DecidableEq, Repr

/-- Choose between n and n + 1 units for a magnitude that lies strictly between (R137, R138). `half` compares the discarded
part with one half, `frac w` is ⌊2^w × discarded part⌋ and `up w` is ⌊2^w × (1 − discarded part)⌋. -/
def RMode.choose (r : RMode) (neg : Bool) (n : Nat) (half : Ordering) (frac up : Nat → Nat) : Nat :=
  match r with
  | .rne => match half with
    | .lt => n
    | .gt => n + 1
    | .eq => if n % 2 = 0 then n else n + 1
  | .rtz => n
  | .rup => if neg then n else n + 1
  | .rdn => if neg then n + 1 else n
  | .rto => if n % 2 = 1 then n else n + 1
  | .rsr w rand =>
    if neg then (if rand < up w then n else n + 1)
    else (if rand < frac w then n + 1 else n)

/-- A non-zero magnitude rounded to units of 2^q (R137). -/
def roundUnits (r : RMode) (neg : Bool) (m : Nat) (e : Int) (sticky : Bool) (q : Int) : Nat :=
  if q ≤ e then
    let n := m <<< (e - q).toNat
    if sticky then r.choose neg n .lt (fun _ => 0) (fun w => 2 ^ w - 1) else n
  else
    let sh := (q - e).toNat
    if Nat.log2 m + 64 < sh then r.choose neg 0 .lt (fun _ => 0) (fun w => 2 ^ w - 1)
    else
      let n := m >>> sh
      let rest := m - n <<< sh
      if rest = 0 && !sticky then n
      else
        let half := 2 ^ (sh - 1)
        let cmp : Ordering := if rest < half then .lt else if rest = half && !sticky then .eq else .gt
        r.choose neg n cmp (fun w => (rest <<< w) >>> sh) (fun w => ((2 ^ sh - rest) <<< w) >>> sh)

/-- Whether a mode turns an overflow into the largest finite value (R139). -/
def RMode.towardZero (r : RMode) (neg : Bool) : Bool :=
  match r with
  | .rtz | .rto => true
  | .rup => neg
  | .rdn => !neg
  | _ => false

/-- The encoding of an overflow (R139). -/
def Fmt.overflow (f : Fmt) (sat neg : Bool) : Nat :=
  if sat then f.signed neg f.maxBits
  else if f.hasInf then f.signed neg f.infBits
  else if f.hasNan then f.nan
  else f.signed neg f.maxBits

/-- round(mode, x, fmt) with SAT and FTZ (R137, R139, R140). Two readings the spec leaves open: under SAT an infinite input gives
±M in a format with infinity too, where R139 speaks of finite formats only (DESIGN CHOICE); and a non-zero value that rounds to
zero keeps its sign, where R135 and R140 speak of exact zeros and of FTZ (DEDUCED; notes/assumptions 47). -/
def Fmt.round (f : Fmt) (r : RMode) (sat ftz : Bool) (x : FloatVal) : Nat :=
  match x with
  | .nan => f.nan
  | .inf neg => f.overflow sat neg
  | .fin neg m e sticky =>
    if m = 0 && !sticky then f.signed neg 0
    else
      let q := max ((Nat.log2 m : Int) + e - (f.mbits : Int)) f.emin
      let n := roundUnits r neg m e sticky q
      -- the encoding of n units of 2^q: exponent field plus fraction, carries included
      let mag := if n = 0 then 0 else if n < 2 ^ f.mbits then n else n + (q - f.emin).toNat * 2 ^ f.mbits
      if f.maxBits < mag then (if r.towardZero neg then f.signed neg f.maxBits else f.overflow sat neg)
      else if ftz && mag < 2 ^ f.mbits then f.signed neg 0
      else f.signed neg mag

/-- The exact signed sum of finite terms as mantissa and exponent. -/
def sumFin (ts : List (Bool × Nat × Int)) : Int × Int :=
  let e0 := ts.foldl (fun a t => if t.2.1 = 0 then a else min a t.2.2) (ts.foldl (fun a t => if t.2.1 = 0 then a else max a t.2.2) 0)
  (ts.foldl (fun a t =>
    if t.2.1 = 0 then a
    else
      let v : Int := ((t.2.1 <<< (t.2.2 - e0).toNat : Nat) : Int)
      if t.1 then a - v else a + v) 0, e0)

/-- An exact sum with the specials and zero signs of R135: any NaN, or both infinities, gives NaN; an infinity gives
itself; an exact zero is −0 when every term is −0 (or a negative zero of like sign), else +0, or −0 under RDN. -/
def sumNum (rdn : Bool) (ts : List FloatVal) : FloatVal :=
  if ts.any (· == .nan) then .nan
  else
    let pos := ts.any (· == .inf false)
    let neg := ts.any (· == .inf true)
    if pos && neg then .nan
    else if pos then .inf false
    else if neg then .inf true
    else
      let fs := ts.filterMap (fun t => match t with
        | .fin n m e _ => some (n, m, e)
        | _ => none)
      let s := sumFin fs
      if s.1 = 0 then
        (if fs.all (fun t => t.1) then .zero true
         else if fs.all (fun t => !t.1) then .zero false
         else .zero rdn)
      else .fin (s.1 < 0) s.1.natAbs s.2 false

/-- The exact product of two values (R135): ∞ × 0 is NaN. -/
def mulNum (a b : FloatVal) : FloatVal :=
  match a, b with
  | .nan, _ => .nan
  | _, .nan => .nan
  | .inf n, .inf k => .inf (xorB n k)
  | .inf n, .fin k m _ s => if m = 0 && !s then .nan else .inf (xorB n k)
  | .fin k m _ s, .inf n => if m = 0 && !s then .nan else .inf (xorB n k)
  | .fin n m e _, .fin k l f _ => .fin (xorB n k) (m * l) (e + f) false

/-- Order of values with −0 below +0; NaN is not ordered (R189, R197). -/
def ltNum (a b : FloatVal) : Bool :=
  match a, b with
  | .nan, _ => false
  | _, .nan => false
  | .inf n, .inf k => n && !k
  | .inf n, _ => n
  | _, .inf k => !k
  | .fin n m e _, .fin k l f _ =>
    if m = 0 && l = 0 then n && !k
    else
      let s := sumFin [(n, m, e), (!k, l, f)]
      s.1 < 0

/-- Equality of values with −0 equal to +0; NaN equals nothing (R190). -/
def eqNum (a b : FloatVal) : Bool :=
  match a, b with
  | .nan, _ => false
  | _, .nan => false
  | .inf n, .inf k => n == k
  | .fin n m e _, .fin k l f _ => (m = 0 && l = 0) || ((sumFin [(n, m, e), (!k, l, f)]).1 = 0 && m != 0)
  | _, _ => false

/-- Less-than with −0 equal to +0 (R190). -/
def cmpLt (a b : FloatVal) : Bool := ltNum a b && !(eqNum a b)

/-- The integer part of log2 |x| of a non-zero finite value. -/
def floorLog2 (m : Nat) (e : Int) : Int := (Nat.log2 m : Int) + e

/-! ### Exact quotient and square root with a sticky bit -/

/-- ⌊√n⌋ by `fuel` steps of bisection over bits. -/
def isqrtAux : Nat → Nat → Nat → Nat
  | 0, _, r => r
  | k + 1, n, r =>
    let c := r + 2 ^ k
    isqrtAux k n (if c * c ≤ n then c else r)

/-- ⌊√n⌋. -/
def isqrt (n : Nat) : Nat := isqrtAux (Nat.log2 n / 2 + 1) n 0

/-- A / B with the specials of FDIV (R193). -/
def divNum (a b : FloatVal) : FloatVal :=
  match a, b with
  | .nan, _ => .nan
  | _, .nan => .nan
  | .inf _, .inf _ => .nan
  | .inf n, .fin k _ _ _ => .inf (xorB n k)
  | .fin n _ _ _, .inf k => .zero (xorB n k)
  | .fin n m e _, .fin k l f _ =>
    if l = 0 then (if m = 0 then .nan else .inf (xorB n k))
    else if m = 0 then .zero (xorB n k)
    else
      let sh := 80 + Nat.log2 l
      let q := (m <<< sh) / l
      .fin (xorB n k) q (e - f - sh) (q * l != m <<< sh)

/-- √A with the specials of FSQRT (R193). -/
def sqrtNum (a : FloatVal) : FloatVal :=
  match a with
  | .nan => .nan
  | .inf n => if n then .nan else .inf false
  | .fin n m e _ =>
    if m = 0 then .zero n
    else if n then .nan
    else
      let sh := 160 + (e % 2).toNat
      let v := m <<< sh
      let r := isqrt v
      .fin false r ((e - sh) / 2) (r * r != v)

/-- 1 / A with the specials of FRCP (R193). -/
def rcpNum (a : FloatVal) : FloatVal := divNum (.fin false 1 0 false) a

/-- 1 / √A with the specials of FRSQ (R193): ⌊√(2^k / m)⌋ with an exactness test. -/
def rsqNum (a : FloatVal) : FloatVal :=
  match a with
  | .nan => .nan
  | .inf n => if n then .nan else .zero false
  | .fin n m e _ =>
    if m = 0 then .inf n
    else if n then .nan
    else
      let sh := 2 * (Nat.log2 m + 90) + (e % 2).toNat
      let v := (1 <<< sh) / m
      let r := isqrt v
      .fin false r (-((e + sh) / 2)) (r * r * m != 1 <<< sh)

/-! ### Transcendental functions by fixed-point intervals at scale 2^512 -/

/-- The fixed-point scale of the special functions. -/
def fxBits : Nat := 512

/-- A bound on the error of a fixed-point series result, in units of 2^−512 (relative to values below 4). -/
def fxErr : Nat := 2 ^ 40

/-- Σ x^(2k+1) / (2k+1) with x = 1/d (atanh) or alternating (atan), scaled; `fuel` terms. -/
def atanSeries (alt : Bool) (d2 : Nat) : Nat → Nat → Int → Int → Int
  | 0, _, _, acc => acc
  | fuel + 1, k, p, acc =>
    let term := p / (2 * k + 1 : Nat)
    atanSeries alt d2 fuel (k + 1) (p / (d2 : Int)) (if alt && k % 2 = 1 then acc - term else acc + term)

/-- ln 2 at scale 2^512: 2 atanh(1/3). -/
def fxLn2 : Int := 2 * atanSeries false 9 170 0 ((2 ^ fxBits : Nat) / 3) 0

/-- π at scale 2^512: 16 atan(1/5) − 4 atan(1/239). -/
def fxPi : Int :=
  16 * atanSeries true 25 120 0 ((2 ^ fxBits : Nat) / 5) 0 - 4 * atanSeries true (239 * 239) 40 0 ((2 ^ fxBits : Nat) / 239) 0

/-- e^r by its series for |r| < 1 at scale 2^512. -/
def expSeries (r : Int) : Nat → Nat → Int → Int → Int
  | 0, _, _, acc => acc
  | fuel + 1, k, p, acc => expSeries r fuel (k + 1) ((p * r / (2 ^ fxBits : Nat)) / (k + 1 : Nat)) (acc + p)

/-- The alternating series of sin (from k = 1) and cos (from k = 0). -/
def trigSeries (r2 : Int) : Nat → Nat → Int → Int → Int
  | 0, _, _, acc => acc
  | fuel + 1, k, p, acc =>
    trigSeries r2 fuel (k + 2) (-(p * r2 / (2 ^ fxBits : Nat)) / ((k + 1) * (k + 2) : Nat)) (acc + p)

/-- Σ z^(2k+1) / (2k+1) for a fixed-point z. -/
def atanhSeries (z2 : Int) : Nat → Nat → Int → Int → Int
  | 0, _, _, acc => acc
  | fuel + 1, k, p, acc => atanhSeries z2 fuel (k + 1) (p * z2 / (2 ^ fxBits : Nat)) (acc + p / (2 * k + 1 : Nat))

/-- A finite value at scale 2^512 (exact for every 32- and 16-bit operand below 2^200). -/
def toFx (neg : Bool) (m : Nat) (e : Int) : Int :=
  let s := e + fxBits
  let v : Nat := if 0 ≤ s then m <<< s.toNat else m >>> (-s).toNat
  if neg then -(v : Int) else v

/-- A fixed-point interval [v − err, v + err] × 2^ex rounded under RNE: the common result of its ends, if they agree. -/
def roundFx (f : Fmt) (ftz : Bool) (v : Int) (err : Nat) (ex : Int) : Option Nat :=
  let put (i : Int) : FloatVal := if i = 0 then .fin false 0 (ex - fxBits) true else .fin (i < 0) i.natAbs (ex - fxBits) false
  let lo := f.round .rne false ftz (put (v - err))
  let hi := f.round .rne false ftz (put (v + err))
  if lo = hi then some lo else none

/-- e^(x) for |x| below 2^9 at scale 2^512: value of e^r and the power of two n. -/
def fxExp (x : Int) : Int × Int :=
  let n := x / fxLn2
  (expSeries (x - n * fxLn2) 110 0 (2 ^ fxBits : Nat) 0, n)

/-- The special functions without an algebraic form (R193). -/
inductive SFun where
  | exp2 | log2 | sin | cos | tanh | sigm
deriving DecidableEq, Repr

/-- A tiny positive value, below half of every smallest subnormal. -/
def tiny : FloatVal := .fin false 1 (-4000) false

/-- A value just below one. -/
def belowOne (neg : Bool) : FloatVal := .fin neg (2 ^ 400 - 1) (-400) false

/-- The number that names a function for Config.freeSpecial. -/
def SFun.index : SFun → Nat
  | .exp2 => 0 | .log2 => 1 | .sin => 2 | .cos => 3 | .tanh => 4 | .sigm => 5

/-- The exact result of a special function where it is a dyadic value or a special case, else its interval. -/
def sfunFin (g : SFun) (f : Fmt) (ftz : Bool) (neg : Bool) (m : Nat) (e : Int) : Option Nat :=
  let big := 9 < floorLog2 m e
  let x := toFx neg m e
  match g with
  | .exp2 =>
    if big then some (f.round .rne false ftz (if neg then tiny else .fin false 1 4000 false))
    else
      let n := x / (2 ^ fxBits : Nat)
      let r := x % (2 ^ fxBits : Nat)
      if r = 0 then some (f.round .rne false ftz (.fin false 1 n false))
      else roundFx f ftz (expSeries (r * fxLn2 / (2 ^ fxBits : Nat)) 110 0 (2 ^ fxBits : Nat) 0) fxErr n
  | .log2 =>
    let k := floorLog2 m e
    if m = 2 ^ Nat.log2 m then some (f.round .rne false ftz (.fin (k < 0) k.natAbs 0 false))
    else
      let y := toFx false m (-(Nat.log2 m : Int))
      let one : Int := (2 ^ fxBits : Nat)
      let z := (y - one) * one / (y + one)
      let ln := 2 * atanhSeries (z * z / one) 170 0 z 0
      roundFx f ftz (k * one + ln * one / fxLn2) fxErr 0
  | .sin | .cos =>
    let half := fxPi / 2
    let k := (2 * x + half) / (2 * half)
    let r := x - k * half
    let one : Int := (2 ^ fxBits : Nat)
    let r2 := r * r / one
    let s := trigSeries r2 80 1 r 0
    let c := trigSeries r2 80 0 one 0
    let j := ((match g with | .cos => k + 1 | _ => k) % 4).toNat
    let v := if j = 0 then s else if j = 1 then c else if j = 2 then -s else -c
    roundFx f ftz v (2 ^ 200) 0
  | .tanh =>
    if big then some (f.round .rne false ftz (belowOne neg))
    else
      let one : Int := (2 ^ fxBits : Nat)
      let t := fxExp (2 * toFx false m e)
      -- e^{2|x|} = t.1 × 2^{t.2}, t.2 ≥ 0
      let g2 := t.1 <<< t.2.toNat
      let v := (g2 - one) * one / (g2 + one)
      roundFx f ftz (if neg then -v else v) (2 ^ 60) 0
  | .sigm =>
    if big then some (f.round .rne false ftz (if neg then tiny else belowOne false))
    else
      let one : Int := (2 ^ fxBits : Nat)
      let t := fxExp (toFx false m e)
      let g2 := t.1 <<< t.2.toNat
      -- 1 / (1 + e^−|x|) = g / (g + 1); for negative x it is 1 / (g + 1)
      if neg then roundFx f ftz (one * one * (2 ^ t.2.toNat : Nat) / (g2 + one)) (2 ^ 60) (-t.2)
      else roundFx f ftz (g2 * one / (g2 + one)) (2 ^ 60) 0

/-- A special function of R193 on an encoding. -/
def sfun (g : SFun) (f : Fmt) (ftz : Bool) (v : Nat) : Nat :=
  let out (x : FloatVal) : Nat := f.round .rne false ftz x
  match f.decode ftz v with
  | .nan => f.nan
  | .inf neg =>
    match g with
    | .exp2 => out (if neg then .zero false else .inf false)
    | .log2 => out (if neg then .nan else .inf false)
    | .sin | .cos => f.nan
    | .tanh => out (.fin neg 1 0 false)
    | .sigm => out (if neg then .zero false else .fin false 1 0 false)
  | .fin neg m e _ =>
    if m = 0 then
      match g with
      | .exp2 | .cos => out (.fin false 1 0 false)
      | .log2 => out (.inf true)
      | .sin | .tanh => out (.zero neg)
      | .sigm => out (.fin false 1 (-1) false)
    else if g = .log2 && neg then f.nan
    else match sfunFin g f ftz neg m e with
      | some r => r
      | none => Config.freeSpecial g.index f.width v % 2 ^ f.width

/-! ### Conversions -/

/-- The value of an E8M0 code (R134). -/
def decodeE8M0 (v : Nat) : FloatVal := if v % 256 = 255 then .nan else .fin false 1 ((v % 256 : Nat) - (127 : Int)) false

/-- A magnitude rounded to an E8M0 code at precision 1 (R200). Above 2^127 without SAT every mode gives 0xFF as R200 says,
those also that R139 keeps from overflow: DEDUCED (notes/assumptions 47). -/
def roundE8M0 (r : RMode) (sat : Bool) (x : FloatVal) : Nat :=
  match x with
  | .nan => 255
  | .inf _ => if sat then 254 else 255
  | .fin _ m e sticky =>
    if m = 0 then 0
    else
      let k := floorLog2 m e
      let exact := m = 2 ^ Nat.log2 m && !sticky
      -- between 2^k and 2^(k+1): the discarded part is m / 2^log2 m − 1
      let code := k + 127
      let n : Nat := (code + 4000000).toNat
      let l := Nat.log2 m
      let rest := m - 2 ^ l
      let n' := if exact then n
        else r.choose false n
          (if 2 * rest < 2 ^ l then .lt else if 2 * rest = 2 ^ l && !sticky then .eq else .gt)
          (fun w => (rest <<< w) >>> l) (fun w => ((2 ^ l - rest) <<< w) >>> l)
      let c : Int := (n' : Int) - 4000000
      if c < 0 then 0 else if 254 < c then (if sat then 254 else 255) else c.toNat

/-- A value rounded to an integer and saturated to a range; NaN gives 0 (R139, R202). -/
def roundInt (r : RMode) (nat : Bool) (w : Nat) (x : FloatVal) : Nat :=
  match x with
  | .nan => 0
  | .inf neg => wrap w (if neg then intMin nat w else intMax nat w)
  | .fin neg m e sticky =>
    if m = 0 && !sticky then 0
    else if 80 < floorLog2 m e then wrap w (if neg then intMin nat w else intMax nat w)
    else
      let n : Int := roundUnits r neg m e sticky 0
      narrow true nat w (if neg then -n else n)

/-- An exact integer as a value. -/
def intNum (i : Int) : FloatVal := .fin (i < 0) i.natAbs 0 false

/-! ### Sums in the matrix engine (R144) -/

/-- One chunk of R144 on an accumulator of format A, given its products. -/
def chunkSum (f : Fmt) (acc : Nat) (ps : List FloatVal) : Nat :=
  let a := f.decode false acc
  if ps.any (· == .nan) || (ps.any (· == .inf false) && ps.any (· == .inf true)) then f.nan
  else if ps.any (· == .inf false) then (if a = .inf true then f.nan else f.signed false f.infBits)
  else if ps.any (· == .inf true) then (if a = .inf false then f.nan else f.signed true f.infBits)
  else match a with
    | .fin an am ae _ =>
      let w := f.mbits + 30
      let fs := ps.filterMap (fun t => match t with
        | .fin n m e _ => if m = 0 then none else some (n, m, e)
        | _ => none)
      let q : Int := match fs with
        | [] => 0
        | t :: ts => ts.foldl (fun x u => max x (floorLog2 u.2.1 u.2.2)) (floorLog2 t.2.1 t.2.2) - w
      let trunc (m : Nat) (e : Int) : Nat :=
        if q ≤ e then m <<< (e - q).toNat else if Nat.log2 m < (q - e).toNat then 0 else m >>> (q - e).toNat
      let s : Int := fs.foldl (fun x t => if t.1 then x - trunc t.2.1 t.2.2 else x + trunc t.2.1 t.2.2) 0
      let tot := sumFin [(an, am, ae), (s < 0, s.natAbs, q)]
      if tot.1 = 0 then
        (if am = 0 && an && ps.all (fun p => p == FloatVal.fin true 0 0 false || (p.isZero && p.neg?)) then f.signed true 0 else 0)
      else f.round .rne false false (.fin (tot.1 < 0) tot.1.natAbs tot.2 false)
    | _ => acc

end Sys2Proof.Machine
end

