-- ==== Sys2Proof/Syntax.lean ====
section
/-!
DEFINITION. The instructions and machine events of the opcode table, one constructor per row (R124 of spec/05 for the
instructions; the other rows are the device's own whole and indivisible steps). An instruction carries the raw fields of
its format (R113, R114, R119); what the fields select is read in Machine/. An event carries what the outside world or the
timing decides about it (notes/assumptions 3).
-/

namespace Sys2Proof

/-- Format G, general (R113). `x` is bits [53:50], LA or XS. -/
structure GFmt where
  x : BitVec 4
  gn : BitVec 1
  gp : BitVec 3
  d : BitVec 8
  a : BitVec 8
  b : BitVec 8
  c : BitVec 8
  ma : BitVec 3
  mb : BitVec 3
  mc : BitVec 3
  sel : BitVec 5
deriving DecidableEq, Repr

/-- Format I, immediate (R114). -/
structure IFmt where
  x : BitVec 4
  gn : BitVec 1
  gp : BitVec 3
  d : BitVec 8
  imm : BitVec 32
  sel : BitVec 6
deriving DecidableEq, Repr

/-- Format M, memory (R114). -/
structure MFmt where
  x : BitVec 4
  gn : BitVec 1
  gp : BitVec 3
  d : BitVec 8
  a : BitVec 8
  b : BitVec 8
  spc : BitVec 2
  ord : BitVec 2
  sco : BitVec 3
  sz : BitVec 3
  var : BitVec 4
  dl : BitVec 8
deriving DecidableEq, Repr

/-- Format X, matrix (R114). -/
structure XFmt where
  x : BitVec 4
  gn : BitVec 1
  gp : BitVec 3
  d : BitVec 8
  a : BitVec 8
  b : BitVec 8
  tok : BitVec 3
  te : BitVec 1
  ord : BitVec 2
  sco : BitVec 3
  macs : BitVec 4
  acc : BitVec 4
  sel : BitVec 5
deriving DecidableEq, Repr

/-- Format Y, asynchronous (R114). -/
structure YFmt where
  x : BitVec 4
  gn : BitVec 1
  gp : BitVec 3
  d : BitVec 8
  a : BitVec 8
  b : BitVec 8
  tok : BitVec 3
  te : BitVec 1
  ord : BitVec 2
  sco : BitVec 3
  dspc : BitVec 2
  sspc : BitVec 2
  sel : BitVec 9
deriving DecidableEq, Repr

/-- Format S, system (R114). -/
structure SFmt where
  x : BitVec 4
  gn : BitVec 1
  gp : BitVec 3
  d : BitVec 8
  a : BitVec 8
  imm : BitVec 16
  tok : BitVec 3
  te : BitVec 1
  sel : BitVec 10
deriving DecidableEq, Repr

/-- A compact operation of a pair word (R119). -/
structure CFmt where
  cop : BitVec 7
  gn : BitVec 1
  gp : BitVec 3
  d : BitVec 8
  a : BitVec 8
  b : BitVec 8
  ib : BitVec 1
  ty : BitVec 3
  c : BitVec 8
  rsv : BitVec 1
deriving DecidableEq, Repr

/-- The clause header (R105). `wait` is the mask over SB0 to SB7, `pair` the mask of pair words. -/
structure Header where
  hop : BitVec 10
  cls : BitVec 2
  cnt : BitVec 4
  len : BitVec 6
  wait : BitVec 8
  olim : BitVec 4
  ct : BitVec 1
  pair : BitVec 16
  rsv : BitVec 13
deriving DecidableEq, Repr

/-- The mesh ports of a router, in the order R446 numbers them (R20). -/
inductive MeshPort where
  | north | east | south | west
deriving DecidableEq, Repr

/-- Who waits for a coherence request (R452): a stand of a lane, or a host core. -/
inductive Requester where
  | stand (key : Nat)
  | host (hart : Nat)
deriving DecidableEq, Repr

/-- The events that end HALT (R383). -/
inductive WakeSource where
  | port | ring | timer
deriving DecidableEq, Repr

/-- Where an uncorrectable error struck (the rows of R448). -/
inductive ErrorPlace where
  | sector (pa : Nat)                      -- a sector of DRAM or a vault, or its tag
  | l1Line (core line : Nat) (bad : List (Fin 2))    -- a line in an L1, with its bad sectors
  | l2Line (agent line : Nat) (bad : List (Fin 2))   -- a line in a cluster L2 or a host core's cache
  | spSector (stand offset : Nat)          -- a scratchpad sector, or its tag
  | bankSector (core bank sector : Nat)    -- a scratchpad sector, by its place in a bank (R67)
  | memLabel (pa : Nat)                    -- a label entry of DRAM or a vault
  | spLabel (stand offset : Nat)           -- a scratchpad label entry
  | register (thread : Nat)                -- a register, or its poison bit
  | matrix (quad : Nat)                    -- the matrix state
  | regLabel (slot reg : Nat)              -- a register's label
  | keySlot (slot : Nat)                   -- a key slot
  | channel (c : Nat)                      -- a DRAM channel that fails outright (R456)
deriving DecidableEq, Repr

/-- The operations of a host core's AMO (R79, R88; PRESUMED: those of the RISC-V A extension, notes/assumptions 45). -/
inductive HostAmo where
  | swap | add | xor | and | or | min | max | minu | maxu
deriving DecidableEq, Repr

/-- How a host core makes an access: its ordering bits (R79), NC (R75), and the key slot of its own stage two (R73). -/
structure HostMode where
  aq : Bool
  rl : Bool
  nc : Bool
  key : Nat
deriving DecidableEq, Repr

/-- What a host core reads with (R322): a load, fetch or page-table walk, an LR, or an AMO with its operand. -/
inductive HostRead where
  | plain
  | lr
  | amo (op : HostAmo) (operand : Nat)
deriving DecidableEq, Repr

/-- An access of a host core that reads: its address, its mode, and what it reads with. -/
structure HostLoadOp where
  pa : Nat
  mode : HostMode
  read : HostRead
deriving DecidableEq, Repr

/-- An access of a host core that writes: its address, its mode, and whether it is an SC. -/
structure HostStoreOp where
  pa : Nat
  mode : HostMode
  sc : Bool
deriving DecidableEq, Repr

/-- One constructor per row of the opcode table. -/
inductive Instr where
  /-- NOP (0x000): Does nothing but occupies its issue slot and counts toward an open lookahead window. -/
  | nop (f : GFmt)
  /-- BRA (0x001): Direct branch: each taking lane moves to the target clause header, with fetch and well-formedness checked at the target. -/
  | bra (f : IFmt)
  /-- CALL (0x002): Direct call: writes the address of the next clause as a link pair, then branches. -/
  | call (f : IFmt)
  /-- RGRP (0x003): Regroups on a predicate: the minority direction departs to the spawn yard as Yarded threads, or the instruction acts as a branch. -/
  | rgrp (f : IFmt)
  /-- BRX (0x004): Indirect branch to a 64-bit target held in a register pair. -/
  | brx (f : GFmt)
  /-- CALLX (0x005): Indirect call: writes the link pair and branches to a register target. -/
  | callx (f : GFmt)
  /-- RET (0x006): Return to a register target; same effect as BRX, with target prediction. -/
  | ret (f : GFmt)
  /-- EXIT (0x007): Waits for the store queue and tokens to drain, ends open DC quanta and makes the thread Exited; the stand exits when its last thread does. -/
  | exit (f : GFmt)
  /-- JSET (0x008): Makes a join point pending with the current warp's participants as its expected set and the predicate's label. -/
  | jset (f : GFmt)
  /-- JWAIT (0x009): Makes the thread Waiting until every member of the join point's set has arrived, then idles the join point. -/
  | jwait (f : GFmt)
  /-- JCLR (0x00A): Idles a join point without waiting; this counts as arrival for the other members. -/
  | jclr (f : GFmt)
  /-- ELECT (0x00B): Sets the predicate in the lowest executing lane and clears it in the others. -/
  | elect (f : GFmt)
  /-- YIELD (0x00C): Makes the issuing PC group not ready until another group issues, 64 issue cycles pass, or no other group is ready. -/
  | yield (f : GFmt)
  /-- CHK (0x00D): Raises poison if its register or predicate operand is poisoned, and otherwise has no effect. -/
  | chk (f : GFmt)
  /-- TRAP (0x00E): Each executing lane faults precisely with the software-trap cause and the 8-bit code. -/
  | trap (f : SFmt)
  /-- IRET (0x00F): Supervisor only: resumes a named parked sub-warp at its instruction (RETRY) or after it (SKIP), as a device-scope release. -/
  | iret (f : SFmt)
  /-- LAUNCH (0x010): Each executing lane reads a 64-byte launch record, submits a child launch to the distributor and receives a handle. -/
  | launch (f : SFmt)
  /-- JOIN (0x011): Waits until the child grid of a handle ends, then writes its status word, or traps on failure in the .F form. -/
  | join (f : SFmt)
  /-- TRIG (0x012): Triggers the stand, with a device-scope release of the thread's earlier accesses. -/
  | trig (f : SFmt)
  /-- SRD (0x013): Reads a special register into a register or an aligned pair. -/
  | srd (f : SFmt)
  /-- SWR (0x014): Writes a special register, following %rmode ordering or the register's own map. -/
  | swr (f : SFmt)
  /-- DBGBRK (0x015): Causes a debug stop of the quadrant when its debug unit is armed, and otherwise acts as NOP. -/
  | dbgbrk (f : SFmt)
  /-- MARK (0x016): Stamps the core's %clk into each lane and, when tracing is enabled, appends a trace record. -/
  | mark (f : SFmt)
  /-- HALT (0x017): Stops the management core until an enabled wake event occurs. -/
  | halt (f : SFmt)
  /-- ADD (0x040): Integer addition per element, wrapping or saturating. -/
  | add (f : GFmt)
  /-- SUB (0x041): Integer subtraction per element, wrapping or saturating. -/
  | sub (f : GFmt)
  /-- ADDC (0x042): 32-bit addition with a carry predicate that is read and written. -/
  | addc (f : GFmt)
  /-- SUBB (0x043): 32-bit subtraction with a borrow predicate that is read and written. -/
  | subb (f : GFmt)
  /-- NEG (0x044): Integer negation per element. -/
  | neg (f : GFmt)
  /-- ABS (0x045): Integer absolute value per element. -/
  | abs (f : GFmt)
  /-- MUL (0x046): Integer multiplication per element, low part. -/
  | mul (f : GFmt)
  /-- MULH (0x047): High part of an integer product. -/
  | mulh (f : GFmt)
  /-- MULW (0x048): Exact 32x32 product written into a register pair. -/
  | mulw (f : GFmt)
  /-- MAD (0x049): Integer multiply-add per element. -/
  | mad (f : GFmt)
  /-- MADH (0x04A): High part of a product plus an addend. -/
  | madh (f : GFmt)
  /-- MADW (0x04B): Exact product plus a pair addend, into a register pair. -/
  | madw (f : GFmt)
  /-- DIV (0x04C): Integer division truncating toward zero, with defined results for division by zero. -/
  | div (f : GFmt)
  /-- REM (0x04D): Integer remainder with the sign of the dividend. -/
  | rem (f : GFmt)
  /-- MIN (0x04E): Lesser of two integers per element. -/
  | min (f : GFmt)
  /-- MAX (0x04F): Greater of two integers per element. -/
  | max (f : GFmt)
  /-- AND (0x050): Bitwise AND. -/
  | and (f : GFmt)
  /-- OR (0x051): Bitwise OR. -/
  | or (f : GFmt)
  /-- XOR (0x052): Bitwise XOR. -/
  | xor (f : GFmt)
  /-- NOT (0x053): Bitwise complement. -/
  | not (f : GFmt)
  /-- ANDN (0x054): A AND NOT B. -/
  | andn (f : GFmt)
  /-- SHL (0x055): Shift left per element, with optional saturation. -/
  | shl (f : GFmt)
  /-- SHR (0x056): Logical shift right per element. -/
  | shr (f : GFmt)
  /-- SAR (0x057): Arithmetic shift right per element. -/
  | sar (f : GFmt)
  /-- ROL (0x058): Rotate left per element. -/
  | rol (f : GFmt)
  /-- FSHL (0x059): Funnel shift of a word pair. -/
  | fshl (f : GFmt)
  /-- BFX (0x05A): Extracts a bit field and extends it. -/
  | bfx (f : GFmt)
  /-- BFI (0x05B): Inserts a bit field. -/
  | bfi (f : GFmt)
  /-- POPC (0x05C): Population count per element. -/
  | popc (f : GFmt)
  /-- CLZ (0x05D): Count of leading zeros per element. -/
  | clz (f : GFmt)
  /-- CTZ (0x05E): Count of trailing zeros per element. -/
  | ctz (f : GFmt)
  /-- BREV (0x05F): Reverses the bits of each element. -/
  | brev (f : GFmt)
  /-- PERM (0x060): Byte permute from eight source bytes, with sign replication. -/
  | perm (f : GFmt)
  /-- SEL (0x061): Selects A or B by a predicate. -/
  | sel (f : GFmt)
  /-- ISET (0x062): Integer comparison that writes a predicate. -/
  | iset (f : GFmt)
  /-- LEA (0x063): Forms a pointer from a base pair plus a scaled index, keeping the tag and never faulting. -/
  | lea (f : GFmt)
  /-- SAD (0x064): Sum of absolute differences plus an accumulator. -/
  | sad (f : GFmt)
  /-- DOT4 (0x065): Dot product of four bytes plus an accumulator. -/
  | dot4 (f : GFmt)
  /-- DOT8 (0x066): Dot product of eight nibbles plus an accumulator. -/
  | dot8 (f : GFmt)
  /-- MOV (0x067): Copies a register or an imm8. -/
  | mov (f : GFmt)
  /-- MOVI (0x068): Loads a 32-bit immediate, or a sign-extended 64-bit pair. -/
  | movi (f : IFmt)
  /-- MOVH (0x069): Writes an immediate into the high register of a pair. -/
  | movh (f : IFmt)
  /-- PAND (0x06A): Predicate AND with optional operand negation. -/
  | pand (f : GFmt)
  /-- POR (0x06B): Predicate OR. -/
  | por (f : GFmt)
  /-- PXOR (0x06C): Predicate XOR. -/
  | pxor (f : GFmt)
  /-- PNOT (0x06D): Predicate NOT. -/
  | pnot (f : GFmt)
  /-- PMOV (0x06E): Moves a predicate, or packs or unpacks P0 to P7 to or from a register. -/
  | pmov (f : GFmt)
  /-- IDX (0x06F): Writes the grid index, the thread count or the stand count. -/
  | idx (f : GFmt)
  /-- FADD (0x080): Floating-point addition, rounded. -/
  | fadd (f : GFmt)
  /-- FSUB (0x081): Floating-point subtraction, rounded. -/
  | fsub (f : GFmt)
  /-- FMUL (0x082): Floating-point multiplication, rounded. -/
  | fmul (f : GFmt)
  /-- FMA (0x083): Fused multiply-add rounded once, with optional negations. -/
  | fma (f : GFmt)
  /-- FMIN (0x084): Floating minimum, with -0 below +0 and NaN handling. -/
  | fmin (f : GFmt)
  /-- FMAX (0x085): Floating maximum. -/
  | fmax (f : GFmt)
  /-- FSET (0x086): Floating comparison that writes a predicate. -/
  | fset (f : GFmt)
  /-- FCLASS (0x087): Classifies a floating value into a bit mask. -/
  | fclass (f : GFmt)
  /-- FRND (0x088): Rounds to an integral value of the same format. -/
  | frnd (f : GFmt)
  /-- FSCALE (0x089): Multiplies by a power of two, rounded once. -/
  | fscale (f : GFmt)
  /-- FEXPN (0x08A): Extracts the exponent as a signed integer. -/
  | fexpn (f : GFmt)
  /-- FMANT (0x08B): Extracts the significand in [1, 2). -/
  | fmant (f : GFmt)
  /-- FCOPYS (0x08C): Magnitude of A with the sign of B. -/
  | fcopys (f : GFmt)
  /-- FRCP (0x08D): Reciprocal, correctly rounded. -/
  | frcp (f : GFmt)
  /-- FRSQ (0x08E): Reciprocal square root, correctly rounded. -/
  | frsq (f : GFmt)
  /-- FSQRT (0x08F): Square root, correctly rounded. -/
  | fsqrt (f : GFmt)
  /-- FDIV (0x090): Division, correctly rounded. -/
  | fdiv (f : GFmt)
  /-- FEXP2 (0x091): Base-2 exponential, correctly rounded. -/
  | fexp2 (f : GFmt)
  /-- FLOG2 (0x092): Base-2 logarithm, correctly rounded. -/
  | flog2 (f : GFmt)
  /-- FSIN (0x093): Sine, correctly rounded. -/
  | fsin (f : GFmt)
  /-- FCOS (0x094): Cosine, correctly rounded. -/
  | fcos (f : GFmt)
  /-- FTANH (0x095): Hyperbolic tangent, correctly rounded. -/
  | ftanh (f : GFmt)
  /-- FSIGM (0x096): Logistic sigmoid, correctly rounded. -/
  | fsigm (f : GFmt)
  /-- FDOT2 (0x097): Two-element 16-bit dot product plus an F32 addend, rounded once. -/
  | fdot2 (f : GFmt)
  /-- FDOT4 (0x098): Four-element FP8 dot product plus an F32 addend, rounded once. -/
  | fdot4 (f : GFmt)
  /-- CVT (0x099): Converts between floating formats over a group of elements. -/
  | cvt (f : GFmt)
  /-- CVTS (0x09A): Converts between floating formats with stochastic rounding from a RAND register. -/
  | cvts (f : GFmt)
  /-- CVTI (0x09B): Converts between integer and floating formats. -/
  | cvti (f : GFmt)
  /-- PACK (0x09C): Packs halves, bytes, nibbles or six-bit elements into dense form. -/
  | pack (f : GFmt)
  /-- UNPACK (0x09D): Unpacks halves, bytes, nibbles or dense six-bit elements. -/
  | unpack (f : GFmt)
  /-- ADDMIN (0x09E): Adds A and B, then takes the lesser of the sum and C. -/
  | addmin (f : GFmt)
  /-- ADDMAX (0x09F): Adds A and B, then takes the greater of the sum and C. -/
  | addmax (f : GFmt)
  /-- FMINI (0x0A0): Minimum of float (value, index) pairs. -/
  | fmini (f : GFmt)
  /-- FMAXI (0x0A1): Maximum of float (value, index) pairs. -/
  | fmaxi (f : GFmt)
  /-- IMINI (0x0A2): Minimum of integer (value, index) pairs. -/
  | imini (f : GFmt)
  /-- IMAXI (0x0A3): Maximum of integer (value, index) pairs. -/
  | imaxi (f : GFmt)
  /-- SHFL (0x0C0): Moves a word between participating lanes by index, XOR, up or down. -/
  | shfl (f : GFmt)
  /-- SLIDE (0x0C1): Shifts words across lanes within segments, filling the gaps. -/
  | slide (f : GFmt)
  /-- BCASTL (0x0C2): Broadcasts one lane's word to every participant. -/
  | bcastl (f : GFmt)
  /-- VOTE (0x0C3): All, any, uniform or ballot over the participants' predicates. -/
  | vote (f : GFmt)
  /-- MATCH (0x0C4): Mask of the participants holding an equal value. -/
  | matchLanes (f : GFmt)
  /-- REDUX (0x0C5): Reduces the participants by the fixed lane tree and writes the root to each. -/
  | redux (f : GFmt)
  /-- SCAN (0x0C6): Inclusive or exclusive prefix over the participants by the fixed lane tree. -/
  | scan (f : GFmt)
  /-- LMASK (0x0C7): Writes a lane mask of the participants, slot, group or lower lanes. -/
  | lmask (f : GFmt)
  /-- PAIR_WORD: Issues two compact operations as one instruction; all sources are read before either writes. -/
  | pairWord (x : CFmt) (y : CFmt)
  /-- LD (0x100): Loads 8 to 128 bits per lane with checks, extension and labels. -/
  | ld (f : MFmt)
  /-- LD_S: Speculative load: a lane that would fault instead receives a poison token and a ring record. -/
  | ldS (f : MFmt)
  /-- ST (0x101): Enters a store of 8 to 128 bits per lane into the thread's store queue. -/
  | st (f : MFmt)
  /-- STORE_DRAIN: A queued store performs once its line is held for writing and every earlier store of the thread has performed, raising granule labels. -/
  | storeDrain (thread : Nat)
  /-- ATOM (0x102): Atomic read-modify-write per lane, returning the old value. -/
  | atom (f : MFmt)
  /-- ATOMC (0x103): Atomic compare-and-swap per lane. -/
  | atomc (f : MFmt)
  /-- RED (0x104): Atomic reduction without a returned value. -/
  | red (f : MFmt)
  /-- FENCE (0x105): Acquire, release or full fence at a scope. -/
  | fence (f : MFmt)
  /-- PREF (0x106): Prefetch hint that never faults. -/
  | pref (f : MFmt)
  /-- EVICT (0x107): Eviction hint that drops the line or writes it back. -/
  | evict (f : MFmt)
  /-- TAGSET (0x108): Sets the memory tags of 1 to 16 sectors to the pointer tag. -/
  | tagset (f : MFmt)
  /-- TAGGET (0x109): Reads a sector's memory tag. -/
  | tagget (f : MFmt)
  /-- BCST (0x10A): Copies a 64-byte scratchpad line into a window page as one flume store. -/
  | bcst (f : MFmt)
  /-- PRES (0x10B): Sets the presence bits of scratchpad lines, waiting for copies in flight. -/
  | pres (f : MFmt)
  /-- PCLR (0x10C): Clears the presence bits of scratchpad lines. -/
  | pclr (f : MFmt)
  /-- DCQ (0x10D): Ends the current DC quantum of a DC thread. -/
  | dcq (f : GFmt)
  /-- QUANTUM_COMMIT: Once every DC thread of the stand has ended a quantum, commits its buffered stores in grid thread order, each as a device-scope release. -/
  | quantumCommit (stand : Nat)
  /-- QINIT (0x10E): Resets a queue's head, tail, capacity and entry size. -/
  | qinit (f : MFmt)
  /-- QENQ (0x10F): Enqueues one entry per lane, waiting for room. -/
  | qenq (f : MFmt)
  /-- QDEQ (0x110): Dequeues one entry per lane, waiting or parking when the queue is empty. -/
  | qdeq (f : MFmt)
  /-- QPEEK (0x111): Reads an entry without removing it, or reads the count. -/
  | qpeek (f : MFmt)
  /-- WAITW (0x112): Rereads a word until a condition holds, the final read being an acquire. -/
  | waitw (f : MFmt)
  /-- WAITW_REREAD: An unsatisfied WAITW on a device register rereads it after an interval of at most 1,024 cycles. -/
  | waitwReread (thread : Nat)
  /-- BARI (0x113): Configures a crew or stand barrier's mask, expected count and link. -/
  | bari (f : MFmt)
  /-- BARA (0x114): Arrives at a barrier and returns the phase parity. -/
  | bara (f : MFmt)
  /-- BARW (0x115): Waits for the barrier phase of a given parity to complete. -/
  | barw (f : MFmt)
  /-- BARS (0x116): Arrives at a barrier and waits for the phase. -/
  | bars (f : MFmt)
  /-- LINKED_ARRIVAL: A stand's local count reaches EXP and it performs one atomic arrival on the linked record; the phase completes when the record's PH is seen to toggle. -/
  | linkedArrival (stand : Nat) (bar : Nat)
  /-- TBARI (0x117): Initialises a transaction barrier record. -/
  | tbari (f : MFmt)
  /-- TBARE (0x118): Arrives, adds expected bytes, waits or tests on a transaction barrier. -/
  | tbare (f : MFmt)
  /-- LBRD (0x119): Reads the label of a register, a global granule or a scratchpad segment. -/
  | lbrd (f : GFmt)
  /-- LBOR (0x11A): Raises the label of a register, a global granule or a scratchpad segment. -/
  | lbor (f : GFmt)
  /-- CLRSEG (0x11B): Zeroes a scratchpad or vault segment, resetting its tags, presence and label. -/
  | clrseg (f : MFmt)
  /-- MCFG (0x140): Waits for the engine to drain, then loads and checks a matrix parameter block and clears the accumulators. -/
  | mcfg (f : XFmt)
  /-- WLOAD (0x141): Engine copy of B data, scales or masks into CIM macros. -/
  | wload (f : XFmt)
  /-- WLOAD_COMPLETE: A WLOAD's reads finish and its token completes. -/
  | wloadComplete (quad : Nat)
  /-- WLOADR (0x142): Loads one macro column per lane from a lane pointer, with a speculative form. -/
  | wloadr (f : XFmt)
  /-- WCLR (0x143): Clears macros, scales, masks and column poison. -/
  | wclr (f : XFmt)
  /-- MMA (0x144): Streams A rows from memory through the macros into an accumulator, with an optional epilogue. -/
  | mma (f : XFmt)
  /-- MMASP (0x145): MMA over macros holding N-of-24 structured-sparse B. -/
  | mmasp (f : XFmt)
  /-- MCONV (0x146): MMA whose A rows are generated from a convolution shape record. -/
  | mconv (f : XFmt)
  /-- MMAR (0x147): MMA whose A rows come from the lanes' registers. -/
  | mmar (f : XFmt)
  /-- ROW_ACCEPT: A further A row of an operation is accepted once a half of the row buffer is free. -/
  | rowAccept (quad : Nat)
  /-- ROW_WRITE: An accumulator row is written after its last plane. -/
  | rowWrite (quad : Nat)
  /-- EPILOGUE: After the last row, the epilogue scales, biases, activates, rounds and writes the result, then the token completes. -/
  | epilogue (quad : Nat)
  /-- EPCFG (0x148): Loads and checks an epilogue parameter block in engine order. -/
  | epcfg (f : XFmt)
  /-- MSTAT (0x149): Returns a snapshot of the engine's state. -/
  | mstat (f : XFmt)
  /-- MDRAIN (0x14A): Waits until every earlier matrix operation of the crew has completed. -/
  | mdrain (f : XFmt)
  /-- MRDACC (0x14B): Moves accumulator columns of the lane's row into registers. -/
  | mrdacc (f : XFmt)
  /-- MWRACC (0x14C): Writes accumulator columns of the lane's row from registers. -/
  | mwracc (f : XFmt)
  /-- XCOPY (0x180): Starts a linear or shaped asynchronous copy of the crew's slice on the request engine. -/
  | xcopy (f : YFmt)
  /-- COPY_LINE_ARRIVAL: Every byte a copy writes to a scratchpad line has performed: the presence bit sets and parked loads may proceed. -/
  | copyLineArrival (cmd : Nat) (data : List Byte)
  /-- COPY_COMPLETE: A copy or kick list finishes its writes and decrements its token with its status. -/
  | copyComplete (cmd : Nat)
  /-- XKICK (0x181): Submits a list of linear copies as one command. -/
  | xkick (f : YFmt)
  /-- XWAIT (0x182): Waits until a token reaches zero, then returns and clears its status or traps. -/
  | xwait (f : YFmt)
  /-- XTEST (0x183): Reads a token's status and count without waiting. -/
  | xtest (f : YFmt)
  /-- SEND (0x184): Sends a message on a static route, waiting for a circuit credit. -/
  | send (f : YFmt)
  /-- MESSAGE_ARRIVAL: A static-route message arrives in the receiver's inbound circuit. -/
  | messageArrival (stand : Nat) (route : Nat)
  /-- RECV (0x185): Waits for and receives a message on a static route, returning its credit. -/
  | recv (f : YFmt)
  /-- RTEST (0x186): Reports the messages waiting on a route and whether the route is void. -/
  | rtest (f : YFmt)
  /-- OBSEND (0x187): Sends an optical burst through the gate to a destination entry. -/
  | obsend (f : YFmt)
  /-- BURST_TRANSMIT: A port sends a queued burst: the header on the control wavelength, then the data. -/
  | burstTransmit (port : Nat)
  /-- BURST_ACK: The peer's acknowledgement or refusal of a burst arrives and completes the token. -/
  | burstAck (burst : Nat) (refused : Bool)
  /-- ACK_TIMEOUT: ATO expires without acknowledgement and the token completes with CODE 0x04. -/
  | ackTimeout (burst : Nat)
  /-- OBRECV (0x188): Posts a receive buffer for a tag. -/
  | obrecv (f : YFmt)
  /-- BURST_ARRIVAL: An arriving burst header is routed to a circuit and matched to the oldest fitting post, or refused. -/
  | burstArrival (port : Nat) (peer : BitVec 16) (tag : BitVec 6) (data : List Byte)
  /-- RECEIVE_COMPLETE: A received burst's bytes have arrived: presence bits set, the completion record is written, and the token completes. -/
  | receiveComplete (cmd : Nat)
  /-- RESET_NOTICE: An arriving tag-0x3F header adds its length to the discarded counts of the matching destinations. -/
  | resetNotice (port : Nat) (peer : BitVec 16) (len : Nat)
  /-- OBSTAT (0x189): Reads port or destination status. -/
  | obstat (f : YFmt)
  /-- REL (0x18A): Sends a labelled buffer to the release gate under a policy handle. -/
  | rel (f : YFmt)
  /-- WPSET (0x1C0): Sets a watchpoint at a scope. -/
  | wpset (f : SFmt)
  /-- WPCLR (0x1C1): Clears a watchpoint at a scope. -/
  | wpclr (f : SFmt)
  /-- PROFRD (0x1C2): Reads a slot or stand stall counter. -/
  | profrd (f : SFmt)
  /-- TLBI (0x1C3): Invalidates TLB entries of the function on this core and waits for accesses past translation. -/
  | tlbi (f : SFmt)
  /-- CTXSV (0x1C4): Saves a parked thread's state to a block. -/
  | ctxsv (f : SFmt)
  /-- CTXLD (0x1C5): Loads a parked thread's state from a block. -/
  | ctxld (f : SFmt)
  /-- CRRD (0x380): Management core: reads a configuration-ring register. -/
  | crrd (f : SFmt)
  /-- CRWR (0x381): Management core: writes a configuration-ring register. -/
  | crwr (f : SFmt)
  /-- FLUME_RDS: An RdS message completes its lap: holders downgrade and supply data, and the load performs. -/
  | flumeRds (cluster : Nat) (line : Nat)
  /-- FLUME_RDX: An RdX message completes its lap: every other copy is invalidated and the requester takes M. -/
  | flumeRdx (cluster : Nat) (line : Nat)
  /-- FLUME_UPG: An Upg message completes its lap, invalidating other copies. -/
  | flumeUpg (cluster : Nat) (line : Nat)
  /-- FLUME_WB: An eviction's Wb message writes the line back. -/
  | flumeWb (cluster : Nat) (line : Nat)
  /-- FLUME_WST: A window store completes its lap and every subscribed replica applies it at that instant. -/
  | flumeWst (cluster : Nat)
  /-- COHERENCE_TIMEOUT: A coherence request gets no response within 20 µs and is resent once, or on the second timeout fails the stand. -/
  | coherenceTimeout (requester : Requester) (tag : Nat) (home : Nat)
  /-- WARP_FORM: The warp former builds a warp from Yarded or pending threads for one target. -/
  | warpForm (quad : Nat)
  /-- BALANCER_PASS: Every 256 cycles the balancer classes each stage and adjusts weights, residency and retirement. -/
  | balancerPass (core : Nat)
  /-- TRAP_RECORD_CLOSE: A coalescer record closes 64 cycles after opening and is written to its trap queue. -/
  | trapRecordClose (core : Nat)
  /-- LAUNCH_SUBMIT: A 64-byte store to the launch port window submits a record, which is checked at submission. -/
  | launchSubmit (hart : Nat) (vf : Nat) (data : List Byte)
  /-- LAUNCH_CLAIM: Once its dependences are met, a launch fixes its rectangle and checks its routes. -/
  | launchClaim (grid : Nat)
  /-- STAND_PLACE: The distributor chooses the next pending stand with room and reserves that room. -/
  | standPlace (part : Nat)
  /-- STAND_START: A placed stand starts, with its program area, queues, barriers and pending threads initialised. -/
  | standStart (stand : Nat)
  /-- GANG_PATIENCE_EXPIRE: GPAT elapses: the gang's effective priority becomes 8 and lower-priority stands may be pre-empted. -/
  | gangPatienceExpire (grid : Nat) (gang : Nat)
  /-- GANG_RELIEF: A cycle of stuck gangs is relieved by saving the members of the last-submitted one. -/
  | gangRelief (part : Nat)
  /-- GRID_END: A grid ends: it releases its resources, writes its completion record and completes every JOIN. -/
  | gridEnd (grid : Nat)
  /-- SLICE_END: A time-sliced function's turn of SLEN x 10 µs expires. -/
  | sliceEnd (part : Nat)
  /-- CONTEXT_SAVE: The context engine stops, drains and writes a stand to the save area. -/
  | contextSave (stand : Nat)
  /-- CONTEXT_RESTORE: The context engine returns a saved stand to its site and slots. -/
  | contextRestore (stand : Nat)
  /-- WAKE_EVENT: An enabled port, ring or timer event ends HALT. -/
  | wakeEvent (source : WakeSource)
  /-- RING_SEARCH: Setting LEN starts the thermal ring search, which ends in LOCK or in LFAIL after 2 ms. -/
  | ringSearch (node : Nat) (index : Nat) (locked : Bool) (heat : Byte)
  /-- EYE_TRAINING: A TRAIN write on a locked wavelength trains the eye, which ends in TDONE or TFAIL. -/
  | eyeTraining (node : Nat) (index : Nat) (eyeh : Byte) (eyew : Byte)
  /-- POWER_ON: Power-on: the boot ROM verifies Bafin and the device starts its bring-up. `found` names the sites that do not work,
  each with whether its router does. -/
  | powerOn (found : List (Nat × Bool)) (image : List Byte)
  /-- RETEST: In-field retest of one site with no stand; the site may be retired and a new core map published. -/
  | retest (site : Nat) (coreOk : Bool) (routerOk : Bool)
  /-- LINK_RETRY: A mesh flit that fails its CRC is retried. -/
  | linkRetry (site : Nat) (port : MeshPort)
  /-- LINK_DOWN: After 16 consecutive retries the link is down: its endpoints stop and are retested. -/
  | linkDown (site : Nat) (port : MeshPort) (okHere : Bool) (okThere : Bool)
  /-- MARGIN_ALARM: A heater code out of margin moves a flume wavelength to a spare at a frame boundary. -/
  | marginAlarm (waveguide : Nat) (wavelength : Nat) (heater : Byte)
  /-- LOCK_LOST: Lost lock, a dark landing or a flume CRC failure causes a fatal stop. -/
  | lockLost (node : Nat) (wavelength : Nat)
  /-- UNCORRECTABLE_ERROR: An uncorrectable error is contained at its sector, stand or function and recorded. -/
  | uncorrectableError (place : ErrorPlace)
  /-- DRAM_SCRUB: Every 2^20 cycles the scrubber checks a sector of each DRAM channel. -/
  | dramScrub (channel : Nat) (sector : Nat) (corrected : Bool) (lastOfPass : Bool)
  /-- VAULT_SCRUB: Every 2^16 cycles each vault port checks a line, remapping failing rows to spares. -/
  | vaultScrub (cluster : Nat) (line : Nat) (corrected : Bool) (lastOfPass : Bool)
  /-- SCRATCHPAD_SCRUB: Every 2^16 cycles each scratchpad bank checks a line. -/
  | scratchpadScrub (core : Nat) (bank : Nat) (line : Nat) (corrected : Bool)
  /-- ERROR_FOLD_EXPIRE: A 1 ms folding window of corrected errors ends and one counted record is written. -/
  | errorFoldExpire (fold : Nat)
  /-- GUARANTEE_LAPSE: An in-service lane failure drops trained lanes below GLN, or the control lane fails and the port goes down. -/
  | guaranteeLapse (port : Nat) (control : Bool) (lane : Nat)
  /-- GUARANTEE_RESTORED: Retraining brings the lanes back to GLN and clears the lapse. -/
  | guaranteeRestored (port : Nat)
  /-- WATCHDOG_RESTART: Bafin unserved for 1 s: the management core restarts and re-verifies the image, which it reads from the flash. -/
  | watchdogRestart (image : List Byte)
  /-- POLICY_CHECK_FAIL: A stored policy that fails its check is removed and recorded. -/
  | policyCheckFail (handle : BitVec 16)
  /-- HOST_LOAD: A host-core load, fetch, walk or AMO read performs only if the granule's label fits its origin. -/
  | hostLoad (hart : Nat) (op : HostLoadOp) (size : Nat)
  /-- HOST_STORE: A host-core store raises the target granule by its origin. -/
  | hostStore (hart : Nat) (op : HostStoreOp) (data : List Byte)
  /-- STALL_REASON_COUNT: In every cycle in which a slot holds a thread and does not issue, one stall-reason counter rises, and the stand's reason-13 total rises by its Yarded threads. -/
  | stallReasonCount (quad : Nat)
  /-- UNASSIGNED_OPCODE: A thread reaches an instruction index holding an unassigned opcode, or a management opcode off the management core or unimplemented, and the executing lanes take an illegal-instruction trap. -/
  | unassignedOpcode (word : BitVec 64)
  /-- GATE_RELEASE: The gate takes the next release, checks it against the policy, logs it and emits, re-labels or refuses it. -/
  | gateRelease
  /-- SAVE_REPLAY: SVCMD ACT 1: invalidates stage-two entries and resumes frozen saves or restores. -/
  | saveReplay
  /-- SAVE_KILL: SVCMD ACT 2: tears the function down. -/
  | saveKill
  /-- PARTITION_ENABLE: A PCTL write that sets EN, checked against flume units and DRAM slots. -/
  | partitionEnable
  /-- PARTITION_DISABLE: A PCTL write that clears EN, clearing EN of every function of the partition. -/
  | partitionDisable
  /-- VF_ENABLE: A VCTL write that sets EN: checked, then the key slot is filled (with a sweep if the epoch wraps). -/
  | vfEnable
  /-- VF_TEARDOWN: A VCTL write that clears EN tears the function down without a save and sets DONE. -/
  | vfTeardown
  /-- CIRCUIT_DISABLE: Clearing V of a port circuit stops its egress at the next burst boundary. -/
  | circuitDisable
  /-- FRAME_ZERO: A ZF write with GO zeroes a frame and sets its tags and label. -/
  | frameZero
  /-- POLICY_INSTALL: GCMD OP 1: checks and verifies a signed policy and installs it. -/
  | policyInstall
  /-- POLICY_REMOVE: GCMD OP 2: removes an installed policy. -/
  | policyRemove
  /-- KEY_REGISTER: GCMD OP 3: registers an origin's keys, measures them and removes policies naming the origin. -/
  | keyRegister
  /-- MIGRATION_REPLAY: An MREPL write of a pending ID invalidates the frame's entries and retries the lanes parked on the page. -/
  | migrationReplay
  /-- HANDLER_CREATE: A %hctl write that sets HEN creates the handler stand, or sets HERR. -/
  | handlerCreate
  /-- HANDLER_TEARDOWN: A %hctl write that clears HEN tears the handler stand down. -/
  | handlerTeardown
  /-- PRES_RETRY: A %pres or HRES write with ACT 1 resumes the sub-warp at its instruction. -/
  | presRetry
  /-- PRES_SKIP: A %pres or HRES write with ACT 2 resumes the sub-warp after its instruction. -/
  | presSkip
  /-- PRES_KILL: A %pres or HRES write with ACT 3 makes the sub-warp's stand fail. -/
  | presKill
  /-- PVAL_WRITE: A %pval write sets a parked lane's register and clears its poison. -/
  | pvalWrite
  /-- HPVAL_WRITE: A hypervisor HPVAL write sets a parked lane's register, clears its poison and raises its label by the core's origin. -/
  | hpvalWrite
  /-- FORWARD_EVENT: A %hfwd write stores a word to the HFWD target as an interrupt. -/
  | forwardEvent
  /-- DEBUG_STOP_REQUEST: A QDBG write of REQ stops the quadrant. -/
  | debugStopRequest
  /-- DEBUG_RESUME: A QDBG write of RESUME restarts the stopped quadrant. -/
  | debugResume
  /-- CLAIM_SUSPEND: Setting an HCLM bit gives the hypervisor the unit and suspends the guest claim. -/
  | claimSuspend
  /-- CLAIM_RESUME: Clearing an HCLM bit resumes guest counting from the frozen values. -/
  | claimResume
  /-- FEATURE_CONFIRM: An FCTL write of GO confirms FACC, or sets ERR. -/
  | featureConfirm
  /-- MSTATE_WRITE: A write of STATE changes the reported state and the launch-port acceptance; a write of 15 performs the fatal stop. -/
  | mstateWrite
  /-- REGISTER_WRITE: A write to a device register without behaviour of its own, with the ownership and EN checks. -/
  | registerWrite
  /-- LMAP_WRITE: A write of an optical port's lane map, ignored with RERR if invalid. -/
  | lmapWrite
  /-- FMAP_WRITE: A write of a waveguide's channel map. -/
  | fmapWrite
  /-- STATUS: Management request 1: returns %mstate and the latest core map. -/
  | status
  /-- LOG: Management request 2: returns the measurement entries. -/
  | log
  /-- REPORT: Management request 3: returns a signed report over a nonce. -/
  | report
  /-- FWLOAD: Management request 4: writes an image chunk, and the last chunk restarts the device. -/
  | fwload
  /-- STREAM: Management request 5: returns the queued data of a KIND 1 release stream. -/
  | stream
  /-- UNKNOWN_REQUEST: A datagram with any other code is answered with code 0 and logged. -/
  | unknownRequest
  /-- CHANNEL_ACK: A DRCTL write of ACK starts relocation of the failing channel. -/
  | channelAck
  /-- RELOCATION_COMPLETE: Relocation ends: ST returns to 0, the core map marks the channel and a record is written. -/
  | relocationComplete
  /-- CLAUSE_NOT_WELL_FORMED: A thread that falls through to a clause whose header is not well formed takes an illegal-instruction trap at index 0 and executes none of it. -/
  | clauseNotWellFormed
deriving DecidableEq, Repr

end Sys2Proof
end

