-- ==== Sys2Proof/Decode.lean ====
section
/-!
DEFINITION. The decoder and the encoder of instruction words, pair words and clause headers (R104, R105, R113, R114, R119,
R124, R125 of spec/05). Decoding is total: a word either is an instruction, or names an unassigned opcode (which is the
row UNASSIGNED_OPCODE), or is rejected by name. What the fields of an instruction may hold is judged when it
issues (R419).
-/

namespace Sys2Proof

/-- Why bytes are no instruction. -/
inductive DecodeError where
  /-- The opcode field is 0x3FF, which only a clause header carries (R105, R125). -/
  | headerValue
  /-- Fewer bytes than the instruction's parcels (R104). -/
  | tooShort
deriving DecidableEq, Repr

/-- Little-endian value of bytes (R2). -/
def leNat : List Byte → Nat
  | [] => 0
  | b :: bs => b.toNat + 256 * leNat bs

/-- The `n` little-endian bytes of a number (R2). -/
def leBytes : Nat → Nat → List Byte
  | 0, _ => []
  | n + 1, v => BitVec.ofNat 8 v :: leBytes n (v / 256)

/-- The fields of format G (R113). -/
def gOf (w : BitVec 64) : GFmt where
  x := w.extractLsb' 50 4
  gn := w.extractLsb' 49 1
  gp := w.extractLsb' 46 3
  d := w.extractLsb' 38 8
  a := w.extractLsb' 30 8
  b := w.extractLsb' 22 8
  c := w.extractLsb' 14 8
  ma := w.extractLsb' 11 3
  mb := w.extractLsb' 8 3
  mc := w.extractLsb' 5 3
  sel := w.extractLsb' 0 5

/-- The fields of format I (R114). -/
def iOf (w : BitVec 64) : IFmt where
  x := w.extractLsb' 50 4
  gn := w.extractLsb' 49 1
  gp := w.extractLsb' 46 3
  d := w.extractLsb' 38 8
  imm := w.extractLsb' 6 32
  sel := w.extractLsb' 0 6

/-- The fields of format M (R114). -/
def mOf (w : BitVec 64) : MFmt where
  x := w.extractLsb' 50 4
  gn := w.extractLsb' 49 1
  gp := w.extractLsb' 46 3
  d := w.extractLsb' 38 8
  a := w.extractLsb' 30 8
  b := w.extractLsb' 22 8
  spc := w.extractLsb' 20 2
  ord := w.extractLsb' 18 2
  sco := w.extractLsb' 15 3
  sz := w.extractLsb' 12 3
  var := w.extractLsb' 8 4
  dl := w.extractLsb' 0 8

/-- The fields of format X (R114). -/
def xOf (w : BitVec 64) : XFmt where
  x := w.extractLsb' 50 4
  gn := w.extractLsb' 49 1
  gp := w.extractLsb' 46 3
  d := w.extractLsb' 38 8
  a := w.extractLsb' 30 8
  b := w.extractLsb' 22 8
  tok := w.extractLsb' 19 3
  te := w.extractLsb' 18 1
  ord := w.extractLsb' 16 2
  sco := w.extractLsb' 13 3
  macs := w.extractLsb' 9 4
  acc := w.extractLsb' 5 4
  sel := w.extractLsb' 0 5

/-- The fields of format Y (R114). -/
def yOf (w : BitVec 64) : YFmt where
  x := w.extractLsb' 50 4
  gn := w.extractLsb' 49 1
  gp := w.extractLsb' 46 3
  d := w.extractLsb' 38 8
  a := w.extractLsb' 30 8
  b := w.extractLsb' 22 8
  tok := w.extractLsb' 19 3
  te := w.extractLsb' 18 1
  ord := w.extractLsb' 16 2
  sco := w.extractLsb' 13 3
  dspc := w.extractLsb' 11 2
  sspc := w.extractLsb' 9 2
  sel := w.extractLsb' 0 9

/-- The fields of format S (R114). -/
def sOf (w : BitVec 64) : SFmt where
  x := w.extractLsb' 50 4
  gn := w.extractLsb' 49 1
  gp := w.extractLsb' 46 3
  d := w.extractLsb' 38 8
  a := w.extractLsb' 30 8
  imm := w.extractLsb' 14 16
  tok := w.extractLsb' 11 3
  te := w.extractLsb' 10 1
  sel := w.extractLsb' 0 10

/-- The fields of a compact operation (R119). -/
def cOf (w : BitVec 48) : CFmt where
  cop := w.extractLsb' 41 7
  gn := w.extractLsb' 40 1
  gp := w.extractLsb' 37 3
  d := w.extractLsb' 29 8
  a := w.extractLsb' 21 8
  b := w.extractLsb' 13 8
  ib := w.extractLsb' 12 1
  ty := w.extractLsb' 9 3
  c := w.extractLsb' 1 8
  rsv := w.extractLsb' 0 1

/-- The fields of a clause header (R105). -/
def headerOf (w : BitVec 64) : Header where
  hop := w.extractLsb' 54 10
  cls := w.extractLsb' 52 2
  cnt := w.extractLsb' 48 4
  len := w.extractLsb' 42 6
  wait := w.extractLsb' 34 8
  olim := w.extractLsb' 30 4
  ct := w.extractLsb' 29 1
  pair := w.extractLsb' 13 16
  rsv := w.extractLsb' 0 13

/-- The opcode field of a word (R113). -/
def opcodeField (w : BitVec 64) : Nat := (w.extractLsb' 54 10).toNat

/-- Opcodes 0x000 to 0x017, control and system (R124). -/
def decodeControl (w : BitVec 64) : Instr :=
  match opcodeField w with
  | 0x000 => .nop (gOf w)
  | 0x001 => .bra (iOf w)
  | 0x002 => .call (iOf w)
  | 0x003 => .rgrp (iOf w)
  | 0x004 => .brx (gOf w)
  | 0x005 => .callx (gOf w)
  | 0x006 => .ret (gOf w)
  | 0x007 => .exit (gOf w)
  | 0x008 => .jset (gOf w)
  | 0x009 => .jwait (gOf w)
  | 0x00A => .jclr (gOf w)
  | 0x00B => .elect (gOf w)
  | 0x00C => .yield (gOf w)
  | 0x00D => .chk (gOf w)
  | 0x00E => .trap (sOf w)
  | 0x00F => .iret (sOf w)
  | 0x010 => .launch (sOf w)
  | 0x011 => .join (sOf w)
  | 0x012 => .trig (sOf w)
  | 0x013 => .srd (sOf w)
  | 0x014 => .swr (sOf w)
  | 0x015 => .dbgbrk (sOf w)
  | 0x016 => .mark (sOf w)
  | 0x017 => .halt (sOf w)
  | _ => .unassignedOpcode w

/-- Opcodes 0x040 to 0x06F, integer, predicate and index (R124). -/
def decodeInteger (w : BitVec 64) : Instr :=
  match opcodeField w with
  | 0x040 => .add (gOf w)
  | 0x041 => .sub (gOf w)
  | 0x042 => .addc (gOf w)
  | 0x043 => .subb (gOf w)
  | 0x044 => .neg (gOf w)
  | 0x045 => .abs (gOf w)
  | 0x046 => .mul (gOf w)
  | 0x047 => .mulh (gOf w)
  | 0x048 => .mulw (gOf w)
  | 0x049 => .mad (gOf w)
  | 0x04A => .madh (gOf w)
  | 0x04B => .madw (gOf w)
  | 0x04C => .div (gOf w)
  | 0x04D => .rem (gOf w)
  | 0x04E => .min (gOf w)
  | 0x04F => .max (gOf w)
  | 0x050 => .and (gOf w)
  | 0x051 => .or (gOf w)
  | 0x052 => .xor (gOf w)
  | 0x053 => .not (gOf w)
  | 0x054 => .andn (gOf w)
  | 0x055 => .shl (gOf w)
  | 0x056 => .shr (gOf w)
  | 0x057 => .sar (gOf w)
  | 0x058 => .rol (gOf w)
  | 0x059 => .fshl (gOf w)
  | 0x05A => .bfx (gOf w)
  | 0x05B => .bfi (gOf w)
  | 0x05C => .popc (gOf w)
  | 0x05D => .clz (gOf w)
  | 0x05E => .ctz (gOf w)
  | 0x05F => .brev (gOf w)
  | 0x060 => .perm (gOf w)
  | 0x061 => .sel (gOf w)
  | 0x062 => .iset (gOf w)
  | 0x063 => .lea (gOf w)
  | 0x064 => .sad (gOf w)
  | 0x065 => .dot4 (gOf w)
  | 0x066 => .dot8 (gOf w)
  | 0x067 => .mov (gOf w)
  | 0x068 => .movi (iOf w)
  | 0x069 => .movh (iOf w)
  | 0x06A => .pand (gOf w)
  | 0x06B => .por (gOf w)
  | 0x06C => .pxor (gOf w)
  | 0x06D => .pnot (gOf w)
  | 0x06E => .pmov (gOf w)
  | 0x06F => .idx (gOf w)
  | _ => .unassignedOpcode w

/-- Opcodes 0x080 to 0x0C7, floating point, conversion and cross-lane (R124). -/
def decodeFloat (w : BitVec 64) : Instr :=
  match opcodeField w with
  | 0x080 => .fadd (gOf w)
  | 0x081 => .fsub (gOf w)
  | 0x082 => .fmul (gOf w)
  | 0x083 => .fma (gOf w)
  | 0x084 => .fmin (gOf w)
  | 0x085 => .fmax (gOf w)
  | 0x086 => .fset (gOf w)
  | 0x087 => .fclass (gOf w)
  | 0x088 => .frnd (gOf w)
  | 0x089 => .fscale (gOf w)
  | 0x08A => .fexpn (gOf w)
  | 0x08B => .fmant (gOf w)
  | 0x08C => .fcopys (gOf w)
  | 0x08D => .frcp (gOf w)
  | 0x08E => .frsq (gOf w)
  | 0x08F => .fsqrt (gOf w)
  | 0x090 => .fdiv (gOf w)
  | 0x091 => .fexp2 (gOf w)
  | 0x092 => .flog2 (gOf w)
  | 0x093 => .fsin (gOf w)
  | 0x094 => .fcos (gOf w)
  | 0x095 => .ftanh (gOf w)
  | 0x096 => .fsigm (gOf w)
  | 0x097 => .fdot2 (gOf w)
  | 0x098 => .fdot4 (gOf w)
  | 0x099 => .cvt (gOf w)
  | 0x09A => .cvts (gOf w)
  | 0x09B => .cvti (gOf w)
  | 0x09C => .pack (gOf w)
  | 0x09D => .unpack (gOf w)
  | 0x09E => .addmin (gOf w)
  | 0x09F => .addmax (gOf w)
  | 0x0A0 => .fmini (gOf w)
  | 0x0A1 => .fmaxi (gOf w)
  | 0x0A2 => .imini (gOf w)
  | 0x0A3 => .imaxi (gOf w)
  | 0x0C0 => .shfl (gOf w)
  | 0x0C1 => .slide (gOf w)
  | 0x0C2 => .bcastl (gOf w)
  | 0x0C3 => .vote (gOf w)
  | 0x0C4 => .matchLanes (gOf w)
  | 0x0C5 => .redux (gOf w)
  | 0x0C6 => .scan (gOf w)
  | 0x0C7 => .lmask (gOf w)
  | _ => .unassignedOpcode w

/-- Opcodes 0x100 to 0x11B, memory and synchronisation (R124); VAR[3] of LD selects LD.S (R215, R217). -/
def decodeMemory (w : BitVec 64) : Instr :=
  match opcodeField w with
  | 0x100 => if (mOf w).var.getLsbD 3 then .ldS (mOf w) else .ld (mOf w)
  | 0x101 => .st (mOf w)
  | 0x102 => .atom (mOf w)
  | 0x103 => .atomc (mOf w)
  | 0x104 => .red (mOf w)
  | 0x105 => .fence (mOf w)
  | 0x106 => .pref (mOf w)
  | 0x107 => .evict (mOf w)
  | 0x108 => .tagset (mOf w)
  | 0x109 => .tagget (mOf w)
  | 0x10A => .bcst (mOf w)
  | 0x10B => .pres (mOf w)
  | 0x10C => .pclr (mOf w)
  | 0x10D => .dcq (gOf w)
  | 0x10E => .qinit (mOf w)
  | 0x10F => .qenq (mOf w)
  | 0x110 => .qdeq (mOf w)
  | 0x111 => .qpeek (mOf w)
  | 0x112 => .waitw (mOf w)
  | 0x113 => .bari (mOf w)
  | 0x114 => .bara (mOf w)
  | 0x115 => .barw (mOf w)
  | 0x116 => .bars (mOf w)
  | 0x117 => .tbari (mOf w)
  | 0x118 => .tbare (mOf w)
  | 0x119 => .lbrd (gOf w)
  | 0x11A => .lbor (gOf w)
  | 0x11B => .clrseg (mOf w)
  | _ => .unassignedOpcode w

/-- Opcodes 0x140 to 0x381, matrix, asynchronous, watchpoint, privileged and management (R124, R384). -/
def decodeEngine (w : BitVec 64) : Instr :=
  match opcodeField w with
  | 0x140 => .mcfg (xOf w)
  | 0x141 => .wload (xOf w)
  | 0x142 => .wloadr (xOf w)
  | 0x143 => .wclr (xOf w)
  | 0x144 => .mma (xOf w)
  | 0x145 => .mmasp (xOf w)
  | 0x146 => .mconv (xOf w)
  | 0x147 => .mmar (xOf w)
  | 0x148 => .epcfg (xOf w)
  | 0x149 => .mstat (xOf w)
  | 0x14A => .mdrain (xOf w)
  | 0x14B => .mrdacc (xOf w)
  | 0x14C => .mwracc (xOf w)
  | 0x180 => .xcopy (yOf w)
  | 0x181 => .xkick (yOf w)
  | 0x182 => .xwait (yOf w)
  | 0x183 => .xtest (yOf w)
  | 0x184 => .send (yOf w)
  | 0x185 => .recv (yOf w)
  | 0x186 => .rtest (yOf w)
  | 0x187 => .obsend (yOf w)
  | 0x188 => .obrecv (yOf w)
  | 0x189 => .obstat (yOf w)
  | 0x18A => .rel (yOf w)
  | 0x1C0 => .wpset (sOf w)
  | 0x1C1 => .wpclr (sOf w)
  | 0x1C2 => .profrd (sOf w)
  | 0x1C3 => .tlbi (sOf w)
  | 0x1C4 => .ctxsv (sOf w)
  | 0x1C5 => .ctxld (sOf w)
  | 0x380 => .crrd (sOf w)
  | 0x381 => .crwr (sOf w)
  | _ => .unassignedOpcode w

/-- The instruction a 64-bit word holds (R124, R125, R431). -/
def decodeWord (w : BitVec 64) : Except DecodeError Instr :=
  if opcodeField w = 0x3FF then .error .headerValue
  else if opcodeField w < 0x040 then .ok (decodeControl w)
  else if opcodeField w < 0x080 then .ok (decodeInteger w)
  else if opcodeField w < 0x100 then .ok (decodeFloat w)
  else if opcodeField w < 0x140 then .ok (decodeMemory w)
  else .ok (decodeEngine w)

/-- The pair word that 96 bits hold: X in bits [47:0], Y in bits [95:48] (R119). -/
def decodePair (w : BitVec 96) : Instr := .pairWord (cOf (w.extractLsb' 0 48)) (cOf (w.extractLsb' 48 48))

/-- The instruction at the head of a byte list and the rest of the list; `pair` is the header's PAIR bit (R104, R105). -/
def decodeBytes (pair : Bool) (bs : List Byte) : Except DecodeError (Instr × List Byte) :=
  if pair then
    if bs.length < 12 then .error .tooShort
    else .ok (decodePair (BitVec.ofNat 96 (leNat (bs.take 12))), bs.drop 12)
  else if bs.length < 8 then .error .tooShort
  else match decodeWord (BitVec.ofNat 64 (leNat (bs.take 8))) with
    | .ok i => .ok (i, bs.drop 8)
    | .error e => .error e

/-- The instruction the decoder reads from `nbits` bits numbered as the opcode table numbers them. The words are parcels of
32 bits (R104): a table word longer than 64 bits is a pair word. -/
def decodeTableWord (nbits w : Nat) : Option Instr :=
  match decodeBytes (decide (64 < nbits)) (leBytes (if 64 < nbits then 12 else 8) w) with
  | .ok (i, _) => some i
  | .error _ => none

/-! ### The encoder, from the same tables -/

/-- Format G (R113). -/
def gWord (op : BitVec 10) (f : GFmt) : BitVec 64 :=
  op ++ f.x ++ f.gn ++ f.gp ++ f.d ++ f.a ++ f.b ++ f.c ++ f.ma ++ f.mb ++ f.mc ++ f.sel

/-- Format I (R114). -/
def iWord (op : BitVec 10) (f : IFmt) : BitVec 64 :=
  op ++ f.x ++ f.gn ++ f.gp ++ f.d ++ f.imm ++ f.sel

/-- Format M (R114). -/
def mWord (op : BitVec 10) (f : MFmt) : BitVec 64 :=
  op ++ f.x ++ f.gn ++ f.gp ++ f.d ++ f.a ++ f.b ++ f.spc ++ f.ord ++ f.sco ++ f.sz ++ f.var ++ f.dl

/-- Format X (R114). -/
def xWord (op : BitVec 10) (f : XFmt) : BitVec 64 :=
  op ++ f.x ++ f.gn ++ f.gp ++ f.d ++ f.a ++ f.b ++ f.tok ++ f.te ++ f.ord ++ f.sco ++ f.macs ++ f.acc ++ f.sel

/-- Format Y (R114). -/
def yWord (op : BitVec 10) (f : YFmt) : BitVec 64 :=
  op ++ f.x ++ f.gn ++ f.gp ++ f.d ++ f.a ++ f.b ++ f.tok ++ f.te ++ f.ord ++ f.sco ++ f.dspc ++ f.sspc ++ f.sel

/-- Format S (R114). -/
def sWord (op : BitVec 10) (f : SFmt) : BitVec 64 :=
  op ++ f.x ++ f.gn ++ f.gp ++ f.d ++ f.a ++ f.imm ++ f.tok ++ f.te ++ f.sel

/-- A compact operation (R119). -/
def cWord (f : CFmt) : BitVec 48 :=
  f.cop ++ f.gn ++ f.gp ++ f.d ++ f.a ++ f.b ++ f.ib ++ f.ty ++ f.c ++ f.rsv

/-- A clause header (R105). -/
def headerWord (h : Header) : BitVec 64 :=
  h.hop ++ h.cls ++ h.cnt ++ h.len ++ h.wait ++ h.olim ++ h.ct ++ h.pair ++ h.rsv

/-- The 64-bit word of an instruction; none for a pair word and for a machine event. -/
def encodeWord : Instr → Option (BitVec 64)
  | .nop f => some (gWord 0x000#10 f)
  | .bra f => some (iWord 0x001#10 f)
  | .call f => some (iWord 0x002#10 f)
  | .rgrp f => some (iWord 0x003#10 f)
  | .brx f => some (gWord 0x004#10 f)
  | .callx f => some (gWord 0x005#10 f)
  | .ret f => some (gWord 0x006#10 f)
  | .exit f => some (gWord 0x007#10 f)
  | .jset f => some (gWord 0x008#10 f)
  | .jwait f => some (gWord 0x009#10 f)
  | .jclr f => some (gWord 0x00A#10 f)
  | .elect f => some (gWord 0x00B#10 f)
  | .yield f => some (gWord 0x00C#10 f)
  | .chk f => some (gWord 0x00D#10 f)
  | .trap f => some (sWord 0x00E#10 f)
  | .iret f => some (sWord 0x00F#10 f)
  | .launch f => some (sWord 0x010#10 f)
  | .join f => some (sWord 0x011#10 f)
  | .trig f => some (sWord 0x012#10 f)
  | .srd f => some (sWord 0x013#10 f)
  | .swr f => some (sWord 0x014#10 f)
  | .dbgbrk f => some (sWord 0x015#10 f)
  | .mark f => some (sWord 0x016#10 f)
  | .halt f => some (sWord 0x017#10 f)
  | .add f => some (gWord 0x040#10 f)
  | .sub f => some (gWord 0x041#10 f)
  | .addc f => some (gWord 0x042#10 f)
  | .subb f => some (gWord 0x043#10 f)
  | .neg f => some (gWord 0x044#10 f)
  | .abs f => some (gWord 0x045#10 f)
  | .mul f => some (gWord 0x046#10 f)
  | .mulh f => some (gWord 0x047#10 f)
  | .mulw f => some (gWord 0x048#10 f)
  | .mad f => some (gWord 0x049#10 f)
  | .madh f => some (gWord 0x04A#10 f)
  | .madw f => some (gWord 0x04B#10 f)
  | .div f => some (gWord 0x04C#10 f)
  | .rem f => some (gWord 0x04D#10 f)
  | .min f => some (gWord 0x04E#10 f)
  | .max f => some (gWord 0x04F#10 f)
  | .and f => some (gWord 0x050#10 f)
  | .or f => some (gWord 0x051#10 f)
  | .xor f => some (gWord 0x052#10 f)
  | .not f => some (gWord 0x053#10 f)
  | .andn f => some (gWord 0x054#10 f)
  | .shl f => some (gWord 0x055#10 f)
  | .shr f => some (gWord 0x056#10 f)
  | .sar f => some (gWord 0x057#10 f)
  | .rol f => some (gWord 0x058#10 f)
  | .fshl f => some (gWord 0x059#10 f)
  | .bfx f => some (gWord 0x05A#10 f)
  | .bfi f => some (gWord 0x05B#10 f)
  | .popc f => some (gWord 0x05C#10 f)
  | .clz f => some (gWord 0x05D#10 f)
  | .ctz f => some (gWord 0x05E#10 f)
  | .brev f => some (gWord 0x05F#10 f)
  | .perm f => some (gWord 0x060#10 f)
  | .sel f => some (gWord 0x061#10 f)
  | .iset f => some (gWord 0x062#10 f)
  | .lea f => some (gWord 0x063#10 f)
  | .sad f => some (gWord 0x064#10 f)
  | .dot4 f => some (gWord 0x065#10 f)
  | .dot8 f => some (gWord 0x066#10 f)
  | .mov f => some (gWord 0x067#10 f)
  | .movi f => some (iWord 0x068#10 f)
  | .movh f => some (iWord 0x069#10 f)
  | .pand f => some (gWord 0x06A#10 f)
  | .por f => some (gWord 0x06B#10 f)
  | .pxor f => some (gWord 0x06C#10 f)
  | .pnot f => some (gWord 0x06D#10 f)
  | .pmov f => some (gWord 0x06E#10 f)
  | .idx f => some (gWord 0x06F#10 f)
  | .fadd f => some (gWord 0x080#10 f)
  | .fsub f => some (gWord 0x081#10 f)
  | .fmul f => some (gWord 0x082#10 f)
  | .fma f => some (gWord 0x083#10 f)
  | .fmin f => some (gWord 0x084#10 f)
  | .fmax f => some (gWord 0x085#10 f)
  | .fset f => some (gWord 0x086#10 f)
  | .fclass f => some (gWord 0x087#10 f)
  | .frnd f => some (gWord 0x088#10 f)
  | .fscale f => some (gWord 0x089#10 f)
  | .fexpn f => some (gWord 0x08A#10 f)
  | .fmant f => some (gWord 0x08B#10 f)
  | .fcopys f => some (gWord 0x08C#10 f)
  | .frcp f => some (gWord 0x08D#10 f)
  | .frsq f => some (gWord 0x08E#10 f)
  | .fsqrt f => some (gWord 0x08F#10 f)
  | .fdiv f => some (gWord 0x090#10 f)
  | .fexp2 f => some (gWord 0x091#10 f)
  | .flog2 f => some (gWord 0x092#10 f)
  | .fsin f => some (gWord 0x093#10 f)
  | .fcos f => some (gWord 0x094#10 f)
  | .ftanh f => some (gWord 0x095#10 f)
  | .fsigm f => some (gWord 0x096#10 f)
  | .fdot2 f => some (gWord 0x097#10 f)
  | .fdot4 f => some (gWord 0x098#10 f)
  | .cvt f => some (gWord 0x099#10 f)
  | .cvts f => some (gWord 0x09A#10 f)
  | .cvti f => some (gWord 0x09B#10 f)
  | .pack f => some (gWord 0x09C#10 f)
  | .unpack f => some (gWord 0x09D#10 f)
  | .addmin f => some (gWord 0x09E#10 f)
  | .addmax f => some (gWord 0x09F#10 f)
  | .fmini f => some (gWord 0x0A0#10 f)
  | .fmaxi f => some (gWord 0x0A1#10 f)
  | .imini f => some (gWord 0x0A2#10 f)
  | .imaxi f => some (gWord 0x0A3#10 f)
  | .shfl f => some (gWord 0x0C0#10 f)
  | .slide f => some (gWord 0x0C1#10 f)
  | .bcastl f => some (gWord 0x0C2#10 f)
  | .vote f => some (gWord 0x0C3#10 f)
  | .matchLanes f => some (gWord 0x0C4#10 f)
  | .redux f => some (gWord 0x0C5#10 f)
  | .scan f => some (gWord 0x0C6#10 f)
  | .lmask f => some (gWord 0x0C7#10 f)
  | .pairWord _ _ => none
  | .ld f => some (mWord 0x100#10 f)
  | .ldS f => some (mWord 0x100#10 f)
  | .st f => some (mWord 0x101#10 f)
  | .storeDrain _ => none
  | .atom f => some (mWord 0x102#10 f)
  | .atomc f => some (mWord 0x103#10 f)
  | .red f => some (mWord 0x104#10 f)
  | .fence f => some (mWord 0x105#10 f)
  | .pref f => some (mWord 0x106#10 f)
  | .evict f => some (mWord 0x107#10 f)
  | .tagset f => some (mWord 0x108#10 f)
  | .tagget f => some (mWord 0x109#10 f)
  | .bcst f => some (mWord 0x10A#10 f)
  | .pres f => some (mWord 0x10B#10 f)
  | .pclr f => some (mWord 0x10C#10 f)
  | .dcq f => some (gWord 0x10D#10 f)
  | .quantumCommit _ => none
  | .qinit f => some (mWord 0x10E#10 f)
  | .qenq f => some (mWord 0x10F#10 f)
  | .qdeq f => some (mWord 0x110#10 f)
  | .qpeek f => some (mWord 0x111#10 f)
  | .waitw f => some (mWord 0x112#10 f)
  | .waitwReread _ => none
  | .bari f => some (mWord 0x113#10 f)
  | .bara f => some (mWord 0x114#10 f)
  | .barw f => some (mWord 0x115#10 f)
  | .bars f => some (mWord 0x116#10 f)
  | .linkedArrival _ _ => none
  | .tbari f => some (mWord 0x117#10 f)
  | .tbare f => some (mWord 0x118#10 f)
  | .lbrd f => some (gWord 0x119#10 f)
  | .lbor f => some (gWord 0x11A#10 f)
  | .clrseg f => some (mWord 0x11B#10 f)
  | .mcfg f => some (xWord 0x140#10 f)
  | .wload f => some (xWord 0x141#10 f)
  | .wloadComplete _ => none
  | .wloadr f => some (xWord 0x142#10 f)
  | .wclr f => some (xWord 0x143#10 f)
  | .mma f => some (xWord 0x144#10 f)
  | .mmasp f => some (xWord 0x145#10 f)
  | .mconv f => some (xWord 0x146#10 f)
  | .mmar f => some (xWord 0x147#10 f)
  | .rowAccept _ => none
  | .rowWrite _ => none
  | .epilogue _ => none
  | .epcfg f => some (xWord 0x148#10 f)
  | .mstat f => some (xWord 0x149#10 f)
  | .mdrain f => some (xWord 0x14A#10 f)
  | .mrdacc f => some (xWord 0x14B#10 f)
  | .mwracc f => some (xWord 0x14C#10 f)
  | .xcopy f => some (yWord 0x180#10 f)
  | .copyLineArrival _ _ => none
  | .copyComplete _ => none
  | .xkick f => some (yWord 0x181#10 f)
  | .xwait f => some (yWord 0x182#10 f)
  | .xtest f => some (yWord 0x183#10 f)
  | .send f => some (yWord 0x184#10 f)
  | .messageArrival _ _ => none
  | .recv f => some (yWord 0x185#10 f)
  | .rtest f => some (yWord 0x186#10 f)
  | .obsend f => some (yWord 0x187#10 f)
  | .burstTransmit _ => none
  | .burstAck _ _ => none
  | .ackTimeout _ => none
  | .obrecv f => some (yWord 0x188#10 f)
  | .burstArrival _ _ _ _ => none
  | .receiveComplete _ => none
  | .resetNotice _ _ _ => none
  | .obstat f => some (yWord 0x189#10 f)
  | .rel f => some (yWord 0x18A#10 f)
  | .wpset f => some (sWord 0x1C0#10 f)
  | .wpclr f => some (sWord 0x1C1#10 f)
  | .profrd f => some (sWord 0x1C2#10 f)
  | .tlbi f => some (sWord 0x1C3#10 f)
  | .ctxsv f => some (sWord 0x1C4#10 f)
  | .ctxld f => some (sWord 0x1C5#10 f)
  | .crrd f => some (sWord 0x380#10 f)
  | .crwr f => some (sWord 0x381#10 f)
  | .flumeRds _ _ => none
  | .flumeRdx _ _ => none
  | .flumeUpg _ _ => none
  | .flumeWb _ _ => none
  | .flumeWst _ => none
  | .coherenceTimeout _ _ _ => none
  | .warpForm _ => none
  | .balancerPass _ => none
  | .trapRecordClose _ => none
  | .launchSubmit _ _ _ => none
  | .launchClaim _ => none
  | .standPlace _ => none
  | .standStart _ => none
  | .gangPatienceExpire _ _ => none
  | .gangRelief _ => none
  | .gridEnd _ => none
  | .sliceEnd _ => none
  | .contextSave _ => none
  | .contextRestore _ => none
  | .wakeEvent _ => none
  | .ringSearch _ _ _ _ => none
  | .eyeTraining _ _ _ _ => none
  | .powerOn _ _ => none
  | .retest _ _ _ => none
  | .linkRetry _ _ => none
  | .linkDown _ _ _ _ => none
  | .marginAlarm _ _ _ => none
  | .lockLost _ _ => none
  | .uncorrectableError _ => none
  | .dramScrub _ _ _ _ => none
  | .vaultScrub _ _ _ _ => none
  | .scratchpadScrub _ _ _ _ => none
  | .errorFoldExpire _ => none
  | .guaranteeLapse _ _ _ => none
  | .guaranteeRestored _ => none
  | .watchdogRestart _ => none
  | .policyCheckFail _ => none
  | .hostLoad _ _ _ => none
  | .hostStore _ _ _ => none
  | .stallReasonCount _ => none
  | .unassignedOpcode w => some w
  | .gateRelease => none
  | .saveReplay => none
  | .saveKill => none
  | .partitionEnable => none
  | .partitionDisable => none
  | .vfEnable => none
  | .vfTeardown => none
  | .circuitDisable => none
  | .frameZero => none
  | .policyInstall => none
  | .policyRemove => none
  | .keyRegister => none
  | .migrationReplay => none
  | .handlerCreate => none
  | .handlerTeardown => none
  | .presRetry => none
  | .presSkip => none
  | .presKill => none
  | .pvalWrite => none
  | .hpvalWrite => none
  | .forwardEvent => none
  | .debugStopRequest => none
  | .debugResume => none
  | .claimSuspend => none
  | .claimResume => none
  | .featureConfirm => none
  | .mstateWrite => none
  | .registerWrite => none
  | .lmapWrite => none
  | .fmapWrite => none
  | .status => none
  | .log => none
  | .report => none
  | .fwload => none
  | .stream => none
  | .unknownRequest => none
  | .channelAck => none
  | .relocationComplete => none
  | .clauseNotWellFormed => none

/-- The bytes of an instruction as memory holds them, lowest address first (R2, R104); none for a machine event. -/
def encode : Instr → List Byte
  | .pairWord x y => leBytes 12 (cWord y ++ cWord x).toNat
  | i => match encodeWord i with
    | some w => leBytes 8 w.toNat
    | none => []

/-- The opcode of an instruction of the opcode map (R124). -/
def opcodeOf (i : Instr) : Option Nat := (encodeWord i).map opcodeField

end Sys2Proof
end

