-- ==== Sys2Proof/Machine/Table.lean ====
section
/-!
DEFINITION. Finite maps keyed by natural numbers, held as lists of pairs with strictly rising keys, so that equal maps are
equal data. Every sparse part of State, memory included, is one of these.
-/

namespace Sys2Proof.Machine

/-- A finite map: pairs with strictly rising keys (see `Table.wf`). -/
abbrev Table (α : Type) := List (Nat × α)

variable {α β : Type}

/-- The entry at a key. -/
def Table.get? : Table α → Nat → Option α
  | [], _ => none
  | (k, v) :: t, i => if i = k then some v else Table.get? t i

/-- The entry at a key, or a default. -/
def Table.getD (t : Table α) (i : Nat) (d : α) : α :=
  match Table.get? t i with
  | some v => v
  | none => d

/-- Put an entry at its place in rising order, replacing one with the same key. -/
def Table.insert : Table α → Nat → α → Table α
  | [], i, v => [(i, v)]
  | (k, w) :: t, i, v =>
    if i < k then (i, v) :: (k, w) :: t
    else if i = k then (i, v) :: t
    else (k, w) :: Table.insert t i v

/-- Remove what a key holds. -/
def Table.erase : Table α → Nat → Table α
  | [], _ => []
  | (k, w) :: t, i => if i = k then Table.erase t i else (k, w) :: Table.erase t i

/-- Write a value into a map whose unlisted keys read as `d`: writing `d` removes the entry. -/
def Table.put [DecidableEq α] (t : Table α) (d : α) (i : Nat) (v : α) : Table α :=
  if v = d then Table.erase t i else Table.insert t i v

/-- Change the entry at a key, if there is one. -/
def Table.modify (t : Table α) (i : Nat) (f : α → α) : Table α :=
  match Table.get? t i with
  | some v => Table.insert t i (f v)
  | none => t

/-- The keys, rising. -/
def Table.keys (t : Table α) : List Nat := t.map Prod.fst

/-- Keys strictly rise, all above a bound. -/
def Table.above (b : Nat) : Table α → Bool
  | [] => true
  | (k, _) :: t => decide (b < k) && Table.above k t

/-- The canonical form: strictly rising keys. -/
def Table.wf : Table α → Bool
  | [] => true
  | (k, _) :: t => Table.above k t

/-- The canonical form of a map whose unlisted keys read as `d`: no listed entry equals `d`. -/
def Table.wfD [DecidableEq α] (d : α) (t : Table α) : Bool := Table.wf t && t.all (fun p => decide (p.2 ≠ d))

/-- Change every entry. -/
def Table.mapVals (f : Nat → α → β) (t : Table α) : Table β := t.map (fun p => (p.1, f p.1 p.2))

/-- Keep the entries that satisfy a test. -/
def Table.filterT (f : Nat → α → Bool) (t : Table α) : Table α := t.filter (fun p => f p.1 p.2)

/-- Number a list from `i`. -/
def Table.ofList (i : Nat) : List α → Table α
  | [] => []
  | v :: vs => (i, v) :: Table.ofList (i + 1) vs

end Sys2Proof.Machine
end

