-- ==== Sys2Proof/Machine/State.lean ====
section
/-!
DEFINITION. The state of the Sunath as plain data: every piece of state the spec names, each with the rule that names it,
and State.reset. A field marked MODEL is the model's own. Sparse parts are tables with rising keys.

Keys. Core: the site number 80y + x, and 7680 for the management core. Quad: 4 * core + quadrant. Slot: 16 * quad + slot.
Grid: its number, from 1. Stand: 8192 * grid + stand number; the handler stand of function v has key v, and the management
core's thread stands under key 8191 (both with grid 0). Thread: 16384 * stand + 2048 * stage + %tid. Line: PA / 64.
-/

namespace Sys2Proof.Machine

/-- No step of the model stops with a fault: every fault the spec describes parks lanes and is a next state (R391). -/
inductive Fault where
deriving DecidableEq, Repr

/-- Why an instruction has no meaning. -/
inductive Refusal where
  /-- Raised only by an arm of Dispatch whose instruction is not modelled yet; safe, since nothing follows it. -/
  | notModelled (mnemonic : String)
deriving DecidableEq, Repr

/-! ### Places in memory -/

/-- A byte's place: a physical address, or an offset in a stand's scratchpad (R54, R57). -/
inductive Loc where
  | pa (a : Nat)
  | sp (stand off : Nat)
deriving DecidableEq, Repr

/-! ### Threads (R26, R27) -/

/-- The state of a thread that exists; a Pending thread is an entry of Stand.pending (R27). -/
inductive Status where
  | active | waiting | parked | yarded | exited
deriving DecidableEq, Repr

/-- A deferred-fault record (R408). -/
structure RingRec where
  addr : Double
  pc : Double
  code : Byte
  lane : BitVec 5
  v : Bool
  lost : Bool
  src : Bool
  info : BitVec 16
  tok : Word
  det : Word
deriving DecidableEq, Repr

/-- An empty ring record. -/
def RingRec.empty : RingRec := ⟨0, 0, 0, 0, false, false, false, 0, 0, 0⟩

/-- A scoreboard token: count and status word (R115, R269); `label` is the one held for R416. -/
structure Token where
  count : Nat
  code : Byte
  ring : BitVec 2
  info : BitVec 16
  label : Label
deriving DecidableEq, Repr

/-- A token at thread start (R303). -/
def Token.zero : Token := ⟨0, 0, 0, 0, 0⟩

/-- A pending join point (R39). -/
structure JoinPoint where
  expect : List Nat
  label : Label
deriving DecidableEq, Repr

/-- A program counter: clause header address and index (R107). -/
structure PC where
  hdr : Nat
  idx : Nat
deriving DecidableEq, Repr

/-- What a Waiting thread waits for; `dest` is where it continues when the wait itself is the instruction's whole effect, and
a wait without it reissues the instruction (R27, R39, R154, R233, R236, R238, R271). -/
inductive Wait where
  | none
  | join (k : Nat) (dest : PC)
  | barrier (b : Nat) (parity : Bool) (dest : PC)
  | arrive (b : Nat)
  | tbar (off : Nat) (parity : Bool) (dest : PC)
  | tbarArrive (off : Nat)
  | token (k : Nat)
  | child (handle : Word)
  | word (line : Nat) (device : Bool)
  | spWord (stand off : Nat)
  | exit
deriving DecidableEq, Repr

/-- A store in a thread's queue (R84): its place, bytes, and the label it raises its granules by (R213). `window` marks a
window-page store, `sent` one already on the flume (R98), and `tag` a TAGSET of a window page, which sends a tag and no byte
(R66, R87). -/
structure StoreEnt where
  loc : Loc
  bytes : List Byte
  tag : Option Nat
  label : Label
  window : Option (Nat × Nat)
  sent : Bool
  slot : Nat
deriving DecidableEq, Repr

/-- A watchpoint (R368). -/
structure Watchpoint where
  base : Double
  len : Nat
  mask : BitVec 4
  sp : Bool
  stop : Bool
deriving DecidableEq, Repr

/-- A lane of a queue instruction: not begun, waiting with its rank among the executing lanes, or completed while its group
has not, with the label of what it read (R231, R232). -/
inductive QLane where
  | idle
  | rank (k : Nat)
  | done (label : Label)
deriving DecidableEq, Repr

/-- A thread (R26). `prog` is %prog (R42); `qlane` is where its lane stands in a queue instruction in progress (R232); `dcE`, `dcJ`, `dcN` name the open quantum and count its stores (R99). -/
structure Thread where
  stand : Nat
  stage : Nat
  tid : Nat
  status : Status
  pc : PC
  regs : Table Word
  poison : List Nat
  preds : BitVec 8
  predTok : Table Word
  sbs : Table Token
  joins : Table JoinPoint
  carried : Label
  ring : Table RingRec
  next : BitVec 2
  prog : Nat
  qlane : QLane
  storeQ : List StoreEnt
  dcE : Nat
  dcJ : Nat
  dcN : Nat
  wait : Wait
  psel : Word
  plane : Word
  preg : Word
  wps : Table Watchpoint
deriving DecidableEq, Repr

/-! ### Warp slots (R29, R30, R392) -/

/-- One lane of a parked sub-warp: its thread, the faulting address as the pointer was formed, the cause detail, the IPA of
a stage-two fault, the attached record of a raise, and the labels of R416. -/
structure ParkedLane where
  lane : Nat
  thread : Nat
  addr : Double
  det : Double
  ipa : Nat
  attached : Option RingRec
  label : Label
deriving DecidableEq, Repr

/-- A parked sub-warp (R392); `dest` is the PC after the parked instruction (R163), `mark` a resume decided while the stand is
saved (R184), `hyp` whether its record goes to the hypervisor queue (R403), and `arrival` the step at which its fault reached
the coalescer (R400). -/
structure Parked where
  num : Nat
  gen : Byte
  code : Byte
  dfr : Bool
  info : BitVec 16
  page : Nat
  hyp : Bool
  lanes : List ParkedLane
  dest : PC
  mark : Option Bool
  seq : Option Nat
  arrival : Nat
deriving DecidableEq, Repr

/-- A warp slot with its register labels (R36; those not listed are `fill`, the warp's starting label, R303), its lanes, the passed-over count of each PC group (R32), the group held by
YIELD with the step that ran it (R158), its parked sub-warps with the generation of each number (R392), its stall
counters (R364), and when it last issued (R305). -/
structure Slot where
  stand : Nat
  stage : Nat
  lanes : Table Nat
  fill : Label
  regLabels : Table Label
  predLabels : Table Label
  passed : List (PC × Nat)
  yielded : Option (PC × Nat)
  parked : List Parked
  gens : Table Nat
  stall : Table Nat
  issued : Nat
  lastIssue : Nat
deriving DecidableEq, Repr

/-- An empty slot. -/
def Slot.empty : Slot := ⟨0, 0, [], 0, [], [], [], .none, [], [], [], 0, 0⟩

/-- The PC group being issued (R30): core, quadrant, slot, its lanes in ascending order, its PC, the clause's CNT and the
address of the next clause (R104, R107). MODEL. -/
structure Cur where
  core : Nat
  quad : Nat
  slot : Nat
  lanes : List Nat
  hdr : Nat
  idx : Nat
  cnt : Nat
  next : Nat
  at_ : Nat
deriving DecidableEq, Repr

/-! ### The matrix engine (R242) -/

/-- A poison bit's token and record copy (R406). -/
structure MPoison where
  tok : Word
  copy : RingRec
  owner : Nat
deriving DecidableEq, Repr

/-- A CIM macro: 32 KiB of B, its scales (default 0x7F) and masks, column poison, and label (R242). -/
structure Macro where
  cells : Table Byte
  scales : Table Byte
  masks : Table (BitVec 24)
  poison : Table MPoison
  label : Label
deriving DecidableEq, Repr

/-- A macro with zero contents, scales 0x7F. -/
def Macro.empty : Macro := ⟨[], [], [], [], 0⟩

/-- An accumulator: elements at 64 * row + column, row and column poison, label (R242). -/
structure Acc where
  elems : Table Word
  rows : Table MPoison
  cols : Table MPoison
  label : Label
deriving DecidableEq, Repr

/-- A cleared accumulator. -/
def Acc.empty : Acc := ⟨[], [], [], 0⟩

/-- A 64-byte parameter block with its label (R245, R247). -/
structure Block where
  bits : BitVec 512
  label : Label
deriving DecidableEq, Repr

/-- The kinds of operation that enter the engine queue (R243). -/
inductive MKind where
  | mma | mmasp | mconv | mmar | wload
deriving DecidableEq, Repr

/-- A run of bytes that an engine reads or writes, inside one page: its place, its length, and the subscriber set and writer
cluster of a window page (R253, R268). -/
structure Span where
  loc : Loc
  len : Nat
  win : Option (Nat × Nat)
deriving DecidableEq, Repr

/-- A row of A in the row buffer: its elements' bits in K order, its label, its poison, and whether it is processed. -/
structure ARow where
  row : Nat
  elems : List Nat
  scales : List Nat
  label : Label
  poison : Option MPoison
deriving DecidableEq, Repr

/-- A matrix operation accepted and not complete (R243, R248, R259): the group and lanes that issued it, L of R147, its token,
the configuration and epilogue block held at acceptance, its operands, the rows accepted so far, the row count at which this
entry of the queue ends with whether that ends the operation (R266), whether the accumulator is still to be cleared, and the
rows accepted and not yet written. `p0` is P0 of MCONV, and the guard's number in MMAR. `svec`, `bvec` and `velabel` are the epilogue vectors read at acceptance with their
label; `sources` and `dest` the checked spans of a WLOAD and of a memory epilogue, and `lines` the scratchpad lines that the
epilogue made absent. -/
structure MOp where
  kind : MKind
  stand : Nat
  cur : Cur
  lanes : List (Nat × Nat)
  label : Label
  tok : Option Nat
  cfg : Block
  eblock : Option Block
  dreg : Nat
  acc : Nat
  macs : List Nat
  clear : Bool
  accepted : Nat
  last : Nat
  final : Bool
  rows : List ARow
  ptr : Nat
  own : Bool
  shape : BitVec 512
  p0 : Nat
  k0 : Nat
  areg : Nat
  wkind : Nat
  sources : List (List Span)
  svec : List Word
  bvec : List Word
  velabel : Label
  dest : List (List Span)
  lines : List Nat
deriving DecidableEq, Repr

/-- The matrix state of a quadrant (R242). -/
structure Matrix where
  owner : Option Nat
  cfg : Option Block
  blocks : Table Block
  macros : Table Macro
  accs : Table Acc
  queue : List MOp
deriving DecidableEq, Repr

/-- Matrix state with nothing loaded. -/
def Matrix.empty : Matrix := ⟨none, none, [], [], [], []⟩

/-- Virtual time of a (stand, stage) pair in units of 1/840, and when the pair was last chosen (R305). -/
structure VTime where
  v : Nat
  last : Nat
  ready : Bool
deriving DecidableEq, Repr

/-- A trap record being gathered (R394, R395): `clk` is %clk at its first fault and `arrival` the step of it, `opened` when it
found a place, `parks` its sub-warps (slot key, number, GEN), and `kill` the arrival of the earliest fault whose KILL waits for
the record's index (R400). -/
structure TrapRec where
  code : Byte
  dfr : Bool
  info : BitVec 16
  page : Nat
  grid : Nat
  stand : Nat
  stage : Nat
  hyp : Bool
  hdl : Bool
  vf : Nat
  org : Nat
  clk : Double
  opened : Double
  nl : Nat
  slots : BitVec 64
  parks : List (Nat × Nat × Nat)
  kill : Option Nat
  arrival : Nat
deriving DecidableEq, Repr

/-- What a debug stop recorded (R374); `recs` are the records of lanes that a STOP watchpoint parked, written at the resume
(R369). -/
structure StopRec where
  cause : Nat
  code : Nat
  clk : Double
  pc : Double
  lane : Nat
  groups : List (Nat × List (Nat × PC × Nat))
  recs : List TrapRec
deriving DecidableEq, Repr

/-- A quadrant: its matrix state, its issue shares and its debug stop. -/
structure Quad where
  matrix : Matrix
  vtimes : Table VTime
  stopped : Option StopRec
deriving DecidableEq, Repr

/-- An idle quadrant. -/
def Quad.empty : Quad := ⟨Matrix.empty, [], none⟩

/-! ### Cores (R64, R395) -/

/-- A TLB entry for a 64 KiB page of a function: both leaves, where they lie, the IPA page and the frame (R64). -/
structure TlbEntry where
  vf : Nat
  vpn : Nat
  s1 : Double
  s1at : Nat
  s2 : Double
  s2at : Nat
  ipn : Nat
  ppn : Nat
deriving DecidableEq, Repr

/-- A core: its TLB, its at most four open records, the faults that wait for a place, the trace sequence numbers it keeps for
each function, and the 256-cycle period of its balancer's last pass (R64, R304, R395, R443). -/
structure Core where
  tlb : List TlbEntry
  open4 : List TrapRec
  waiting : List TrapRec
  seqs : Table Nat
  balanced : Nat
deriving DecidableEq, Repr

/-- A core with nothing cached or open. -/
def Core.empty : Core := ⟨[], [], [], [], 0⟩

/-! ### Stands, grids and the hierarchy (R41, R67, R292, R293) -/

/-- A stage of a launch (R293). -/
structure Stage where
  ent : Nat
  threads : Nat
  quota : Nat
  com : Bool
  cqd : Nat
  weight : Nat
  qloc : Nat
  qesz : Nat
  qcap : Nat
  qptr : Double
deriving DecidableEq, Repr

/-- The link of a stand barrier: its scope, the record's place, and whether this stand has arrived in the record's phase
together with the record's parity it saw then (R237). -/
structure BarLink where
  scope : Nat
  rcd : Nat
  arrived : Bool
  ph : Bool
deriving DecidableEq, Repr

/-- A crew or stand barrier (R234). -/
structure Barrier where
  smask : Byte
  exp : Nat
  arr : Nat
  ph : Bool
  link : Option BarLink
  arrivedBits : List Nat
deriving DecidableEq, Repr

/-- A record of the spawn yard (R35): the thread's live registers' labels; its other parts stay in the thread. `atQueue`
marks a park-point thread that waits for its queue (R46), and `since` is when it came (R37). -/
structure YardRec where
  thread : Nat
  live : Nat
  labels : Table Label
  target : PC
  atQueue : Bool
  since : Nat
deriving DecidableEq, Repr

/-- A buffered DC store (R99). -/
structure DcEnt where
  thread : Nat
  e : Nat
  j : Nat
  loc : Loc
  bytes : List Byte
  label : Label
deriving DecidableEq, Repr

/-- A message on a static circuit (R281). -/
structure Msg where
  width : Nat
  words : List Word
  mask : Word
  label : Label
deriving DecidableEq, Repr

/-- An inbound circuit: messages crossing it and messages waiting at its end, oldest first (R281). -/
structure Circuit where
  flight : List Msg
  waiting : List Msg
deriving DecidableEq, Repr

/-- A frozen save or restore (R433): the page it has come to, its faulting IPA, and whether SVCMD has told it to go on
(R434). -/
structure Freeze where
  restore : Bool
  ipa : Nat
  page : Nat
  replay : Bool
deriving DecidableEq, Repr

/-- What a save took from the core: slots, matrix state and issue shares of the stand (R309). -/
structure SavedState where
  slots : Table Slot
  matrix : Table Matrix
  vtimes : Table (Table VTime)
deriving DecidableEq, Repr

/-- A stand (R41, R67). `chosen` marks a stand whose room the distributor has reserved and which has not started or returned
(R302); `owed` names the quadrants on which a slot and registers stay reserved until its first warp forms there. -/
structure Stand where
  grid : Nat
  num : Nat
  core : Nat
  vf : Nat
  stages : List Stage
  started : Bool
  exited : Bool
  triggered : Bool
  areaA : Nat
  queueKiB : Nat
  dcKiB : Nat
  yardKiB : Nat
  fill : Label
  sp : Table Byte
  sptags : Table Nat
  splabels : Table Label
  absent : List Nat
  bad : List Nat
  raceCheck : Bool
  shadow : Table Word
  gen : Nat
  barriers : Table Barrier
  rmode : Table Word
  pending : List (Nat × Nat)
  yard : List YardRec
  dcBuf : List DcEnt
  wps : Table Watchpoint
  totals : Table Nat
  iss : Nat
  sat : Bool
  t0 : Double
  susp : Bool
  weights : Table Nat
  classes : Table Nat
  circuits : Table Circuit
  frozen : Option Freeze
  saved : Option SavedState
  savePending : Bool
  chosen : Bool
  owed : List Nat
  ops : List MOp
  order : Nat
deriving DecidableEq, Repr

/-- What a stand that exited left in its program area and in its threads' registers and tokens (R356, R363); another stand
that starts on its site takes the place. -/
structure Remains where
  core : Nat
  fill : Label
  sp : Table Byte
  sptags : Table Nat
  splabels : Table Label
  absent : List Nat
  bad : List Nat
  threads : Table Thread
deriving DecidableEq, Repr

/-- A window store transmitted on a writer cluster's channel, before its lap (R98, R283): its bytes, or the tag of a TAGSET
(R87). -/
structure WinMsg where
  cluster : Nat
  vf : Nat
  sset : Nat
  thread : Nat
  pa : Nat
  bytes : List Byte
  tag : Option Nat
  label : Label
deriving DecidableEq, Repr

/-- The states of a launch (R297). -/
inductive GridState where
  | submitted | waiting | claiming | placing | placed | ended
deriving DecidableEq, Repr

/-- The failure that gives a grid its status: code, the record index when one is due, and the step at which its fault reached
a coalescer, for of two KILLs the earlier fault counts (R49, R307, R400). -/
structure Failure where
  code : Byte
  rcd : Option Nat
  due : Bool
  arrival : Nat
deriving DecidableEq, Repr

/-- A launch and its grid (R292, R297, R302, R307). `lack` holds, by stand number, since when a pending member of a gang whose
patience has run out has had no room (R440). -/
structure Grid where
  vf : Nat
  state : GridState
  parent : Nat
  hart : Option Nat
  rcd : BitVec 512
  stages : List Stage
  routes : Table (BitVec 512)
  deps : List Nat
  x0 : Nat
  y0 : Nat
  carried : Label
  fail : Option Failure
  rsn : Nat
  noCompletion : Bool
  exitLabel : Label
  firstStart : Table Nat
  expired : List Nat
  lack : Table Nat
  wps : Table Watchpoint
  dcFirst : Table Nat
  vqDone : List Nat
  unjoined : Bool
deriving DecidableEq, Repr

/-- A migration record (R334, R442): the IPA page, the first faulting site, the lanes parked, and, once written, its ID and its
index in the ring. -/
structure MigRec where
  page : Nat
  site : Nat
  nl : Nat
  written : Option (Nat × Nat)
deriving DecidableEq, Repr

/-- A virtual function's running state beside its registers (R320, R334, R397, R442): its handler stand, its pending migration
records in the order of their pages' first faults, the next ID, and whether its turn has issued and at which cycle it ends. -/
structure Function where
  handler : Bool
  migIds : List MigRec
  nextMig : Nat
  inTurn : Bool
  turnEnd : Nat
deriving DecidableEq, Repr

/-- A function that has never run. -/
def Function.empty : Function := ⟨false, [], 0, false, 0⟩

/-! ### Engines, gate and ports -/

/-- One contiguous piece of a copy (R273, R275, R276): its source spans; the pattern written where there is no source; the
port, circuit and remote address of a far operand, which is the destination when `dst` is empty; its destination spans; the
source spans whose overlap leaves a destination byte unspecified; the transaction barrier it credits; its bytes; the label of
its own source (R277). -/
structure Move where
  src : List Span
  fill : List Byte
  far : Option (Nat × Nat × Nat)
  dst : List Span
  under : List Span
  tba : Option Nat
  len : Nat
  label : Label
deriving DecidableEq, Repr

/-- The kinds of engine command of the request engine and the ports. -/
inductive CmdKind where
  | copy | recv
deriving DecidableEq, Repr

/-- An engine command in flight (R268, R272, R277, R287). `lines` are scratchpad lines it cleared; `code` and `info` the first
non-normal status; the last fields serve a receive post. -/
structure Command where
  kind : CmdKind
  vf : Nat
  stand : Nat
  threads : List Nat
  tok : Nat
  moves : List Move
  label : Label
  lines : List Nat
  code : Byte
  info : BitVec 16
  tag : Nat
  len : Nat
  scratch : Bool
  recOff : Nat
  peer : BitVec 16
  got : Option Nat
  inLabel : Label
deriving DecidableEq, Repr

/-- A burst queued, sent or awaiting acknowledgement (R285, R286); `info` is the INFO its normal completion carries (R331). -/
structure Burst where
  vf : Nat
  port : Nat
  dst : Nat
  path : Word
  peer : BitVec 16
  tag : BitVec 6
  data : List Byte
  threads : List Nat
  tok : Nat
  label : Label
  sent : Bool
  circuit : Nat
  info : BitVec 16
deriving DecidableEq, Repr

/-- A release at the gate (R289, R330). -/
structure Release where
  vf : Nat
  threads : List Nat
  tok : Nat
  data : List Byte
  label : Label
  handle : BitVec 16
  dstWord : Word
  entry : BitVec 128
  dest : BitVec 128
  spans : List Span
deriving DecidableEq, Repr

/-- An installed policy (R326, R328). -/
structure Policy where
  gen : Nat
  body : List Byte
  bytesLeft : Nat
  relsLeft : Nat
deriving DecidableEq, Repr

/-- A measurement entry (R382). -/
structure Measure where
  kind : Byte
  dig : BitVec 384
deriving DecidableEq, Repr

/-- A folding window of corrected errors (R446). -/
structure Fold where
  kind : Nat
  vf : Nat
  pa : Nat
  loc : Nat
  cnt : Nat
  info : Word
deriving DecidableEq, Repr

/-- Coherence states other than I (R86, R87). -/
inductive Moesi where
  | m | o | e | s
deriving DecidableEq, Repr

/-- What a vault line carries beside it: a key slot and epoch, the zero mark, or a pair that matches no slot (R74). -/
inductive VaultMark where
  | key (slot epoch : Nat)
  | zero
  | dead
deriving DecidableEq, Repr

/-- What memory holds under a dirty line (R75, R451): its bytes and, for a vault line, its mark. -/
structure Backing where
  bytes : List Byte
  mark : VaultMark
deriving DecidableEq, Repr

/-! ### What the outside does (MODEL) -/

/-- Who writes a device register (R312, R396). -/
inductive Agent where
  | host (hart : Nat)
  | thread (key : Nat)
  | engine (stand : Nat)
  | mgmt
deriving DecidableEq, Repr

/-- A write to a device register (R12, R312): where, what, by whom, with which label. -/
structure RegWrite where
  pa : Nat
  value : Double
  agent : Agent
  label : Label
deriving DecidableEq, Repr

/-- An access that a register map ignored, as the management core logs it (R13, R312, R318). -/
structure Ignored where
  pa : Nat
  write : Bool
  agent : Agent
deriving DecidableEq, Repr

/-- What the event in progress carries from outside: a register write, or a datagram (R381). -/
structure Stimulus where
  write : RegWrite
  datagram : List Byte
deriving DecidableEq, Repr

/-- No stimulus. -/
def Stimulus.none : Stimulus := ⟨⟨0, 0, .mgmt, 0⟩, []⟩

/-- An event still to happen. -/
structure Input where
  event : Instr
  stim : Stimulus
deriving DecidableEq, Repr

/-- What the outside received: a datagram reply, the answer to a host load (none: access fault), a burst or notice at a
port, a far write, an interrupt store, or the event of a new core map. -/
inductive Output where
  | reply (data : List Byte)
  | hostData (hart : Nat) (data : Option (List Byte))
  | burst (port : Nat) (path : Word) (peer : BitVec 16) (tag : BitVec 6) (len : Nat) (data : List Byte)
  | refused (port : Nat) (peer : BitVec 16)
  | farWrite (port circuit addr : Nat) (data : List Byte)
  | interrupt (pa : Nat) (value : Word)
  | mapEvent (generation : Nat)
deriving DecidableEq, Repr

/-- A group that is not ready, and the stall reason that holds it (R30, R364). MODEL. -/
structure Hold where
  slot : Nat
  pc : PC
  reason : Nat
deriving DecidableEq, Repr

/-- The management core beside its thread (R141, R170, R379, R383); `held` are the writes that wait for its restart (R459). -/
structure Mgmt where
  rmode : Word
  mstate : Double
  mwake : Double
  mtimer : Double
  halted : Bool
  held : List Input
deriving DecidableEq, Repr

/-- The whole machine. MODEL: `tick` numbers the steps, `inputs` are the events still to happen with `stim` of the one in
progress, `outputs` what the outside received, `turn` the quadrant whose groups come next (twice its key, odd when an automatic
step comes first), `auto` the kind of the automatic step that came last, at 0, and the key of the last one of each kind,
`second` the second group of an issue cycle (R31): its slot, PC and lanes, `holds` the groups that are not ready, `nextId` the
next number of a grid, command or record. `l1` are the lines that L1 caches hold (line * 8192 + core, R18, R75), `reservations`
the line that each host core's LR reserved (R79), `ignored` what the management core logged (R13), `remains` what exited stands
left (R356), `retests` the retests that wait for their site's stand to exit (R388). -/
structure State where
  tick : Nat
  cycles : Nat
  inputs : List Input
  stim : Stimulus
  outputs : List Output
  turn : Nat
  auto : Table Nat
  second : Option (Nat × PC × List Nat)
  cur : Cur
  holds : List Hold
  nextId : Nat
  mem : Table Byte
  vtags : Table Nat
  vlabels : Table Label
  vmeta : Table VaultMark
  badSectors : List Nat
  lines : Table Moesi
  l1 : List Nat
  reservations : Table Nat
  backing : Table Backing
  windowMsgs : List WinMsg
  keySlots : Table (BitVec 256)
  keyEpoch : Table Nat
  keyDead : List Nat
  mmio : Table Double
  ignored : List Ignored
  lhnd : Table Double
  ringRegs : Table Double
  sites : Table Nat
  mapGen : Nat
  retired : List Nat
  retests : List (Nat × Bool × Bool)
  agentsOut : List Nat
  threads : Table Thread
  slots : Table Slot
  quads : Table Quad
  cores : Table Core
  stands : Table Stand
  remains : Table Remains
  grids : Table Grid
  functions : Table Function
  commands : Table Command
  bursts : Table Burst
  portQueues : Table (List Nat)
  dstLost : Table Nat
  dstDisc : Table Nat
  policies : Table Policy
  policyGens : Table Nat
  originKeys : Table (List Byte)
  gate : List Release
  streams : Table (List Byte)
  measures : List Measure
  flash : List Byte
  folds : Table Fold
  fatals : List (List Byte)
  rowErrors : Table Nat
  rowSpares : Table Nat
  channelErrors : Table Nat
  failing : List Nat
  timeouts : Table Nat
  linkRetries : Table Nat
  hostHeld : Bool
  mgmt : Mgmt
deriving DecidableEq, Repr

/-- The group of no thread. -/
def Cur.none : Cur := ⟨0, 0, 0, [], 0, 0, 0, 0, 0⟩

/-- The management core's number (R24). -/
def mgmtCore : Nat := 7680

/-- The key under which the management core's thread stands. -/
def mgmtStand : Nat := 8191

/-- The key of the management core's one thread. -/
def mgmtThread : Nat := 16384 * 8191

/-- The slot of the management core's thread. -/
def mgmtSlot : Nat := 16 * (4 * 7680)

/-- A thread at its start: registers zero, predicates false, tokens zero, join points idle, poison clear (R303). -/
def Thread.start (stand stage tid : Nat) (pc : PC) (regs : Table Word) (carried : Label) : Thread where
  stand := stand
  stage := stage
  tid := tid
  status := .active
  pc := pc
  regs := regs
  poison := []
  preds := 0x80#8
  predTok := []
  sbs := []
  joins := []
  carried := carried
  ring := []
  next := 0
  prog := 0
  qlane := .idle
  storeQ := []
  dcE := 0
  dcJ := 0
  dcN := 0
  wait := .none
  psel := 0
  plane := 0
  preg := 0
  wps := []

/-- The machine right after power-on (R379): every field at the value the spec gives, and at the value the assumption log
names where it gives none (notes/assumptions 1, 2, 11). The management core's thread starts at address 0. -/
def State.reset : State where
  tick := 0
  cycles := 0
  inputs := []
  stim := .none
  outputs := []
  turn := 2 * (4 * 7680)
  auto := []
  second := none
  cur := .none
  holds := []
  nextId := 1
  mem := []
  vtags := []
  vlabels := []
  vmeta := []
  badSectors := []
  lines := []
  l1 := []
  reservations := []
  backing := []
  windowMsgs := []
  keySlots := []
  keyEpoch := []
  keyDead := []
  mmio := []
  ignored := []
  lhnd := []
  ringRegs := []
  sites := []
  mapGen := 0
  retired := []
  retests := []
  agentsOut := []
  threads := [(16384 * 8191, Thread.start 8191 0 0 ⟨0, 0⟩ [] 0)]
  slots := [(16 * (4 * 7680), { Slot.empty with stand := 8191, lanes := [(0, 16384 * 8191)] })]
  quads := []
  cores := []
  stands := []
  remains := []
  grids := []
  functions := []
  commands := []
  bursts := []
  portQueues := []
  dstLost := []
  dstDisc := []
  policies := []
  policyGens := []
  originKeys := []
  gate := []
  streams := []
  measures := []
  flash := []
  folds := []
  fatals := []
  rowErrors := []
  rowSpares := []
  channelErrors := []
  failing := []
  timeouts := []
  linkRetries := []
  hostHeld := true
  mgmt := ⟨1, 0, 0, 0, false, []⟩

end Sys2Proof.Machine
end

