-- ==== Sys2Proof/Machine/Regs.lean ====
section
/-!
DEFINITION. The device registers by physical address with their Reset columns (R12, R13, R312 and the chapters that own
each map), and the fields the model reads from them.
-/

namespace Sys2Proof.Machine

/-! ### Addresses (R312, R317, R396, R403, R434, R437, R445) -/

/-- SOWN of a site. -/
def sownAt (site : Nat) : Nat := 0x080100000000 + 8 * site
/-- SBANK of a site. -/
def sbankAt (site : Nat) : Nat := 0x080100010000 + 8 * site
/-- VOWN register `i` of a cluster; FSLOT at i + 8. -/
def vownAt (c i : Nat) : Nat := 0x080200000000 + 0x80 * c + 8 * i
/-- CHW register `i`. -/
def chwAt (i : Nat) : Nat := 0x080300000000 + 8 * i
/-- PORTOWN of a port. -/
def portAt (n : Nat) : Nat := 0x080400000000 + 0x200 * n
/-- The low double of circuit `i` of a port; ILBL lies 8 above. -/
def circuitAt (n i : Nat) : Nat := portAt n + 0x100 + 16 * i
/-- PCTL of a partition. -/
def pctlAt (p : Nat) : Nat := 0x080500000000 + 0x40 * p
/-- The context block of a function at an offset (R317). -/
def ctxAt (v off : Nat) : Nat := 0x080600000000 + 0x100 * v + off
/-- HORG of a host core (R321). -/
def horgAt (h : Nat) : Nat := 0x080700000000 + 8 * h
/-- The gate registers (R325). -/
def gateAt (off : Nat) : Nat := 0x080800000000 + off
/-- The debug block of a site at an offset (R373, R375). -/
def dbgAt (core off : Nat) : Nat := 0x080900000000 + 0x1000 * core + off
/-- The feature block (R385). -/
def featAt (off : Nat) : Nat := 0x080A00000000 + off
/-- The error block (R445). -/
def errAt (off : Nat) : Nat := 0x080A00002000 + off
/-- Supervisor register `n` of a function at its page (R396). -/
def supAt (v n : Nat) : Nat := 0x080B00000000 + v * 0x10000 + 8 * (n - 0x100)
/-- The launch port page of a function (R295). -/
def launchAt (v : Nat) : Nat := 0x080000000000 + v * 0x10000

/-- The Reset column of every register map; ownership tables hold none (0xFF) in every byte (notes/assumptions 1). Inside a
map's range where no register stands, which the spec leaves open, a read finds the range's reset value: DESIGN CHOICE
(notes/assumptions 46). -/
def mmioReset (pa : Nat) : Double :=
  if 0x080100000000 ≤ pa && pa < 0x08010000F000 then 0x00000000FFFFFFFF#64
  else if 0x080200000000 ≤ pa && pa < 0x080400000000 then 0xFFFFFFFFFFFFFFFF#64
  else if 0x080400000000 ≤ pa && pa < 0x080500000000 && pa % 0x200 = 0 then 0xFF#64
  else if 0x080500000000 ≤ pa && pa < 0x080600000000 then 0x640000#64
  else if 0x080700000000 ≤ pa && pa < 0x080800000000 then 0x40#64
  else if pa = 0x080A00000000 then Config.offeredFeatures.setWidth 64
  else 0#64

/-- The value of a device register. -/
def State.reg (s : State) (pa : Nat) : Double := s.mmio.getD pa (mmioReset pa)

/-- Store a device register. -/
def State.setReg (s : State) (pa : Nat) (v : Double) : State := { s with mmio := s.mmio.put (mmioReset pa) pa v }

/-- Bits [lo + n − 1 : lo] of a register as a number. -/
def State.field (s : State) (pa lo n : Nat) : Nat := bits (s.reg pa).toNat lo n

/-- Replace bits [lo + n − 1 : lo] of a double. -/
def putField (v : Double) (lo n x : Nat) : Double :=
  BitVec.ofNat 64 (v.toNat - bits v.toNat lo n * 2 ^ lo + (x % 2 ^ n) * 2 ^ lo)

/-- Replace a field of a register. -/
def State.setField (s : State) (pa lo n x : Nat) : State := s.setReg pa (putField (s.reg pa) lo n x)

/-! ### Functions and partitions (R313, R316 to R318) -/

/-- VCTL.EN. -/
def State.vfEnabled (s : State) (v : Nat) : Bool := s.field (ctxAt v 0) 0 1 = 1
/-- VCTL.MODE. -/
def State.vfMode (s : State) (v : Nat) : Nat := s.field (ctxAt v 0) 1 1
/-- VCTL.FCHK (R324). -/
def State.vfFchk (s : State) (v : Nat) : Bool := s.field (ctxAt v 0) 2 1 = 1
/-- VCTL.ORG (R321). -/
def State.vfOrigin (s : State) (v : Nat) : Nat := s.field (ctxAt v 0) 8 6
/-- VCTL.PART. -/
def State.vfPart (s : State) (v : Nat) : Nat := s.field (ctxAt v 0) 16 6
/-- VCTL.KEYID. -/
def State.vfKey (s : State) (v : Nat) : Nat := s.field (ctxAt v 0) 22 10
/-- The label of a function's own origin. -/
def State.vfLabel (s : State) (v : Nat) : Label := Label.origin (s.vfOrigin v)
/-- An address register of a function's context: bits [51:0] (R317). -/
def State.ctxAddr (s : State) (v off : Nat) : Nat := s.field (ctxAt v off) 0 52
/-- PCTL.EN. -/
def State.partEnabled (s : State) (p : Nat) : Bool := s.field (pctlAt p) 0 1 = 1
/-- The owner of a quadrant (R313). -/
def State.quadOwner (s : State) (site q : Nat) : Nat := s.field (sownAt site) (8 * q) 8
/-- The partition that owns all four quadrants of a site, if one does (R299). -/
def State.siteOwner (s : State) (site : Nat) : Option Nat :=
  let p := s.quadOwner site 0
  if p < 48 && s.quadOwner site 1 = p && s.quadOwner site 2 = p && s.quadOwner site 3 = p then some p else none
/-- The owner of a scratchpad bank (R313). -/
def State.bankOwner (s : State) (site b : Nat) : Nat := s.quadOwner site (s.field (sbankAt site) (2 * b) 2)
/-- The banks a partition owns on a core, ascending (R67). -/
def State.banks (s : State) (site p : Nat) : List Nat := (List.range 32).filter (fun b => s.bankOwner site b = p)
/-- The owner of vault MiB `i` of a cluster (R314). -/
def State.vaultOwner (s : State) (c i : Nat) : Nat := s.field (vownAt c (i / 8)) (8 * (i % 8)) 8
/-- Feature bit `i` is accepted and confirmed; before confirmation nothing is withheld (R385; notes/assumptions 28). -/
def State.withheld (s : State) (i : Nat) : Bool := s.field (featAt 0x40) 1 1 = 1 && s.field (featAt 0x20) i 1 = 0

/-! ### Sites and clusters (R14 to R16) -/

/-- x of a site number. -/
def siteX (c : Nat) : Nat := c % 80
/-- y of a site number. -/
def siteY (c : Nat) : Nat := c / 80
/-- The cluster of a site (R15); 384 for the management core, which has none. -/
def clusterOf (c : Nat) : Nat := if c < 7680 then 16 * (siteY c / 4) + siteX c / 5 else 384
/-- The field of a site (R14). -/
def fieldOf (c : Nat) : Nat := 8 * (siteY c / 16) + siteX c / 10
/-- A site's state: 0 working, 1 router-only, 2 hole (R16, R387). -/
def State.siteState (s : State) (c : Nat) : Nat := s.sites.getD c 0

/-- The element of least rank, the first on a tie. -/
def leastBy {α : Type} (key : α → Nat) : List α → Option α
  | [] => none
  | x :: xs => match leastBy key xs with
    | none => some x
    | some y => if key y < key x then some y else some x

/-- The rim sites that a DRAM stack serves: the first, the step to the next, and their number (R21). -/
def stackSpan (stack : Nat) : Nat × Nat × Nat :=
  if stack < 8 then (10 * stack, 1, 10)
  else if stack < 16 then (80 * (12 * (stack - 8)) + 79, 80, 12)
  else if stack < 24 then (80 * 95 + 10 * (23 - stack), 1, 10)
  else (80 * (12 * (31 - stack)), 80, 12)

/-- The site at which a DRAM channel enters: offset ⌊c × n / 32⌋ of its stack's span, and from a hole the nearest site in
service of the span, the lower on a tie (R21). -/
def State.entrySite (s : State) (channel : Nat) : Nat :=
  let sp := stackSpan (channel / 32)
  let k := channel % 32 * sp.2.2 / 32
  let live := (List.range sp.2.2).filter (fun j => s.siteState (sp.1 + j * sp.2.1) ≠ 2)
  let j := (leastBy (fun j => if j ≤ k then k - j else j - k) live).getD k
  sp.1 + j * sp.2.1

/-- The sites in service of a cluster, in ascending (y, x) order: each has one vault port (R17, R59). -/
def State.vaultPorts (s : State) (cluster : Nat) : List Nat :=
  ((List.range 4).flatMap (fun y => (List.range 5).map (fun x => 80 * (4 * (cluster / 16) + y) + 5 * (cluster % 16) + x))).filter
    (fun c => s.siteState c ≠ 2)

/-- The site whose vault port serves line `i` of a cluster's vault: k = i mod p (R59). A change of p remaps the lines, whose
contents stay. -/
def State.vaultPort (s : State) (cluster i : Nat) : Nat :=
  let ps := s.vaultPorts cluster
  ps.getD (i % ps.length) 0

/-- The cycle count of a core (R123): cores share no time base (R377; notes/assumptions 5). -/
def State.clk (s : State) (core : Nat) : Double := BitVec.ofNat 64 (Config.clockBase core + s.cycles)

/-- The `n`-th free value of this step; every step takes a new `tick` (notes/assumptions 9). -/
def State.free (s : State) (n : Nat) : Word := Config.freeWord (2 ^ 24 * s.tick + n)

/-- The `n`-th free byte of this step (notes/assumptions 9). -/
def State.freeB (s : State) (n : Nat) : Byte := Config.freeByte (2 ^ 24 * s.tick + n)

/-! ### Ring registers (R22, R384, R386) -/

/-- The identity map of a field of `w`-bit entries from `i0`, `n` entries packed below bit 64. -/
def identityMap (w i0 : Nat) : Nat → Nat
  | 0 => 0
  | n + 1 => identityMap w i0 n + (i0 + n) * 2 ^ (w * n)

/-- The 192 bits of FMAP at reset: channel c on wavelength c (R22). -/
def fmapIdentity : Nat := identityMap 6 0 32

/-- Reset values of ring registers: LMAP and FMAP identity, all else zero (R22, R386). -/
def ringReset (node idx : Nat) : Double :=
  if 64 ≤ node && node < 160 && idx = 16 then BitVec.ofNat 64 (identityMap 4 0 9)
  else if node < 48 && 48 ≤ idx && idx < 51 then BitVec.ofNat 64 (fmapIdentity >>> (64 * (idx - 48)))
  else 0#64

/-- Whether a node has a register (R384, R386). -/
def ringExists (node idx : Nat) : Bool :=
  if node < 48 then idx < 36 || (48 ≤ idx && idx < 51)
  else if 64 ≤ node && node < 160 then idx < 11 || idx = 16
  else if 256 ≤ node && node < 256 + 48 * 12 then idx < 36
  else false

/-- A ring register's value. -/
def State.ringReg (s : State) (node idx : Nat) : Double := s.ringRegs.getD (1024 * node + idx) (ringReset node idx)

/-- Store a ring register. -/
def State.setRing (s : State) (node idx : Nat) (v : Double) : State :=
  { s with ringRegs := s.ringRegs.put (ringReset node idx) (1024 * node + idx) v }

/-- The waveguide of a cluster's field (R14, R15, R22). -/
def waveguideOf (cluster : Nat) : Nat := 8 * (cluster / 16 / 4) + cluster % 16 / 2

/-- The in-field index of a cluster: row-major from the field's north-west cluster (R22). -/
def inField (cluster : Nat) : Nat := 2 * (cluster / 16 % 4) + cluster % 2

/-- The four channels of its waveguide that a cluster's transmitters drive (R22). -/
def channelsOf (cluster : Nat) : List Nat := (List.range 4).map (fun i => 4 * inField cluster + i)

/-- The physical wavelength that FMAP names for a channel of a waveguide: bits [6c + 5 : 6c] of FMAP0 to FMAP2 (R22, R386). -/
def State.wavelengthOf (s : State) (waveguide channel : Nat) : Nat :=
  bits ((s.ringReg waveguide 48).toNat + (s.ringReg waveguide 49).toNat * 2 ^ 64 + (s.ringReg waveguide 50).toNat * 2 ^ 128)
    (6 * channel) 6

/-- The physical wavelengths on which a cluster sends (R22). -/
def State.sendsOn (s : State) (cluster : Nat) : List Nat := (channelsOf cluster).map (s.wavelengthOf (waveguideOf cluster))

/-- The physical wavelength of logical lane `i` of a port (R386). -/
def State.laneMap (s : State) (port i : Nat) : Nat := bits (s.ringReg (64 + port) 16).toNat (4 * i) 4

/-- TDONE of a wavelength of a node. -/
def State.trained (s : State) (node wl : Nat) : Bool := bit (s.ringReg node wl).toNat 4

/-- The number of trained data lanes of a port, 0 to 8 (R288, R457). -/
def State.trainedLanes (s : State) (port : Nat) : Nat :=
  ((List.range 8).filter (fun i => s.trained (64 + port) (s.laneMap port i))).length

/-- Whether a port is up: it is in service (R23, R387), and its control lane's wavelength has passed training (R386, R457). -/
def State.portUp (s : State) (port : Nat) : Bool := !s.agentsOut.contains (96 + port) && s.trained (64 + port) (s.laneMap port 8)

end Sys2Proof.Machine
end

