-- ==== Sys2Proof/Machine/Mem.lean ====
section
/-!
DEFINITION. Physical memory: bytes, tags, labels, vault line marks, coherence states, and the performing of reads and
writes (R57 to R75 of spec/03, R83 to R88 of spec/04). Memory is a list of cells with rising addresses; a byte that is not
listed reads as zero (notes/assumptions 2).
-/

namespace Sys2Proof.Machine

/-! ### The address map (R57, R456) -/

/-- The first byte above general DRAM when no channel is retired. -/
def dramTop : Nat := 0x1F7F0000000
/-- W_k of R456 in bytes: what k retired channels withdraw. -/
def withdrawn (k : Nat) : Nat := if k = 0 then 0 else 2 * ceilDiv (k * 1048576) (1024 - k) * 0x100000
/-- The end of the general DRAM range now: ACK withdraws the range of the channel in process (R456). -/
def State.dramEnd (s : State) : Nat :=
  dramTop - withdrawn (s.retired.length + (if s.field (errAt 0x20) 10 2 = 2 then 1 else 0))
/-- General DRAM. -/
def State.isDram (s : State) (a : Nat) : Bool := a < s.dramEnd
/-- The vaults. -/
def isVault (a : Nat) : Bool := 0x40000000000 ≤ a && a < 0x40600000000
/-- Device registers and launch ports. -/
def isDevice (a : Nat) : Bool := 0x80000000000 ≤ a && a < 0x90000000000
/-- An address that something answers (R57). -/
def State.exists? (s : State) (a : Nat) : Bool := s.isDram a || isVault a || isDevice a

/-- The home cluster of a line (R59). -/
def homeOf (line : Nat) : Nat :=
  if isVault (64 * line) then (64 * line - 0x40000000000) / 0x4000000
  else
    let f := bits line 0 7 ^^^ bits line 7 7 ^^^ bits line 14 7 ^^^ bits line 21 7 ^^^ bits line 28 7 ^^^ bits line 35 7 ^^^ bits line 42 4
    128 * (line % 3) + f

/-- The DRAM channel 32 × stack + channel of an address (R58). -/
def channelOf (pa : Nat) : Nat := bits pa 8 10 ^^^ bits pa 18 10 ^^^ bits pa 28 10

/-! ### Bytes -/

/-- Memory's canonical form: keys rise strictly and no cell holds zero. -/
def Memory.wf (m : Table Byte) : Bool := Table.wfD 0#8 m

/-- A byte as stored. -/
def rawByte (m : Table Byte) (a : Nat) : Byte := m.getD a 0#8

/-- Store a byte, keeping the canonical form. -/
def setByte (m : Table Byte) (a : Nat) (b : Byte) : Table Byte := m.put 0#8 a b

/-- Store bytes at rising addresses. -/
def setBytes (m : Table Byte) (a : Nat) : List Byte → Table Byte
  | [] => m
  | b :: bs => setBytes (setByte m a b) (a + 1) bs

/-- `n` stored bytes. -/
def rawBytes (m : Table Byte) (a n : Nat) : List Byte := (List.range n).map (fun i => rawByte m (a + i))

/-- A stored little-endian number of `n` bytes (R2). -/
def rawNat (m : Table Byte) (a n : Nat) : Nat := leNat (rawBytes m a n)

/-- The current epoch of a key slot (R74). -/
def State.epoch (s : State) (k : Nat) : Nat := s.keyEpoch.getD k 0

/-- The mark of a vault line (R74). -/
def State.vaultMark (s : State) (line : Nat) : VaultMark := s.vmeta.getD line (.key 0 0)

/-- Whether a read of a vault line under a key slot finds the line's own slot and epoch, or the zero mark (R74). -/
def State.vaultMatch (s : State) (k line : Nat) : Bool :=
  match s.vaultMark line with
  | .key sl ep => sl = k && ep = s.epoch k
  | .zero => true
  | .dead => false

/-- A byte as a reader under key slot `k` obtains it: zero from a vault line of another slot or epoch (R74). -/
def State.byteAt (s : State) (k a : Nat) : Byte :=
  if isVault a && !s.vaultMatch k (a / 64) then 0#8 else rawByte s.mem a

/-! ### Tags (R69) -/

/-- The memory tag of the sector at a physical address. -/
def State.tagAt (s : State) (a : Nat) : Nat :=
  if isVault a then s.vtags.getD (a / 32) 0
  else
    let b := (rawByte s.mem (0x1F800000000 + a / 64)).toNat
    if bit a 5 then b / 16 else b % 16

/-- Set the memory tag of the sector at a physical address. -/
def State.setTagAt (s : State) (a t : Nat) : State :=
  if isVault a then { s with vtags := s.vtags.put 0 (a / 32) (t % 16) }
  else
    let at' := 0x1F800000000 + a / 64
    let b := (rawByte s.mem at').toNat
    let b' := if bit a 5 then b % 16 + 16 * (t % 16) else b / 16 * 16 + t % 16
    { s with mem := setByte s.mem at' (BitVec.ofNat 8 b') }

/-! ### Labels in memory (R70, R71) -/

/-- Where the label of a DRAM frame lies (R71). -/
def frameLabelAt (a : Nat) : Nat := 0x1F7F0000000 + 8 * (a / 0x10000)

/-- The label of the granule at a physical address. -/
def State.labelAt (s : State) (a : Nat) : Label :=
  if isVault a then s.vlabels.getD (a / 4096) 0#64 else BitVec.ofNat 64 (rawNat s.mem (frameLabelAt a) 8)

/-- Set the label of the granule at a physical address. -/
def State.setLabelAt (s : State) (a : Nat) (l : Label) : State :=
  if isVault a then { s with vlabels := s.vlabels.put 0#64 (a / 4096) l }
  else { s with mem := setBytes s.mem (frameLabelAt a) (leBytes 8 l.toNat) }

/-! ### Scratchpads (R67 to R70) -/

/-- Change a stand. -/
def State.updStand (s : State) (k : Nat) (f : Stand → Stand) : State := { s with stands := s.stands.modify k f }

/-- The program area of a stand in bytes, 0 for no stand. -/
def State.area (s : State) (k : Nat) : Nat :=
  match s.stands.get? k with
  | some st => st.areaA
  | none => 0

/-! ### Places -/

/-- The place `i` bytes on. -/
def Loc.plus (l : Loc) (i : Nat) : Loc :=
  match l with
  | .pa a => .pa (a + i)
  | .sp k o => .sp k (o + i)

/-- A device-register place. -/
def Loc.device (l : Loc) : Bool :=
  match l with
  | .pa a => isDevice a
  | .sp _ _ => false

/-- A byte of a place as a reader under key slot `k` obtains it. -/
def State.byteOf (s : State) (k : Nat) (l : Loc) : Byte :=
  match l with
  | .pa a => s.byteAt k a
  | .sp st o => match s.stands.get? st with
    | some x => rawByte x.sp o
    | none => 0#8

/-- `n` bytes of a place. -/
def State.bytesOf (s : State) (k : Nat) (l : Loc) (n : Nat) : List Byte := (List.range n).map (fun i => s.byteOf k (l.plus i))

/-- The label of the granule that holds a place; device registers carry the label `dev` of the accessing function's
origin, and so does a vault line read under a slot that does not match (R70, R74). -/
def State.labelOf (s : State) (k : Nat) (dev : Label) (l : Loc) : Label :=
  match l with
  | .pa a => if isDevice a then dev else if isVault a && !s.vaultMatch k (a / 64) then dev else s.labelAt a
  | .sp st o => match s.stands.get? st with
    | some x => x.splabels.getD (o / 1024) x.fill
    | none => 0#64

/-- The label of every granule that `n` bytes touch; a granule never ends inside a sector, so sectors' starts suffice. -/
def State.labelSpan (s : State) (k : Nat) (dev : Label) (l : Loc) (n : Nat) : Label :=
  Label.union ((List.range (n / 32 + 2)).map (fun i => s.labelOf k dev (l.plus (min (32 * i) (n - 1)))))

/-- Raise the label of the granule that holds a place (R72). -/
def State.raiseLabel (s : State) (l : Loc) (lab : Label) : State :=
  match l with
  | .pa a => if isDevice a then s else s.setLabelAt a (s.labelAt a ||| lab)
  | .sp st o => s.updStand st (fun x => { x with splabels := x.splabels.put x.fill (o / 1024) (x.splabels.getD (o / 1024) x.fill ||| lab) })

/-- Raise every granule that `n` bytes touch. -/
def State.raiseSpan (s : State) (l : Loc) (n : Nat) (lab : Label) : State :=
  (List.range (n / 32 + 2)).foldl (fun s i => s.raiseLabel (l.plus (min (32 * i) (n - 1))) lab) s

/-- The memory tag of the sector that holds a place (R69). -/
def State.tagOf (s : State) (l : Loc) : Nat :=
  match l with
  | .pa a => s.tagAt a
  | .sp st o => match s.stands.get? st with
    | some x => x.sptags.getD (o / 32) 0
    | none => 0

/-- Set the memory tag of the sector that holds a place. -/
def State.setTagOf (s : State) (l : Loc) (t : Nat) : State :=
  match l with
  | .pa a => s.setTagAt a t
  | .sp st o => s.updStand st (fun x => { x with sptags := x.sptags.put 0 (o / 32) (t % 16) })

/-- Whether a place's sector is marked bad (R448). -/
def State.badOf (s : State) (l : Loc) : Bool :=
  match l with
  | .pa a => s.badSectors.contains (a / 32)
  | .sp st o => match s.stands.get? st with
    | some x => x.bad.contains (o / 32)
    | none => false

/-- Clear the bad mark of a sector (R448). -/
def State.clearBad (s : State) (l : Loc) : State :=
  match l with
  | .pa a => { s with badSectors := s.badSectors.filter (· != a / 32) }
  | .sp st o => s.updStand st (fun x => { x with bad := x.bad.filter (· != o / 32) })

/-- Whether any sector of a span is marked bad. -/
def State.badSpan (s : State) (l : Loc) (n : Nat) : Bool :=
  (List.range (n / 32 + 2)).any (fun i => s.badOf (l.plus (min (32 * i) (n - 1))))

/-! ### Coherence (R86 to R88)

A coherent agent is a cluster, by its number, or a host core h, as 385 + h; 384 stands for the management core, which caches
nothing. An access comes from a core, by its site number, or from a host core h, as 8192 + h. -/

/-- The agent that caches the lines of an access from a core or host core (R86, R88). -/
def agentOf (who : Nat) : Nat := if who < 8192 then clusterOf who else 385 + (who - 8192)

/-- Whether a number is a coherent agent's. -/
def isAgent (a : Nat) : Bool := a < 384 || (384 < a && a < 481)

/-- The key of a line in an L1 (R18, R75). -/
def l1Key (core line : Nat) : Nat := line * 8192 + core

/-- A core's L1 takes a line; host cores and the management core have none that the device maps. -/
def State.fillL1 (s : State) (who line : Nat) : State :=
  if who < 7680 then { s with l1 := if s.l1.contains (l1Key who line) then s.l1 else l1Key who line :: s.l1 } else s

/-- The L1s of an agent drop a line; a cluster's L2 is inclusive of its L1s (R75). -/
def State.dropL1 (s : State) (agent line : Nat) : State :=
  { s with l1 := s.l1.filter (fun k => k / 8192 ≠ line || clusterOf (k % 8192) ≠ agent) }

/-- The key of a line's state in an agent. -/
def lineKey (cluster line : Nat) : Nat := line * 512 + cluster

/-- The state of a line in a cluster; none is I. -/
def State.moesi (s : State) (cluster line : Nat) : Option Moesi := s.lines.get? (lineKey cluster line)

/-- The clusters that hold a line. -/
def State.holders (s : State) (line : Nat) : List (Nat × Moesi) :=
  s.lines.filterMap (fun p => if p.1 / 512 = line then some (p.1 % 512, p.2) else none)

/-- Set a line's state in a cluster. -/
def State.setMoesi (s : State) (cluster line : Nat) (m : Option Moesi) : State :=
  match m with
  | some x => { s with lines := s.lines.insert (lineKey cluster line) x }
  | none => { s.dropL1 cluster line with lines := s.lines.erase (lineKey cluster line) }

/-- The lap of an RdS message (R87): M becomes O and E becomes S elsewhere; the requester takes S, or E if no other copy. -/
def flumeRdS (s : State) (cluster line : Nat) : State :=
  let others := (s.holders line).filter (fun h => h.1 ≠ cluster)
  let s := others.foldl (fun s h => match h.2 with
    | .m => s.setMoesi h.1 line (some .o)
    | .e => s.setMoesi h.1 line (some .s)
    | _ => s) s
  s.setMoesi cluster line (some (if others.isEmpty then .e else .s))

/-- Every copy outside a cluster goes to I (R87). -/
def invalidateOthers (s : State) (cluster line : Nat) : State :=
  (s.holders line).foldl (fun s h => if h.1 = cluster then s else s.setMoesi h.1 line none) s

/-- The lap of an RdX message (R87). -/
def flumeRdX (s : State) (cluster line : Nat) : State := (invalidateOthers s cluster line).setMoesi cluster line (some .m)

/-- The lap of an Upg message (R87). -/
def flumeUpg (s : State) (cluster line : Nat) : State := (invalidateOthers s cluster line).setMoesi cluster line (some .m)

/-- Remember what memory holds under a line before it becomes dirty: its bytes and its mark (R74, R75; notes/assumptions 25). -/
def State.keepBacking (s : State) (line : Nat) : State :=
  match s.backing.get? line with
  | some _ => s
  | none => { s with backing := s.backing.insert line ⟨rawBytes s.mem (64 * line) 64, s.vaultMark line⟩ }

/-- The lap of a Wb message: the line is written to memory and leaves the cluster (R87). -/
def flumeWb (s : State) (cluster line : Nat) : State :=
  match s.moesi cluster line with
  | some .m | some .o => { (s.setMoesi cluster line none) with backing := s.backing.erase line }
  | _ => s

/-- Write a dirty line back and drop every copy (R88, NC stores). -/
def flushLine (s : State) (line : Nat) : State :=
  { (invalidateOthers s 511 line) with backing := s.backing.erase line }

/-- Drop every copy of a line without write-back: memory keeps what it held, the mark of a vault line with it (R74, R75,
R451). -/
def discardLine (s : State) (line : Nat) : State :=
  let s1 := match s.backing.get? line with
    | some b => { s with mem := setBytes s.mem (64 * line) b.bytes, vmeta := if isVault (64 * line) then s.vmeta.put (.key 0 0) line b.mark else s.vmeta,
                         backing := s.backing.erase line }
    | none => s
  invalidateOthers s1 511 line

/-- The ordered read of an access that allocates nowhere: M goes to O and E to S in every holder (R88). -/
def ncRead (s : State) (line : Nat) : State :=
  (s.holders line).foldl (fun s h => match h.2 with
    | .m => s.setMoesi h.1 line (some .o)
    | .e => s.setMoesi h.1 line (some .s)
    | _ => s) s

/-- A cached read of a line by a core or host core: a miss makes an RdS lap, and the core's L1 takes the line (R75, R86). The
management core caches nothing. -/
def cachedRead (s : State) (who line : Nat) : State :=
  let agent := agentOf who
  if !isAgent agent then ncRead s line
  else
    let s1 := match s.moesi agent line with
      | some _ => s
      | none => flumeRdS s agent line
    s1.fillL1 who line

/-- A cached write of a line by a core or host core: M and E go to M without a message, S and O by Upg, I by RdX (R86, R87);
the other L1s of the cluster drop the line. -/
def cachedWrite (s : State) (who line : Nat) : State :=
  let agent := agentOf who
  if !isAgent agent then flushLine s line
  else
    let s1 := s.keepBacking line
    let s2 := match s1.moesi agent line with
      | some .m => s1
      | some .e => s1.setMoesi agent line (some .m)
      | some _ => flumeUpg s1 agent line
      | none => flumeRdX s1 agent line
    (s2.dropL1 agent line).fillL1 who line

/-! ### Waking threads that watch a word (R233) -/

/-- Make the threads that wait on a line Active, so that their WAITW reads again (R233). -/
def State.wakeLine (s : State) (l : Loc) : State :=
  { s with threads := s.threads.map (fun p => match p.2.wait, l with
      | .word line _, .pa a => if line = a / 64 then (p.1, { p.2 with wait := .none, status := .active }) else p
      | .spWord st off, .sp st' o => if st = st' && off / 64 = o / 64 then (p.1, { p.2 with wait := .none, status := .active }) else p
      | _, _ => p) }

/-! ### Performing -/

/-- Put bytes at a place without a label; a vault line that the writer's slot and epoch do not match is cleared first, and
takes the writer's slot and epoch (R74). -/
def State.putBytes (s : State) (k : Nat) (l : Loc) (bs : List Byte) : State :=
  match l with
  | .pa a =>
    if isVault a then
      let line := a / 64
      let m1 := if s.vaultMatch k line && s.vaultMark line ≠ .zero then s.mem
        else setBytes s.mem (64 * line) (List.replicate 64 0#8)
      { s with mem := setBytes m1 a bs, vmeta := s.vmeta.put (.key 0 0) line (.key k (s.epoch k)) }
    else { s with mem := setBytes s.mem a bs }
  | .sp st o => s.updStand st (fun x => { x with sp := setBytes x.sp o bs })

/-- Cut a span of bytes into pieces that stay inside one 64-byte line. -/
def linePieces (l : Loc) : Nat → List Byte → List (Loc × List Byte)
  | 0, _ => []
  | fuel + 1, bs =>
    let off := match l with
      | .pa a => a % 64
      | .sp _ o => o % 64
    let n := 64 - off
    if bs.length ≤ n then [(l, bs)]
    else (l, bs.take n) :: linePieces (l.plus n) fuel (bs.drop n)

/-- A write of a line ends the reservations of host cores on it (R79; notes/assumptions 45). -/
def State.breakReservations (s : State) (l : Loc) : State :=
  match l with
  | .pa a => { s with reservations := s.reservations.filterT (fun _ line => line ≠ a / 64) }
  | .sp _ _ => s

/-- One store performs: coherence, bytes, label raise (R72, R83, R86), bad marks of whole sectors (R448), waiting WAITWs.
`who` is the core or host core of a cached access, and none for an uncached or engine access, which writes back and
invalidates every copy (R88). -/
def performPiece (s : State) (who : Option Nat) (k : Nat) (l : Loc) (bs : List Byte) (lab : Label) : State :=
  let s1 := match l, who with
    | .pa a, some c => cachedWrite s c (a / 64)
    | .pa a, none => flushLine s (a / 64)
    | .sp _ _, _ => s
  let s2 := s1.putBytes k l bs
  let s3 := s2.raiseSpan l bs.length lab
  let s4 := if bs.length ≥ 32 then
      (List.range (bs.length / 32 + 1)).foldl (fun s i =>
        let p := l.plus (32 * i)
        if 32 * (i + 1) ≤ bs.length then s.clearBad p else s) s3
    else s3
  (s4.breakReservations l).wakeLine l

/-- A store of any length performs, line by line in ascending order. -/
def State.perform (s : State) (who : Option Nat) (k : Nat) (l : Loc) (bs : List Byte) (lab : Label) : State :=
  if bs.isEmpty then s
  else (linePieces l (bs.length / 64 + 2) bs).foldl (fun s p => performPiece s who k p.1 p.2 lab) s

/-! ### Records the device writes to memory (labelled as their rules say) -/

/-- Write bytes at a physical address as the device's own NC store under key slot `k`; labels stay. -/
def State.deviceStore (s : State) (k a : Nat) (bs : List Byte) : State := s.perform none k (.pa a) bs 0#64

/-! ### The error log (R445, R446) -/

/-- The bytes of an error record. -/
def errorRecord (seq kind sev vf pa loc cnt : Nat) (info : Nat) (clk : Double) : List Byte :=
  leBytes 32 (seq % 2 ^ 32 + kind * 2 ^ 32 + sev * 2 ^ 40 + vf * 2 ^ 48 + (pa % 2 ^ 52) * 2 ^ 64 + (loc % 2 ^ 16) * 2 ^ 128
    + (min cnt 0xFFFF) * 2 ^ 144 + (info % 2 ^ 32) * 2 ^ 160 + clk.toNat * 2 ^ 192)

/-- Write one error record: to the ring, or counted in LOST when the ring is full or has no legal size; severity 2 is kept
for STATUS as well (R445; notes/assumptions 27). -/
def State.logError (s : State) (kind sev vf pa loc cnt info : Nat) : State :=
  let sz := s.field (errAt 0) 0 5
  let base := s.field (errAt 0) 12 40 * 4096
  let head := s.field (errAt 8) 0 32
  let tail := s.field (errAt 0x10) 0 32
  let rec' := errorRecord head kind sev vf pa loc cnt info (s.clk mgmtCore)
  let s1 := if sev = 2 then { s with fatals := (s.fatals ++ [rec']).drop (s.fatals.length - 15) } else s
  if sz < 6 || 16 < sz || (head + 2 ^ 32 - tail) % 2 ^ 32 ≥ 2 ^ sz then
    s1.setField (errAt 8) 32 32 (min 0xFFFFFFFF (s.field (errAt 8) 32 32 + 1))
  else
    let s2 := s1.deviceStore 0 (base + 32 * (head % 2 ^ sz)) rec'
    let s3 := s2.setField (errAt 8) 0 32 (head + 1)
    let ele := s3.field (errAt 0x18) 0 52
    if ele = 0 then s3 else s3.deviceStore 0 ele (leBytes 4 (head + 1))

/-- LOC of an error record of no site and no ring node, which the spec does not state: a free value (notes/assumptions 27). -/
def State.noLoc (s : State) : Nat := (s.free 60).toNat % 2 ^ 16

/-- The management core logs an access that a register map ignores (R13, R312, R316, R318, R328). The spec gives this log no
record and no register: its entries stand in State.ignored (notes/assumptions 27). -/
def State.logIgnored (s : State) (pa : Nat) (write : Bool) (agent : Agent) : State :=
  { s with ignored := s.ignored ++ [⟨pa, write, agent⟩] }

/-- The write of the event in progress is ignored and logged. -/
def State.logStim (s : State) : State := s.logIgnored s.stim.write.pa true s.stim.write.agent

/-- A corrected error joins or opens its folding window (R446); key mismatches fold for each slot (R455). -/
def State.foldError (s : State) (kind pa loc info : Nat) : State :=
  let same (f : Fold) : Bool := f.kind = kind && f.loc = loc && f.pa = pa && (kind ≠ 0x0B || f.info.toNat = info)
  match s.folds.find? (fun p => same p.2) with
  | some (k, _) => { s with folds := s.folds.modify k (fun f => { f with cnt := min 0xFFFF (f.cnt + 1) }) }
  | none => { s with folds := s.folds.insert s.nextId ⟨kind, 0x3FF, pa, loc, 1, BitVec.ofNat 32 info⟩, nextId := s.nextId + 1 }

/-- A vault key mismatch counts one event for its slot in a 1 ms window (R74, R455). -/
def State.keyMismatch (s : State) (k : Nat) : State := s.foldError 0x0B 0 0 k

/-! ### Reading with its effects -/

/-- The first address of a span of `n` bytes in each line that it touches. -/
def lineStarts (a n : Nat) : List Nat :=
  (List.range (n / 64 + 2)).filterMap (fun i =>
    let x := max a (64 * (a / 64 + i))
    if x < a + n then some x else none)

/-- A read of a vault line that the reader's slot and epoch do not match counts an event (R74). -/
def State.noteMismatch (s : State) (k a : Nat) : State :=
  if isVault a && !s.vaultMatch k (a / 64) then s.keyMismatch k else s

/-- A cached or uncached read performs: coherence moves and a key mismatch is counted (R74, R86). -/
def State.performRead (s : State) (who : Option Nat) (k : Nat) (l : Loc) : State :=
  match l with
  | .pa a => State.noteMismatch (match who with
      | some c => cachedRead s c (a / 64)
      | none => ncRead s (a / 64)) k a
  | .sp _ _ => s

end Sys2Proof.Machine
end

