-- ==== Sys2Proof/Machine/Walk.lean ====
section
/-!
DEFINITION. Table walks of both stages (R60 to R62, R65) and the queues that trap records go to (R393, R401, R403).
-/

namespace Sys2Proof.Machine

/-- The key slot under which a function's accesses reach the vaults (R73, R332); slot 0 for the management core. -/
def State.keyOf (s : State) (v : Nat) : Nat := if v < 1024 then s.vfKey v else 0

/-! ### Table walks (R60 to R62) -/

/-- What stops a walk: the stage, the IPA of a stage-two fault, and the leaf met (0 above the leaf). -/
structure WalkFault where
  two : Bool
  ipa : Nat
  leaf : Nat
deriving DecidableEq, Repr

/-- A 64-bit table entry read by the walker at a physical address; where nothing answers it reads as not valid. -/
def State.tableEntry (s : State) (v pa : Nat) : Nat :=
  if s.isDram pa then rawNat s.mem pa 8
  else if isVault pa then leNat ((List.range 8).map (fun i => s.byteAt (s.keyOf v) (pa + i)))
  else 0

/-- The lowest address bit that a level indexes (R60). -/
def levelLow (level : Nat) : Nat := if level = 3 then 43 else if level = 2 then 30 else if level = 1 then 21 else 16

/-- The index bits of a level; level 3 of stage two has 9 (R60). -/
def levelBits (two : Bool) (level : Nat) : Nat :=
  if level = 3 then (if two then 9 else 13) else if level = 2 then 13 else if level = 1 then 9 else 5

/-- Whether a leaf of a stage is free of the faults of R62 at a level. -/
def leafOk (two : Bool) (level leaf : Nat) : Bool :=
  let rsv := if two then bits leaf 62 2 = 0 && bits leaf 12 4 = 0 && bits leaf 9 1 = 0 && bits leaf 5 1 = 0
    else bits leaf 52 12 = 0 && bits leaf 12 4 = 0 && bits leaf 10 1 = 0 && bits leaf 8 1 = 0
  let window := two && bit leaf 8
  level ≠ 3 && rsv &&
    (if window then level ≤ 1 && bits leaf 44 8 = 0 && (level = 0 || bits leaf 16 5 = 0)
     else bits leaf 16 (levelLow level - 16) = 0)

/-- A walk from `level` at a table's base: `rd` reads the entry at an address of the table space and says where it lies.
Answers the leaf, where it lies and its level. A base that is not aligned to its table's size, for which R60 names no fault, is
taken as it stands: DESIGN CHOICE (notes/assumptions 48). -/
def walk (two : Bool) (rd : Nat → Except WalkFault (Nat × Nat)) (addr : Nat) : Nat → Nat → Except WalkFault (Nat × Nat × Nat)
  | level, base =>
    let at' := base + 8 * bits addr (levelLow level) (levelBits two level)
    match rd at' with
    | .error e => .error e
    | .ok (e, pa) =>
      if !bit e 0 then .error ⟨two, addr, if level = 0 then e else 0⟩
      else if bit e 1 then
        match level with
        | 0 => .error ⟨two, addr, 0⟩
        | l + 1 => if bits e 52 12 ≠ 0 || bits e 2 6 ≠ 0 then .error ⟨two, addr, 0⟩
          else walk two rd addr l (bits e 8 44 * 256)
      else if leafOk two level e then .ok (e, pa, level) else .error ⟨two, addr, e⟩

/-- A stage-two walk of a function: leaf, place and level (R60). -/
def State.walk2 (s : State) (v ipa : Nat) : Except WalkFault (Nat × Nat × Nat) :=
  if 2 ^ 52 ≤ ipa then .error ⟨true, ipa, 0⟩
  else walk true (fun a => .ok (s.tableEntry v a, a)) ipa 3 (s.ctxAddr v 0x10)

/-- The first byte of the vault replica that a window leaf names in a cluster (R65). -/
def replicaBase (leaf cluster : Nat) : Nat := 0x40000000000 + cluster * 0x4000000 + bits leaf 16 10 * 0x10000

/-- The physical address under a stage-two leaf of a level; for a window that of the writer's replica (R62, R65). -/
def leafAddr (leaf level addr : Nat) : Nat :=
  let off := addr % 2 ^ levelLow level
  if bit leaf 8 then replicaBase leaf (bits leaf 26 9) + off else bits leaf 16 36 * 0x10000 + off

/-- The subscribed clusters of a window leaf: entry SSET of the function's table (R65). -/
def State.subscribers (s : State) (v sset : Nat) : List Nat :=
  let e := s.ctxAddr v 0x18 + 64 * sset
  (List.range 384).filter (fun c => bit (rawByte s.mem (e + c / 8)).toNat (c % 8))

/-- A vault frame belongs to a partition (R314). -/
def State.vaultOwned (s : State) (part pa : Nat) : Bool :=
  isVault pa && s.vaultOwner ((pa - 0x40000000000) / 0x4000000) ((pa % 0x4000000) / 0x100000) = part

/-- The further conditions that make a stage-two leaf a translation fault: R62, R312, R314, R332, R385. -/
def State.leaf2Ok (s : State) (v leaf pa : Nat) : Bool :=
  let part := s.vfPart v
  if bit leaf 8 then
    !s.withheld 2 && bits leaf 52 10 = s.vfKey v && bits leaf 26 9 < 384
      && (bits leaf 26 9 :: s.subscribers v (bits leaf 35 9)).all (fun c =>
            s.vaultOwned part (replicaBase leaf c + (pa - replicaBase leaf (bits leaf 26 9))))
  else if isVault pa then bits leaf 52 10 = s.vfKey v && s.vaultOwned part pa
  else if isDevice pa then bit leaf 11 && !(0x080100000000 ≤ pa && pa ≤ 0x080AFFFFFFFF)
  else true

/-- Stage two for a device access by IPA (queues, profile and trace buffers, save areas): the physical address. -/
def State.stage2 (s : State) (v ipa : Nat) : Except WalkFault (Nat × Nat) :=
  match s.walk2 v ipa with
  | .error e => .error e
  | .ok (leaf, _, level) =>
    let pa := leafAddr leaf level ipa
    if s.leaf2Ok v leaf pa then .ok (pa, leaf) else .error ⟨true, ipa, leaf⟩

/-- A stage-one walk: every table address is an IPA (R60). -/
def State.walk1 (s : State) (v va : Nat) : Except WalkFault (Nat × Nat × Nat) :=
  walk false (fun a => match s.stage2 v a with
    | .error e => .error e
    | .ok (pa, _) => .ok (s.tableEntry v pa, pa)) va 3 (s.ctxAddr v 0x08)

/-- Both stages of a function's page. -/
def State.walkBoth (s : State) (v va : Nat) : Except WalkFault TlbEntry :=
  match s.walk1 v va with
  | .error e => .error e
  | .ok (l1, at1, lev1) =>
    let ipa := bits l1 16 36 * 0x10000 + va % 2 ^ levelLow lev1
    if bit l1 9 && s.withheld 1 then .error ⟨false, va, l1⟩
    else match s.walk2 v ipa with
      | .error e => .error e
      | .ok (l2, at2, lev2) =>
        let pa := leafAddr l2 lev2 ipa
        if !s.leaf2Ok v l2 pa || (bit l2 8 && bit l1 9) then .error ⟨true, ipa, l2⟩
        else .ok ⟨v, va / 0x10000, BitVec.ofNat 64 l1, at1, BitVec.ofNat 64 l2, at2, ipa / 0x10000, pa / 0x10000⟩

/-! ### Trap queues (R393, R401, R403) -/

/-- A page of a guest queue, for the device's writes: a leaf that permits them, without WPM, window or device (R393, R401). -/
def State.queuePage (s : State) (v ipa : Nat) : Option Nat :=
  match s.stage2 v ipa with
  | .ok (pa, leaf) => if bit leaf 2 && bit leaf 3 && !bit leaf 10 && !bit leaf 8 && s.exists? pa && !isDevice pa then some pa else none
  | .error _ => none

/-- A page of a hypervisor queue: any memory (R403). -/
def State.hypPage (s : State) (pa : Nat) : Option Nat := if s.isDram pa || isVault pa then some pa else none

/-- What a record's queue does with it: it is not served or its write fails, it is full, or it takes the record at an index
with the header and the record at these addresses (R393, R401, R403). -/
inductive QueueAns where
  | fails
  | full
  | takes (n header entry : Nat)

/-- Ask a queue: its register, and how its addresses are reached. -/
def State.askQueue (s : State) (k reg : Nat) (page : Nat → Option Nat) : QueueAns :=
  if s.field reg 0 1 = 0 then .fails
  else
    let size := 2 ^ s.field reg 1 4
    let base := s.field reg 12 40 * 4096
    match page base with
    | none => .fails
    | some h =>
      let head := leNat (s.bytesOf k (.pa h) 4)
      let tail := leNat (s.bytesOf k (.pa (h + 8)) 4)
      if size ≤ (head + 2 ^ 32 - tail) % 2 ^ 32 then .full
      else match page (base + 64 + 64 * (head % size)) with
        | none => .fails
        | some e => .takes head h e

/-- The queue a record goes to. -/
def State.queueFor (s : State) (r : TrapRec) : QueueAns :=
  if r.hyp then s.askQueue 0 (ctxAt r.vf 0x60) s.hypPage else s.askQueue (s.keyOf r.vf) (supAt r.vf 0x100) (s.queuePage r.vf)

/-- The queue a record goes to is full (R393, R395). -/
def State.queueFull (s : State) (r : TrapRec) : Bool :=
  match s.queueFor r with
  | .full => true
  | _ => false

end Sys2Proof.Machine
end

