-- ==== Sys2Proof/Machine/Ops.lean ====
section
/-!
DEFINITION. The named operations over threads, warp slots, labels, poison and tokens, and the taking of an exception: ONE
parking operation (R391, R392, R395) with the return from it beside it (R163, R400).
-/

namespace Sys2Proof.Machine

/-! ### Threads and slots -/

/-- The slot key of the issuing group. -/
def Cur.slotKey (c : Cur) : Nat := 16 * (4 * c.core + c.quad) + c.slot

/-- A thread; an idle one for a key that names none. -/
def State.thread (s : State) (k : Nat) : Thread := s.threads.getD k (Thread.start 0 0 0 ⟨0, 0⟩ [] 0)

/-- Change a thread. -/
def State.updThread (s : State) (k : Nat) (f : Thread → Thread) : State := { s with threads := s.threads.modify k f }

/-- A slot; the empty one for a key that holds none. -/
def State.slotAt (s : State) (k : Nat) : Slot := s.slots.getD k Slot.empty

/-- Change a slot. -/
def State.updSlot (s : State) (k : Nat) (f : Slot → Slot) : State := { s with slots := s.slots.modify k f }

/-- A quadrant's state. -/
def State.quadAt (s : State) (k : Nat) : Quad := s.quads.getD k Quad.empty

/-- Change a quadrant. -/
def State.updQuad (s : State) (k : Nat) (f : Quad → Quad) : State := { s with quads := s.quads.insert k (f (s.quadAt k)) }

/-- A core's state. -/
def State.coreAt (s : State) (k : Nat) : Core := s.cores.getD k Core.empty

/-- Change a core. -/
def State.updCore (s : State) (k : Nat) (f : Core → Core) : State := { s with cores := s.cores.insert k (f (s.coreAt k)) }

/-- A function's running state. -/
def State.functionAt (s : State) (v : Nat) : Function := s.functions.getD v Function.empty

/-- Change a function. -/
def State.updFunction (s : State) (v : Nat) (f : Function → Function) : State :=
  { s with functions := s.functions.insert v (f (s.functionAt v)) }

/-- The slot of the issuing group. -/
def State.curSlot (s : State) : Slot := s.slotAt s.cur.slotKey

/-- A key that never names a thread: stand 8190 of no grid. -/
def noThread : Nat := 16384 * 8190

/-- The key of the thread in a lane of the issuing slot; no thread's key for an empty lane. -/
def State.laneKey (s : State) (l : Nat) : Nat := s.curSlot.lanes.getD l noThread

/-- The thread in a lane of the issuing slot. -/
def State.lane (s : State) (l : Nat) : Thread := s.thread (s.laneKey l)

/-- Change the thread in a lane of the issuing slot. -/
def State.updLane (s : State) (l : Nat) (f : Thread → Thread) : State := s.updThread (s.laneKey l) f

/-- The stand of the issuing group. -/
def State.curStand (s : State) : Nat := s.curSlot.stand

/-- The function a stand runs under; 1024 for the management core, which belongs to none (R473). -/
def State.vfOf (s : State) (stand : Nat) : Nat :=
  match s.stands.get? stand with
  | some st => st.vf
  | none => if stand < 1024 then stand else 1024

/-- Whether a stand key is a function's handler stand, which runs at supervisor level (R397). -/
def isHandler (stand : Nat) : Bool := stand < 1024

/-- Whether the issuing core is the management core. -/
def State.onMgmt (s : State) : Bool := s.cur.core = mgmtCore

/-- The stage record of a stand, if it has one. -/
def State.stageOf (s : State) (stand stage : Nat) : Option Stage :=
  match s.stands.get? stand with
  | some st => st.stages[stage]?
  | none => none

/-- The register quota of the issuing stage (R44, R397); 256 on the management core (notes/assumptions 11). -/
def State.quota (s : State) : Nat :=
  match s.stageOf s.curStand s.curSlot.stage with
  | some g => g.quota
  | none => 256

/-- The label that stands for a function's own origin; empty for the management core. -/
def State.ownLabel (s : State) (v : Nat) : Label := if v < 1024 then s.vfLabel v else 0#64

/-! ### Registers, predicates and poison (R26, R406) -/

/-- A V register. -/
def Thread.reg (t : Thread) (r : Nat) : Word := t.regs.getD r 0#32

/-- A register pair, low word in the even register (R53, R136). -/
def Thread.pair (t : Thread) (r : Nat) : Double := t.reg (r + 1) ++ t.reg r

/-- `n` registers from `r` as one number, the least significant word first (R136). -/
def Thread.regNat (t : Thread) (r : Nat) : Nat → Nat
  | 0 => 0
  | n + 1 => (t.reg r).toNat + 2 ^ 32 * t.regNat (r + 1) n

/-- A predicate; P7 reads as true (R26). -/
def Thread.pred (t : Thread) (p : Nat) : Bool := p = 7 || t.preds.getLsbD p

/-- Whether a register is poisoned in this thread. -/
def Thread.poisoned (t : Thread) (r : Nat) : Bool := t.poison.contains r

/-- Whether a predicate is poisoned; P7 never is (R406). -/
def Thread.predPoisoned (t : Thread) (p : Nat) : Bool := p ≠ 7 && (t.predTok.get? p).isSome

/-- The token of the lowest poisoned register among `n` from `r` (R411). -/
def Thread.spanTok (t : Thread) (r : Nat) : Nat → Option Word
  | 0 => none
  | n + 1 => if t.poisoned r then some (t.reg r) else t.spanTok (r + 1) n

/-- The token of a poisoned predicate. -/
def Thread.predTok? (t : Thread) (p : Nat) : Option Word := if p = 7 then none else t.predTok.get? p

/-- Insert into a rising list without repeats. -/
def insertNat (x : Nat) : List Nat → List Nat
  | [] => [x]
  | y :: ys => if x < y then x :: y :: ys else if x = y then y :: ys else y :: insertNat x ys

/-- Write a clean value to a register: its poison bit clears (R406). -/
def Thread.setReg (t : Thread) (r : Nat) (v : Word) : Thread :=
  { t with regs := t.regs.put 0#32 r v, poison := t.poison.filter (· != r) }

/-- Write a token to a register and set its poison bit. -/
def Thread.poisonReg (t : Thread) (r : Nat) (tok : Word) : Thread :=
  { t with regs := t.regs.put 0#32 r tok, poison := insertNat r t.poison }

/-- Write `n` registers from a number, least significant word first. -/
def Thread.setRegs (t : Thread) (r : Nat) : Nat → Nat → Thread
  | 0, _ => t
  | n + 1, v => (t.setReg r (BitVec.ofNat 32 v)).setRegs (r + 1) n (v / 2 ^ 32)

/-- Write a predicate; a write to P7 is ignored (R26). -/
def Thread.setPred (t : Thread) (p : Nat) (b : Bool) : Thread :=
  if p = 7 then t
  else
    let m := 1#8 <<< p
    { t with preds := if b then t.preds ||| m else t.preds &&& ~~~m, predTok := t.predTok.erase p }

/-- Poison a predicate with a token; P7 is never poisoned (R406). -/
def Thread.poisonPred (t : Thread) (p : Nat) (tok : Word) : Thread :=
  if p = 7 then t else { t with predTok := t.predTok.insert p tok }

/-- A destination: registers `r` to `r + n − 1`, or a predicate. -/
inductive Dst where
  | v (r n : Nat)
  | p (r : Nat)
deriving DecidableEq, Repr

/-- What a destination receives: a value, or a poison token with the thread that owns its record (R409, R411). -/
inductive Out where
  | val (v : Nat)
  | tok (t : Word) (owner : Nat)
deriving DecidableEq, Repr

/-! ### Deferred-fault rings (R408, R409, R415) -/

/-- The ring index a token names. -/
def tokRing (t : Word) : Nat := (t.toNat >>> 22) % 4

/-- A token with another ring index. -/
def setTokRing (t : Word) (i : Nat) : Word := BitVec.ofNat 32 (t.toNat - tokRing t * 2 ^ 22 + (i % 4) * 2 ^ 22)

/-- The fault code a token carries. -/
def tokCode (t : Word) : Byte := t.extractLsb' 24 8

/-- A lost record for a token (R408, R409, R415). -/
def lostRec (t : Word) : RingRec := { RingRec.empty with v := true, lost := true, code := tokCode t, tok := t }

/-- The record a token names in a thread's ring, or the lost record (R415). -/
def Thread.attached (th : Thread) (t : Word) : RingRec :=
  let e := th.ring.getD (tokRing t) RingRec.empty
  if e.v && e.tok = t then e else lostRec t

/-- Write a record at NEXT of a ring; NEXT rises mod 4 (R408). -/
def Thread.pushRec (th : Thread) (r : RingRec) : Thread :=
  { th with ring := th.ring.insert th.next.toNat r, next := th.next + 1 }

/-- A token arrives in a thread other than its record's owner: a copy of `copy` is written at NEXT and the token renamed;
a thread whose ring already holds the record takes the token unchanged (R409). -/
def State.adopt (s : State) (k : Nat) (t : Word) (copy : RingRec) : Word × State :=
  let th := s.thread k
  let e := th.ring.getD (tokRing t) RingRec.empty
  if e.v && e.tok = t then (t, s)
  else
    let t' := setTokRing t th.next.toNat
    (t', s.updThread k (fun th => th.pushRec { copy with tok := t' }))

/-- A token owned by thread `owner` enters thread `k` (R409). -/
def State.relocate (s : State) (owner k : Nat) (t : Word) : Word × State :=
  if owner = k then (t, s) else s.adopt k t ((s.thread owner).attached t)

/-- Give a thread's destination a value or a token; every register of a span takes the same token (R407), and a write to P7 is
ignored (R26, R422). -/
def State.writeDst (s : State) (k : Nat) (d : Dst) (o : Out) : State :=
  match o, d with
  | .val v, .v r n => s.updThread k (fun th => th.setRegs r n v)
  | .val v, .p r => s.updThread k (fun th => th.setPred r (v % 2 = 1))
  | .tok t ow, .v r n =>
    let a := s.relocate ow k t
    a.2.updThread k (fun th => (List.range n).foldl (fun th i => th.poisonReg (r + i) a.1) th)
  | .tok t ow, .p r =>
    let a := if r = 7 then (t, s) else s.relocate ow k t
    a.2.updThread k (fun th => th.poisonPred r a.1)

/-! ### Labels (R36, R39, R147) -/

/-- The flow label: the carried label and the labels of pending join points (R39). -/
def Thread.flow (t : Thread) : Label := t.joins.foldl (fun l j => l ||| j.2.label) t.carried

/-- The label of a warp register. -/
def Slot.regLabel (sl : Slot) (r : Nat) : Label := sl.regLabels.getD r sl.fill

/-- The label of `n` warp registers from `r`. -/
def Slot.spanLabel (sl : Slot) (r n : Nat) : Label := Label.union ((List.range n).map (fun i => sl.regLabel (r + i)))

/-- The label of a predicate; P7 carries the empty label (R123). -/
def Slot.predLabel (sl : Slot) (p : Nat) : Label := if p = 7 then 0#64 else sl.predLabels.getD p sl.fill

/-- Set the label of a warp register. -/
def Slot.setRegLabel (sl : Slot) (r : Nat) (l : Label) : Slot := { sl with regLabels := sl.regLabels.insert r l }

/-- Set the label of a predicate; P7's stays empty. -/
def Slot.setPredLabel (sl : Slot) (p : Nat) (l : Label) : Slot :=
  if p = 7 then sl else { sl with predLabels := sl.predLabels.insert p l }

/-- The labels a destination's registers take (R147). -/
def Slot.labelDst (sl : Slot) (whole : Bool) (l : Label) (d : Dst) : Slot :=
  match d with
  | .v r n => (List.range n).foldl (fun sl i => sl.setRegLabel (r + i) (if whole then l else sl.regLabel (r + i) ||| l)) sl
  | .p r => sl.setPredLabel r (if whole then l else sl.predLabel r ||| l)

/-- The union of the flow labels of lanes of the issuing slot. -/
def State.flows (s : State) (ls : List Nat) : Label := Label.union (ls.map (fun l => (s.lane l).flow))

/-- L of R147: guard, sources, memory label and the flows of the executing lanes. -/
def State.labelL (s : State) (gp : Nat) (ex : List Nat) (srcs m : Label) : Label :=
  s.curSlot.predLabel gp ||| srcs ||| m ||| s.flows ex

/-- Whether lanes are every lane of the slot that holds a thread (R147). -/
def State.wholeSlot (s : State) (ls : List Nat) : Bool := s.curSlot.lanes.all (fun p => ls.contains p.1)

/-- Destinations of an instruction take their labels; nothing when no lane wrote (R147). -/
def State.labelDsts (s : State) (ls : List Nat) (ds : List Dst) (l : Label) : State :=
  if ls.isEmpty then s
  else
    let whole := s.wholeSlot ls
    s.updSlot s.cur.slotKey (fun sl => ds.foldl (fun sl d => sl.labelDst whole l d) sl)

/-! ### Guards and going on (R107, R110) -/

/-- Whether a lane executes: its guard is true, or poisoned (R110). -/
def State.executes (s : State) (gn : BitVec 1) (gp : BitVec 3) (l : Nat) : Bool :=
  let t := s.lane l
  t.predPoisoned gp.toNat || xorB (t.pred gp.toNat) (gn = 1#1)

/-- The executing lanes of the issuing group, ascending. -/
def State.execLanes (s : State) (gn : BitVec 1) (gp : BitVec 3) : List Nat := s.cur.lanes.filter (s.executes gn gp)

/-- The PC after the instruction: the next index, or the next clause after index CNT (R107). -/
def Cur.nextPC (c : Cur) : PC := if c.idx < c.cnt then ⟨c.hdr, c.idx + 1⟩ else ⟨c.next, 0⟩

/-- The PC of the instruction. -/
def Cur.pc (c : Cur) : PC := ⟨c.hdr, c.idx⟩

/-- Send lanes to a PC. -/
def State.sendLanes (s : State) (ls : List Nat) (pc : PC) : State := ls.foldl (fun s l => s.updLane l (fun t => { t with pc := pc })) s

/-- Lanes continue after the instruction. -/
def State.advance (s : State) (ls : List Nat) : State := s.sendLanes ls s.cur.nextPC

/-- The lanes of the issuing group that are not in a list. -/
def State.othersOf (s : State) (ls : List Nat) : List Nat := s.cur.lanes.filter (fun l => !ls.contains l)

/-- The group cannot issue: nothing happens but the reason is noted (R30, R364). -/
def State.hold (s : State) (reason : Nat) : State :=
  { s with holds := s.holds.filter (fun h => h.slot ≠ s.cur.slotKey || h.pc ≠ s.cur.pc) ++ [⟨s.cur.slotKey, s.cur.pc, reason⟩] }

/-! ### Scoreboard tokens (R115, R269, R270) -/

/-- A token of a thread. -/
def Thread.sb (t : Thread) (k : Nat) : Token := t.sbs.getD k Token.zero

/-- Set a token. -/
def Thread.setSb (t : Thread) (k : Nat) (x : Token) : Thread := { t with sbs := t.sbs.put Token.zero k x }

/-- An operation starts counting on SBk of a thread. -/
def State.tokenUp (s : State) (th k : Nat) : State :=
  s.updThread th (fun t => t.setSb k { t.sb k with count := (t.sb k).count + 1 })

/-- A thread's stores have drained and its tokens read zero, so that EXIT may go on (R154). -/
def Thread.drained (t : Thread) : Bool := t.storeQ.isEmpty && t.sbs.all (fun p => p.2.count = 0)

/-- A thread in EXIT's drain issues EXIT again once it has drained (R154). -/
def Thread.wakeExit (t : Thread) : Thread :=
  if t.wait = .exit && t.drained then { t with wait := .none, status := .active } else t

/-- A status enters a token: the first non-normal status stands until it is read (R270), and a normal completion leaves its
INFO, 0 but for a release (R269, R331; notes/assumptions 36). -/
def Token.take (x : Token) (code : Byte) (ring : BitVec 2) (info : BitVec 16) (lab : Label) : Token :=
  if x.code ≠ 0#8 then x
  else if code = 0#8 then { x with info := info }
  else { x with code := code, ring := ring, info := info, label := lab }

/-- A token whose status has been read: CODE becomes 0, and with it RING and INFO (R269 to R271). -/
def Token.read (x : Token) : Token := { x with code := 0, ring := 0, info := 0 }

/-- An operation completes on SBk with a status (R270), and a thread that waits on the token in XWAIT issues again when the
count is zero (R271), one in EXIT's drain when all are (R154). -/
def State.tokenDown (s : State) (th k : Nat) (code : Byte) (ring : BitVec 2) (info : BitVec 16) (lab : Label) : State :=
  s.updThread th (fun t =>
    let y := (t.sb k).take code ring info lab
    let z := { y with count := y.count - 1 }
    let t1 := t.setSb k z
    (if z.count = 0 && t1.wait = .token k then { t1 with wait := .none, status := .active } else t1).wakeExit)

/-- Complete a token of several threads with one status. -/
def State.tokensDown (s : State) (ths : List Nat) (k : Nat) (code : Byte) (info : BitVec 16) (lab : Label) : State :=
  ths.foldl (fun s th => s.tokenDown th k code 0 info lab) s

/-! ### Faults (R389 to R395) -/

/-- A fault of one lane: code, INFO, whether raised from poison, the faulting address as formed (with whether there is one),
the IPA of a stage-two fault, the cause detail (R402), the attached record and the label of %paddr and %pdef (R416). -/
structure Flt where
  code : Nat
  info : Nat
  dfr : Bool
  addr : Double
  hasAddr : Bool
  ipa : Nat
  det : Double
  attached : Option RingRec
  label : Label
  stop : Bool
deriving DecidableEq, Repr

/-- A fault without an address. -/
def Flt.plain (code info : Nat) : Flt := ⟨code, info, false, 0, false, 0, 0, none, 0, false⟩

/-- A fault at an address. -/
def Flt.at (code info : Nat) (addr : Double) : Flt := ⟨code, info, false, addr, true, 0, 0, none, 0, false⟩

/-- Whether a fault is a stage-two fault that is not deferred (R389, R415). -/
def Flt.stageTwo (f : Flt) : Bool := !f.dfr && (f.code = 0x04 || f.code = 0x09 || f.code = 0x0A || f.code = 0x19)

/-- Whether a fault's record goes to the hypervisor queue: stage-two codes that are not deferred, SAVE, and every fault of a
handler stand (R389, R403, R415). -/
def Flt.hyp (f : Flt) (handler : Bool) : Bool := handler || f.stageTwo

/-- The 64 KiB page of a fault: of the IPA for a stage-two fault, of the address (VA, or the bits of a bad pointer), of the
attached record's address, else of the instruction (R392, R394, R415). -/
def Flt.page (f : Flt) (insn : Nat) : Nat :=
  let va (a : Double) : Nat :=
    let v := a.toNat
    if v / 2 ^ 60 ≠ 0 then v / 0x10000 * 0x10000 else (v % 2 ^ 56) / 0x10000 * 0x10000
  if f.stageTwo then f.ipa / 0x10000 * 0x10000
  else match f.attached with
    | some r => if r.addr = 0 then insn / 0x10000 * 0x10000 else va r.addr
    | none => if f.hasAddr then va f.addr else insn / 0x10000 * 0x10000

/-- The handle of a sub-warp (R392). -/
def handleOf (slotKey num : Nat) (gen : Byte) : Word :=
  let site := slotKey / 64
  let quad := slotKey / 16 % 4
  let slot := slotKey % 16
  BitVec.ofNat 32 (site % 8192 + quad * 2 ^ 13 + slot * 2 ^ 15 + (num % 32) * 2 ^ 19 + gen.toNat * 2 ^ 24)

/-- Whether two records have one key (R395). -/
def TrapRec.sameKey (a b : TrapRec) : Bool :=
  a.code = b.code && a.dfr = b.dfr && a.info = b.info && a.page = b.page && a.grid = b.grid && a.stand = b.stand
    && a.hyp = b.hyp && a.vf = b.vf

/-- The earlier of two arrivals. -/
def earlier (a b : Option Nat) : Option Nat :=
  match a, b with
  | some x, some y => some (min x y)
  | some x, none => some x
  | none, y => y

/-- A fault joins a record of its key (R395). -/
def TrapRec.join (a b : TrapRec) : TrapRec :=
  { a with nl := min 0xFFFFFFFF (a.nl + b.nl), slots := a.slots ||| b.slots, parks := a.parks ++ b.parks
           kill := earlier a.kill b.kill }

/-- A record closes 64 cycles after it opened (R395). -/
def TrapRec.closes (a : TrapRec) (clk : Double) : Bool := 64 ≤ (clk - a.opened).toNat

/-- Whether a fault joins a record: equal keys, and the record is still open (R395). -/
def TrapRec.takes (a r : TrapRec) : Bool := a.sameKey r && !a.closes r.opened

/-- Replace the first element that satisfies a test. -/
def replaceFirst {α : Type} (p : α → Bool) (f : α → α) : List α → List α
  | [] => []
  | x :: xs => if p x then f x :: xs else x :: replaceFirst p f xs

/-- A fault reaches the coalescer: it joins an open record of its key, opens one when fewer than four are open and its queue is
not full, and otherwise waits for a place; none is lost (R395). -/
def Core.join (c : Core) (full : Bool) (r : TrapRec) : Core :=
  if c.open4.any (·.takes r) then { c with open4 := replaceFirst (·.takes r) (·.join r) c.open4 }
  else if c.open4.length < 4 && !full then { c with open4 := c.open4 ++ [r] }
  else { c with waiting := c.waiting ++ [r] }

/-- A record reaches a core's coalescer (R395). -/
def State.joinTrap (s : State) (core : Nat) (r : TrapRec) : State := s.updCore core (·.join (s.queueFull r) r)

/-- The lowest sub-warp number that is free in a slot (R392). -/
def Slot.freeNum (sl : Slot) : Nat :=
  match (List.range 32).find? (fun n => !(sl.parked.any (·.num = n))) with
  | some n => n
  | none => 31

/-- The grid number, and the stand number in its grid, of a stand key. -/
def gridOf (stand : Nat) : Nat := stand / 8192

/-! ### The migration ring (R334, R442) -/

/-- log2 of the migration ring's entry count (R317). -/
def State.migSize (s : State) (v : Nat) : Nat := s.field (ctxAt v 0x40) 0 4

/-- Where entry `n` of the migration ring lies (R317, R334). -/
def State.migEntry (s : State) (v n : Nat) : Nat :=
  let size := 32 * 2 ^ s.migSize v
  s.ctxAddr v 0x40 / size * size + 32 * (n % 2 ^ s.migSize v)

/-- The bytes of a migration record (R334). -/
def MigRec.bytes (m : MigRec) (v id : Nat) : List Byte :=
  leBytes 32 (m.page / 0x10000 % 2 ^ 36 + id * 2 ^ 64 + v * 2 ^ 80 + siteX m.site * 2 ^ 96 + siteY m.site * 2 ^ 104
    + min 0xFFFF m.nl * 2 ^ 112)

/-- The next ID that is not pending; `fuel` bounds the search (R442). -/
def freshMigId (used : List Nat) : Nat → Nat → Nat
  | 0, id => id
  | n + 1, id => if used.contains id then freshMigId used n ((id + 1) % 2 ^ 16) else id

/-- The IDs that are pending. -/
def Function.migUsed (f : Function) : List Nat := f.migIds.filterMap (fun m => m.written.map Prod.fst)

/-- Write one migration record, if the ring has room: it takes the next ID, and MIGH rises (R334, R442). -/
def State.writeMig (s : State) (v : Nat) (m : MigRec) : State :=
  let head := s.field (ctxAt v 0x48) 0 32
  let tail := s.field (ctxAt v 0x50) 0 32
  if 2 ^ s.migSize v ≤ (head + 2 ^ 32 - tail) % 2 ^ 32 then s
  else
    let f := s.functions.getD v Function.empty
    let id := freshMigId f.migUsed (2 ^ 16) f.nextMig
    let s1 := (s.deviceStore 0 (s.migEntry v head) (m.bytes v id)).setReg (ctxAt v 0x48) (BitVec.ofNat 64 ((head + 1) % 2 ^ 32))
    s1.updFunction v (fun f => { f with nextMig := (id + 1) % 2 ^ 16, migIds := f.migIds.map (fun x =>
      if x.page = m.page then { x with written := some (id, head) } else x) })

/-- The records that wait for room are written as it appears, in the order of their faults. -/
def State.settleMig (s : State) (v : Nat) : State :=
  ((s.functions.getD v Function.empty).migIds.filter (fun m => m.written.isNone)).foldl (fun s m => s.writeMig v m) s

/-- Whether record `n` of the migration ring still has its entry: no later record has taken it (R442). -/
def State.ownsEntry (s : State) (v n : Nat) : Bool := (s.field (ctxAt v 0x48) 0 32 + 2 ^ 32 - n) % 2 ^ 32 ≤ 2 ^ s.migSize v

/-- Lanes park on a page under migration: they join the page's pending record, whose NL rises, or a new record is due (R334,
R442). -/
def State.notePage (s : State) (v page site nl : Nat) : State :=
  match (s.functions.getD v Function.empty).migIds.find? (fun m => m.page = page) with
  | some m =>
    let x := { m with nl := m.nl + nl }
    let s1 := s.updFunction v (fun f => { f with migIds := f.migIds.map (fun y => if y.page = page then x else y) })
    match m.written with
    | some (id, n) => if s.ownsEntry v n then s1.deviceStore 0 (s.migEntry v n) (x.bytes v id) else s1
    | none => s1
  | none => (s.updFunction v (fun f => { f with migIds := f.migIds ++ [⟨page, site, nl, none⟩] })).settleMig v

/-! ### Debug stops (R373, R374) -/

/-- The PC groups of a slot: lane mask, PC and passed-over count of each. -/
def State.slotGroups (s : State) (sl : Slot) : List (Nat × PC × Nat) :=
  let act := sl.lanes.filterMap (fun p => let t := s.thread p.2; if t.status = .active then some (p.1, t.pc) else none)
  (act.map Prod.snd).eraseDups.map (fun pc =>
    (maskOf ((act.filter (fun a => a.2 = pc)).map Prod.fst), pc, ((sl.passed.find? (fun x => x.1 = pc)).map Prod.snd).getD 0))

/-- A quadrant stops: cause, code, the stopping thread's PC and lane, and every slot's PC groups are recorded (R374). REQ, which
R373 gives no clearing event, stays set until the quadrant resumes: DESIGN CHOICE (notes/assumptions 49). -/
def State.stopQuad (s : State) (core q cause code : Nat) (pc : Nat) (lane : Nat) (recs : List TrapRec) : State :=
  let k := 4 * core + q
  let groups := (List.range 16).map (fun w => (w, s.slotGroups (s.slotAt (16 * k + w))))
  let s1 := s.updQuad k (fun qd => { qd with stopped := some ⟨cause, code, s.clk core, BitVec.ofNat 64 pc, lane, groups, recs⟩ })
  s1.setReg (dbgAt core (0x40 + 8 * q))
    (putField (putField (putField (s1.reg (dbgAt core (0x40 + 8 * q))) 2 1 1) 4 2 cause) 8 8 code)

/-- A STOP watchpoint hit stops the quadrant; the record of the parked lanes waits for the resume (R369, R402). -/
def State.stopWith (s : State) (info : Nat) (ls : List Nat) (r : TrapRec) : State :=
  match (s.quadAt (4 * s.cur.core + s.cur.quad)).stopped with
  | some st => s.updQuad (4 * s.cur.core + s.cur.quad) (fun qd => { qd with stopped := some { st with recs := st.recs ++ [r] } })
  | none => s.stopQuad s.cur.core s.cur.quad 1 (info / 8 + 32 * (info % 8)) (s.cur.hdr + s.cur.idx) (ls.headD 0) [r]

/-- Park the lanes of one sub-warp: number, generation, record and status (R391, R392, R395). -/
def State.parkGroup (s : State) (f : Flt) (page : Nat) (ls : List (Nat × Flt)) : State :=
  let sk := s.cur.slotKey
  let sl := s.slotAt sk
  let st := sl.stand
  let v := s.vfOf st
  let num := sl.freeNum
  let gen := BitVec.ofNat 8 (sl.gens.getD num 0 + 1)
  let hyp := f.hyp (isHandler st)
  let lanes := ls.map (fun p => ({ lane := p.1, thread := s.laneKey p.1, addr := p.2.addr, det := p.2.det, ipa := p.2.ipa,
                                   attached := p.2.attached, label := p.2.label } : ParkedLane))
  let pk : Parked := { num := num, gen := gen, code := BitVec.ofNat 8 f.code, dfr := f.dfr, info := BitVec.ofNat 16 f.info,
                       page := page, hyp := hyp, lanes := lanes, dest := s.cur.nextPC, mark := none, seq := none,
                       arrival := s.tick }
  let s1 := s.updSlot sk (fun sl => { sl with parked := sl.parked ++ [pk], gens := sl.gens.insert num gen.toNat })
  let s2 := ls.foldl (fun s p => s.updLane p.1 (fun t => { t with status := .parked, wait := .none })) s1
  if f.code = 0x0B && !f.dfr then s2.notePage v (f.ipa / 0x10000 * 0x10000) s.cur.core ls.length
  else
    let r : TrapRec := { code := BitVec.ofNat 8 f.code, dfr := f.dfr, info := BitVec.ofNat 16 f.info, page := page,
                         grid := gridOf st, stand := st, stage := sl.stage, hyp := hyp, hdl := isHandler st, vf := v,
                         org := s.vfOrigin v, clk := s.clk s.cur.core, opened := s.clk s.cur.core, nl := ls.length,
                         slots := BitVec.ofNat 64 (2 ^ (16 * s.cur.quad + s.cur.slot)), parks := [(sk, num, gen.toNat)],
                         kill := none, arrival := s.tick }
    if ls.any (fun p => p.2.stop) then s2.stopWith f.info (ls.map Prod.fst) r else s2.joinTrap s.cur.core r

/-- Whether two faults fall into one sub-warp: equal code, DEF, INFO and page (R392). -/
def Flt.sameGroup (insn : Nat) (a b : Flt) : Bool :=
  a.code = b.code && a.dfr = b.dfr && a.info = b.info && a.page insn = b.page insn

/-- Split faults into groups, one for each distinct key, in order of first lane; `fuel` bounds the groups. -/
def faultGroups (insn : Nat) : Nat → List (Nat × Flt) → List (List (Nat × Flt))
  | 0, _ => []
  | _, [] => []
  | n + 1, p :: ps =>
    (p :: ps.filter (fun q => p.2.sameGroup insn q.2))
      :: faultGroups insn n (ps.filter (fun q => !(p.2.sameGroup insn q.2)))

/-- TAKING AN EXCEPTION. Lanes fault precisely at the issuing instruction: they park as one sub-warp for each distinct
(code, DEF, INFO, page) and reach the coalescer (R391, R392, R395). The management core's thread parks without a record and
the management domain logs KIND 0x71 (R473). -/
def State.park (s : State) (fs : List (Nat × Flt)) : State :=
  match fs with
  | [] => s
  | (_, f0) :: _ =>
    if s.onMgmt then
      (fs.foldl (fun s p => s.updLane p.1 (fun t => { t with status := .parked })) s).logError 0x71 3 0x3FF 0 s.noLoc 1 f0.code
    else
      (faultGroups s.cur.at_ 32 fs).foldl (fun s g =>
        match g with
        | [] => s
        | (_, f) :: _ => s.parkGroup f (f.page s.cur.at_) g) s

/-- Every listed lane parks with one fault, and the group's other lanes continue (R391, R419). -/
def State.parkAll (s : State) (ls : List Nat) (f : Flt) : State := (s.park (ls.map (fun l => (l, f)))).advance (s.othersOf ls)

/-! ### Raising poison (R414 to R416) -/

/-- The fault that a raise delivers with an attached record: its address is the record's, or with ADDR 0 the raising
instruction's (R415); `lab` is the label captured (R416). -/
def State.attachedFlt (s : State) (a : RingRec) (lab : Label) : Flt :=
  { code := a.code.toNat, info := a.info.toNat, dfr := true, addr := if a.addr = 0 then BitVec.ofNat 64 s.cur.at_ else a.addr,
    hasAddr := a.addr ≠ 0, ipa := 0, det := a.det.setWidth 64, attached := some a, label := lab, stop := false }

/-- The fault of a lane that raises token `t` (R415). -/
def State.raiseFlt (s : State) (l : Nat) (t : Word) (lab : Label) : Flt := s.attachedFlt ((s.lane l).attached t) lab

/-! ### Resolving a sub-warp (R163, R184, R400) -/

/-- The slot key, sub-warp number and generation a handle names. -/
def handleSlot (h : Word) : Nat :=
  64 * (h.toNat % 8192) + 16 * (h.toNat / 2 ^ 13 % 4) + h.toNat / 2 ^ 15 % 16
/-- The sub-warp number of a handle. -/
def handleNum (h : Word) : Nat := h.toNat / 2 ^ 19 % 32
/-- The generation of a handle. -/
def handleGen (h : Word) : Byte := h.extractLsb' 24 8

/-- A parked sub-warp with the stand it belongs to and whether that stand is saved. -/
structure Found where
  slot : Nat
  stand : Nat
  saved : Bool
  sub : Parked
deriving DecidableEq, Repr

/-- The parked sub-warps of a slot key, in place or in the saved state of a stand of that site. -/
def State.parkedAt (s : State) (slotKey : Nat) : List Found :=
  let live := match s.slots.get? slotKey with
    | some sl => sl.parked.map (fun p => ⟨slotKey, sl.stand, false, p⟩)
    | none => []
  let saved := s.stands.flatMap (fun e => match e.2.saved with
    | some sv => match sv.slots.get? slotKey with
      | some sl => sl.parked.map (fun p => ⟨slotKey, e.1, true, p⟩)
      | none => []
    | none => [])
  live ++ saved

/-- The sub-warp a valid handle names (R392). -/
def State.findSub (s : State) (h : Word) : Option Found :=
  (s.parkedAt (handleSlot h)).find? (fun f => f.sub.num = handleNum h && f.sub.gen = handleGen h && f.sub.mark = none)

/-- Change a parked sub-warp where it stands. -/
def State.updSub (s : State) (f : Found) (g : Parked → Option Parked) : State :=
  let ed (sl : Slot) : Slot := { sl with parked := sl.parked.filterMap (fun p => if p.num = f.sub.num then g p else some p) }
  if f.saved then
    s.updStand f.stand (fun st => { st with saved := st.saved.map (fun sv => { sv with slots := sv.slots.modify f.slot ed }) })
  else s.updSlot f.slot ed

/-- A parked thread becomes Active again at its PC, or after the parked instruction, whose progress is dropped (R163). -/
def Thread.resume (skip : Bool) (dest : PC) (t : Thread) : Thread :=
  if skip then { t with status := .active, pc := dest, prog := 0, qlane := .idle } else { t with status := .active }

/-- A thread leaves its interrupted matrix operations, whose progress SKIP drops (R163, R266). -/
def State.dropOps (s : State) (thread : Nat) : State :=
  s.updStand (s.thread thread).stand (fun st => { st with
    ops := (st.ops.map (fun o => { o with lanes := o.lanes.filter (fun p => p.2 != thread) })).filter (fun o => !o.lanes.isEmpty) })

/-- The threads of a sub-warp run again (R163). -/
def State.resumeLanes (s : State) (sub : Parked) (skip : Bool) : State :=
  sub.lanes.foldl (fun s l =>
    let s1 := s.updThread l.thread (Thread.resume skip sub.dest)
    if skip then s1.dropOps l.thread else s1) s

/-- RETURN FROM AN EXCEPTION. The sub-warp's threads become Active at the resume PC: that of the parked instruction, or the
one after it under SKIP (R163), where an interrupted instruction's progress is dropped. A saved sub-warp is marked and runs
after restore (R184). -/
def State.resumeSub (s : State) (f : Found) (skip : Bool) : State :=
  if f.saved then s.updSub f (fun p => some { p with mark := some skip })
  else (s.resumeLanes f.sub skip).updSub f (fun _ => none)

end Sys2Proof.Machine
end

