-- ==== Sys2Proof/Machine/Operands.lean ====
section
/-!
DEFINITION. Operand forms (R111, R112, R116, R147, R148) and the one way an instruction that only computes on registers
acts: checks of R419, poison of R411, results, labels.
-/

namespace Sys2Proof

/-! ### Fields of format G -/

/-- D as a number. -/
def GFmt.rd (f : GFmt) : Nat := f.d.toNat
/-- A as a number. -/
def GFmt.ra (f : GFmt) : Nat := f.a.toNat
/-- B as a number. -/
def GFmt.rb (f : GFmt) : Nat := f.b.toNat
/-- C as a number. -/
def GFmt.rc (f : GFmt) : Nat := f.c.toNat
/-- SEL[hi:lo] as a number. -/
def GFmt.s (f : GFmt) (lo n : Nat) : Nat := Machine.bits f.sel.toNat lo n
/-- Bits of [53:50] as a number. -/
def GFmt.xs (f : GFmt) (lo n : Nat) : Nat := Machine.bits f.x.toNat lo n

/-- The fields of A are zero (R118). -/
def GFmt.noA (f : GFmt) : Bool := f.a = 0 && f.ma = 0
/-- The fields of B are zero (R118). -/
def GFmt.noB (f : GFmt) : Bool := f.b = 0 && f.mb = 0
/-- The fields of C are zero (R118). -/
def GFmt.noC (f : GFmt) : Bool := f.c = 0 && f.mc = 0

/-- Every field after GP but those named is zero: `keep` lists D, A, B, C, SEL as Booleans (R118). Modifiers and [53:50]
must be zero. -/
def GFmt.bare (f : GFmt) (kd ka kb kc ks kx : Bool) : Bool :=
  (kx || f.x = 0) && (kd || f.d = 0) && (ka || f.a = 0) && (kb || f.b = 0) && (kc || f.c = 0) && (ks || f.sel = 0)
    && f.ma = 0 && f.mb = 0 && f.mc = 0

end Sys2Proof

namespace Sys2Proof.Machine

/-! ### Modifiers (R112) -/

/-- What a source operand holds, as R112 distinguishes it: a 32-bit integer with its signedness, packed elements of 16, 8
or 4 bits, or anything else (floats of 32 bits, pairs, predicates), which takes no modifier. -/
inductive Elem where
  | int (nat : Bool)
  | packed (w : Nat)
  | plain
deriving DecidableEq, Repr

/-- Whether a modifier code is legal on an operand (R112). -/
def Elem.allows (e : Elem) (m : Nat) : Bool :=
  m = 0 || match e with
    | .int _ => true
    | .packed w => w ≤ 8 || m ≤ 3
    | .plain => false

/-- The operand's bits after a modifier (R112). -/
def Elem.modify (e : Elem) (m v : Nat) : Nat :=
  if m = 0 then v
  else if m = 3 then bits v 16 16 + 2 ^ 16 * bits v 0 16
  else
    let w := if m ≤ 2 then 16 else 8
    let x := if m ≤ 2 then bits v (16 * (m - 1)) 16 else bits v (8 * (m - 4)) 8
    match e with
    | .int nat => wrap 32 (readInt nat w x)
    | _ => joinElems w (List.replicate (32 / w) x)

/-- The element kind of an integer operand of width `w` (R112, R171). -/
def intElem (nat : Bool) (w : Nat) : Elem := if w = 32 then .int nat else if w = 64 then .plain else .packed w

/-! ### Sources -/

/-- What an instruction reads: registers `r` to `r + n − 1`, or a predicate. -/
inductive Src where
  | v (r n : Nat)
  | p (r : Nat)
deriving DecidableEq, Repr

/-- The token of a poisoned source, a span counting by its lowest poisoned register (R411). -/
def Src.token (t : Thread) : Src → Option Word
  | .v r n => t.spanTok r n
  | .p r => t.predTok? r

/-- The label of a source (R126). -/
def Src.label (sl : Slot) : Src → Label
  | .v r n => sl.spanLabel r n
  | .p r => sl.predLabel r

/-- The union of sources' labels. -/
def Slot.srcLabel (sl : Slot) (ss : List Src) : Label := Label.union (ss.map (Src.label sl))

/-- Whether a span reaches the quota, or runs past V255 (R111, R420). -/
def overSpan (q r n : Nat) : Bool := q < r + n

/-- Whether a source reaches the quota. -/
def Src.beyond (q : Nat) : Src → Bool
  | .v r n => overSpan q r n
  | .p _ => false

/-- Whether a destination reaches the quota. -/
def Dst.beyond (q : Nat) : Dst → Bool
  | .v r n => overSpan q r n
  | .p _ => false

/-- A source operand: `n` registers with a modifier, or an immediate already widened to the operand's bits. -/
inductive Opnd where
  | reg (r n m : Nat) (e : Elem)
  | imm (v : Nat)
deriving DecidableEq, Repr

/-- An operand's bits in a thread. -/
def Opnd.val (t : Thread) : Opnd → Nat
  | .reg r n m e => e.modify m (t.regNat r n)
  | .imm v => v

/-- The registers an operand reads. -/
def Opnd.srcs : Opnd → List Src
  | .reg r n _ _ => [.v r n]
  | .imm _ => []

/-- Whether an operand is aligned to its span and its modifier legal (R111, R112). -/
def Opnd.ok : Opnd → Bool
  | .reg r n m e => r % n = 0 && e.allows m
  | .imm _ => true

/-- A register span is aligned (R111). -/
def aligned (r n : Nat) : Bool := r % n = 0

/-! ### Checks that apply to every executing lane (R419) -/

/-- Steps 5 and 6 of R419: ILL 0 for an encoding, ILL 1 for the quota. -/
def illegal (ok beyond : Bool) : Option Flt :=
  if !ok then some (.plain 0x01 0) else if beyond then some (.plain 0x01 1) else none

/-- The first fault of two tests in order. -/
def firstFault (a b : Option Flt) : Option Flt :=
  match a with
  | some f => some f
  | none => b

/-- Step 3 of R419: a supervisor-only instruction at user level (R124). -/
def State.privileged (s : State) : Option Flt := if isHandler s.curStand then none else some (.plain 0x02 0)

/-- Step 4 of R419: feature `i` is withheld (R385). -/
def State.featured (s : State) (i : Nat) : Option Flt := if s.withheld i then some (.plain 0x01 4) else none

/-- How every guarded instruction begins: in no lane it only goes on (R110); an illegal use parks every executing lane
(R419); otherwise `body` acts for the executing lanes, and answers the whole next state. -/
def State.issue (s : State) (gn : BitVec 1) (gp : BitVec 3) (bad : Option Flt) (body : List Nat → State) : State :=
  let ex := s.execLanes gn gp
  if ex.isEmpty then s.advance s.cur.lanes
  else match bad with
    | some f => s.parkAll ex f
    | none => body ex

/-! ### Instructions that only compute on registers -/

/-- An instruction that only computes on registers: whether its encoding is legal, what it reads, which of these can pass
poison on in a thread (R411, R412), what it writes, further spans that the quota test covers, and its results in a lane. -/
structure Alu where
  gn : BitVec 1
  gp : BitVec 3
  ok : Bool
  srcs : List Src
  sense : Thread → List Src
  dsts : List Dst
  spans : List Src
  eval : Nat → Thread → List Nat

/-- Step 5 and 6 of an instruction. -/
def Alu.bad (op : Alu) (q : Nat) : Option Flt :=
  illegal op.ok (op.srcs.any (·.beyond q) || op.dsts.any (·.beyond q) || op.spans.any (·.beyond q))

/-- The token that a lane carries: its guard's, else its first poisoned source's (R411). -/
def Alu.token (op : Alu) (t : Thread) : Option Word :=
  match t.predTok? op.gp.toNat with
  | some k => some k
  | none => (op.sense t).findSome? (Src.token t)

/-- What a lane's destinations receive (R411). -/
def Alu.outs (op : Alu) (s : State) (l : Nat) : List Out :=
  let t := s.lane l
  match op.token t with
  | some k => op.dsts.map (fun _ => .tok k (s.laneKey l))
  | none => (op.eval l t).map .val

/-- Write a lane's results. -/
def State.writeOuts (s : State) (k : Nat) : List Dst → List Out → State
  | d :: ds, o :: os => (s.writeDst k d o).writeOuts k ds os
  | _, _ => s

/-- Lanes write results that were all read before (R148), and the destinations take their labels (R147). -/
def State.commit (s : State) (ex : List Nat) (ds : List Dst) (L : Label) (outs : List (Nat × List Out)) : State :=
  (outs.foldl (fun s p => s.writeOuts (s.laneKey p.1) ds p.2) s).labelDsts ex ds L

/-- The label of the results (R147). -/
def Alu.label (op : Alu) (s : State) (ex : List Nat) : Label := s.labelL op.gp.toNat ex (s.curSlot.srcLabel op.srcs) 0

/-- One half of an issue, without the advance: executing lanes read, then write. `s0` is the state that is read. -/
def Alu.effect (op : Alu) (s0 s : State) (ex : List Nat) : State :=
  s.commit ex op.dsts (op.label s0 ex) (ex.map (fun l => (l, op.outs s0 l)))

/-- An instruction that only computes on registers issues. -/
def State.runAlu (s : State) (op : Alu) : State :=
  s.issue op.gn op.gp (op.bad s.quota) (fun ex => (op.effect s s ex).advance s.cur.lanes)

/-- A predicate operand field: its upper five bits are zero (R111). -/
def isPred (r : Nat) : Bool := r < 8

/-! ### %rmode (R116, R120, R141) -/

/-- The %rmode of a stage of a stand; the management core has one of its own. -/
def State.rmodeOf (s : State) (stand stage : Nat) : Word :=
  match s.stands.get? stand with
  | some st => st.rmode.getD stage 1#32
  | none => s.mgmt.rmode

/-- The %rmode of the issuing stage. -/
def State.rmode (s : State) : Nat := (s.rmodeOf s.curStand s.curSlot.stage).toNat

/-- The mode that RM selects: RM 0 takes DRM, where RSR counts only on a form whose C names RAND, and RNE stands for it
elsewhere (R116). `rand` is the W-bit random field and its width. -/
def resolveRM (rm drm : Nat) (takesRand : Bool) (w r : Nat) : RMode :=
  let m := if rm = 0 then (if drm = 6 && !takesRand then 1 else drm) else rm
  if m = 2 then .rtz else if m = 3 then .rup else if m = 4 then .rdn else if m = 5 then .rto
  else if m = 6 then .rsr w r else .rne

/-- Whether an operation with RM field `rm` rounds under RSR (R116). -/
def isRsr (rm drm : Nat) : Bool := rm = 6 || (rm = 0 && drm = 6)

/-- W and RAND of element `k` of `n` from the word of C (R138). -/
def randOf (c n k : Nat) : Nat × Nat := if n = 1 then (24, bits c 0 24) else (32 / n, bits c (32 / n * k) (32 / n))

end Sys2Proof.Machine
end

