-- ==== Sys2Proof/Machine/Flags.lean ====
section
/-!
DEFINITION. Every comparison and condition the spec gives: the codes of R179 on integers, of R190 on floats, the classes of
R191, the conditions of R219 and R233, carry and borrow of R173.
-/

namespace Sys2Proof.Machine

/-- The comparison codes 0 to 5 of R179: EQ, NE, LT, LE, GT, GE. -/
def intTest (code : Nat) (a b : Int) : Bool :=
  match code with
  | 0 => a = b
  | 1 => a ≠ b
  | 2 => a < b
  | 3 => a ≤ b
  | 4 => b < a
  | 5 => b ≤ a
  | _ => false

/-- The comparison codes of FSET (R190). -/
def floatTest (code : Nat) (a b : FloatVal) : Bool :=
  let nan := a == .nan || b == .nan
  match code with
  | 0 => eqNum a b
  | 1 => nan || !(eqNum a b)
  | 2 => cmpLt a b
  | 3 => !nan && (cmpLt a b || eqNum a b)
  | 4 => cmpLt b a
  | 5 => !nan && (cmpLt b a || eqNum a b)
  | 6 => !nan
  | _ => nan

/-- Carry out of a 32-bit addition with carry in (R173). -/
def carryOf (a b c : Nat) : Bool := 2 ^ 32 ≤ a + b + c

/-- Borrow out of a 32-bit subtraction with borrow in (R173). -/
def borrowOf (a b c : Nat) : Bool := a < b + c

/-- FCLASS (R191): the bit of a value; `v` is the encoding, `x` its value. -/
def classOf (f : Fmt) (ftz : Bool) (v : Nat) : Nat :=
  match f.decode ftz v with
  | .nan => 8
  | .inf neg => if neg then 0 else 7
  | .fin neg m _ _ =>
    let k := if m = 0 then 3 else if bits v f.mbits f.ebits = 0 then 2 else 1
    if neg then k else 7 - k

/-- The lesser or greater of two floats: −0 below +0, one NaN loses, two give NaN (R189). -/
def minMaxNum (greater : Bool) (a b : FloatVal) : FloatVal :=
  match a, b with
  | .nan, _ => b
  | _, .nan => a
  | _, _ => if greater then (if ltNum a b then b else a) else (if ltNum b a then b else a)

/-- Whether the second of two (value, index) pairs is chosen (R197): the better value, then the lower index, then the
first; a NaN loses to any number. -/
def pickSecond (greater : Bool) (a b : FloatVal) (ia ib : Nat) : Bool :=
  match a, b with
  | .nan, .nan => ib < ia
  | .nan, _ => true
  | _, .nan => false
  | _, _ =>
    let less := if greater then ltNum a b else ltNum b a
    let more := if greater then ltNum b a else ltNum a b
    if less then true else if more then false else ib < ia

/-- The same choice for integers (R197). -/
def pickSecondInt (greater : Bool) (a b : Int) (ia ib : Nat) : Bool :=
  if a = b then ib < ia else if greater then a < b else b < a

end Sys2Proof.Machine
end

