-- ==== Sys2Proof/Machine/Integer.lean ====
section
/-!
DEFINITION. Integer instructions, opcodes 0x040 to 0x069 (R171 to R182, R423).
-/

namespace Sys2Proof.Machine

/-! ### Operands of class IA (R116, R171, R172) -/

/-- The element width that SEL[1:0] names. -/
def iaWidth (f : GFmt) : Nat := 8 * 2 ^ f.s 0 2

/-- U: natural operands. -/
def iaNat (f : GFmt) : Bool := f.s 2 1 = 1

/-- IB: the last source is imm8. -/
def iaIb (f : GFmt) : Bool := f.s 4 1 = 1

/-- Registers of an operand of width `w`. -/
def regsOf (w : Nat) : Nat := if w = 64 then 2 else 1

/-- imm8 extended by signedness to each element of width `w` of `total` bits (R148). -/
def immBits (nat : Bool) (w total imm : Nat) : Nat := joinElems w (List.replicate (total / w) (wrap w (readInt nat 8 imm)))

/-- The operands of an instruction of `k` sources with spans and element kinds; IB replaces the last (R116). -/
def iaOperands (f : GFmt) (spec : List (Nat × Elem)) (imm : Nat) : List Opnd :=
  let regs := [(f.ra, f.ma.toNat), (f.rb, f.mb.toNat), (f.rc, f.mc.toNat)]
  let all := (regs.zip spec).map (fun p => Opnd.reg p.1.1 p.2.1 p.1.2 p.2.2)
  if iaIb f then all.take (spec.length - 1) ++ [.imm imm] else all

/-- The fields that `k` sources leave unused are zero, the last source's own field under IB included; `kc` keeps C[7:0]
for a predicate (R116, R118, R173). -/
def iaUnused (f : GFmt) (k : Nat) (kc : Bool) : Bool :=
  let used := if iaIb f then k - 1 else k
  (1 ≤ used || f.noA) && (2 ≤ used || f.noB) && (3 ≤ used || (f.mc = 0 && (kc || iaIb f || f.c = 0)))

/-- A row of the table of R172: widths, SAT, IB, number of sources. -/
structure IaRow where
  widths : List Nat
  sat : Bool
  ib : Bool
  n : Nat
deriving DecidableEq, Repr

/-- The arithmetic of one element: exact result from the elements read by signedness, the width given (R172). -/
abbrev ElemFn := Bool → Nat → Int → Int → Int → Int

/-- An element operation on operands' bits: `total` bits in elements of width `w` (R148, R172). -/
def elementwise (fn : ElemFn) (sat nat : Bool) (w total : Nat) (vs : List Nat) : Nat :=
  let es := vs.map (splitElems w (total / w))
  let at' (k i : Nat) : Int := readInt nat w ((es.getD k []).getD i 0)
  joinElems w ((List.range (total / w)).map (fun i => narrow sat nat w (fn nat w (at' 0 i) (at' 1 i) (at' 2 i))))

/-- An instruction of R172 with plain element results; `xsat` and `xok` are SAT and the legality of [53:50], `count` a word
result at width 64 (R177). -/
def iaElem (f : GFmt) (row : IaRow) (xsat xok count : Bool) (fn : ElemFn) : Alu :=
  let w := iaWidth f
  let n := regsOf w
  let nat := iaNat f
  let ops := iaOperands f (List.replicate row.n (n, intElem nat w)) (immBits nat w (32 * n) f.rc)
  let nd := if count then 1 else n
  { gn := f.gn, gp := f.gp
    ok := row.widths.contains w && xok && (row.sat || !xsat) && (row.ib || !iaIb f) && f.s 3 1 = 0 && iaUnused f row.n false
      && ops.all Opnd.ok && aligned f.rd nd
    srcs := ops.flatMap Opnd.srcs
    sense := fun _ => ops.flatMap Opnd.srcs
    dsts := [.v f.rd nd]
    spans := []
    eval := fun _ t => [elementwise fn xsat nat w (32 * n) (ops.map (Opnd.val t))] }

/-- SAT of an XS form. -/
def iaSat (f : GFmt) : Bool := f.xs 3 1 = 1

/-- An element instruction with XS[2:0] zero. -/
def iaPlain (f : GFmt) (row : IaRow) (fn : ElemFn) : Alu := iaElem f row (iaSat f) (f.xs 0 3 = 0) false fn

/-- Every width of R172. -/
def wAll : List Nat := [8, 16, 32, 64]

/-! ### Element results (R172, R174, R175, R177) -/

/-- The quotient of R174. -/
def divInt (nat : Bool) (w : Nat) (a b : Int) : Int :=
  if b = 0 then (if nat then ((2 ^ w : Nat) : Int) - 1 else -1) else Int.tdiv a b

/-- The remainder of R174. -/
def remInt (a b : Int) : Int := if b = 0 then a else Int.tmod a b

/-- A left shift, exact (R175); counts beyond the width act alike. -/
def shlInt (w : Nat) (a b : Int) : Int := a * (2 ^ (min (wrap w b) (2 * w)) : Nat)

/-- A logical right shift (R175). -/
def shrInt (w : Nat) (a b : Int) : Int := ((wrap w a / 2 ^ (min (wrap w b) w) : Nat) : Int)

/-- An arithmetic right shift (R175). -/
def sarInt (w : Nat) (a b : Int) : Int := sext (wrap w a) w / (2 ^ (min (wrap w b) w) : Nat)

/-- A left rotation (R175). -/
def rolInt (w : Nat) (a b : Int) : Int :=
  let x := wrap w a
  let k := wrap w b % w
  ((x * 2 ^ k + x / 2 ^ (w - k) : Nat) : Int)

/-- A bitwise operation on elements. -/
def bitInt (g : Nat → Nat → Nat) (w : Nat) (a b : Int) : Int := ((g (wrap w a) (wrap w b) : Nat) : Int)

/-- The element functions, by mnemonic; the third operand is the addend. -/
def fnAdd : ElemFn := fun _ _ a b _ => a + b
/-- SUB. -/
def fnSub : ElemFn := fun _ _ a b _ => a - b
/-- NEG. -/
def fnNeg : ElemFn := fun _ _ a _ _ => 0 - a
/-- ABS. -/
def fnAbs : ElemFn := fun _ _ a _ _ => (a.natAbs : Int)
/-- MUL. -/
def fnMul : ElemFn := fun _ _ a b _ => a * b
/-- MULH. -/
def fnMulh : ElemFn := fun _ w a b _ => a * b / (2 ^ w : Nat)
/-- MAD. -/
def fnMad : ElemFn := fun _ _ a b c => a * b + c
/-- MADH. -/
def fnMadh : ElemFn := fun _ w a b c => a * b / (2 ^ w : Nat) + c
/-- DIV. -/
def fnDiv : ElemFn := fun nat w a b _ => divInt nat w a b
/-- REM. -/
def fnRem : ElemFn := fun _ _ a b _ => remInt a b
/-- MIN. -/
def fnMin : ElemFn := fun _ _ a b _ => min a b
/-- MAX. -/
def fnMax : ElemFn := fun _ _ a b _ => max a b
/-- AND. -/
def fnAnd : ElemFn := fun _ w a b _ => bitInt (· &&& ·) w a b
/-- OR. -/
def fnOr : ElemFn := fun _ w a b _ => bitInt (· ||| ·) w a b
/-- XOR. -/
def fnXor : ElemFn := fun _ w a b _ => bitInt (· ^^^ ·) w a b
/-- NOT. -/
def fnNot : ElemFn := fun _ _ a _ _ => -1 - a
/-- ANDN. -/
def fnAndn : ElemFn := fun _ w a b _ => bitInt (fun x y => x &&& (2 ^ w - 1 - y)) w a b
/-- SHL. -/
def fnShl : ElemFn := fun _ w a b _ => shlInt w a b
/-- SHR. -/
def fnShr : ElemFn := fun _ w a b _ => shrInt w a b
/-- SAR. -/
def fnSar : ElemFn := fun _ w a b _ => sarInt w a b
/-- ROL. -/
def fnRol : ElemFn := fun _ w a b _ => rolInt w a b
/-- POPC. -/
def fnPopc : ElemFn := fun _ w a _ _ => ((popCount w (wrap w a) : Nat) : Int)
/-- CLZ. -/
def fnClz : ElemFn := fun _ w a _ _ => ((clz w (wrap w a) : Nat) : Int)
/-- CTZ. -/
def fnCtz : ElemFn := fun _ w a _ _ => ((ctz w (wrap w a) : Nat) : Int)
/-- BREV. -/
def fnBrev : ElemFn := fun _ w a _ _ => ((revBits w (wrap w a) : Nat) : Int)
/-- MOV. -/
def fnMov : ElemFn := fun _ _ a _ _ => a

/-! ### Rows -/

/-- Two sources, SAT and IB allowed, every width. -/
def rowAB (sat ib : Bool) : IaRow := ⟨wAll, sat, ib, 2⟩
/-- One source, no IB, every width. -/
def rowA (sat ib : Bool) : IaRow := ⟨wAll, sat, ib, 1⟩

/-- ADD (R172). -/
def execAdd (f : GFmt) (s : State) : Host.Outcome State Fault Refusal := .next (s.runAlu (iaPlain f (rowAB true true) fnAdd))
/-- SUB (R172). -/
def execSub (f : GFmt) (s : State) : Host.Outcome State Fault Refusal := .next (s.runAlu (iaPlain f (rowAB true true) fnSub))
/-- NEG (R172). -/
def execNeg (f : GFmt) (s : State) : Host.Outcome State Fault Refusal := .next (s.runAlu (iaPlain f (rowA true false) fnNeg))
/-- ABS (R172). -/
def execAbs (f : GFmt) (s : State) : Host.Outcome State Fault Refusal := .next (s.runAlu (iaPlain f (rowA true false) fnAbs))
/-- MUL (R172). -/
def execMul (f : GFmt) (s : State) : Host.Outcome State Fault Refusal := .next (s.runAlu (iaPlain f (rowAB true true) fnMul))
/-- MULH (R172). -/
def execMulh (f : GFmt) (s : State) : Host.Outcome State Fault Refusal :=
  .next (s.runAlu (iaPlain f ⟨[8, 16, 32], false, true, 2⟩ fnMulh))
/-- MAD (R172). -/
def execMad (f : GFmt) (s : State) : Host.Outcome State Fault Refusal :=
  .next (s.runAlu (iaPlain f ⟨[8, 16, 32], true, true, 3⟩ fnMad))
/-- MADH (R172). -/
def execMadh (f : GFmt) (s : State) : Host.Outcome State Fault Refusal :=
  .next (s.runAlu (iaPlain f ⟨[16, 32], false, true, 3⟩ fnMadh))
/-- DIV (R174); [53:50] are LA. -/
def execDiv (f : GFmt) (s : State) : Host.Outcome State Fault Refusal :=
  .next (s.runAlu (iaElem f (rowAB false true) false true false fnDiv))
/-- REM (R174); [53:50] are LA. -/
def execRem (f : GFmt) (s : State) : Host.Outcome State Fault Refusal :=
  .next (s.runAlu (iaElem f (rowAB false true) false true false fnRem))
/-- MIN (R172). -/
def execMin (f : GFmt) (s : State) : Host.Outcome State Fault Refusal := .next (s.runAlu (iaPlain f (rowAB false true) fnMin))
/-- MAX (R172). -/
def execMax (f : GFmt) (s : State) : Host.Outcome State Fault Refusal := .next (s.runAlu (iaPlain f (rowAB false true) fnMax))
/-- AND (R172). -/
def execAnd (f : GFmt) (s : State) : Host.Outcome State Fault Refusal := .next (s.runAlu (iaPlain f (rowAB false true) fnAnd))
/-- OR (R172). -/
def execOr (f : GFmt) (s : State) : Host.Outcome State Fault Refusal := .next (s.runAlu (iaPlain f (rowAB false true) fnOr))
/-- XOR (R172). -/
def execXor (f : GFmt) (s : State) : Host.Outcome State Fault Refusal := .next (s.runAlu (iaPlain f (rowAB false true) fnXor))
/-- NOT (R172). -/
def execNot (f : GFmt) (s : State) : Host.Outcome State Fault Refusal := .next (s.runAlu (iaPlain f (rowA false false) fnNot))
/-- ANDN (R172). -/
def execAndn (f : GFmt) (s : State) : Host.Outcome State Fault Refusal := .next (s.runAlu (iaPlain f (rowAB false true) fnAndn))
/-- SHL (R175). -/
def execShl (f : GFmt) (s : State) : Host.Outcome State Fault Refusal := .next (s.runAlu (iaPlain f (rowAB true true) fnShl))
/-- SHR (R175). -/
def execShr (f : GFmt) (s : State) : Host.Outcome State Fault Refusal := .next (s.runAlu (iaPlain f (rowAB false true) fnShr))
/-- SAR (R175). -/
def execSar (f : GFmt) (s : State) : Host.Outcome State Fault Refusal := .next (s.runAlu (iaPlain f (rowAB false true) fnSar))
/-- ROL (R175). -/
def execRol (f : GFmt) (s : State) : Host.Outcome State Fault Refusal := .next (s.runAlu (iaPlain f (rowAB false true) fnRol))
/-- POPC (R177). -/
def execPopc (f : GFmt) (s : State) : Host.Outcome State Fault Refusal :=
  .next (s.runAlu (iaElem f (rowA false false) (iaSat f) (f.xs 0 3 = 0) true fnPopc))
/-- CLZ (R177). -/
def execClz (f : GFmt) (s : State) : Host.Outcome State Fault Refusal :=
  .next (s.runAlu (iaElem f (rowA false false) (iaSat f) (f.xs 0 3 = 0) true fnClz))
/-- CTZ (R177). -/
def execCtz (f : GFmt) (s : State) : Host.Outcome State Fault Refusal :=
  .next (s.runAlu (iaElem f (rowA false false) (iaSat f) (f.xs 0 3 = 0) true fnCtz))
/-- BREV (R172). -/
def execBrev (f : GFmt) (s : State) : Host.Outcome State Fault Refusal := .next (s.runAlu (iaPlain f (rowA false false) fnBrev))
/-- MOV (R172). -/
def execMov (f : GFmt) (s : State) : Host.Outcome State Fault Refusal := .next (s.runAlu (iaPlain f (rowA false true) fnMov))

/-! ### Instructions with their own rules -/

/-- A word-width class IA form with explicit operands: the common legality (width 32, no SAT, variant zero). -/
def iaWord (f : GFmt) (ib : Bool) (spec : List (Nat × Elem)) (imm : Nat) (kc ok : Bool) (dsts : List Dst) (extra : List Src)
    (eval : List Nat → Thread → List Nat) : Alu :=
  let ops := iaOperands f spec imm
  { gn := f.gn, gp := f.gp
    ok := f.x = 0 && f.s 3 1 = 0 && (ib || !iaIb f) && iaUnused f spec.length kc && ops.all Opnd.ok && ok
    srcs := ops.flatMap Opnd.srcs ++ extra
    sense := fun _ => ops.flatMap Opnd.srcs ++ extra
    dsts := dsts
    spans := []
    eval := fun _ t => eval (ops.map (Opnd.val t)) t }

/-- A word operand of a signedness. -/
def wordSpec (f : GFmt) : Nat × Elem := (1, .int (iaNat f))

/-- Element `i` of a list of numbers. -/
def nth (vs : List Nat) (i : Nat) : Nat := vs.getD i 0

/-- ADDC and SUBB (R173). A half or byte modifier on A or B extends by U as R112 says, though R173 lets U have no effect:
DEDUCED (notes/assumptions 50). -/
def carryAlu (f : GFmt) (borrow : Bool) : Alu :=
  let p := f.rc % 8
  iaWord f false [wordSpec f, wordSpec f] 0 true (iaWidth f = 32 && isPred f.rc) [.v f.rd 1, .p p] [.p p] (fun vs t =>
    let a := nth vs 0
    let b := nth vs 1
    let c : Nat := if t.pred p then 1 else 0
    if borrow then [wrap 32 ((a : Int) - b - c), if borrowOf a b c then 1 else 0]
    else [(a + b + c) % 2 ^ 32, if carryOf a b c then 1 else 0])

/-- ADDC (R173). -/
def execAddc (f : GFmt) (s : State) : Host.Outcome State Fault Refusal := .next (s.runAlu (carryAlu f false))
/-- SUBB (R173). -/
def execSubb (f : GFmt) (s : State) : Host.Outcome State Fault Refusal := .next (s.runAlu (carryAlu f true))

/-- MULW and MADW (R172): an exact product, with a pair addend, into a pair. -/
def wideAlu (f : GFmt) (addend : Bool) : Alu :=
  let nat := iaNat f
  iaWord f (!addend) ([wordSpec f, wordSpec f] ++ if addend then [(2, Elem.plain)] else [])
    (wrap 32 (readInt nat 8 f.rc)) false (iaWidth f = 32 && aligned f.rd 2) [.v f.rd 2] [] (fun vs _ =>
      [wrap 64 (readInt nat 32 (nth vs 0) * readInt nat 32 (nth vs 1) + readInt nat 64 (nth vs 2))])

/-- MULW (R172). -/
def execMulw (f : GFmt) (s : State) : Host.Outcome State Fault Refusal := .next (s.runAlu (wideAlu f false))
/-- MADW (R172). -/
def execMadw (f : GFmt) (s : State) : Host.Outcome State Fault Refusal := .next (s.runAlu (wideAlu f true))

/-- FSHL (R175). -/
def execFshl (f : GFmt) (s : State) : Host.Outcome State Fault Refusal :=
  .next (s.runAlu (iaWord f true [wordSpec f, wordSpec f, wordSpec f] (wrap 32 (readInt (iaNat f) 8 f.rc)) false
    (iaWidth f = 32) [.v f.rd 1] [] (fun vs _ =>
      [bits ((nth vs 0 * 2 ^ 32 + nth vs 1) * 2 ^ (nth vs 2 % 32)) 32 32])))

/-- The result of BFX (R176). -/
def bfx (nat : Bool) (w a b c : Nat) : Nat :=
  let p := b % 256
  let n := min (c % 256) w
  if n = 0 then 0 else wrap w (readInt nat n (wrap (p + n) (readInt nat w a) / 2 ^ p))

/-- The result of BFI (R176). -/
def bfi (w a b c : Nat) : Nat :=
  let p := c % 256
  let n := bits c 8 8
  let mask := ((2 ^ n - 1) * 2 ^ p) % 2 ^ w
  (b &&& (2 ^ w - 1 - mask)) ||| ((a * 2 ^ p) &&& mask)

/-- BFX and BFI (R176): at width 64 A, B and D are pairs and C a word. -/
def fieldAlu (f : GFmt) (insert : Bool) : Alu :=
  let w := iaWidth f
  let n := regsOf w
  let nat := iaNat f
  iaWord f (!insert) [(n, intElem nat w), (n, intElem nat w), wordSpec f] (f.rc) false (32 ≤ w && aligned f.rd n)
    [.v f.rd n] [] (fun vs _ =>
      [if insert then bfi w (nth vs 0) (nth vs 1) (nth vs 2) else bfx nat w (nth vs 0) (nth vs 1) (nth vs 2)])

/-- BFX (R176). -/
def execBfx (f : GFmt) (s : State) : Host.Outcome State Fault Refusal := .next (s.runAlu (fieldAlu f false))
/-- BFI (R176). -/
def execBfi (f : GFmt) (s : State) : Host.Outcome State Fault Refusal := .next (s.runAlu (fieldAlu f true))

/-- The bytes that PERM selects (R178). -/
def permBytes (a b c : Nat) : Nat :=
  let src := a + 2 ^ 32 * c
  joinElems 8 ((List.range 4).map (fun k =>
    let x := bits src (8 * bits b (4 * k) 3) 8
    if bit b (4 * k + 3) then (if bit x 7 then 0xFF else 0) else x))

/-- PERM (R178). -/
def execPerm (f : GFmt) (s : State) : Host.Outcome State Fault Refusal :=
  .next (s.runAlu (iaWord f false [wordSpec f, wordSpec f, wordSpec f] 0 false (iaWidth f = 32) [.v f.rd 1] []
    (fun vs _ => [permBytes (nth vs 0) (nth vs 1) (nth vs 2)])))

/-- What SEL can pass on (R412): a poisoned predicate, else the operand it selects. -/
def selSense (a b : Opnd) (p : Nat) (t : Thread) : List Src :=
  if t.predPoisoned p then [.p p] else if t.pred p then a.srcs else b.srcs

/-- SEL with its operands (R179). -/
def selWith (gn : BitVec 1) (gp : BitVec 3) (ok : Bool) (a b : Opnd) (p : Nat) (d : Dst) : Alu :=
  { gn := gn, gp := gp, ok := ok
    srcs := a.srcs ++ b.srcs ++ [.p p]
    sense := selSense a b p
    dsts := [d]
    spans := []
    eval := fun _ t => [if t.pred p then a.val t else b.val t] }

/-- SEL (R179). -/
def selOp (f : GFmt) : Alu :=
  let w := iaWidth f
  let n := regsOf w
  let a := Opnd.reg f.ra n f.ma.toNat (intElem (iaNat f) w)
  let b := Opnd.reg f.rb n f.mb.toNat (intElem (iaNat f) w)
  selWith f.gn f.gp
    (32 ≤ w && f.x = 0 && f.s 3 2 = 0 && isPred f.rc && f.mc = 0 && a.ok && b.ok && aligned f.rd n) a b (f.rc % 8) (.v f.rd n)

/-- SEL. -/
def execSel (f : GFmt) (s : State) : Host.Outcome State Fault Refusal := .next (s.runAlu (selOp f))

/-- ISET (R179): the code is (SEL[3], XS[2:0]). -/
def isetOp (f : GFmt) : Alu :=
  let w := iaWidth f
  let n := regsOf w
  let nat := iaNat f
  let code := 8 * f.s 3 1 + f.xs 0 3
  let ops := iaOperands f [(n, intElem nat w), (n, intElem nat w)] (immBits nat w (32 * n) f.rc)
  { gn := f.gn, gp := f.gp
    ok := 32 ≤ w && f.xs 3 1 = 0 && code ≤ 5 && isPred f.rd && iaUnused f 2 false && ops.all Opnd.ok
    srcs := ops.flatMap Opnd.srcs
    sense := fun _ => ops.flatMap Opnd.srcs
    dsts := [.p (f.rd % 8)]
    spans := []
    eval := fun _ t =>
      let vs := ops.map (Opnd.val t)
      [if intTest code (readInt nat w (nth vs 0)) (readInt nat w (nth vs 1)) then 1 else 0] }

/-- ISET. -/
def execIset (f : GFmt) (s : State) : Host.Outcome State Fault Refusal := .next (s.runAlu (isetOp f))

/-- The pointer that LEA forms (R180). -/
def leaPtr (nat : Bool) (a b sh : Nat) : Nat :=
  bits a 56 8 * 2 ^ 56 + wrap 56 ((bits a 0 56 : Int) + readInt nat 32 b * (2 ^ sh : Nat))

/-- LEA (R180). -/
def execLea (f : GFmt) (s : State) : Host.Outcome State Fault Refusal :=
  .next (s.runAlu (iaWord f true [(2, .plain), wordSpec f, (1, .plain)] f.rc false
    (iaIb f && f.rc ≤ 7 && iaWidth f = 32 && aligned f.rd 2) [.v f.rd 2] []
    (fun vs _ => [leaPtr (iaNat f) (nth vs 0) (nth vs 1) (nth vs 2)])))

/-- A sum over elements into a word (R181): `sa` and `sb` say natural, `dn` says the word is natural. -/
def sumAlu (f : GFmt) (w : Nat) (na nb dn ok : Bool) (g : Int → Int → Int) : Alu :=
  let ops := iaOperands f [(1, .packed w), (1, .packed w), (1, .int dn)] (wrap 32 (readInt dn 8 f.rc))
  let sat := iaSat f
  { gn := f.gn, gp := f.gp
    ok := ok && f.s 3 1 = 0 && iaUnused f 3 false && ops.all Opnd.ok
    srcs := ops.flatMap Opnd.srcs
    sense := fun _ => ops.flatMap Opnd.srcs
    dsts := [.v f.rd 1]
    spans := []
    eval := fun _ t =>
      let vs := ops.map (Opnd.val t)
      let ea := (splitElems w (32 / w) (nth vs 0)).map (readInt na w)
      let eb := (splitElems w (32 / w) (nth vs 1)).map (readInt nb w)
      [narrow sat dn 32 ((List.zipWith g ea eb).foldl (· + ·) (readInt dn 32 (nth vs 2)))] }

/-- SAD (R181). -/
def sadOp (f : GFmt) : Alu :=
  let w := iaWidth f
  let nat := iaNat f
  sumAlu f w nat nat nat (w ≤ 16 && f.xs 0 3 = 0) (fun a b => ((a - b).natAbs : Int))

/-- SAD. -/
def execSad (f : GFmt) (s : State) : Host.Outcome State Fault Refusal := .next (s.runAlu (sadOp f))

/-- DOT4 and DOT8 (R181): .MX makes A signed and B natural. -/
def dotAlu (f : GFmt) (w : Nat) : Alu :=
  let nat := iaNat f
  let mx := f.xs 0 1 = 1
  sumAlu f w (nat && !mx) (nat || mx) (nat && !mx) (f.s 0 2 = 0 && f.xs 1 2 = 0) (fun a b => a * b)

/-- DOT4 (R181). -/
def execDot4 (f : GFmt) (s : State) : Host.Outcome State Fault Refusal := .next (s.runAlu (dotAlu f 8))
/-- DOT8 (R181). -/
def execDot8 (f : GFmt) (s : State) : Host.Outcome State Fault Refusal := .next (s.runAlu (dotAlu f 4))

/-- An immediate into registers (R182). -/
def immAlu (f : IFmt) (ok : Bool) (d : Dst) (v : Nat) : Alu :=
  { gn := f.gn, gp := f.gp, ok := f.x = 0 && ok, srcs := [], sense := fun _ => [], dsts := [d], spans := []
    eval := fun _ _ => [v] }

/-- MOVI (R182). -/
def execMovi (f : IFmt) (s : State) : Host.Outcome State Fault Refusal :=
  .next (s.runAlu (if f.sel = 1 then immAlu f (aligned f.d.toNat 2) (.v f.d.toNat 2) (wrap 64 (sext f.imm.toNat 32))
    else immAlu f (f.sel = 0) (.v f.d.toNat 1) f.imm.toNat))

/-- MOVH (R182): only register D + 1 is written. -/
def execMovh (f : IFmt) (s : State) : Host.Outcome State Fault Refusal :=
  .next (s.runAlu (immAlu f (f.sel = 0 && aligned f.d.toNat 2) (.v (f.d.toNat + 1) 1) f.imm.toNat))

end Sys2Proof.Machine
end

