-- ==== Sys2Proof/Machine/Float.lean ====
section
/-!
DEFINITION. Floating-point arithmetic, special functions, dot products, fused min-plus and min-index: opcodes 0x080 to
0x098 and 0x09E to 0x0A3 (R185 to R197, R424).
-/

namespace Sys2Proof.Machine

/-! ### Shapes and operands (R185, R186) -/

/-- TY of classes FA and FT (R186). -/
def tyFmt (ty : Nat) : Fmt := if ty = 0 then .f32 else if ty = 1 then .f64 else if ty = 2 then .f16 else .bf16

/-- Registers of a value of a format. -/
def Fmt.nregs (f : Fmt) : Nat := if f = .f64 then 2 else 1

/-- Elements that an operation of a format acts on (R185). -/
def Fmt.count (f : Fmt) (x2 : Bool) : Nat := if f.width = 16 && x2 then 2 else 1

/-- The element kind of a float operand (R112). -/
def Fmt.elem (f : Fmt) : Elem := if f.width = 16 then .packed 16 else .plain

/-- A float operand in a register field. -/
def Fmt.opnd (f : Fmt) (r m : Nat) : Opnd := .reg r f.nregs m f.elem

/-- An operation on floats: per element, from the operands' element encodings; elements are as wide as the format and
results are `rw` bits in elements of that width (R185). -/
def fpAlu (gn : BitVec 1) (gp : BitVec 3) (ok : Bool) (fmt : Fmt) (x2 : Bool) (ops : List Opnd) (extra : List Src) (d : Dst)
    (spans : List Src) (eval : Thread → Nat → List Nat → Nat) : Alu :=
  { gn := gn, gp := gp, ok := ok && ops.all Opnd.ok
    srcs := ops.flatMap Opnd.srcs ++ extra
    sense := fun _ => ops.flatMap Opnd.srcs ++ extra
    dsts := [d]
    spans := spans
    eval := fun _ t =>
      let vs := ops.map (Opnd.val t)
      [joinElems fmt.width ((List.range (fmt.count x2)).map (fun k =>
        eval t k (vs.map (fun v => bits v (fmt.width * k) fmt.width))))] }

/-- The fields of class FA (R186): the format, X2, FTZ, RM and V. -/
structure FaFields where
  fmt : Fmt
  x2 : Bool
  ftz : Bool
  rm : Nat
  v : Nat
deriving DecidableEq, Repr

/-- Class FA read from a word. -/
def faFields (f : GFmt) : FaFields := ⟨tyFmt (f.s 0 2), f.xs 2 1 = 1, f.xs 3 1 = 1, f.s 2 3, f.xs 0 2⟩

/-- What every FA encoding obeys (R186): no X2 with F32 or F64, RM 7 reserved. -/
def FaFields.ok (x : FaFields) : Bool := (!x.x2 || x.fmt.width = 16) && x.rm ≠ 7

/-- The RSR forms: FADD, FSUB, FMUL, FRND, FSCALE (R116, R186). C supplies RAND under RSR, may name a register under RM 0,
and is zero otherwise. -/
def rsrAlu (f : GFmt) (s : State) (ops : List Opnd) (ok : Bool) (eval : RMode → List FloatVal → List Nat → FloatVal) : Alu :=
  let x := faFields f
  let drm := bits s.rmode 0 3
  let rsr := isRsr x.rm drm
  let named := x.rm = 0 || x.rm = 6
  fpAlu f.gn f.gp (ok && x.ok && x.v = 0 && f.mc = 0 && (named || f.c = 0) && aligned f.rd x.fmt.nregs) x.fmt x.x2 ops
    (if rsr then [.v f.rc 1] else []) (.v f.rd x.fmt.nregs) (if named then [.v f.rc 1] else [])
    (fun t k vs =>
      let wr := randOf (t.reg f.rc).toNat (x.fmt.count x.x2) k
      let r := resolveRM x.rm drm true wr.1 wr.2
      x.fmt.round r false x.ftz (eval r (vs.map (x.fmt.decode x.ftz)) vs))

/-- A and B of the type. -/
def faAB (f : GFmt) : List Opnd :=
  let x := faFields f
  [x.fmt.opnd f.ra f.ma.toNat, x.fmt.opnd f.rb f.mb.toNat]

/-- Value `i` of a list. -/
def num (vs : List FloatVal) (i : Nat) : FloatVal := vs.getD i .nan

/-- Whether a mode is RDN, for the sign of an exact zero (R135). -/
def isRdn (r : RMode) : Bool := r = .rdn

/-- FADD (R187). -/
def execFadd (f : GFmt) (s : State) : Host.Outcome State Fault Refusal :=
  .next (s.runAlu (rsrAlu f s (faAB f) true (fun r xs _ => sumNum (isRdn r) [num xs 0, num xs 1])))
/-- FSUB (R187). -/
def execFsub (f : GFmt) (s : State) : Host.Outcome State Fault Refusal :=
  .next (s.runAlu (rsrAlu f s (faAB f) true (fun r xs _ => sumNum (isRdn r) [num xs 0, (num xs 1).negate])))
/-- FMUL (R187). -/
def execFmul (f : GFmt) (s : State) : Host.Outcome State Fault Refusal :=
  .next (s.runAlu (rsrAlu f s (faAB f) true (fun _ xs _ => mulNum (num xs 0) (num xs 1))))

/-- A value rounded to an integral value under a mode (R191). -/
def roundIntegral (r : RMode) (x : FloatVal) : FloatVal :=
  match x with
  | .fin neg m e sticky => if m = 0 then x else .fin neg (roundUnits r neg m e sticky 0) 0 false
  | _ => x

/-- A value times 2^b, exact (R191). -/
def scaleNum (x : FloatVal) (b : Int) : FloatVal :=
  match x with
  | .fin neg m e sticky => .fin neg m (e + b) sticky
  | _ => x

/-- FRND (R191). -/
def frndOp (f : GFmt) (s : State) : Alu :=
  let x := faFields f
  rsrAlu f s [x.fmt.opnd f.ra f.ma.toNat] f.noB (fun r xs _ => roundIntegral r (num xs 0))

/-- FRND. -/
def execFrnd (f : GFmt) (s : State) : Host.Outcome State Fault Refusal := .next (s.runAlu (frndOp f s))

/-- FSCALE (R191): B is I32 in a word for F32 and F64, and I16 elements for the 16-bit types. -/
def fscaleOp (f : GFmt) (s : State) : Alu :=
  let x := faFields f
  let w := if x.fmt.width = 16 then 16 else 32
  let b := Opnd.reg f.rb 1 f.mb.toNat (if w = 16 then .packed 16 else .int false)
  rsrAlu f s [x.fmt.opnd f.ra f.ma.toNat, b] true
    (fun _ xs vs => scaleNum (num xs 0) (sext (nth vs 1) w))

/-- FSCALE. -/
def execFscale (f : GFmt) (s : State) : Host.Outcome State Fault Refusal := .next (s.runAlu (fscaleOp f s))

/-! ### FMA and selections -/

/-- The exact sum of FMA (R188). -/
def fmaNum (r : RMode) (np nc : Bool) (a b c : FloatVal) : FloatVal :=
  let p := mulNum a b
  sumNum (isRdn r) [if np then p.negate else p, if nc then c.negate else c]

/-- FMA with its operands; a compact FMA has V = 0 (R120, R188). -/
def fmaAlu (gn : BitVec 1) (gp : BitVec 3) (ok : Bool) (x : FaFields) (drm : Nat) (ops : List Opnd) (d : Nat) : Alu :=
  fpAlu gn gp (ok && aligned d x.fmt.nregs) x.fmt x.x2 ops [] (.v d x.fmt.nregs) [] (fun _ _ vs =>
    let xs := vs.map (x.fmt.decode x.ftz)
    let r := resolveRM x.rm drm false 0 0
    x.fmt.round r false x.ftz (fmaNum r (bit x.v 0) (bit x.v 1) (num xs 0) (num xs 1) (num xs 2)))

/-- FMA (R188): RM 6 is illegal, since C is a source. -/
def fmaOp (f : GFmt) (s : State) : Alu :=
  let x := faFields f
  fmaAlu f.gn f.gp (x.ok && x.rm ≠ 6) x (bits s.rmode 0 3)
    (faAB f ++ [x.fmt.opnd f.rc f.mc.toNat]) f.rd

/-- FMA. -/
def execFma (f : GFmt) (s : State) : Host.Outcome State Fault Refusal := .next (s.runAlu (fmaOp f s))

/-- A form without rounding: RM and V zero, no C (R186). -/
def FaFields.plainOk (x : FaFields) (f : GFmt) : Bool := x.ok && x.rm = 0 && x.v = 0 && f.noC

/-- FMIN and FMAX with their operands (R189). -/
def minMaxAlu (gn : BitVec 1) (gp : BitVec 3) (ok : Bool) (x : FaFields) (greater : Bool) (ops : List Opnd) (d : Nat) : Alu :=
  fpAlu gn gp (ok && aligned d x.fmt.nregs) x.fmt x.x2 ops [] (.v d x.fmt.nregs) [] (fun _ _ vs =>
    let xs := vs.map (x.fmt.decode x.ftz)
    x.fmt.round .rne false x.ftz (minMaxNum greater (num xs 0) (num xs 1)))

/-- FMIN (R189). -/
def execFmin (f : GFmt) (s : State) : Host.Outcome State Fault Refusal :=
  .next (s.runAlu (minMaxAlu f.gn f.gp ((faFields f).plainOk f) (faFields f) false (faAB f) f.rd))
/-- FMAX (R189). -/
def execFmax (f : GFmt) (s : State) : Host.Outcome State Fault Refusal :=
  .next (s.runAlu (minMaxAlu f.gn f.gp ((faFields f).plainOk f) (faFields f) true (faAB f) f.rd))

/-- FSET with its operands: the test holds in every element (R190). -/
def fsetAlu (gn : BitVec 1) (gp : BitVec 3) (ok : Bool) (x : FaFields) (code : Nat) (ops : List Opnd) (d : Nat) : Alu :=
  { gn := gn, gp := gp, ok := ok && ops.all Opnd.ok && isPred d
    srcs := ops.flatMap Opnd.srcs
    sense := fun _ => ops.flatMap Opnd.srcs
    dsts := [.p (d % 8)]
    spans := []
    eval := fun _ t =>
      let vs := ops.map (Opnd.val t)
      let at' (i k : Nat) : FloatVal := x.fmt.decode x.ftz (bits (nth vs i) (x.fmt.width * k) x.fmt.width)
      [if (List.range (x.fmt.count x.x2)).all (fun k => floatTest code (at' 0 k) (at' 1 k)) then 1 else 0] }

/-- FSET (R190): RM holds the comparison code, every value legal. -/
def fsetOp (f : GFmt) : Alu :=
  let x := faFields f
  fsetAlu f.gn f.gp ((!x.x2 || x.fmt.width = 16) && x.v = 0 && f.noC) x x.rm (faAB f) f.rd

/-- FSET. -/
def execFset (f : GFmt) (s : State) : Host.Outcome State Fault Refusal := .next (s.runAlu (fsetOp f))

/-- FEXPN (R191) of a value, as a `w`-bit integer. -/
def expnOf (w : Nat) (x : FloatVal) : Nat :=
  match x with
  | .nan => wrap w (intMin false w)
  | .inf _ => wrap w (intMax false w)
  | .fin _ m e _ => if m = 0 then wrap w (intMin false w) else wrap w (floorLog2 m e)

/-- FMANT (R191) of a value. -/
def mantOf (x : FloatVal) : FloatVal :=
  match x with
  | .fin neg m _ _ => if m = 0 then x else .fin neg m (-(Nat.log2 m : Int)) false
  | _ => x

/-- FCLASS and FEXPN: a word for F32 and F64, 16-bit fields for the 16-bit types (R191). -/
def wordResult (f : GFmt) (g : FaFields → Nat → Nat) : Alu :=
  let x := faFields f
  let w := if x.fmt.width = 16 then 16 else 32
  let op := x.fmt.opnd f.ra f.ma.toNat
  { gn := f.gn, gp := f.gp, ok := x.plainOk f && f.noB && op.ok
    srcs := op.srcs
    sense := fun _ => op.srcs
    dsts := [.v f.rd 1]
    spans := []
    eval := fun _ t =>
      [joinElems w ((List.range (x.fmt.count x.x2)).map (fun k => g x (bits (op.val t) (x.fmt.width * k) x.fmt.width)))] }

/-- FCLASS (R191). -/
def execFclass (f : GFmt) (s : State) : Host.Outcome State Fault Refusal :=
  .next (s.runAlu (wordResult f (fun x v => 2 ^ classOf x.fmt x.ftz v)))
/-- FEXPN (R191). -/
def execFexpn (f : GFmt) (s : State) : Host.Outcome State Fault Refusal :=
  .next (s.runAlu (wordResult f (fun x v => expnOf (if x.fmt.width = 16 then 16 else 32) (x.fmt.decode x.ftz v))))
/-- FMANT (R191). -/
def fmantOp (f : GFmt) : Alu :=
  let x := faFields f
  fpAlu f.gn f.gp (x.plainOk f && f.noB && aligned f.rd x.fmt.nregs) x.fmt x.x2
    [x.fmt.opnd f.ra f.ma.toNat] [] (.v f.rd x.fmt.nregs) [] (fun _ _ vs =>
      x.fmt.round .rne false x.ftz (mantOf (x.fmt.decode x.ftz (nth vs 0))))

/-- FMANT. -/
def execFmant (f : GFmt) (s : State) : Host.Outcome State Fault Refusal := .next (s.runAlu (fmantOp f))
/-- FCOPYS (R187): bits are copied, a NaN keeps its payload. -/
def fcopysOp (f : GFmt) : Alu :=
  let x := faFields f
  let h := 2 ^ (x.fmt.width - 1)
  fpAlu f.gn f.gp (x.plainOk f && !x.ftz && aligned f.rd x.fmt.nregs) x.fmt x.x2 (faAB f) []
    (.v f.rd x.fmt.nregs) [] (fun _ _ vs => nth vs 0 % h + nth vs 1 / h * h)

/-- FCOPYS. -/
def execFcopys (f : GFmt) (s : State) : Host.Outcome State Fault Refusal := .next (s.runAlu (fcopysOp f))

/-! ### Special functions (R192, R193) -/

/-- The fields of class FT. -/
def ftFields (f : GFmt) : FaFields := ⟨tyFmt (f.s 0 2), f.s 2 1 = 1, f.s 3 1 = 1, 0, 0⟩

/-- What every FT encoding obeys (R192). -/
def FaFields.ftOk (x : FaFields) (f : GFmt) (wide : Bool) : Bool :=
  f.s 4 1 = 0 && (!x.x2 || x.fmt.width = 16) && (wide || x.fmt ≠ .f64) && f.noC

/-- A special function on operands (R193). -/
def ftAlu (gn : BitVec 1) (gp : BitVec 3) (ok : Bool) (x : FaFields) (ops : List Opnd) (d : Nat) (g : List Nat → Nat) : Alu :=
  fpAlu gn gp (ok && aligned d x.fmt.nregs) x.fmt x.x2 ops [] (.v d x.fmt.nregs) [] (fun _ _ vs => g vs)

/-- A special function of one operand. -/
def ftOne (f : GFmt) (wide : Bool) (g : FaFields → Nat → Nat) : Alu :=
  let x := ftFields f
  ftAlu f.gn f.gp (x.ftOk f wide && f.noB) x [x.fmt.opnd f.ra f.ma.toNat] f.rd (fun vs => g x (nth vs 0))

/-- An algebraic function rounded once under RNE. -/
def algebraic (g : FloatVal → FloatVal) (x : FaFields) (v : Nat) : Nat := x.fmt.round .rne false x.ftz (g (x.fmt.decode x.ftz v))

/-- FRCP (R193). -/
def execFrcp (f : GFmt) (s : State) : Host.Outcome State Fault Refusal := .next (s.runAlu (ftOne f true (algebraic rcpNum)))
/-- FRSQ (R193). -/
def execFrsq (f : GFmt) (s : State) : Host.Outcome State Fault Refusal := .next (s.runAlu (ftOne f true (algebraic rsqNum)))
/-- FSQRT (R193). -/
def execFsqrt (f : GFmt) (s : State) : Host.Outcome State Fault Refusal := .next (s.runAlu (ftOne f true (algebraic sqrtNum)))
/-- FDIV (R193). -/
def fdivOp (f : GFmt) : Alu :=
  let x := ftFields f
  ftAlu f.gn f.gp (x.ftOk f true) x [x.fmt.opnd f.ra f.ma.toNat, x.fmt.opnd f.rb f.mb.toNat] f.rd
    (fun vs => x.fmt.round .rne false x.ftz (divNum (x.fmt.decode x.ftz (nth vs 0)) (x.fmt.decode x.ftz (nth vs 1))))

/-- FDIV. -/
def execFdiv (f : GFmt) (s : State) : Host.Outcome State Fault Refusal := .next (s.runAlu (fdivOp f))
/-- A transcendental function. -/
def transc (g : SFun) (x : FaFields) (v : Nat) : Nat := sfun g x.fmt x.ftz v
/-- FEXP2 (R193). -/
def execFexp2 (f : GFmt) (s : State) : Host.Outcome State Fault Refusal := .next (s.runAlu (ftOne f false (transc .exp2)))
/-- FLOG2 (R193). -/
def execFlog2 (f : GFmt) (s : State) : Host.Outcome State Fault Refusal := .next (s.runAlu (ftOne f false (transc .log2)))
/-- FSIN (R193). -/
def execFsin (f : GFmt) (s : State) : Host.Outcome State Fault Refusal := .next (s.runAlu (ftOne f false (transc .sin)))
/-- FCOS (R193). -/
def execFcos (f : GFmt) (s : State) : Host.Outcome State Fault Refusal := .next (s.runAlu (ftOne f false (transc .cos)))
/-- FTANH (R193). -/
def execFtanh (f : GFmt) (s : State) : Host.Outcome State Fault Refusal := .next (s.runAlu (ftOne f false (transc .tanh)))
/-- FSIGM (R193). -/
def execFsigm (f : GFmt) (s : State) : Host.Outcome State Fault Refusal := .next (s.runAlu (ftOne f false (transc .sigm)))

/-! ### Dot products (R195) -/

/-- C plus the products of elements, exact, rounded once to F32 (R195). -/
def dotAluF (f : GFmt) (s : State) (fa fb : Fmt) (ok : Bool) : Alu :=
  let w := fa.width
  let rm := f.s 2 3
  let ftz := f.xs 3 1 = 1
  let ops := [Opnd.reg f.ra 1 f.ma.toNat (.packed w), Opnd.reg f.rb 1 f.mb.toNat (.packed w), Opnd.reg f.rc 1 f.mc.toNat .plain]
  let r := resolveRM rm (bits s.rmode 0 3) false 0 0
  { gn := f.gn, gp := f.gp, ok := ok && rm < 6 && f.xs 0 3 = 0 && ops.all Opnd.ok
    srcs := ops.flatMap Opnd.srcs
    sense := fun _ => ops.flatMap Opnd.srcs
    dsts := [.v f.rd 1]
    spans := []
    eval := fun _ t =>
      let vs := ops.map (Opnd.val t)
      let ps := (List.range (32 / w)).map (fun k =>
        mulNum (fa.decode ftz (bits (nth vs 0) (w * k) w)) (fb.decode ftz (bits (nth vs 1) (w * k) w)))
      [Fmt.f32.round r false ftz (sumNum (isRdn r) (Fmt.f32.decode ftz (nth vs 2) :: ps))] }

/-- FDOT2 (R195). -/
def fdot2Op (f : GFmt) (s : State) : Alu :=
  let k := f.s 0 2
  let t := if k = 0 then Fmt.bf16 else .f16
  dotAluF f s t t (k < 2)

/-- FDOT2. -/
def execFdot2 (f : GFmt) (s : State) : Host.Outcome State Fault Refusal := .next (s.runAlu (fdot2Op f s))
/-- FDOT4 (R195). -/
def fdot4Op (f : GFmt) (s : State) : Alu :=
  let k := f.s 0 2
  dotAluF f s (if k = 0 || k = 2 then .e4m3 else .e5m2) (if k = 0 || k = 3 then .e4m3 else .e5m2) true

/-- FDOT4. -/
def execFdot4 (f : GFmt) (s : State) : Host.Outcome State Fault Refusal := .next (s.runAlu (fdot4Op f s))

/-! ### Fused min-plus (R196) -/

/-- ADDMIN and ADDMAX on floats. -/
def addMinFloat (gn : BitVec 1) (gp : BitVec 3) (ok : Bool) (x : FaFields) (drm : Nat) (greater : Bool) (ops : List Opnd)
    (d : Nat) : Alu :=
  let r := resolveRM x.rm drm false 0 0
  fpAlu gn gp (ok && aligned d x.fmt.nregs) x.fmt x.x2 ops [] (.v d x.fmt.nregs) [] (fun _ _ vs =>
    let xs := vs.map (x.fmt.decode x.ftz)
    let t := x.fmt.round r false x.ftz (sumNum (isRdn r) [num xs 0, num xs 1])
    x.fmt.round .rne false x.ftz (minMaxNum greater (x.fmt.decode x.ftz t) (num xs 2)))

/-- ADDMIN and ADDMAX on integer elements of width `w`. -/
def addMinInt (gn : BitVec 1) (gp : BitVec 3) (ok : Bool) (w : Nat) (nat sat greater : Bool) (ops : List Opnd) (d : Nat) : Alu :=
  { gn := gn, gp := gp, ok := ok && ops.all Opnd.ok
    srcs := ops.flatMap Opnd.srcs
    sense := fun _ => ops.flatMap Opnd.srcs
    dsts := [.v d 1]
    spans := []
    eval := fun _ t => [elementwise (fun nat w a b c =>
      let x := readInt nat w (narrow sat nat w (a + b))
      if greater then max x c else min x c) false nat w 32 (ops.map (Opnd.val t))] }

/-- ADDMIN or ADDMAX (R196). -/
def addMinAlu (f : GFmt) (s : State) (greater : Bool) : Alu :=
  if f.s 4 1 = 1 then
    let w := if f.s 0 2 = 1 then 16 else 32
    let nat := f.s 2 1 = 1
    let e := intElem nat w
    addMinInt f.gn f.gp ((f.s 0 2 = 1 || f.s 0 2 = 2) && f.s 3 1 = 0 && f.xs 0 3 = 0) w nat (f.xs 3 1 = 1) greater
      [.reg f.ra 1 f.ma.toNat e, .reg f.rb 1 f.mb.toNat e, .reg f.rc 1 f.mc.toNat e] f.rd
  else
    let k := f.s 2 2
    let fmt : Fmt := if k = 0 then .f32 else if k = 1 then .f16 else if k = 2 then .bf16 else .f64
    let x : FaFields := ⟨fmt, true, f.xs 3 1 = 1, f.xs 0 3, 0⟩
    addMinFloat f.gn f.gp (f.s 0 2 = 0 && x.rm < 6) x (bits s.rmode 0 3) greater
      [fmt.opnd f.ra f.ma.toNat, fmt.opnd f.rb f.mb.toNat, fmt.opnd f.rc f.mc.toNat] f.rd

/-- ADDMIN (R196). -/
def execAddmin (f : GFmt) (s : State) : Host.Outcome State Fault Refusal := .next (s.runAlu (addMinAlu f s false))
/-- ADDMAX (R196). -/
def execAddmax (f : GFmt) (s : State) : Host.Outcome State Fault Refusal := .next (s.runAlu (addMinAlu f s true))

/-! ### Min-index (R197) -/

/-- The chosen pair of two F32 (value, index) pairs: the value is written as its own encoding, a NaN canonical (R197). -/
def miniFloat (greater ftz : Bool) (a b : Nat) : Nat :=
  let x := Fmt.f32.decode ftz (a % 2 ^ 32)
  let y := Fmt.f32.decode ftz (b % 2 ^ 32)
  let second := pickSecond greater x y (a / 2 ^ 32) (b / 2 ^ 32)
  Fmt.f32.round .rne false ftz (if second then y else x) + (if second then b / 2 ^ 32 else a / 2 ^ 32) * 2 ^ 32

/-- The chosen pair of two integer (value, index) pairs (R197). -/
def miniInt (greater nat : Bool) (a b : Nat) : Nat :=
  if pickSecondInt greater (readInt nat 32 a) (readInt nat 32 b) (a / 2 ^ 32) (b / 2 ^ 32) then b else a

/-- A min-index instruction. -/
def miniAlu (f : GFmt) (ok : Bool) (g : Nat → Nat → Nat) : Alu :=
  let ops := [Opnd.reg f.ra 2 f.ma.toNat .plain, Opnd.reg f.rb 2 f.mb.toNat .plain]
  { gn := f.gn, gp := f.gp, ok := ok && f.noC && ops.all Opnd.ok && aligned f.rd 2
    srcs := ops.flatMap Opnd.srcs
    sense := fun _ => ops.flatMap Opnd.srcs
    dsts := [.v f.rd 2]
    spans := []
    eval := fun _ t => [g (t.regNat f.ra 2) (t.regNat f.rb 2)] }

/-- FMINI (R197). -/
def execFmini (f : GFmt) (s : State) : Host.Outcome State Fault Refusal :=
  .next (s.runAlu (miniAlu f (f.sel = 0 && f.xs 0 3 = 0) (miniFloat false (f.xs 3 1 = 1))))
/-- FMAXI (R197). -/
def execFmaxi (f : GFmt) (s : State) : Host.Outcome State Fault Refusal :=
  .next (s.runAlu (miniAlu f (f.sel = 0 && f.xs 0 3 = 0) (miniFloat true (f.xs 3 1 = 1))))
/-- IMINI (R197). -/
def execImini (f : GFmt) (s : State) : Host.Outcome State Fault Refusal :=
  .next (s.runAlu (miniAlu f (f.s 0 2 = 2 && f.s 3 2 = 0 && f.x = 0) (miniInt false (f.s 2 1 = 1))))
/-- IMAXI (R197). -/
def execImaxi (f : GFmt) (s : State) : Host.Outcome State Fault Refusal :=
  .next (s.runAlu (miniAlu f (f.s 0 2 = 2 && f.s 3 2 = 0 && f.x = 0) (miniInt true (f.s 2 1 = 1))))

end Sys2Proof.Machine
end

