-- ==== Sys2Proof/Machine/Convert.lean ====
section
/-!
DEFINITION. Conversions and packing, opcodes 0x099 to 0x09D (R198 to R203, R424).
-/

namespace Sys2Proof.Machine

/-- A format of a conversion (R117). -/
inductive CvtTy where
  | flt (f : Fmt)
  | e8m0
  | int (nat : Bool) (w : Nat)
deriving DecidableEq, Repr

/-- The floating column of R117. -/
def fltCode : Nat → Option CvtTy
  | 0 => some (.flt .f64) | 1 => some (.flt .f32) | 2 => some (.flt .bf16) | 3 => some (.flt .f16) | 4 => some (.flt .e4m3)
  | 5 => some (.flt .e5m2) | 6 => some (.flt .e3m2) | 7 => some (.flt .e2m3) | 8 => some (.flt .e2m1) | 9 => some .e8m0
  | _ => none

/-- The integer column of R117. -/
def intCode : Nat → Option CvtTy
  | 0 => some (.int false 64) | 1 => some (.int false 32) | 2 => some (.int false 16) | 3 => some (.int false 8)
  | 4 => some (.int false 4) | 8 => some (.int true 64) | 9 => some (.int true 32) | 10 => some (.int true 16)
  | 11 => some (.int true 8) | 12 => some (.int true 4)
  | _ => none

/-- The width of an element in a register; six-bit formats lie in byte containers (R199). -/
def CvtTy.width : CvtTy → Nat
  | .flt f => if f.width = 6 then 8 else f.width
  | .e8m0 => 8
  | .int _ w => w

/-- Whether a type is E8M0. -/
def CvtTy.isE8 (t : CvtTy) : Bool := t = .e8m0

/-- The element kind of a source of this type (R112). -/
def CvtTy.elem (t : CvtTy) : Elem :=
  match t with
  | .int nat 32 => .int nat
  | _ => if t.width ≤ 16 then .packed t.width else .plain

/-- The exact value of an element (R131, R132, R134). -/
def CvtTy.value (t : CvtTy) (ftz : Bool) (v : Nat) : FloatVal :=
  match t with
  | .flt f => f.decode ftz v
  | .e8m0 => decodeE8M0 v
  | .int nat w => intNum (readInt nat w v)

/-- The encoding of a value in a type (R139, R200, R202). -/
def CvtTy.encode (t : CvtTy) (r : RMode) (sat ftz : Bool) (x : FloatVal) : Nat :=
  match t with
  | .flt f => f.round r sat ftz x
  | .e8m0 => roundE8M0 r sat x
  | .int nat w => roundInt r nat w x

/-- A conversion: types, group index, rounding field, SAT, FTZ, IM (R198). -/
structure Cvt where
  src : CvtTy
  dst : CvtTy
  i : Nat
  rm : Nat
  sat : Bool
  ftz : Bool
  im : Bool
deriving DecidableEq, Repr

/-- The larger width. -/
def Cvt.big (c : Cvt) : Nat := max c.src.width c.dst.width
/-- The smaller width. -/
def Cvt.small (c : Cvt) : Nat := min c.src.width c.dst.width
/-- The group size (R199). -/
def Cvt.group (c : Cvt) : Nat := if c.big = 64 then 1 else 32 / c.big

/-- Whether the group index and the ratio are legal (R199). -/
def Cvt.ok (c : Cvt) : Bool :=
  let r := c.big / c.small
  if c.src.width = c.dst.width then c.i = 0 else r ≠ 16 && c.i < r && (c.big ≠ 64 || c.i < 32 / c.small)

/-- Registers of the source and of the destination (R199). -/
def Cvt.regsA (c : Cvt) : Nat := if c.src.width = 64 then 2 else 1
/-- Registers of the destination. -/
def Cvt.regsD (c : Cvt) : Nat := if c.dst.width = 64 then 2 else 1

/-- The mode of a conversion: IM under CHAIN rounds under RTO, except to an integer (R142, R202). -/
def Cvt.mode (c : Cvt) (rmode : Nat) (w rand : Nat) : RMode :=
  let toInt := match c.dst with
    | .int _ _ => true
    | _ => false
  if c.im && bit rmode 3 && !toInt then .rto else resolveRM c.rm (bits rmode 0 3) (c.rm = 6) w rand

/-- The destination's bits from the source's bits and the RAND word (R199 to R202). -/
def Cvt.result (c : Cvt) (rmode rand v : Nat) : Nat :=
  let n := c.group
  let s0 := if c.src.width < c.dst.width then c.i * n else 0
  let d0 := if c.dst.width < c.src.width then c.i * n else 0
  let es := (List.range n).map (fun k =>
    let x := c.src.value c.ftz (bits v (c.src.width * (s0 + k)) c.src.width)
    let wr := randOf rand n k
    c.dst.encode (c.mode rmode wr.1 wr.2) c.sat c.ftz x)
  joinElems c.dst.width es * 2 ^ (c.dst.width * d0)

/-- A conversion instruction; `rnd` is the register that supplies RAND. -/
def cvtAlu (gn : BitVec 1) (gp : BitVec 3) (ok : Bool) (c : Cvt) (rmode a ma d : Nat) (rnd : Option Nat) : Alu :=
  let op := Opnd.reg a c.regsA ma c.src.elem
  let rs := match rnd with
    | some r => [Src.v r 1]
    | none => []
  { gn := gn, gp := gp, ok := ok && c.ok && op.ok && aligned d c.regsD
    srcs := op.srcs ++ rs
    sense := fun _ => op.srcs ++ rs
    dsts := [.v d c.regsD]
    spans := []
    eval := fun _ t =>
      let r := match rnd with
        | some r => (t.reg r).toNat
        | none => 0
      [c.result rmode r (op.val t)] }

/-- An instruction that traps in every executing lane: a reserved type code. -/
def illAlu (gn : BitVec 1) (gp : BitVec 3) : Alu := ⟨gn, gp, false, [], fun _ => [], [], [], fun _ _ => []⟩

/-- A conversion word of class CV with its types. -/
def cvWord (f : GFmt) (src dst : Option CvtTy) (i : Nat) (s : State) (ok : Bool) (rnd : Option Nat) : Alu :=
  match src, dst with
  | some a, some b =>
    let rm := f.s 2 3
    cvtAlu f.gn f.gp (ok && rm ≠ 7 && f.mb = 0 && f.mc = 0 && (rnd.isSome || f.b = 0))
      ⟨a, b, i, rm, f.xs 2 1 = 1, f.xs 3 1 = 1, f.xs 1 1 = 1⟩ s.rmode f.ra f.ma.toNat f.rd rnd
  | _, _ => illAlu f.gn f.gp

/-- CVT (R200). -/
def execCvt (f : GFmt) (s : State) : Host.Outcome State Fault Refusal :=
  .next (s.runAlu (cvWord f (fltCode (f.rc / 16)) (fltCode (f.rc % 16)) (f.s 0 2 + 4 * f.xs 0 1) s (f.s 2 3 ≠ 6) none))
/-- CVTS (R201): RM must be 6, and B supplies RAND. -/
def execCvts (f : GFmt) (s : State) : Host.Outcome State Fault Refusal :=
  .next (s.runAlu (cvWord f (fltCode (f.rc / 16)) (fltCode (f.rc % 16)) (f.s 0 2 + 4 * f.xs 0 1) s (f.s 2 3 = 6) (some f.rb)))
/-- CVTI (R202): XS[0] chooses the direction; E8M0 is illegal. -/
def cvtiOp (f : GFmt) (s : State) : Alu :=
  let sc := f.rc / 16
  let dc := f.rc % 16
  let toFloat := f.xs 0 1 = 1
  let src := if toFloat then intCode sc else fltCode sc
  let dst := if toFloat then fltCode dc else intCode dc
  cvWord f src dst (f.s 0 2) s (f.s 2 3 ≠ 6 && src ≠ some .e8m0 && dst ≠ some .e8m0) none

/-- CVTI. -/
def execCvti (f : GFmt) (s : State) : Host.Outcome State Fault Refusal := .next (s.runAlu (cvtiOp f s))

/-! ### PACK and UNPACK (R203) -/

/-- The element width of a variant: 16, 8 or 4. -/
def packWidth (v : Nat) : Nat := if v = 0 then 16 else if v = 1 then 8 else 4

/-- The even elements of A, then of B (R203). -/
def packElems (w a b : Nat) : Nat :=
  joinElems w (((List.range (32 / w / 2)).map (fun j => bits a (w * (2 * j)) w))
    ++ ((List.range (32 / w / 2)).map (fun j => bits b (w * (2 * j)) w)))

/-- Half `k` of A's elements at the even places, zeros between (R203). -/
def unpackElems (w k a : Nat) : Nat :=
  joinElems (2 * w) ((List.range (16 / w)).map (fun j => bits a (w * (k * (16 / w) + j)) w))

/-- Word `k` of the dense form of 16 six-bit elements in byte containers (R136, R203). -/
def packDense (k q : Nat) : Nat :=
  bits (joinElems 6 ((List.range 16).map (fun e => bits q (8 * e) 6))) (32 * k) 32

/-- Four elements of a dense form in byte containers (R136, R203). -/
def unpackDense (k q : Nat) : Nat := joinElems 8 ((List.range 4).map (fun j => bits q (6 * (4 * k + j)) 6))

/-- What PACK and UNPACK share (R198): RM, C and XS[3:2] zero. -/
def packOk (f : GFmt) : Bool := f.s 2 3 = 0 && f.xs 2 2 = 0 && f.noC

/-- PACK (R203). -/
def packOp (f : GFmt) : Alu :=
  let v := f.s 0 2
  let k := f.xs 0 2
  let w := packWidth v
  let ops := if v = 3 then [Opnd.reg f.ra 4 f.ma.toNat .plain]
    else [.reg f.ra 1 f.ma.toNat (.packed w), .reg f.rb 1 f.mb.toNat (.packed w)]
  { gn := f.gn, gp := f.gp
    ok := packOk f && ops.all Opnd.ok && (if v = 3 then k ≤ 2 && f.noB else k = 0)
    srcs := ops.flatMap Opnd.srcs
    sense := fun _ => ops.flatMap Opnd.srcs
    dsts := [.v f.rd 1]
    spans := []
    eval := fun _ t =>
      let vs := ops.map (Opnd.val t)
      [if v = 3 then packDense k (nth vs 0) else packElems w (nth vs 0) (nth vs 1)] }

/-- PACK. -/
def execPack (f : GFmt) (s : State) : Host.Outcome State Fault Refusal := .next (s.runAlu (packOp f))

/-- UNPACK (R203): the fourth word of a dense quad is not read. -/
def unpackOp (f : GFmt) : Alu :=
  let v := f.s 0 2
  let k := f.xs 0 2
  let w := packWidth v
  let n := if v = 3 then 3 else 1
  { gn := f.gn, gp := f.gp
    ok := packOk f && f.noB && (if v = 3 then f.ma = 0 && aligned f.ra 4 else (Elem.packed w).allows f.ma.toNat && k ≤ 1)
    srcs := [.v f.ra n]
    sense := fun _ => [.v f.ra n]
    dsts := [.v f.rd 1]
    spans := if v = 3 then [.v f.ra 4] else []
    eval := fun _ t =>
      [if v = 3 then unpackDense k (t.regNat f.ra 3)
       else unpackElems w k ((Elem.packed w).modify f.ma.toNat (t.regNat f.ra 1))] }

/-- UNPACK. -/
def execUnpack (f : GFmt) (s : State) : Host.Outcome State Fault Refusal := .next (s.runAlu (unpackOp f))

end Sys2Proof.Machine
end

