-- ==== Sys2Proof/Machine/CrossLane.lean ====
section
/-!
DEFINITION. Cross-lane instructions, opcodes 0x0C0 to 0x0C7 (R204 to R211, R145, R412, R424).
-/

namespace Sys2Proof.Machine

/-- A cross-lane instruction: what it reads and writes, and what each participant's destination receives. -/
structure XLane where
  gn : BitVec 1
  gp : BitVec 3
  ok : Bool
  srcs : List Src
  dst : Dst
  out : State → List Nat → Nat → Out

/-- A cross-lane instruction issues: every participant reads before any writes (R148, R204). -/
def State.runXLane (s : State) (op : XLane) : State :=
  s.issue op.gn op.gp (illegal op.ok (op.srcs.any (·.beyond s.quota) || op.dst.beyond s.quota)) (fun ex =>
    (s.commit ex [op.dst] (s.labelL op.gp.toNat ex (s.curSlot.srcLabel op.srcs) 0)
      (ex.map (fun l => (l, [op.out s ex l])))).advance s.cur.lanes)

/-- What every format of R205 obeys: modifiers zero; the flags say which of D, A, B and C are used. -/
def xlOk (f : GFmt) (ka kb kc : Bool) : Bool := f.bare true ka kb kc true true

/-- The token of a lane's guard. -/
def State.guardTok (s : State) (gp : BitVec 3) (l : Nat) : Option Word := (s.lane l).predTok? gp.toNat

/-- The first token of a list of candidates, each with the lane that owns it. -/
def State.firstTok (s : State) (cs : List (Nat × Option Word)) : Option Out :=
  cs.findSome? (fun c => c.2.map (fun t => Out.tok t (s.laneKey c.1)))

/-- A register's token in a lane. -/
def State.regTok (s : State) (l r n : Nat) : Option Word := (s.lane l).spanTok r n

/-- The segment size of SEL[3:2] (R205). -/
def segSize (f : GFmt) : Nat := 32 / 2 ^ f.s 2 2

/-- The first lane of a lane's segment (R205). -/
def segBase (z l : Nat) : Nat := l - l % z

/-- The source lane of SHFL (R206); the lane itself when there is none. -/
def shflLane (mode z l b : Nat) : Nat :=
  let base := segBase z l
  match mode with
  | 0 => base + b % z
  | 1 => l ^^^ (b % z)
  | 2 => if l < base + b then l else l - b
  | _ => if base + z ≤ l + b then l else l + b

/-- The lane operand: B in a lane, or imm8 (R205). -/
def State.laneOperand (s : State) (f : GFmt) (l : Nat) : Nat := if f.s 4 1 = 1 then f.rc else ((s.lane l).reg f.rb).toNat

/-- The token of the lane operand. -/
def State.laneOperandTok (s : State) (f : GFmt) (l : Nat) : Option Word :=
  if f.s 4 1 = 1 then none else s.regTok l f.rb 1

/-- SHFL (R206, R412). -/
def shflOp (f : GFmt) : XLane :=
  let ib := f.s 4 1 = 1
  { gn := f.gn, gp := f.gp, ok := xlOk f true (!ib) ib
    srcs := .v f.ra 1 :: (if ib then [] else [.v f.rb 1])
    dst := .v f.rd 1
    out := fun s ex l =>
      let j0 := shflLane (f.s 0 2) (segSize f) l (s.laneOperand f l)
      let j := if ex.contains j0 then j0 else l
      match s.firstTok [(l, s.guardTok f.gp l), (l, s.laneOperandTok f l), (j, s.guardTok f.gp j), (j, s.regTok j f.ra 1)] with
      | some o => o
      | none => .val ((s.lane j).reg f.ra).toNat }

/-- SHFL. -/
def execShfl (f : GFmt) (s : State) : Host.Outcome State Fault Refusal := .next (s.runXLane (shflOp f))

/-- SLIDE (R207, R412): C is the shift, the fill comes from B, or from the B field itself when SEL[4] = 1. -/
def slideOp (f : GFmt) : XLane :=
  let imm := f.s 4 1 = 1
  let sh := sext f.rc 8
  { gn := f.gn, gp := f.gp, ok := xlOk f true true true && f.s 0 2 = 0 && sh.natAbs < 32
    srcs := .v f.ra 1 :: (if imm then [] else [.v f.rb 1])
    dst := .v f.rd 1
    out := fun s ex l =>
      let z := segSize f
      let j : Int := (l : Int) - sh
      if (segBase z l : Int) ≤ j && j < (segBase z l + z : Nat) && ex.contains j.toNat then
        match s.firstTok [(l, s.guardTok f.gp l), (j.toNat, s.guardTok f.gp j.toNat), (j.toNat, s.regTok j.toNat f.ra 1)] with
        | some o => o
        | none => .val ((s.lane j.toNat).reg f.ra).toNat
      else
        match s.firstTok [(l, s.guardTok f.gp l), (l, if imm then none else s.regTok l f.rb 1)] with
        | some o => o
        | none => .val (if imm then wrap 32 (sext f.rb 8) else ((s.lane l).reg f.rb).toNat) }

/-- SLIDE. -/
def execSlide (f : GFmt) (s : State) : Host.Outcome State Fault Refusal := .next (s.runXLane (slideOp f))

/-- BCASTL (R208, R412). -/
def bcastlOp (f : GFmt) : XLane :=
  let ib := f.s 4 1 = 1
  { gn := f.gn, gp := f.gp, ok := xlOk f true (!ib) ib && f.s 0 4 = 0
    srcs := .v f.ra 1 :: (if ib then [] else [.v f.rb 1])
    dst := .v f.rd 1
    out := fun s ex l =>
      let low := ex.headD 0
      let j0 := s.laneOperand f low % 32
      let j := if ex.contains j0 then j0 else low
      match s.firstTok [(low, s.guardTok f.gp low), (low, s.laneOperandTok f low), (j, s.guardTok f.gp j),
          (l, s.guardTok f.gp l), (j, s.regTok j f.ra 1)] with
      | some o => o
      | none => .val ((s.lane j).reg f.ra).toNat }

/-- BCASTL. -/
def execBcastl (f : GFmt) (s : State) : Host.Outcome State Fault Refusal := .next (s.runXLane (bcastlOp f))

/-- The token of the lowest participant whose guard, or then source, is poisoned (R412). -/
def State.partnerTok (s : State) (gp : BitVec 3) (ex : List Nat) (src : Nat → Option Word) : Option Out :=
  s.firstTok (ex.flatMap (fun l => [(l, s.guardTok gp l), (l, src l)]))

/-- The participants whose predicate, negated when asked, is true (R209). -/
def State.voters (s : State) (f : GFmt) (ex : List Nat) : List Nat :=
  ex.filter (fun l => xorB ((s.lane l).pred (f.ra % 8)) (f.s 2 1 = 1))

/-- VOTE (R209). -/
def voteOp (f : GFmt) : XLane :=
  let mode := f.s 0 2
  { gn := f.gn, gp := f.gp
    ok := xlOk f true false false && f.s 3 2 = 0 && isPred f.ra && (mode = 3 || isPred f.rd)
    srcs := [.p (f.ra % 8)]
    dst := if mode = 3 then .v f.rd 1 else .p (f.rd % 8)
    out := fun s ex _ =>
      match s.partnerTok f.gp ex (fun l => (s.lane l).predTok? (f.ra % 8)) with
      | some o => o
      | none =>
        let yes := s.voters f ex
        let b (c : Bool) : Out := .val (if c then 1 else 0)
        match mode with
        | 0 => b (yes.length = ex.length)
        | 1 => b (!yes.isEmpty)
        | 2 => b (yes.isEmpty || yes.length = ex.length)
        | _ => .val (maskOf yes) }

/-- VOTE. -/
def execVote (f : GFmt) (s : State) : Host.Outcome State Fault Refusal := .next (s.runXLane (voteOp f))

/-- MATCH (R209). -/
def matchLanesOp (f : GFmt) : XLane :=
  let n := if f.s 0 2 = 3 then 2 else 1
  { gn := f.gn, gp := f.gp
    ok := xlOk f true false false && (f.s 0 2 = 2 || f.s 0 2 = 3) && f.s 2 3 = 0 && aligned f.ra n
    srcs := [.v f.ra n]
    dst := .v f.rd 1
    out := fun s ex l =>
      match s.partnerTok f.gp ex (fun m => s.regTok m f.ra n) with
      | some o => o
      | none => .val (maskOf (ex.filter (fun m => (s.lane m).regNat f.ra n = (s.lane l).regNat f.ra n))) }

/-- MATCH. -/
def execMatchLanes (f : GFmt) (s : State) : Host.Outcome State Fault Refusal := .next (s.runXLane (matchLanesOp f))

/-! ### The lane tree (R145, R210) -/

/-- One level of the tree: a present pair combines left and right, one present child passes through. -/
def treeLevel (op : Nat → Nat → Nat) : List (Option Nat) → List (Option Nat)
  | a :: b :: rest =>
    (match a, b with
     | some x, some y => some (op x y)
     | some x, none => some x
     | none, y => y) :: treeLevel op rest
  | rest => rest

/-- The root over 32 lanes. -/
def treeRoot (op : Nat → Nat → Nat) (leaves : List (Option Nat)) : Option Nat :=
  (treeLevel op (treeLevel op (treeLevel op (treeLevel op (treeLevel op leaves))))).headD none

/-- The fields of REDUX and SCAN (R210). -/
structure Redux where
  op : Nat
  ty : Nat
  nat : Bool
  fmt : Fmt
  rm : Nat
  ftz : Bool
  sat : Bool
  exc : Bool
deriving DecidableEq, Repr

/-- REDUX and SCAN read from a word. -/
def reduxOf (f : GFmt) : Redux :=
  let ty := f.s 0 2
  { op := f.s 2 3, ty := ty, nat := bit f.rc 4
    fmt := if ty = 0 then .f32 else if ty = 1 then .f64 else if bit f.rc 4 then .bf16 else .f16
    rm := bits f.rc 0 3, ftz := bit f.rc 3, sat := bit f.rc 5, exc := bit f.rc 6 }

/-- Registers of an operand. -/
def Redux.regs (x : Redux) : Nat := if x.ty = 1 || 6 ≤ x.op then 2 else 1

/-- What R210 allows. -/
def Redux.ok (x : Redux) (c : Nat) (scan : Bool) : Bool :=
  let flt := x.ty ≠ 2
  !(bit c 7) && (scan || !x.exc) && !(flt && 3 ≤ x.op && x.op ≤ 5) && !(6 ≤ x.op && (x.ty = 1 || x.ty = 3))
    && (!x.sat || (x.ty = 2 && x.op = 0)) && (!(bit c 4) || 2 ≤ x.ty)
    && (x.rm = 0 || (x.op = 0 && flt && x.rm < 6))

/-- The combining operation of one tree (R145, R189, R197, R210). -/
def Redux.combine (x : Redux) (drm a b : Nat) : Nat :=
  if x.ty = 2 then
    let ia := readInt x.nat 32 a
    let ib := readInt x.nat 32 b
    match x.op with
    | 0 => narrow x.sat x.nat 32 (ia + ib)
    | 1 => if ib < ia then b else a
    | 2 => if ia < ib then b else a
    | 3 => a &&& b
    | 4 => a ||| b
    | 5 => a ^^^ b
    | k => miniInt (k = 7) x.nat a b
  else
    let dec := x.fmt.decode x.ftz
    match x.op with
    | 0 =>
      let r := resolveRM x.rm drm false 0 0
      x.fmt.round r false x.ftz (sumNum (isRdn r) [dec a, dec b])
    | 1 => x.fmt.round .rne false x.ftz (minMaxNum false (dec a) (dec b))
    | 2 => x.fmt.round .rne false x.ftz (minMaxNum true (dec a) (dec b))
    | k => miniFloat (k = 7) x.ftz a b

/-- The identity of an exclusive scan over no lane (R210). -/
def Redux.identity (x : Redux) : Nat :=
  if x.ty = 2 then
    let hi := wrap 32 (intMax x.nat 32)
    let lo := wrap 32 (intMin x.nat 32)
    match x.op with
    | 1 => hi
    | 2 => lo
    | 3 => 0xFFFFFFFF
    | 6 => hi + 0xFFFFFFFF * 2 ^ 32
    | 7 => lo + 0xFFFFFFFF * 2 ^ 32
    | _ => 0
  else
    match x.op with
    | 1 => x.fmt.signed false x.fmt.infBits
    | 2 => x.fmt.signed true x.fmt.infBits
    | 6 | 7 => x.fmt.nan + 0xFFFFFFFF * 2 ^ 32
    | _ => 0

/-- The value of lane `l`, or of all lanes, from the participants' values; packed elements have a tree each (R210). -/
def Redux.value (x : Redux) (drm : Nat) (scan : Bool) (l : Nat) (leaves : List (Option Nat)) : Nat :=
  let seen := if scan then (leaves.zipIdx).map (fun p => if (if x.exc then p.2 < l else p.2 ≤ l) then p.1 else none) else leaves
  let one (pick : Nat → Nat) : Nat := (treeRoot (x.combine drm) (seen.map (·.map pick))).getD x.identity
  if x.ty = 3 then one (fun v => bits v 0 16) + 2 ^ 16 * one (fun v => bits v 16 16) else one id

/-- REDUX and SCAN. -/
def reduxLane (f : GFmt) (scan : Bool) : XLane :=
  let x := reduxOf f
  let n := x.regs
  { gn := f.gn, gp := f.gp
    ok := f.noB && f.ma = 0 && f.mc = 0 && x.ok f.rc scan && aligned f.ra n && aligned f.rd n
    srcs := [.v f.ra n]
    dst := .v f.rd n
    out := fun s ex l =>
      match s.partnerTok f.gp ex (fun m => s.regTok m f.ra n) with
      | some o => o
      | none => .val (x.value (bits s.rmode 0 3) scan l
          ((List.range 32).map (fun m => if ex.contains m then some ((s.lane m).regNat f.ra n) else none))) }

/-- REDUX (R210). -/
def execRedux (f : GFmt) (s : State) : Host.Outcome State Fault Refusal := .next (s.runXLane (reduxLane f false))
/-- SCAN (R210). -/
def execScan (f : GFmt) (s : State) : Host.Outcome State Fault Refusal := .next (s.runXLane (reduxLane f true))

/-- The lanes of the slot that hold an Active, Waiting or Fault-parked thread (R211). -/
def State.slotLanes (s : State) : List Nat :=
  s.curSlot.lanes.filterMap (fun p =>
    let st := (s.thread p.2).status
    if st = .active || st = .waiting || st = .parked then some p.1 else none)

/-- LMASK (R211, R412). -/
def lmaskOp (f : GFmt) : XLane :=
  let mode := f.s 0 2
  { gn := f.gn, gp := f.gp, ok := xlOk f false false false && f.s 2 3 = 0
    srcs := []
    dst := .v f.rd 1
    out := fun s ex l =>
      let t := if mode = 0 || mode = 3 then s.partnerTok f.gp ex (fun _ => none) else s.firstTok [(l, s.guardTok f.gp l)]
      match t with
      | some o => o
      | none => .val (match mode with
        | 0 => maskOf ex
        | 1 => maskOf s.slotLanes
        | 2 => maskOf s.cur.lanes
        | _ => maskOf (ex.filter (· < l))) }

/-- LMASK. -/
def execLmask (f : GFmt) (s : State) : Host.Outcome State Fault Refusal := .next (s.runXLane (lmaskOp f))

end Sys2Proof.Machine
end

