-- ==== Sys2Proof/Machine/Pair.lean ====
section
/-!
DEFINITION. Pair words: two compact operations as one instruction (R119 to R122, R429).
-/

namespace Sys2Proof.Machine

/-- The functional pipes of the compact operations (R120). -/
inductive Pipe where
  | int | fma | xf | cv
deriving DecidableEq, Repr

/-- A compact operation that R120 names: its pipe, its name's number and what C holds. -/
def compactPipe (cop : Nat) : Option Pipe :=
  if cop ≤ 18 then some .int else if cop ≤ 27 then some .fma else if cop ≤ 34 then some .xf else if cop = 35 then some .cv
  else none

/-- An integer TY3: width 32 or 16 (R119). -/
def tyInt (ty : Nat) : Bool := ty = 0 || ty = 1 || ty = 5 || ty = 6
/-- A float TY3 (R119). -/
def tyFlt (ty : Nat) : Bool := 2 ≤ ty && ty ≤ 4

/-- The TY3 column of R120. -/
def compactTy (cop ty : Nat) : Bool :=
  if cop ≤ 18 then tyInt ty
  else if cop = 26 || cop = 27 then tyInt ty || tyFlt ty
  else if cop ≤ 34 then tyFlt ty
  else ty = 0

/-- The compact operations that may take IB (R120). -/
def compactIb (cop : Nat) : Bool := cop ≤ 12 || cop = 14 || cop = 18

/-- The element function of an integer compact operation (R120). -/
def compactFn (cop : Nat) : ElemFn :=
  match cop with
  | 0 => fnAdd | 1 => fnSub | 2 => fnMul | 3 => fnMad | 4 => fnMin | 5 => fnMax | 6 => fnAnd | 7 => fnOr | 8 => fnXor
  | 9 => fnAndn | 10 => fnShl | 11 => fnShr | 12 => fnSar | 15 => fnNeg | 16 => fnAbs | 17 => fnPopc | _ => fnMov

/-- The number of sources of an integer compact operation. -/
def compactSources (cop : Nat) : Nat := if cop = 3 then 3 else if 14 ≤ cop && cop ≤ 17 then 1 else 2

/-- The fields of a float compact operation: FTZ from %rmode, RM 0 (R120). -/
def compactFa (ty rmode : Nat) : FaFields := ⟨if ty = 2 then .f32 else if ty = 3 then .f16 else .bf16, true, bit rmode 4, 0, 0⟩

/-- An integer compact operation (R120). On halves, SEL takes or leaves the whole register, and ISET is true when its test holds
in both, as R190 says of FSET: DEDUCED (notes/assumptions 29). -/
def compactInt (x : CFmt) : Alu :=
  let cop := x.cop.toNat
  let ty := x.ty.toNat
  let w := if ty ≤ 1 then 32 else 16
  let nat := ty = 1 || ty = 6
  let e := intElem nat w
  let ib := x.ib = 1#1
  let imm := Opnd.imm (immBits nat w 32 x.b.toNat)
  let a := Opnd.reg x.a.toNat 1 0 e
  let b := if ib then imm else Opnd.reg x.b.toNat 1 0 e
  let c := x.c.toNat
  let d := x.d.toNat
  if cop = 13 then selWith x.gn x.gp (isPred c) a b (c % 8) (.v d 1)
  else
    let ops := if cop = 3 then [a, b, Opnd.reg c 1 0 e]
      else if cop = 14 then [if ib then imm else a]
      else if compactSources cop = 1 then [a] else [a, b]
    let srcs := ops.flatMap Opnd.srcs
    if cop = 18 then
      { gn := x.gn, gp := x.gp, ok := c ≤ 5 && isPred d, srcs := srcs, sense := fun _ => srcs, dsts := [.p (d % 8)], spans := []
        eval := fun _ t =>
          let vs := ops.map (Opnd.val t)
          let at' (i k : Nat) : Int := readInt nat w (bits (nth vs i) (w * k) w)
          [if (List.range (32 / w)).all (fun k => intTest c (at' 0 k) (at' 1 k)) then 1 else 0] }
    else
      { gn := x.gn, gp := x.gp
        ok := (cop = 3 || c = 0) && (cop = 14 || compactSources cop ≠ 1 || x.b = 0) && (cop ≠ 14 || (if ib then x.a = 0 else x.b = 0))
        srcs := srcs, sense := fun _ => srcs, dsts := [.v d 1], spans := []
        eval := fun _ t => [elementwise (compactFn cop) false nat w 32 (ops.map (Opnd.val t))] }

/-- A compact operation of the FMA pipe. -/
def compactFma (x : CFmt) (rmode : Nat) : Alu :=
  let cop := x.cop.toNat
  let ty := x.ty.toNat
  let fa := compactFa ty rmode
  let drm := bits rmode 0 3
  let a := fa.fmt.opnd x.a.toNat 0
  let b := fa.fmt.opnd x.b.toNat 0
  let c := fa.fmt.opnd x.c.toNat 0
  let d := x.d.toNat
  let two (g : RMode → FloatVal → FloatVal → FloatVal) : Alu :=
    fpAlu x.gn x.gp (x.c = 0) fa.fmt true [a, b] [] (.v d 1) [] (fun _ _ vs =>
      let r := resolveRM 0 drm false 0 0
      fa.fmt.round r false fa.ftz (g r (fa.fmt.decode fa.ftz (nth vs 0)) (fa.fmt.decode fa.ftz (nth vs 1))))
  match cop with
  | 19 => two (fun r p q => sumNum (isRdn r) [p, q])
  | 20 => two (fun r p q => sumNum (isRdn r) [p, q.negate])
  | 21 => two (fun _ p q => mulNum p q)
  | 22 => fmaAlu x.gn x.gp true fa drm [a, b, c] d
  | 23 => minMaxAlu x.gn x.gp (x.c = 0) fa false [a, b] d
  | 24 => minMaxAlu x.gn x.gp (x.c = 0) fa true [a, b] d
  | 25 => fsetAlu x.gn x.gp (x.c.toNat < 8) fa (x.c.toNat % 8) [a, b] d
  | _ =>
    if tyInt ty then
      let w := if ty ≤ 1 then 32 else 16
      let nat := ty = 1 || ty = 6
      let e := intElem nat w
      addMinInt x.gn x.gp true w nat false (cop = 27) [.reg x.a.toNat 1 0 e, .reg x.b.toNat 1 0 e, .reg x.c.toNat 1 0 e] d
    else addMinFloat x.gn x.gp true fa drm (cop = 27) [a, b, c] d

/-- A compact operation of the XF pipe. -/
def compactXf (x : CFmt) (rmode : Nat) : Alu :=
  let fa := compactFa x.ty.toNat rmode
  let g : FaFields → Nat → Nat := match x.cop.toNat with
    | 28 => algebraic rcpNum
    | 29 => algebraic rsqNum
    | 30 => algebraic sqrtNum
    | 31 => transc .exp2
    | 32 => transc .log2
    | 33 => transc .tanh
    | _ => transc .sigm
  ftAlu x.gn x.gp (x.b = 0 && x.c = 0) fa [fa.fmt.opnd x.a.toNat 0] x.d.toNat (fun vs => g fa (nth vs 0))

/-- A compact CVT: group 0, RM 0, no SAT, types in C; it names single registers, so no 64-bit type (R111, R199). -/
def compactCvt (x : CFmt) (rmode : Nat) : Alu :=
  match fltCode (x.c.toNat / 16), fltCode (x.c.toNat % 16) with
  | some a, some b =>
    cvtAlu x.gn x.gp (x.b = 0 && a.width ≤ 32 && b.width ≤ 32) ⟨a, b, 0, 0, false, bit rmode 4, false⟩ rmode x.a.toNat 0 x.d.toNat none
  | _, _ => illAlu x.gn x.gp

/-- A compact operation as an ALU operation with its own checks (R120, R429). -/
def compactAlu (x : CFmt) (rmode : Nat) : Alu :=
  let op := match compactPipe x.cop.toNat with
    | some .int => compactInt x
    | some .fma => compactFma x rmode
    | some .xf => compactXf x rmode
    | some .cv => compactCvt x rmode
    | none => illAlu x.gn x.gp
  { op with ok := op.ok && x.rsv = 0 && compactTy x.cop.toNat x.ty.toNat
                   && (x.ib = 0 || (compactIb x.cop.toNat && tyInt x.ty.toNat)) }

/-- Whether two pipes have enough units between them, and XF does not meet CV (R121, R122). -/
def pipesOk (a b : Option Pipe) : Bool :=
  match a, b with
  | some .int, some _ => true
  | some _, some .int => true
  | some x, some y => x ≠ y && !((x = .xf && y = .cv) || (x = .cv && y = .xf))
  | _, _ => false

/-- The distinct V registers of sources. -/
def regsRead (ss : List Src) : List Nat :=
  (ss.flatMap (fun x => match x with
    | .v r n => (List.range n).map (r + ·)
    | .p _ => [])).eraseDups

/-- The limits of a pair: pipes, read ports, banks and destinations (R122). -/
def pairOk (x y : CFmt) (a b : Alu) : Bool :=
  let rs := regsRead (a.srcs ++ b.srcs)
  pipesOk (compactPipe x.cop.toNat) (compactPipe y.cop.toNat) && rs.length ≤ 3
    && (List.range 4).all (fun k => (rs.filter (fun r => r % 4 = k)).length ≤ 2)
    && a.dsts.all (fun d => !b.dsts.contains d)

/-- Two operations issue as one: both read all sources before either writes, each under its own guard (R122). -/
def State.runPair (s : State) (a b : Alu) (ok : Bool) : State :=
  let ea := s.execLanes a.gn a.gp
  let eb := s.execLanes b.gn b.gp
  let ex := s.cur.lanes.filter (fun l => ea.contains l || eb.contains l)
  if ex.isEmpty then s.advance s.cur.lanes
  else match firstFault (illegal (ok && a.ok && b.ok) false) (firstFault (a.bad s.quota) (b.bad s.quota)) with
    | some f => s.parkAll ex f
    | none => (b.effect s (a.effect s s ea) eb).advance s.cur.lanes

/-- PAIR_WORD (R119 to R122, R429). -/
def execPairWord (x y : CFmt) (s : State) : Host.Outcome State Fault Refusal :=
  let a := compactAlu x s.rmode
  let b := compactAlu y s.rmode
  .next (s.runPair a b (pairOk x y a b))

end Sys2Proof.Machine
end

