-- ==== Sys2Proof/Machine/Ids.lean ====
section
/-!
DEFINITION. The index and state registers of R42 and the user-level special registers of R123.
-/

namespace Sys2Proof.Machine

/-! ### The claimed rectangle (R292, R297) -/

/-- Width of a launch's rectangle. -/
def Grid.width (g : Grid) : Nat := bits g.rcd.toNat 320 7 + 1
/-- Height of a launch's rectangle. -/
def Grid.height (g : Grid) : Nat := bits g.rcd.toNat 327 7 + 1
/-- The site of a stand number in a claimed rectangle (R42). -/
def Grid.siteOf (g : Grid) (n : Nat) : Nat := 80 * (g.y0 + n / g.width) + (g.x0 + n % g.width)
/-- The clusters that a rectangle touches, ascending (R42). -/
def Grid.clusters (g : Grid) : List Nat :=
  (List.range 24).flatMap (fun r => (List.range 16).filterMap (fun c =>
    if g.y0 / 4 ≤ r && r ≤ (g.y0 + g.height - 1) / 4 && g.x0 / 5 ≤ c && c ≤ (g.x0 + g.width - 1) / 5 then some (16 * r + c) else none))

/-- The grid of a stand. -/
def State.gridAt (s : State) (stand : Nat) : Option Grid :=
  match s.stands.get? stand with
  | some st => s.grids.get? st.grid
  | none => none

/-- The quadrant of a thread's crew: its number decides, but for a communication stage and a handler stand (R43, R47, R397). -/
def State.crewOf (s : State) (thread : Nat) : Nat :=
  let t := s.thread thread
  if t.stand = mgmtStand then 0
  else if isHandler t.stand then s.field (supAt t.stand 0x101) 15 2
  else match s.stageOf t.stand t.stage with
    | some g => if g.com then g.cqd else t.tid / 32 % 4
    | none => t.tid / 32 % 4

/-! ### The spawn yard (R35, R42, R67) -/

/-- size(n) of a yard record in bytes (R35). -/
def yardSize (n : Nat) : Nat := 64 * ceilDiv (64 + 12 * n + 4 * ceilDiv n 32) 64

/-- Where the yard begins in the scratchpad (R292). -/
def Stand.yardBase (st : Stand) : Nat := st.areaA + 1024 * (st.queueKiB + st.dcKiB)

/-- Bytes free in the yard. -/
def Stand.yardFree (st : Stand) : Nat := 1024 * st.yardKiB - (st.yard.map (fun r => yardSize r.live)).foldl (· + ·) 0

/-! ### Reading -/

/-- The width of a user-level special register in words; 0 for a number that names none (R123). -/
def userWidth (n : Nat) : Nat :=
  if n ≤ 8 || n = 10 then 1 else if n ≤ 12 then 2 else 0

/-- A user-level special register of a lane (R42, R123). %stand and %cmpt of a stand without a rectangle are free values
(notes/assumptions 26). -/
def State.userReg (s : State) (n l : Nat) : Nat :=
  let t := s.lane l
  let stand := s.curStand
  match n with
  | 0 => t.tid
  | 1 => s.cur.quad
  | 2 => match s.gridAt stand, s.stands.get? stand with
    | some _, some st => st.num
    | _, _ => (s.free (4 * l)).toNat
  | 3 => match s.gridAt stand with
    | some g => (g.clusters.findIdx? (· = clusterOf s.cur.core)).getD 0
    | none => (s.free (4 * l + 1)).toNat
  | 4 => siteX s.cur.core + 256 * siteY s.cur.core
  | 5 => s.curSlot.stage
  | 6 => l
  | 7 => s.cur.slot
  | 8 => t.prog
  | 9 => t.flow.toNat
  | 10 => s.rmode
  | 11 => (s.clk s.cur.core).toNat
  | 12 => match s.stands.get? stand with
    | some st => st.yardBase % 2 ^ 20 + 2 ^ 32 * st.yardFree
    | none => 0
  | _ => 0

/-- The thread count T of the issuing stage (R183); free for the management core. -/
def State.stageCount (s : State) (l : Nat) : Nat :=
  match s.stageOf s.curStand s.curSlot.stage with
  | some g => g.threads
  | none => (s.free (4 * l + 2)).toNat

/-- What IDX writes in a lane (R183). -/
def State.indexValue (s : State) (kind l : Nat) : Nat :=
  match kind with
  | 0 => wrap 32 ((s.userReg 2 l * s.stageCount l + s.userReg 0 l : Nat) : Int)
  | 1 => s.stageCount l
  | _ => match s.gridAt s.curStand with
    | some g => g.width * g.height
    | none => (s.free (4 * l + 3)).toNat

end Sys2Proof.Machine
end

