-- ==== Sys2Proof/Machine/Predicate.lean ====
section
/-!
DEFINITION. Predicate and index instructions, opcodes 0x06A to 0x06F (R183).
-/

namespace Sys2Proof.Machine

/-- What every format of R183 obeys: SEL, C and all modifiers zero, XS[3:2] zero; the flags say which of D, A, B are used. -/
def prOk (f : GFmt) (kd ka kb : Bool) : Bool := f.bare kd ka kb false false true && f.xs 2 2 = 0

/-- A predicate operation on A and B with negations XS[0] and XS[1] (R183). -/
def predAlu (f : GFmt) (op : Bool → Bool → Bool) : Alu :=
  let a := f.ra % 8
  let b := f.rb % 8
  { gn := f.gn, gp := f.gp
    ok := prOk f true true true && isPred f.rd && isPred f.ra && isPred f.rb
    srcs := [.p a, .p b]
    sense := fun _ => [.p a, .p b]
    dsts := [.p (f.rd % 8)]
    spans := []
    eval := fun _ t => [if op (xorB (t.pred a) (f.xs 0 1 = 1)) (xorB (t.pred b) (f.xs 1 1 = 1)) then 1 else 0] }

/-- A predicate operation on A alone (R183). -/
def predOne (f : GFmt) (op : Bool → Bool) : Alu :=
  let a := f.ra % 8
  { gn := f.gn, gp := f.gp
    ok := prOk f true true false && f.x = 0 && isPred f.rd && isPred f.ra
    srcs := [.p a]
    sense := fun _ => [.p a]
    dsts := [.p (f.rd % 8)]
    spans := []
    eval := fun _ t => [if op (t.pred a) then 1 else 0] }

/-- PAND (R183). -/
def execPand (f : GFmt) (s : State) : Host.Outcome State Fault Refusal := .next (s.runAlu (predAlu f (fun a b => a && b)))
/-- POR (R183). -/
def execPor (f : GFmt) (s : State) : Host.Outcome State Fault Refusal := .next (s.runAlu (predAlu f (fun a b => a || b)))
/-- PXOR (R183). -/
def execPxor (f : GFmt) (s : State) : Host.Outcome State Fault Refusal := .next (s.runAlu (predAlu f xorB))
/-- PNOT (R183). -/
def execPnot (f : GFmt) (s : State) : Host.Outcome State Fault Refusal := .next (s.runAlu (predOne f (fun a => !a)))

/-- P0 to P6. -/
def allPreds : List Nat := List.range 7

/-- PMOV.PACK (R183): P0 to P7 into a register. -/
def packPreds (f : GFmt) : Alu :=
  { gn := f.gn, gp := f.gp, ok := prOk f true false false, srcs := allPreds.map .p, sense := fun _ => allPreds.map .p
    dsts := [.v f.rd 1], spans := []
    eval := fun _ t => [maskOf ((List.range 8).filter t.pred)] }

/-- PMOV.UNPACK (R183): P0 to P6 from a register. -/
def unpackPreds (f : GFmt) : Alu :=
  { gn := f.gn, gp := f.gp, ok := prOk f false true false, srcs := [.v f.ra 1], sense := fun _ => [.v f.ra 1]
    dsts := allPreds.map .p, spans := []
    eval := fun _ t => allPreds.map (fun i => bits (t.reg f.ra).toNat i 1) }

/-- PMOV (R183). -/
def execPmov (f : GFmt) (s : State) : Host.Outcome State Fault Refusal :=
  .next (s.runAlu (match f.xs 0 2 with
    | 0 => predOne f (fun a => a)
    | 1 => packPreds f
    | 2 => unpackPreds f
    | _ => { predOne f (fun a => a) with ok := false }))

/-- IDX (R183). -/
def idxOp (f : GFmt) (s : State) : Alu :=
  { gn := f.gn, gp := f.gp, ok := prOk f true false false && f.xs 0 2 ≠ 3, srcs := [], sense := fun _ => []
    dsts := [.v f.rd 1], spans := [], eval := fun l _ => [s.indexValue (f.xs 0 2) l] }

/-- IDX. -/
def execIdx (f : GFmt) (s : State) : Host.Outcome State Fault Refusal := .next (s.runAlu (idxOp f s))

end Sys2Proof.Machine
end

