-- ==== Sys2Proof/Machine/Ed25519.lean ====
section
/-!
DEFINITION. The verification of an Ed25519 signature (RFC 8032, section 5.1.7; R327), with the equation of its step 3 as it stands,
multiplied by 8.
-/

namespace Sys2Proof.Machine

/-- The prime 2^255 - 19. -/
def edP : Nat := 2 ^ 255 - 19

/-- The order of the base point. -/
def edL : Nat := 2 ^ 252 + 27742317777372353535851937790883648493

/-- Powers modulo a number, by the low `fuel` bits of the exponent. -/
def powMod (m : Nat) : Nat → Nat → Nat → Nat
  | 0, _, _ => 1 % m
  | n + 1, b, e =>
    let r := powMod m n (b * b % m) (e / 2)
    if e % 2 = 1 then r * b % m else r

/-- The inverse modulo the prime. -/
def edInv (x : Nat) : Nat := powMod edP 255 x (edP - 2)

/-- The curve's constant d = -121665 / 121666. -/
def edD : Nat := (edP - 121665) * edInv 121666 % edP

/-- A square root of -1. -/
def edI : Nat := powMod edP 255 2 ((edP - 1) / 4)

/-- A point in extended coordinates. -/
structure EdPoint where
  x : Nat
  y : Nat
  z : Nat
  t : Nat
deriving DecidableEq, Repr

/-- The neutral point. -/
def EdPoint.zero : EdPoint := ⟨0, 1, 1, 0⟩

/-- The sum of two points. -/
def EdPoint.add (p q : EdPoint) : EdPoint :=
  let a := (p.y + edP - p.x) * (q.y + edP - q.x) % edP
  let b := (p.y + p.x) * (q.y + q.x) % edP
  let c := p.t * 2 * edD % edP * q.t % edP
  let d := p.z * 2 * q.z % edP
  let e := b + edP - a
  let f := d + edP - c
  let g := d + c
  let h := b + a
  ⟨e * f % edP, g * h % edP, f * g % edP, e * h % edP⟩

/-- A multiple of a point, by the low `fuel` bits of the factor. -/
def EdPoint.mul (p : EdPoint) : Nat → Nat → EdPoint
  | 0, _ => .zero
  | n + 1, k =>
    let r := p.mul n (k / 2)
    let d := r.add r
    if k % 2 = 1 then d.add p else d

/-- Two points are equal. -/
def EdPoint.same (p q : EdPoint) : Bool :=
  (p.x * q.z) % edP = (q.x * p.z) % edP && (p.y * q.z) % edP = (q.y * p.z) % edP

/-- The x of a point from its y and the parity of x (RFC 8032, section 5.1.3); none when there is no such point. -/
def edX (y sign : Nat) : Option Nat :=
  let u := (y * y + edP - 1) % edP
  let v := (edD * y % edP * y + 1) % edP
  let v3 := v * v % edP * v % edP
  let x0 := u * v3 % edP * powMod edP 255 (u * v3 % edP * v3 % edP * v % edP) ((edP - 5) / 8) % edP
  let w := v * x0 % edP * x0 % edP
  let x1 := if w = u then some x0 else if w = (edP - u) % edP then some (x0 * edI % edP) else none
  match x1 with
  | none => none
  | some x => if x = 0 && sign = 1 then none else some (if x % 2 = sign then x else edP - x)

/-- Decode a point of 32 bytes. -/
def edDecode (bs : List Byte) : Option EdPoint :=
  let n := leNat bs
  let y := n % 2 ^ 255
  if edP ≤ y then none
  else (edX y (n / 2 ^ 255)).map (fun x => ⟨x, y, 1, x * y % edP⟩)

/-- The base point: y = 4/5, x even. -/
def edBase : EdPoint :=
  let y := 4 * edInv 5 % edP
  let x := (edX y 0).getD 0
  ⟨x, y, 1, x * y % edP⟩

/-- A signature of 64 bytes over a message verifies under a public key of 32 bytes. -/
def ed25519Verify (key m sig : List Byte) : Bool :=
  match edDecode key, edDecode (sig.take 32) with
  | some a, some r =>
    let s := leNat (sig.drop 32)
    let k := leNat (sha512 (sig.take 32 ++ key ++ m)) % edL
    sig.length = 64 && key.length = 32 && s < edL
      && (edBase.mul 256 (8 * s)).same ((r.mul 256 8).add (a.mul 256 (8 * k)))
  | _, _ => false

end Sys2Proof.Machine
end

