-- ==== Sys2Proof/Machine/Access.lean ====
section
/-!
DEFINITION. Addresses, translation and the checks of a memory access in the order of R213: address (R53 to R55), alignment
(R56), translation (R60 to R62), permission (R63, R66), watchpoints (R369), tag (R69), presence (R68), race check (R372).
-/

namespace Sys2Proof.Machine

/-! ### Translation (R61, R62, R64) -/

/-- A TLB holds this function's page (R64). -/
def Core.lookup (c : Core) (v vpn : Nat) : Option TlbEntry := c.tlb.find? (fun e => e.vf = v && e.vpn = vpn)

/-- Translate through the core's TLB; a walk that succeeds fills it (R64; notes/assumptions 10). -/
def State.translate (s : State) (core v va : Nat) : Except WalkFault TlbEntry × State :=
  match (s.coreAt core).lookup v (va / 0x10000) with
  | some e => (.ok e, s)
  | none => match s.walkBoth v va with
    | .error e => (.error e, s)
    | .ok e => (.ok e, s.updCore core (fun c => { c with tlb := c.tlb ++ [e] }))

/-- Set bits of a leaf by an atomic update of its entry, in the TLB copy as well; an entry that software has replaced since
keeps its own contents (R62, R64). -/
def State.markLeaf (s : State) (at_ leaf mask : Nat) : State :=
  let now := rawNat s.mem at_ 8
  if now ||| 0xC0 = leaf ||| 0xC0 then { s with mem := setBytes s.mem at_ (leBytes 8 (now ||| mask)) } else s

/-- A performing access sets A, and D on a write, in both leaves (R62). -/
def State.markAccess (s : State) (core : Nat) (e : TlbEntry) (write : Bool) : State :=
  let m := if write then 0xC0 else 0x40
  let want (x : Double) : Bool := x.toNat &&& m ≠ m
  let s1 := if want e.s1 then s.markLeaf e.s1at e.s1.toNat m else s
  let s2 := if want e.s2 then s1.markLeaf e.s2at e.s2.toNat m else s1
  if want e.s1 || want e.s2 then
    s2.updCore core (fun c => { c with tlb := c.tlb.map (fun x =>
      if x.vf = e.vf && x.vpn = e.vpn then { x with s1 := x.s1 ||| BitVec.ofNat 64 m, s2 := x.s2 ||| BitVec.ofNat 64 m } else x) })
  else s2

/-! ### Requests and targets -/

/-- An access to be checked: space, address operand, displacement, bytes, required alignment (0 for none), whether it reads
and writes, its watchpoint kind (bit of R368), whether tags and presence are checked, whether it may reach only the queue
region, and whether it is a plain access that race-check mode tests. -/
structure Req where
  spc : Nat
  ptr : Nat
  disp : Int
  size : Nat
  align : Nat
  read : Bool
  write : Bool
  kind : Option Nat
  tags : Bool
  pres : Bool
  queue : Bool
  plain : Bool
deriving DecidableEq, Repr

/-- Who makes an access: thread, stand, core, function; `super` at supervisor level, `phys` on the management core. -/
structure Who where
  thread : Nat
  stand : Nat
  core : Nat
  vf : Nat
  super : Bool
  phys : Bool
deriving DecidableEq, Repr

/-- Where an access goes: its place, key slot, whether uncached, on a DC page, on a window page (subscriber set and writer
cluster), and its TLB entry. -/
structure Target where
  loc : Loc
  key : Nat
  nc : Bool
  dc : Bool
  window : Option (Nat × Nat)
  tlb : Option TlbEntry
deriving DecidableEq, Repr

/-- The answer of a check. -/
inductive Ans (α : Type) where
  | ok (a : α)
  | bad (f : Flt)
  | wait (reason : Nat)

/-- Go on after a check that passed; one that fails or must wait is the answer. -/
def Ans.bind {α β : Type} (a : Ans α × State) (next : α → State → Ans β × State) : Ans β × State :=
  match a.1 with
  | .ok x => next x a.2
  | .bad f => (.bad f, a.2)
  | .wait n => (.wait n, a.2)

/-- The accesses of a thread of a stand on a core. -/
def State.who (s : State) (thread stand core : Nat) : Who := ⟨thread, stand, core, s.vfOf stand, isHandler stand, stand = mgmtStand⟩

/-- The accesses of a lane of the issuing group. -/
def State.laneWho (s : State) (l : Nat) : Who := s.who (s.laneKey l) s.curStand s.cur.core

/-- The pointer as formed: the displacement moves VA or OFF only (R55). -/
def Req.formed (r : Req) : Nat :=
  let n := if r.spc = 0 then 56 else 20
  r.ptr / 2 ^ n * 2 ^ n + wrap n ((r.ptr % 2 ^ n : Nat) + r.disp)

/-- The pointer tag (R53, R54). -/
def Req.tag (r : Req) : Nat := if r.spc = 0 then bits r.ptr 56 4 else bits r.ptr 28 4

/-- A fault at the request's address. -/
def Req.flt (r : Req) (code info : Nat) (det : Nat := 0) : Flt :=
  { Flt.at code info (BitVec.ofNat 64 r.formed) with det := BitVec.ofNat 64 det }

/-- Whether the displaced sum stays in range (R55). -/
def Req.inRange (r : Req) : Bool :=
  let n := if r.spc = 0 then 56 else 20
  let x := (r.ptr % 2 ^ n : Nat) + r.disp
  decide (0 ≤ x) && decide (x < (2 ^ n : Nat))

/-- INFO of a translation or permission fault: 1 for a write (R389). -/
def Req.info (r : Req) : Nat := if r.write then 1 else 0

/-! ### Scratchpad targets (R48, R54, R67) -/

/-- The gang size of a stand's launch; 1 without a gang (R48, R292). -/
def State.gangSize (s : State) (stand : Nat) : Nat :=
  match s.gridAt stand with
  | some g => bits g.rcd.toNat 349 6 + 1
  | none => 1

/-- The stand key that a member number of a stand's gang names. -/
def State.memberKey (s : State) (stand mbr : Nat) : Nat :=
  let n := stand % 8192
  stand - n + (n / s.gangSize stand * s.gangSize stand + mbr)

/-- A stand number of a launch whose stand is still pending: its site works and it has neither started nor exited (R48). -/
def State.notStarted (s : State) (key : Nat) : Bool :=
  match s.stands.get? key with
  | some st => !st.started && !st.exited
  | none => match s.grids.get? (gridOf key) with
    | some g => g.state ≠ .ended && key % 8192 < g.width * g.height && s.siteState (g.siteOf (key % 8192)) = 0
    | none => false

/-- The stand that a scratchpad request reaches, or its fault, or the wait for a member that has not started (R48, R193). -/
def State.spStand (s : State) (w : Who) (r : Req) : Ans Nat :=
  let mbr := bits r.ptr 20 6
  if bits r.ptr 26 2 ≠ 0 || (r.spc = 1 && mbr ≠ 0) then .bad (r.flt 0x05 0)
  else if r.spc = 1 then .ok w.stand
  else if s.gangSize w.stand < 2 || s.gangSize w.stand ≤ mbr then .bad (r.flt 0x05 0)
  else
    let k := s.memberKey w.stand mbr
    match s.stands.get? k with
    | some st => if st.exited then .bad (r.flt 0x05 0) else if st.started && st.saved.isNone then .ok k else .wait 14
    | none => if s.notStarted k then .wait 14 else .bad (r.flt 0x05 0)

/-- The region of a stand that a request may reach (R67, R229). -/
def State.regionOf (s : State) (k : Nat) (queue : Bool) : Nat × Nat :=
  match s.stands.get? k with
  | some st => if queue then (st.areaA, st.areaA + 1024 * st.queueKiB) else (0, st.areaA)
  | none => (0, 0)

/-! ### Watchpoints (R368, R369) -/

/-- Whether a watchpoint matches bytes [a, a + n) of a space under a kind. -/
def Watchpoint.hits (w : Watchpoint) (sp : Bool) (a n kind : Nat) : Bool :=
  let base := if w.sp then bits w.base.toNat 0 26 else bits w.base.toNat 0 56
  w.sp = sp && w.mask.getLsbD kind && decide (a < base + w.len) && decide (base < a + n) && w.len ≠ 0

/-- The watchpoints that a thread's accesses meet, in order of scope and index: (scope, index, watchpoint). -/
def State.watchList (s : State) (w : Who) : List (Nat × Nat × Watchpoint) :=
  let th := (s.thread w.thread).wps.map (fun p => (0, p.1, p.2))
  match s.stands.get? w.stand with
  | none => th
  | some st =>
    let crew := s.crewOf w.thread
    let own := st.wps.filterMap (fun p => if p.1 / 32 = crew + 1 then some (1, p.1 % 32, p.2) else none)
    let all := st.wps.filterMap (fun p => if p.1 / 32 = 0 then some (2, p.1 % 32, p.2) else none)
    let wide := match s.grids.get? st.grid with
      | some g => g.wps.filterMap (fun p => if p.1 / 64 = clusterOf w.core + 1 then some (3, p.1 % 64, p.2) else none)
          ++ g.wps.filterMap (fun p => if p.1 / 64 = 0 then some (4, p.1 % 64, p.2) else none)
      | none => []
    th ++ own ++ all ++ wide

/-- The first watchpoint that an access meets, as its fault (R369, R389, R402). -/
def State.watchHit (s : State) (w : Who) (r : Req) (sp : Bool) (a n kind : Nat) : Option Flt :=
  match (s.watchList w).find? (fun p => p.2.2.hits sp a n kind) with
  | some (scope, idx, wp) =>
    let armed := s.field (dbgAt w.core (0x40 + 8 * s.cur.quad)) 0 1 = 1
    some { r.flt 0x0D (8 * idx + scope) (wp.base.toNat % 2 ^ 32 + scope * 2 ^ 32 + idx * 2 ^ 35) with stop := wp.stop && armed }
  | none => none

/-! ### Tags, presence and race check -/

/-- The starts of the sectors that `n` bytes touch. -/
def sectorsOf (l : Loc) (n : Nat) : List Loc :=
  let off := match l with
    | .pa a => a % 32
    | .sp _ o => o % 32
  (List.range ((off + n + 31) / 32)).map (fun i => if i = 0 then l else l.plus (32 * i - off))

/-- The tag of the first sector whose tag differs from the pointer's (R69); device registers carry none. -/
def State.tagMiss (s : State) (l : Loc) (n tag : Nat) : Option Nat :=
  if l.device then none
  else (sectorsOf l n).findSome? (fun p => let t := s.tagOf p; if t = tag then none else some t)

/-- Whether a span of a scratchpad touches an absent line (R68). -/
def State.absentSpan (s : State) (l : Loc) (n : Nat) : Bool :=
  match l with
  | .sp st o => match s.stands.get? st with
    | some x => x.absent.any (fun ln => o / 64 ≤ ln && ln ≤ (o + n - 1) / 64)
    | none => false
  | .pa _ => false

/-- A thread as the shadow memory of its own gang names it (R371). -/
def State.shadowId (s : State) (w : Who) (gen : Nat) : Nat :=
  let t := s.thread w.thread
  t.tid + t.stage * 2 ^ 11 + (w.stand % 8192 % s.gangSize w.stand) * 2 ^ 14 + gen * 2 ^ 20 + 2 ^ 23

/-- The shadow word that makes a plain access a race-check fault (R372). -/
def State.raceMiss (s : State) (w : Who) (l : Loc) (n : Nat) : Option Nat :=
  match l with
  | .pa _ => none
  | .sp st o => match s.stands.get? st with
    | none => none
    | some x =>
      if !x.raceCheck then none
      else (List.range ((o % 4 + n + 3) / 4)).findSome? (fun i =>
        let sh := (x.shadow.getD (o / 4 + i) 0#32).toNat
        if bit sh 23 && bits sh 20 3 = x.gen && bits sh 0 20 ≠ bits (s.shadowId w x.gen) 0 20 then some sh else none)

/-- The last checks: watchpoints, tag, presence, race check (R213, R372). `sp` and `a` are the address that watchpoints
compare. -/
def State.lastChecks (s : State) (w : Who) (r : Req) (sp : Bool) (a : Nat) (t : Target) : Ans Target :=
  match (match r.kind with
    | some k => s.watchHit w r sp a r.size k
    | none => none) with
  | some f => .bad f
  | none => match (if r.tags then s.tagMiss t.loc r.size r.tag else none) with
    | some m => .bad (r.flt 0x0C r.tag m)
    | none =>
      if r.pres && s.absentSpan t.loc r.size then .wait 3
      else match (if r.plain then s.raceMiss w t.loc r.size else none) with
        | some m => .bad (r.flt 0x12 0 m)
        | none => .ok t

/-- A scratchpad request (R54, R67). -/
def State.checkSp (s : State) (w : Who) (r : Req) : Ans Target :=
  if !r.inRange then .bad (r.flt 0x05 0)
  else match s.spStand w r with
    | .bad f => .bad f
    | .wait n => .wait n
    | .ok k =>
      let off := bits r.formed 0 20
      let reg := s.regionOf k r.queue
      if off < reg.1 || reg.2 < off + r.size then .bad (r.flt 0x05 0)
      else if r.align ≠ 0 && off % r.align ≠ 0 then .bad (r.flt 0x06 r.align)
      else s.lastChecks w r true (bits r.formed 0 26) ⟨.sp k off, 0, false, false, none, none⟩

/-- The permission fault of a page, if any: U, then WPM on writes, then stage one's R, W, X, then stage two's, then the
window rules of R66: no atomic, and stores from the writer cluster only (R63, R221, R334). -/
def State.permission (w : Who) (r : Req) (e : TlbEntry) : Option Flt :=
  let l1 := e.s1.toNat
  let l2 := e.s2.toNat
  let ipa := e.ipn * 0x10000 + r.formed % 0x10000
  let two (code : Nat) : Flt := { r.flt code r.info with ipa := ipa }
  let lacks (l : Nat) : Bool := (r.read && !bit l 2) || (r.write && !bit l 3)
  if !w.super && !bit l1 5 then some (r.flt 0x08 r.info l1)
  else if r.write && bit l2 10 then some { r.flt 0x0B 0 with ipa := ipa }
  else if lacks l1 then some (r.flt 0x08 r.info l1)
  else if lacks l2 then some (two 0x0A)
  else if bit l2 8 && r.write && (r.kind = some 2 || bits l2 26 9 ≠ clusterOf w.core) then some (two 0x0A)
  else none

/-- The fault of a walk that failed (R389, R402). -/
def Req.walkFlt (r : Req) (e : WalkFault) : Flt :=
  if e.two then { r.flt 0x09 r.info with ipa := e.ipa } else r.flt 0x07 r.info e.leaf

/-- The place that a page's entry gives an access: a window load reads the own replica in the writer's and subscribed
clusters, and the writer's from any other (R66). -/
def State.targetOf (s : State) (w : Who) (r : Req) (e : TlbEntry) : Target :=
  let l2 := e.s2.toNat
  let off := r.formed % 0x10000
  let pa := e.ppn * 0x10000 + off
  if bit l2 8 then
    let wrc := bits l2 26 9
    let sset := bits l2 35 9
    let c := clusterOf w.core
    let here := if c = wrc || !(s.subscribers w.vf sset).contains c then pa else pa - wrc * 0x4000000 + c * 0x4000000
    ⟨.pa (if r.write then pa else here), s.keyOf w.vf, bit e.s1.toNat 11 || bit l2 11, false, some (sset, wrc), some e⟩
  else ⟨.pa pa, s.keyOf w.vf, bit e.s1.toNat 11 || bit l2 11, bit e.s1.toNat 9, none, some e⟩

/-- A request with the checks of R213 up to permission only. -/
def Req.toPermission (r : Req) : Req := { r with kind := none, tags := false, pres := false, plain := false }

/-- A global request: its answer, and the state whose TLB the walk may have filled. The address fault of a translated address
at which nothing answers (R57), which R213 gives no place, comes after translation and before permission: DESIGN CHOICE
(notes/assumptions 51). -/
def State.checkGlobal (s : State) (w : Who) (r : Req) : Ans Target × State :=
  if bits r.ptr 60 4 ≠ 0 || !r.inRange then (.bad (r.flt 0x05 0), s)
  else
    let va := r.formed % 2 ^ 56
    if 2 ^ 56 < va + r.size then (.bad (r.flt 0x05 0), s)
    else if r.align ≠ 0 && va % r.align ≠ 0 then (.bad (r.flt 0x06 r.align), s)
    else if w.phys then
      if s.exists? va && s.exists? (va + r.size - 1) then (s.lastChecks w r false va ⟨.pa va, 0, isDevice va, false, none, none⟩, s)
      else (.bad (r.flt 0x05 0), s)
    else match s.translate w.core w.vf va with
      | (.error e, s1) => (.bad (r.walkFlt e), s1)
      | (.ok e, s1) =>
        let pa := e.ppn * 0x10000 + va % 0x10000
        if !s1.exists? pa then (.bad (r.flt 0x05 0), s1)
        else match State.permission w r e with
          | some f => (.bad f, s1)
          | none => (s1.lastChecks w r false va (s1.targetOf w r e), s1)

/-- The checks of R213 for an access that lies in one page. -/
def State.check (s : State) (w : Who) (r : Req) : Ans Target × State :=
  if r.spc = 0 then s.checkGlobal w r else (s.checkSp w r, s)

/-! ### Accesses of several pieces (R213, R268) -/

/-- The place of an answer in the order of checks of R213, with the race check (R372) and the DC-page violation (R77) after
them. -/
def Ans.rank {α : Type} (a : Ans α) : Nat :=
  match a with
  | .ok _ => 9
  | .wait _ => 6
  | .bad f => match f.code with
    | 0x05 => 0
    | 0x06 => 1
    | 0x07 => 2
    | 0x09 => 2
    | 0x0D => 4
    | 0x0C => 5
    | 0x12 => 7
    | 0x0E => 8
    | _ => 3

/-- What a checked piece gives, if it passed. -/
def Ans.ok? {α : Type} (a : Ans α) : Option α :=
  match a with
  | .ok x => some x
  | _ => none

/-- The answer of several checks taken together: a check that comes earlier in the order decides before a later one of any
piece, and of equals the first piece's (R213, R268). -/
def Ans.all {α : Type} (as : List (Ans α)) : Ans (List α) :=
  match leastBy Ans.rank as with
  | some (.bad f) => .bad f
  | some (.wait k) => .wait k
  | _ => .ok (as.filterMap Ans.ok?)

/-- Check each request of a list that lies in one page. -/
def State.checkEach (w : Who) : State → List Req → List (Ans Target) × State
  | s, [] => ([], s)
  | s, r :: rs =>
    let a := s.check w r
    let b := State.checkEach w a.2 rs
    (a.1 :: b.1, b.2)

/-! ### Fetch (R149, R389) -/

/-- Translation of an instruction fetch: the physical address, or the fault: an unmapped, non-executable or (at user level)
supervisor page is FETCH1 or FETCH2 by stage. -/
def State.fetchAt (s : State) (w : Who) (va : Nat) : Except Flt Nat × State :=
  if w.phys then (if s.exists? va then .ok va else .error (Flt.at 0x05 0 (BitVec.ofNat 64 va)), s)
  else match s.translate w.core w.vf va with
    | (.error e, s1) =>
      (.error (if e.two then { Flt.at 0x04 0 (BitVec.ofNat 64 va) with ipa := e.ipa }
        else { Flt.at 0x03 0 (BitVec.ofNat 64 va) with det := BitVec.ofNat 64 e.leaf }), s1)
    | (.ok e, s1) =>
      let pa := e.ppn * 0x10000 + va % 0x10000
      let ipa := e.ipn * 0x10000 + va % 0x10000
      if (!w.super && !bit e.s1.toNat 5) || !bit e.s1.toNat 4 then
        (.error { Flt.at 0x03 0 (BitVec.ofNat 64 va) with det := e.s1 }, s1)
      else if !bit e.s2.toNat 4 then
        (.error { Flt.at 0x04 0 (BitVec.ofNat 64 va) with ipa := ipa }, s1)
      else if !s1.exists? pa then (.error (Flt.at 0x05 0 (BitVec.ofNat 64 va)), s1)
      else
        let t := s1.targetOf w ⟨0, va, 0, 4, 0, true, false, none, false, false, false, false⟩ e
        (.ok (match t.loc with
          | .pa a => a
          | .sp _ _ => pa), s1.markAccess w.core e false)

end Sys2Proof.Machine
end

