-- ==== Sys2Proof/Machine/Blocks.lean ====
section
/-!
DEFINITION. The fields of the matrix engine's parameter blocks: configuration and epilogue (R244 to R247).
-/

namespace Sys2Proof.Machine

/-- A field of a parameter block. -/
def Block.f (b : Block) (lo n : Nat) : Nat := Sys2Proof.Machine.bits b.bits.toNat lo n

/-! ### The matrix parameter block (R245, R246) -/

/-- The type of A. -/
def Block.aTy (b : Block) : Option CvtTy := if b.f 8 1 = 1 then intCode (b.f 0 4) else fltCode (b.f 0 4)
/-- The type of B. -/
def Block.bTy (b : Block) : Option CvtTy := if b.f 8 1 = 1 then intCode (b.f 4 4) else fltCode (b.f 4 4)

/-- The six-bit formats. -/
def CvtTy.six (t : CvtTy) : Bool := t = .flt .e3m2 || t = .flt .e2m3

/-- The 8-, 6- and 4-bit float formats of R246. -/
def CvtTy.small (t : CvtTy) : Bool :=
  t = .flt .e4m3 || t = .flt .e5m2 || t = .flt .e3m2 || t = .flt .e2m3 || t = .flt .e2m1

/-- The 8- and 4-bit integer formats. -/
def CvtTy.smallInt (t : CvtTy) : Bool :=
  match t with
  | .int _ w => w ≤ 8
  | _ => false

/-- The legal operand pairs (R246). -/
def mxPair (a b : CvtTy) : Bool :=
  (a = b && (a = .flt .f64 || a = .flt .f32 || a = .flt .bf16 || a = .flt .f16)) || (a.small && b.small)
    || (a.smallInt && b.smallInt)

/-- Whether a block is a legal configuration (R245, R246, R385); `mx` says whether MX scales are offered. -/
def Block.cfgOk (b : Block) (mx : Bool) : Bool :=
  match b.aTy, b.bTy with
  | some x, some y =>
    mxPair x y && (b.f 11 2 = 0 || (mx && x.small)) && (b.f 10 1 = 0 || x.six || y.six)
      && b.f 15 1 = 0 && b.f 21 11 = 0 && b.f 48 16 = 0 && b.f 176 336 = 0 && b.f 32 16 % 16 = 0 && b.f 96 32 % 16 = 0
  | _, _ => false

/-- The type of A of a legal configuration. -/
def Block.tyA (b : Block) : CvtTy := b.aTy.getD (.flt .f32)
/-- The type of B of a legal configuration. -/
def Block.tyB (b : Block) : CvtTy := b.bTy.getD (.flt .f32)
/-- FTZ. -/
def Block.ftz (b : Block) : Bool := b.f 9 1 = 1
/-- The width of an element in memory: six bits when dense (R136). -/
def Block.memW (b : Block) (t : CvtTy) : Nat := if b.f 10 1 = 1 && t.six then 6 else t.width
/-- The width of an A element in memory. -/
def Block.wA (b : Block) : Nat := b.memW b.tyA
/-- The width of a B element in memory. -/
def Block.wB (b : Block) : Nat := b.memW b.tyB
/-- The class width: that of the wider operand (R244). -/
def Block.wc (b : Block) : Nat := max b.tyA.width b.tyB.width
/-- The macro depth KD (R244). -/
def Block.kd (b : Block) : Nat := 4096 / b.wc
/-- M, the rows of an operation. -/
def Block.m (b : Block) : Nat := b.f 16 5 + 1
/-- KLEN. -/
def Block.klen (b : Block) : Nat := b.f 64 32
/-- N of N-of-24 sparsity. -/
def Block.spn (b : Block) : Nat := match b.f 13 2 with
  | 0 => 6 | 1 => 8 | 2 => 12 | _ => 16
/-- Groups in a macro (R251). -/
def Block.groups (b : Block) : Nat := b.kd / b.spn
/-- MXA. -/
def Block.mxa (b : Block) : Bool := b.f 11 1 = 1
/-- MXB. -/
def Block.mxb (b : Block) : Bool := b.f 12 1 = 1

/-- The accumulator's format; none for I32 (R246). -/
def Block.accFmt (b : Block) : Option Fmt :=
  match b.tyA with
  | .flt .f64 => some .f64
  | .int _ _ => none
  | _ => some .f32

/-- Whether the accumulators are FP64 pairs (R242). -/
def Block.wide (b : Block) : Bool := b.accFmt = some .f64

/-- Whether KLEN suits an operation (R253). -/
def Block.klenOk (b : Block) (kind : MKind) (n : Nat) : Bool :=
  1 ≤ b.klen && b.klen ≤ n * (if kind = .mmasp then 24 * b.groups else b.kd)
    && (kind ≠ .mmar || ceilDiv (b.klen * b.tyA.width) 32 ≤ 64)

/-! ### The epilogue block (R247) -/

/-- The output type. -/
def Block.oTy (b : Block) : Option CvtTy := if b.f 4 1 = 1 then intCode (b.f 0 4) else fltCode (b.f 0 4)
/-- The output type of a legal block. -/
def Block.out (b : Block) : CvtTy := b.oTy.getD (.flt .f32)
/-- The first column. -/
def Block.c0 (b : Block) : Nat := b.f 17 6
/-- The columns. -/
def Block.cnt (b : Block) : Nat := b.f 23 6 + 1
/-- Whether the epilogue writes memory. -/
def Block.toMem (b : Block) : Bool := b.f 10 1 = 1
/-- Whether the epilogue clears what it reads. -/
def Block.clr (b : Block) : Bool := b.f 16 1 = 1
/-- Whether the memory destination is the own scratchpad. -/
def Block.dsp (b : Block) : Bool := b.f 160 1 = 1

/-- Whether a block is a legal epilogue block (R247). -/
def Block.epOk (b : Block) : Bool :=
  let ty := match b.oTy with
    | some (.int _ w) => w ≤ 32
    | some .e8m0 => false
    | some (.flt _) => true
    | none => false
  ty && 1 ≤ b.f 7 3 && b.f 7 3 ≤ 5 && b.f 11 3 ≤ 3 && b.c0 + b.cnt ≤ 64 && b.f 29 3 = 0 && b.f 161 15 = 0
    && b.f 192 320 = 0 && (!b.dsp || b.f 128 32 = 0)

/-- Bytes of an output row in memory. -/
def Block.rowBytes (b : Block) : Nat := ceilDiv (b.cnt * b.out.width) 8
/-- Registers of an output row. -/
def Block.rowRegs (b : Block) : Nat := ceilDiv (b.cnt * b.out.width) 32

/-- Runs of one, two or four registers that cover `n` registers from `r` (R374). -/
def regRuns (r n : Nat) : List (Nat × Nat) :=
  (List.range (n / 4)).map (fun i => (r + 4 * i, 4))
    ++ (if n % 4 < 2 then [] else [(r + n / 4 * 4, 2)]) ++ (if n % 2 = 0 then [] else [(r + n - 1, 1)])

end Sys2Proof.Machine
end

