-- ==== Sys2Proof/Machine/Trace.lean ====
section
/-!
DEFINITION. Stall counters, the profile and trace buffers (R364 to R367, R375, R376, R443) and the finish of a debug stop
(R374).
-/

namespace Sys2Proof.Machine

/-- The largest 32-bit count. -/
def satMax : Nat := 0xFFFFFFFF

/-- The hypervisor claims the counter bank (0) or the trace unit (1) of a core (R375). -/
def State.claimed (s : State) (core unit : Nat) : Bool := s.field (dbgAt core 0) unit 1 = 1

/-- A function's claim on the counter bank (0x1C1) or trace unit (0x1C3) (R367). -/
def State.bufferOn (s : State) (v n : Nat) : Bool := v < 1024 && s.field (supAt v n) 0 1 = 1

/-- Count a record that was dropped (R367). -/
def State.dropRecord (s : State) (v n : Nat) : State :=
  s.setField (supAt v (n + 1)) 32 32 (min satMax (s.field (supAt v (n + 1)) 32 32 + 1))

/-- Write the next record of a profile or trace ring by IPA (R367); answers whether it was written. -/
def State.ringRecord (s : State) (v n : Nat) (bs : List Byte) : Bool × State :=
  let cap := 2 ^ s.field (supAt v n) 1 3 * 4096 / bs.length
  let head := s.field (supAt v (n + 1)) 0 32
  let ipa := s.field (supAt v n) 12 40 * 4096 + (head % cap) * bs.length
  match s.stage2 v ipa with
  | .ok (pa, leaf) =>
    if bit leaf 3 && !bit leaf 10 && !bit leaf 8 && s.exists? pa && !isDevice pa then
      (true, (s.deviceStore (s.keyOf v) pa bs).setField (supAt v (n + 1)) 0 32 (head + 1))
    else (false, s.dropRecord v n)
  | .error _ => (false, s.dropRecord v n)

/-- A trace record of a function on a core: marker, kind, value (R376). -/
def State.traceRecord (s : State) (v core marker kind val : Nat) : State :=
  if !s.bufferOn v 0x1C3 then s
  else if s.claimed core 1 then s.dropRecord v 0x1C3
  else
    let seq := (s.coreAt core).seqs.getD v 0
    let bs := leBytes 32 ((s.clk core).toNat + (seq % 2 ^ 32) * 2 ^ 64 + (marker % 2 ^ 16) * 2 ^ 96 + kind * 2 ^ 112
      + (val % 2 ^ 32) * 2 ^ 128 + siteX core * 2 ^ 160 + siteY core * 2 ^ 168)
    let r := s.ringRecord v 0x1C3 bs
    if r.1 then r.2.updCore core (fun c => { c with seqs := c.seqs.insert v (seq + 1) }) else r.2

/-- Add a count to one of a stand's totals with saturation (R365, R366). -/
def Stand.addTotal (st : Stand) (k n : Nat) : Stand :=
  let x := st.totals.getD k 0 + n
  { st with totals := st.totals.put 0 k (min satMax x), sat := st.sat || decide (satMax < x) }

/-- Fold a slot's counters into its stand's totals (R365). -/
def State.foldSlot (s : State) (sk : Nat) : State :=
  let sl := s.slotAt sk
  (s.updStand sl.stand (fun st =>
    let st1 := sl.stall.foldl (fun st p => st.addTotal p.1 p.2) st
    { st1 with iss := min satMax (st1.iss + sl.issued), sat := st1.sat || decide (satMax < st1.iss + sl.issued) })).updSlot sk
      (fun sl => { sl with stall := [], issued := 0 })

/-- A function's claim on a unit of a core is suspended: the hypervisor holds the unit (R375, R443). -/
def State.suspended (s : State) (v core unit : Nat) : Bool := s.bufferOn v (0x1C1 + 2 * unit) && s.claimed core unit

/-- Whether counting runs for a function's stands on a core (R375, R443). -/
def State.counting (s : State) (v core : Nat) : Bool := !s.suspended v core 0

/-- Stands whose function's claim on the counter bank is suspended now carry SUSP (R366, R375, R443). -/
def State.noteSusp (s : State) : State :=
  { s with stands := s.stands.mapVals (fun _ st =>
      if st.started && !st.exited && s.suspended st.vf st.core 0 then { st with susp := true } else st) }

/-- One more count of a stall reason in a slot (R364). -/
def State.countStall (s : State) (sk k : Nat) : State :=
  s.updSlot sk (fun sl => { sl with stall := sl.stall.put 0 k (min satMax (sl.stall.getD k 0 + 1)) })

/-- The stand record that a stand leaves at its exit (R366). -/
def State.standRecord (s : State) (k : Nat) : State :=
  match s.stands.get? k with
  | none => s
  | some st =>
    if !s.bufferOn st.vf 0x1C1 then s
    else
      let susp := st.susp || s.suspended st.vf st.core 0
      let tot := (List.range 16).foldl (fun n i => n + st.totals.getD i 0 * 2 ^ (512 + 32 * i)) 0
      (s.ringRecord st.vf 0x1C1 (leBytes 128 (st.grid % 2 ^ 32 + st.num * 2 ^ 32 + st.t0.toNat * 2 ^ 64
        + (s.clk st.core).toNat * 2 ^ 128 + st.iss * 2 ^ 192 + (if susp then 2 ^ 224 else 0) + (if st.sat then 2 ^ 225 else 0) + tot))).2

/-! ### Debug stops (R374) -/

/-- The slot entries of a dump for one slot: each PC group's lane mask, PC and passed-over count, four groups in 64 bytes; a
slot of more groups takes further entries (notes/assumptions 22). `fuel` bounds them. -/
def dumpEntries : Nat → List (Nat × PC × Nat) → List Byte
  | 0, _ => []
  | n + 1, gs =>
    leBytes 64 ((gs.take 4).foldr (fun x n => x.1 + (x.2.1.hdr + x.2.1.idx) * 2 ^ 32 + x.2.2 * 2 ^ 96 + 2 ^ 128 * n) 0)
      ++ (if gs.length ≤ 4 then [] else dumpEntries n (gs.drop 4))

/-- The register writes outstanding of an accepted matrix operation, 16 bytes each: slot, lane mask, first register, count, PC
and token (R265, R374). -/
def MOp.dumpWrites (o : MOp) : List Byte :=
  match o.eblock with
  | none => []
  | some e =>
    if e.toMem then []
    else (regRuns o.dreg e.rowRegs).flatMap (fun r => leBytes 16 (o.cur.slot + maskOf (o.lanes.map Prod.fst) * 2 ^ 8 + r.1 * 2 ^ 40
      + r.2 * 2 ^ 48 + (o.cur.hdr + o.cur.idx) % 2 ^ 64 * 2 ^ 56 + (match o.tok with
        | some k => 8 + k
        | none => 0) * 2 ^ 120))

/-- The dump of a stopped quadrant: header, then the slot entries of 64 bytes, then the register writes outstanding, then the
register file with its poison bits, %prog and labels (R266, R374, R378). Only epilogues write registers after their step. The
places of the fields inside a header and an entry are the model's own (notes/assumptions 22). -/
def State.dumpBytes (s : State) (k : Nat) (st : StopRec) : List Byte :=
  let header := leBytes 64 (st.clk.toNat + st.cause * 2 ^ 64 + st.code * 2 ^ 72 + st.pc.toNat * 2 ^ 128 + st.lane * 2 ^ 192)
  let file := (List.range 16).flatMap (fun w =>
    let sl := s.slotAt (16 * k + w)
    sl.lanes.flatMap (fun p => let t := s.thread p.2
      (List.range 256).flatMap (fun r => leBytes 4 (t.reg r).toNat) ++ leBytes 32 (maskOf t.poison) ++ leBytes 4 t.prog)
      ++ (if sl.lanes.isEmpty then [] else (List.range 256).flatMap (fun r => leBytes 8 (sl.regLabel r).toNat)))
  header ++ st.groups.flatMap (fun g => dumpEntries 8 g.2) ++ (s.quadAt k).matrix.queue.flatMap MOp.dumpWrites ++ file

/-- The stand number in a stop's trace record of a function: that of the stand whose thread stopped the quadrant, and for
another function, or a stop by request, that of its first stand on the core (R376; notes/assumptions 22). -/
def State.stopVal (s : State) (core v : Nat) (st : StopRec) : Nat :=
  if st.cause ≠ 2 && s.vfOf s.curStand = v then s.curStand % 8192
  else ((s.stands.find? (fun p => p.2.core = core && p.2.vf = v && p.2.started && !p.2.exited)).map (fun p => p.2.num)).getD 0

/-- After a stop: the dump, and a trace record of KIND 3 for every function with a stand on the core (R374, R376). -/
def State.finishStop (s : State) (core q : Nat) : State :=
  let k := 4 * core + q
  match (s.quadAt k).stopped with
  | none => s
  | some st =>
    let dump := s.field (dbgAt core (0x40 + 8 * q)) 16 48 * 0x10000
    let s1 := if dump = 0 then s else s.deviceStore 0 dump (s.dumpBytes k st)
    let vfs := (s.stands.filterMap (fun p => if p.2.core = core && p.2.started && !p.2.exited then some p.2.vf else none)).eraseDups
    vfs.foldl (fun s v => s.traceRecord v core 0 3 (s.stopVal core v st)) s1

/-- Act on a stop that a watchpoint caused during the instruction just executed. -/
def State.afterStop (s0 s : State) : State :=
  let k := 4 * s.cur.core + s.cur.quad
  if (s.quadAt k).stopped.isSome && (s0.quadAt k).stopped.isNone then s.finishStop s.cur.core s.cur.quad else s

end Sys2Proof.Machine
end

