-- ==== Sys2Proof/Machine/Stands.lean ====
section
/-!
DEFINITION. What threads, stands and grids do together: join points (R39), barriers (R234 to R237), deterministic commit
(R99 to R102), exits (R50, R154), failures (R307, R400, R439).
-/

namespace Sys2Proof.Machine

/-! ### Waiting and waking -/

/-- Change every thread of a stand. -/
def State.mapStand (s : State) (stand : Nat) (f : Nat → Thread → Thread) : State :=
  { s with threads := s.threads.map (fun p => if p.2.stand = stand then (p.1, f p.1 p.2) else p) }

/-- A waiting thread goes on at a PC. -/
def Thread.wakeTo (t : Thread) (pc : PC) : Thread := { t with status := .active, wait := .none, pc := pc }

/-- A waiting thread issues its instruction again. -/
def Thread.wake (t : Thread) : Thread := { t with status := .active, wait := .none }

/-- A thread starts waiting. -/
def Thread.sleep (t : Thread) (w : Wait) : Thread := { t with status := .waiting, wait := w }

/-! ### Join points (R39) -/

/-- A thread whose JWAIT set has become empty goes on, its join point idle. -/
def Thread.joined (t : Thread) : Thread :=
  match t.wait with
  | .join k dest => match t.joins.get? k with
    | some j => if j.expect.isEmpty then { (t.wakeTo dest) with joins := t.joins.erase k } else t
    | none => t.wakeTo dest
  | _ => t

/-- A member arrives at join point `k` of every thread of its stand whose set names it. -/
def State.arriveJoin (s : State) (stand member k : Nat) : State :=
  s.mapStand stand (fun _ t =>
    ({ t with joins := t.joins.modify k (fun j => { j with expect := j.expect.filter (· != member) }) } : Thread).joined)

/-- A member leaves every expected set of its stand (R36, R39, R154). -/
def State.leaveJoins (s : State) (stand member : Nat) : State :=
  s.mapStand stand (fun _ t =>
    ({ t with joins := t.joins.mapVals (fun _ j => { j with expect := j.expect.filter (· != member) }) } : Thread).joined)

/-! ### Barriers (R234 to R237) -/

/-- The key of a crew barrier (crew + 1) or a stand barrier (0) in Stand.barriers. -/
def barKey (crew : Option Nat) (k : Nat) : Nat :=
  match crew with
  | some q => 16 * (q + 1) + k
  | none => k

/-- A barrier after its phase: PH toggled, ARR and the arrived bits clear (R236). -/
def Barrier.nextPhase (x : Barrier) : Barrier :=
  ⟨x.smask, x.exp, 0, !x.ph, x.link.map (fun l => ⟨l.scope, l.rcd, false, l.ph⟩), []⟩

/-- A phase of barrier `b` completes: waiters go on; a stand barrier raises GEN (R236, R371). -/
def State.completePhase (s : State) (stand b : Nat) : State :=
  let s1 := s.updStand stand (fun st =>
    { st with barriers := st.barriers.modify b Barrier.nextPhase, gen := if b < 16 then (st.gen + 1) % 8 else st.gen })
  s1.mapStand stand (fun _ t => match t.wait with
    | .barrier b' _ dest => if b' = b then t.wakeTo dest else t
    | .arrive b' => if b' = b then t.wake else t
    | _ => t)

/-- The completion test of an unlinked barrier (R236). -/
def State.testBarrier (s : State) (stand b : Nat) : State :=
  match s.stands.get? stand with
  | some st => match st.barriers.get? b with
    | some x => if x.link.isNone && 1 ≤ x.arr && x.exp ≤ x.arr then s.completePhase stand b else s
    | none => s
  | none => s

/-- A linked record as read: EXPS, ARRS, PH (R237). -/
def State.linkRecord (s : State) (v rcd : Nat) : Nat × Nat × Nat :=
  let n := leNat (s.bytesOf (s.keyOf v) (.pa rcd) 16)
  (bits n 0 13, bits n 32 13, bits n 64 1)

/-- Store a linked record as one atomic of the stand (R237); its granule rises by the flow labels of the stand's threads. -/
def State.setLinkRecord (s : State) (stand rcd exps arrs ph : Nat) : State :=
  let v := s.vfOf stand
  let core := match s.stands.get? stand with
    | some st => st.core
    | none => 0
  let lab := Label.union (s.threads.filterMap (fun p => if p.2.stand = stand then some p.2.flow else none))
  let done := arrs = exps
  let n := exps + (if done then 0 else arrs) * 2 ^ 32 + (if done then 1 - ph else ph) * 2 ^ 64
  s.perform (some core) (s.keyOf v) (.pa rcd) (leBytes 16 n) lab

/-- Whether a linked barrier's local count is met and it has not arrived at its record in this phase (R237). -/
def Barrier.linkDue (x : Barrier) : Bool :=
  match x.link with
  | some l => !l.arrived && 1 ≤ x.arr && x.exp ≤ x.arr
  | none => false

/-- Whether a linked barrier's record has toggled since it arrived (R237). -/
def State.linkToggled (s : State) (v : Nat) (x : Barrier) : Bool :=
  match x.link with
  | some l => l.arrived && ((s.linkRecord v l.rcd).2.2 = 1) != l.ph
  | none => false

/-- A linked stand barrier arrives at its record, or sees its phase toggle (R237). -/
def State.linkStep (s : State) (stand b : Nat) : State :=
  match s.stands.get? stand with
  | none => s
  | some st => match st.barriers.get? b with
    | none => s
    | some x => match x.link with
      | none => s
      | some l =>
        if x.linkDue then
          let r := s.linkRecord st.vf l.rcd
          let s1 := s.setLinkRecord stand l.rcd r.1 (r.2.1 + 1) r.2.2
          s1.updStand stand (fun st => { st with barriers := st.barriers.modify b (fun x =>
            { x with link := some { l with arrived := true, ph := r.2.2 = 1 } }) })
        else if s.linkToggled st.vf x then s.completePhase stand b
        else s

/-- A linked stand that exits withdraws its expectation, and its arrival in the record's current phase (R237). -/
def State.withdrawLink (s : State) (stand b : Nat) : State :=
  match s.stands.get? stand with
  | none => s
  | some st => match st.barriers.get? b with
    | none => s
    | some x => match x.link with
      | none => s
      | some l =>
        let r := s.linkRecord st.vf l.rcd
        let here := l.arrived && (r.2.2 = 1) = l.ph
        s.setLinkRecord stand l.rcd (r.1 - 1) (if here then r.2.1 - 1 else r.2.1) r.2.2

/-- A thread's exit lowers EXP of each barrier of its stand and crew whose mask names its stage (R234). -/
def State.lowerExp (s : State) (stand stage crew : Nat) : State :=
  let mine (b : Nat) : Bool := b < 16 || b / 16 = crew + 1
  let s1 := s.updStand stand (fun st => { st with barriers := st.barriers.mapVals (fun b x =>
    if mine b && x.smask.getLsbD stage then { x with exp := x.exp - 1 } else x) })
  ((List.range 80).filter mine).foldl (fun s b => s.testBarrier stand b) s1

/-! ### Deterministic commit (R99 to R102) -/

/-- Whether quantum (e, j) comes before (e', j'). -/
def quantumLt (a b : Nat × Nat) : Bool := a.1 < b.1 || (a.1 = b.1 && a.2 < b.2)

/-- Whether a stage is named by its launch's DC mask (R292). -/
def State.dcStage (s : State) (stand stage : Nat) : Bool :=
  match s.gridAt stand with
  | some g => bit (bits g.rcd.toNat 361 8) stage
  | none => false

/-- Every DC thread of the stand has ended every quantum before `q`; a pending thread has ended none (R100). -/
def State.dcEnded (s : State) (stand : Nat) (q : Nat × Nat) : Bool :=
  s.threads.all (fun p => p.2.stand ≠ stand || !s.dcStage stand p.2.stage || p.2.status = .exited || !(quantumLt (p.2.dcE, p.2.dcJ) q))
    && (q = (0, 0) || (match s.stands.get? stand with
        | some st => st.pending.all (fun x => !s.dcStage stand x.1)
        | none => true))

/-- The lowest quantum that holds a buffered store. -/
def Stand.firstQuantum (st : Stand) : Option (Nat × Nat) :=
  st.dcBuf.foldl (fun m x => match m with
    | none => some (x.e, x.j)
    | some q => if quantumLt (x.e, x.j) q then some (x.e, x.j) else some q) none

/-- The quantum after (e, j) in a thread, for the test that it has been ended. -/
def quantumNext (q : Nat × Nat) : Nat × Nat := (q.1, q.2 + 1)

/-- The quantum of a stand that is due to commit: every DC thread has ended it (R100). -/
def State.dcDue (s : State) (stand : Nat) : Option (Nat × Nat) :=
  match s.stands.get? stand with
  | some st => match st.firstQuantum with
    | some q => if s.dcEnded stand (quantumNext q) then some q else none
    | none => none
  | none => none

/-- The distinct values of a rising or unordered list, ascending. -/
def sortNat (ls : List Nat) : List Nat := ls.foldl (fun m x => insertNat x m) []

/-- Commit a quantum: in grid thread order, each thread's stores in program order (R100). -/
def State.dcCommit (s : State) (stand : Nat) (q : Nat × Nat) : State :=
  match s.stands.get? stand with
  | none => s
  | some st =>
    let mine := st.dcBuf.filter (fun x => (x.e, x.j) = q)
    let order := (sortNat (mine.map (·.thread))).flatMap (fun t => mine.filter (fun x => x.thread = t))
    let s1 := order.foldl (fun s x => s.perform (some st.core) (s.keyOf st.vf) x.loc x.bytes x.label) s
    s1.updStand stand (fun st => { st with dcBuf := st.dcBuf.filter (fun x => (x.e, x.j) ≠ q) })

/-- Commit every quantum that is left, in order; used when the last thread has ended them all. -/
def State.dcCommitAll (s : State) (stand : Nat) : Nat → State
  | 0 => s
  | n + 1 => match s.stands.get? stand with
    | some st => match st.firstQuantum with
      | some q => (s.dcCommit stand q).dcCommitAll stand n
      | none => s
    | none => s

/-- End a thread's current quantum (R99). -/
def Thread.endQuantum (t : Thread) : Thread := { t with dcJ := t.dcJ + 1, dcN := 0 }

/-- A barrier arrival of stand scope or wider ends every quantum of e (R99). -/
def Thread.endEpoch (t : Thread) : Thread := { t with dcE := t.dcE + 1, dcJ := 0, dcN := 0 }

/-! ### Slots -/

/-- The slot that holds a thread, with its lane. -/
def State.slotOf (s : State) (thread : Nat) : Option (Nat × Nat) :=
  s.slots.findSome? (fun p => (p.2.lanes.find? (fun e => e.2 = thread)).map (fun e => (p.1, e.1)))

/-- Return a slot to its quadrant; the generations of its sub-warp numbers go on (R46, R392), and its register labels stay with
what its registers still hold (R323). -/
def State.freeSlot (s : State) (sk : Nat) : State :=
  (s.foldSlot sk).updSlot sk (fun sl =>
    { Slot.empty with gens := sl.gens, lastIssue := sl.lastIssue, fill := sl.fill, regLabels := sl.regLabels })

/-- A thread gives up its lane; a slot whose lanes are all released is returned (R46). -/
def State.dropLane (s : State) (thread : Nat) : State :=
  match s.slotOf thread with
  | none => s
  | some (sk, l) =>
    let s1 := s.updSlot sk (fun sl => { sl with lanes := sl.lanes.erase l })
    if (s1.slotAt sk).lanes.isEmpty then s1.freeSlot sk else s1

/-- Every slot of a stand is returned. -/
def State.freeSlots (s : State) (stand : Nat) : State :=
  (s.slots.filterMap (fun p => if p.2.stand = stand && !p.2.lanes.isEmpty then some p.1 else none)).foldl State.freeSlot s

/-! ### The end of a stand -/

/-- A stand's operations leave the engine; its claim and the contents stay until its grid ends (R307). -/
def Matrix.dropStand (m : Matrix) (stand : Nat) : Matrix := { m with queue := m.queue.filter (fun o => o.stand != stand) }

/-- What a stand leaves at its site when it exits or is torn down: its program area with tags, labels and presence, and its
threads' registers and tokens (R356, R363). -/
def State.leaveRemains (s : State) (stand : Nat) : Table Remains :=
  match s.stands.get? stand with
  | none => s.remains
  | some st =>
    if !st.started || st.exited then s.remains
    else s.remains.insert stand ⟨st.core, st.fill, st.sp, st.sptags, st.splabels, st.absent, st.bad,
      s.threads.filterT (fun _ t => t.stand = stand)⟩

/-- A stand gives up its slots, its operations, its issue shares, threads and commands. -/
def State.releaseStand (s : State) (stand : Nat) : State :=
  let s1 := s.freeSlots stand
  { s1 with
      quads := s1.quads.mapVals (fun _ q => { q with
        matrix := q.matrix.dropStand stand
        vtimes := q.vtimes.filterT (fun k _ => k / 8 ≠ stand) })
      remains := s1.leaveRemains stand
      threads := s1.threads.filterT (fun _ t => t.stand ≠ stand)
      commands := s1.commands.filterT (fun _ c => c.stand ≠ stand)
      stands := s1.stands.modify stand (fun st => { st with
        exited := true, pending := [], yard := [], dcBuf := [], barriers := [], sp := [], sptags := [], splabels := [],
        absent := [], bad := [], shadow := [], circuits := [], wps := [], frozen := none, saved := none, savePending := false,
        chosen := false, owed := [], ops := [] }) }

/-- The exit label of a grid takes the flow labels of threads that end (R165). -/
def State.addExitLabel (s : State) (stand : Nat) (l : Label) : State :=
  { s with grids := s.grids.modify (gridOf stand) (fun g => { g with exitLabel := g.exitLabel ||| l }) }

/-- The flow labels of a stand's threads. -/
def State.standFlow (s : State) (stand : Nat) : Label :=
  Label.union (s.threads.filterMap (fun p => if p.2.stand = stand then some p.2.flow else none))

/-- Whether a thread of a stand is still live: some thread neither exited nor torn down, or one pending. -/
def State.standLive (s : State) (stand : Nat) : Bool :=
  s.threads.any (fun p => p.2.stand = stand && p.2.status ≠ .exited)
    || (match s.stands.get? stand with
        | some st => !st.pending.isEmpty
        | none => false)

/-- A stand exits: remaining quanta commit, linked barriers withdraw, it has triggered, its stand and trace records are
written, and its room is free (R50, R237, R365, R366, R376). -/
def State.standExit (s : State) (stand : Nat) : State :=
  match s.stands.get? stand with
  | none => s
  | some st =>
    let s1 := s.dcCommitAll stand (st.dcBuf.length + 1)
    let s2 := (List.range 16).foldl (fun s b => s.withdrawLink stand b) s1
    let s3 := (s2.freeSlots stand).updStand stand (fun st => { st with triggered := true })
    let s4 := s3.standRecord stand
    let s5 := s4.traceRecord st.vf st.core 0 2 st.num
    s5.releaseStand stand

/-- A thread becomes Exited (R154). -/
def State.exitThread (s : State) (key : Nat) : State :=
  let t := s.thread key
  let crew := s.crewOf key
  let s1 := s.addExitLabel t.stand t.flow
  let s2 := s1.updThread key (fun t => { t with status := .exited, wait := .none, joins := [] })
  let s3 := (s2.leaveJoins t.stand key).dropLane key
  let s4 := s3.lowerExp t.stand t.stage crew
  if isHandler t.stand || s4.standLive t.stand then s4 else s4.standExit t.stand

/-! ### Failure of a grid (R307, R400, R439) -/

/-- Whether grid `g` is a descendant of `a`; `fuel` bounds the chain. -/
def State.descends (s : State) : Nat → Nat → Nat → Bool
  | 0, _, _ => false
  | n + 1, g, a => match s.grids.get? g with
    | some x => x.parent ≠ 0 && (x.parent = a || s.descends n x.parent a)
    | none => false

/-- The stands of a grid are torn down; pending stands never start. -/
def State.tearGrid (s : State) (g : Nat) : State :=
  (s.stands.filterMap (fun p => if p.2.grid = g && !isHandler p.1 then some p.1 else none)).foldl
    (fun s k => (s.addExitLabel k (s.standFlow k)).releaseStand k) s

/-- Whether a failure's fault reached a coalescer before that of an earlier failure (R49, R400, R439). -/
def Failure.before (f f0 : Failure) : Bool := f.arrival ≠ 0 && f0.arrival ≠ 0 && f.arrival < f0.arrival

/-- Mark a grid failed and tear it down. A grid that has failed keeps its failure, but for one whose fault reached a coalescer
earlier (R400). -/
def State.failOne (s : State) (g : Nat) (f : Failure) : State :=
  match s.grids.get? g with
  | some x =>
    if x.state = .ended then s
    else match x.fail with
      | some f0 => if f.before f0 then { s with grids := s.grids.modify g (fun x => { x with fail := some f }) } else s
      | none => { (s.tearGrid g) with grids := (s.tearGrid g).grids.modify g (fun x => { x with fail := some f }) }
  | none => s

/-- A grid fails: its remaining stands and its descendants are torn down (R307, R439). -/
def State.failGrid (s : State) (g : Nat) (f : Failure) : State :=
  let kids := s.grids.filterMap (fun p => if s.descends (s.grids.length + 1) p.1 g then some p.1 else none)
  kids.foldl (fun s k => s.failOne k ⟨0xE0, none, false, 0⟩) (s.failOne g f)

/-- Tear down a function's handler stand (R397): parked sub-warps of other stands stay parked. -/
def State.dropHandler (s : State) (v : Nat) : State :=
  let s1 := s.releaseStand v
  let s2 := { s1 with stands := s1.stands.erase v }
  (s2.updFunction v (fun f => { f with handler := false })).setField (supAt v 0x101) 0 1 0

/-- A stand fails with a code and the index of its record, where one is due; `arrival` is one more than the step at which the
fault behind it reached a coalescer, 0 where none did (R307, R400). -/
def State.failStandAt (s : State) (stand : Nat) (code : Byte) (rcd : Option Nat) (due : Bool) (arrival : Nat) : State :=
  if stand = mgmtStand then
    (s.updThread mgmtThread (fun t => { t with status := .parked })).logError 0x71 3 0x3FF 0 s.noLoc 1 code.toNat
  else if isHandler stand then s.dropHandler stand
  else s.failGrid (gridOf stand) ⟨code, rcd, due, arrival⟩

/-- A stand fails by no fault of a lane. -/
def State.failStand (s : State) (stand : Nat) (code : Byte) (rcd : Option Nat) (due : Bool) : State :=
  s.failStandAt stand code rcd due 0

end Sys2Proof.Machine
end

