-- ==== Sys2Proof/Machine/Sup.lean ====
section
/-!
DEFINITION. Reading supervisor registers, hypervisor readout registers and every other device register (R12, R13, R295, R312,
R322, R367, R385 to R388, R396 to R404).
-/

namespace Sys2Proof.Machine

/-! ### Supervisor registers (R396) -/

/-- Whether a number names a supervisor register (R367, R396). -/
def supExists (n : Nat) : Bool := (0x100 ≤ n && n ≤ 0x112) || (0x1C0 ≤ n && n ≤ 0x1C4)

/-- Whether a supervisor register has 32 bits. -/
def supWord (n : Nat) : Bool := n = 0x103 || n = 0x104 || n = 0x106 || n = 0x109 || n = 0x10F || n = 0x110 || n = 0x112

/-- Whether software may not write a supervisor register. -/
def supReadOnly (n : Nat) : Bool :=
  n = 0x104 || n = 0x105 || (0x107 ≤ n && n ≤ 0x10E) || n = 0x1C2 || n = 0x1C4

/-- A selection: handle (GEN ignored), lane, register (R396). -/
structure Sel where
  handle : Word
  lane : Nat
  reg : Nat
deriving DecidableEq, Repr

/-- The sub-warps of the selected slot that belong to a function. -/
def State.selSlot (s : State) (v : Nat) (x : Sel) : List Found := (s.parkedAt (handleSlot x.handle)).filter (fun f => s.vfOf f.stand = v)

/-- The selected sub-warp, if it is parked and the function's (R396). -/
def State.selSub (s : State) (v : Nat) (x : Sel) : Option Found := (s.selSlot v x).find? (fun f => f.sub.num = handleNum x.handle)

/-- The selected lane, if it is in LANES. -/
def State.selLane (s : State) (v : Nat) (x : Sel) : Option (Found × ParkedLane) :=
  match s.selSub v x with
  | some f => (f.sub.lanes.find? (fun l => l.lane = x.lane)).map (fun l => (f, l))
  | none => none

/-- A sub-warp's slot, in place or in the saved state of its stand. -/
def State.foundSlot (s : State) (f : Found) : Slot :=
  if f.saved then
    match s.stands.get? f.stand with
    | some st => match st.saved with
      | some sv => sv.slots.getD f.slot Slot.empty
      | none => Slot.empty
    | none => Slot.empty
  else s.slotAt f.slot

/-- One 64-bit word of a ring record (R408). -/
def RingRec.word (r : RingRec) (i : Nat) : Nat :=
  match i with
  | 0 => r.addr.toNat
  | 1 => r.pc.toNat
  | 2 => r.code.toNat + r.lane.toNat * 2 ^ 8 + (if r.v then 2 ^ 13 else 0) + (if r.lost then 2 ^ 14 else 0)
      + (if r.src then 2 ^ 15 else 0) + r.info.toNat * 2 ^ 16 + r.tok.toNat * 2 ^ 32
  | _ => r.det.toNat

/-- The value of %preg's register in a parked lane: a poisoned register or predicate reads its token; an unpoisoned
predicate its bit (R399). -/
def Thread.pval (t : Thread) (preg : Nat) : Nat :=
  if bit preg 8 then
    match t.predTok? (bits preg 0 3) with
    | some k => k.toNat
    | none => if t.pred (bits preg 0 3) then 1 else 0
  else (t.reg (bits preg 0 8)).toNat

/-- The label of %preg's register in a slot. -/
def Slot.pvalLabel (sl : Slot) (preg : Nat) : Label := if bit preg 8 then sl.predLabel (bits preg 0 3) else sl.regLabel (bits preg 0 8)

/-- A readout register of a selection: value and the label beside L of R147 (R396 to R399, R404, R416). `ipaDet` makes the
detail of a stage-two fault the IPA, as HPDET gives it. -/
def State.readout (s : State) (v : Nat) (x : Sel) (n : Nat) (ipaDet : Bool) : Nat × Label :=
  match n with
  | 0x104 => (maskOf ((s.selSlot v x).map (fun f => f.sub.num)), 0)
  | 0x105 => match s.selSub v x with
    | some f => (f.sub.code.toNat + (if f.sub.dfr then 2 ^ 8 else 0) + 2 ^ 9 + f.sub.gen.toNat * 2 ^ 16
        + maskOf (f.sub.lanes.map (·.lane)) * 2 ^ 32, 0)
    | none => (0, 0)
  | 0x109 => match s.selSub v x with
    | some f => ((handleOf f.slot f.sub.num f.sub.gen).toNat, 0)
    | none => (0, 0)
  | _ => match s.selLane v x with
    | none => (0, 0)
    | some (f, l) =>
      let t := s.thread l.thread
      match n with
      | 0x107 => (l.addr.toNat, l.label)
      | 0x108 => (t.pc.hdr + t.pc.idx, 0)
      | 0x10A => (if ipaDet && !f.sub.dfr && (f.sub.code = 0x04#8 || f.sub.code = 0x09#8 || f.sub.code = 0x0A#8) then l.ipa
                  else l.det.toNat, 0)
      | 0x110 => (t.pval x.reg, (s.foundSlot f).pvalLabel x.reg)
      | _ => match l.attached with
        | some r => (r.word (n - 0x10B), l.label)
        | none => (0, 0)

/-- A supervisor register of function `v` under a selection (R367, R396): value and label beside L. Write-only registers
read zero (R12); RCK reads zero when race-check mode is withheld (R385). -/
def State.supRead (s : State) (v : Nat) (x : Sel) (n : Nat) : Nat × Label :=
  if n = 0x103 then (x.handle.toNat, 0)
  else if n = 0x106 then (x.lane, 0)
  else if n = 0x10F then (x.reg, 0)
  else if n = 0x111 || n = 0x112 then (0, 0)
  else if n = 0x1C0 then (if s.withheld 0 then 0 else s.field (supAt v n) 0 1, 0)
  else if n ≤ 0x102 || 0x1C0 ≤ n then ((s.reg (supAt v n)).toNat, 0)
  else s.readout v x n false

/-- The selection held for a function's supervisor page (R396). -/
def State.pageSel (s : State) (v : Nat) : Sel :=
  ⟨(s.reg (supAt v 0x103)).setWidth 32, s.field (supAt v 0x106) 0 5, s.field (supAt v 0x10F) 0 9⟩

/-- The selection of a handler thread (R396). -/
def Thread.sel (t : Thread) : Sel := ⟨t.psel, bits t.plane.toNat 0 5, bits t.preg.toNat 0 9⟩

/-- The selection of HPSEL (R404). -/
def State.hypSel (s : State) (v : Nat) : Sel :=
  let r := ctxAt v 0x98
  ⟨(s.reg r).setWidth 32, s.field r 32 5, s.field r 40 9⟩

/-! ### The core map (R387, R388) -/

/-- Sites in a state. -/
def State.siteCount (s : State) (k : Nat) : Nat := ((List.range 7680).filter (fun c => s.siteState c = k)).length

/-- A byte of the core map record. -/
def State.mapByte (s : State) (i : Nat) : Byte :=
  let n : Nat :=
    if i < 4 then s.mapGen / 256 ^ i
    else if i < 10 then s.siteCount ((i - 4) / 2) / 256 ^ (i % 2)
    else if i < 64 then 0
    else if i < 1984 then (List.range 4).foldl (fun n j => n + s.siteState (4 * (i - 64) + j) * 4 ^ j) 0
    else if i < 2112 then maskOf ((List.range 8).filter (fun j => s.retired.contains (8 * (i - 1984) + j)))
    else maskOf ((List.range 8).filter (fun j => s.agentsOut.contains (8 * (i - 2112) + j)))
  BitVec.ofNat 8 n

/-! ### Computed bits (R318, R434) -/

/-- A stand whose threads may issue and be formed: it runs, and is neither saved, nor leaving, nor frozen. -/
def Stand.running (st : Stand) : Bool := st.started && !st.exited && st.saved.isNone && st.frozen.isNone && !st.savePending

/-- The management core serves nothing while its thread is parked (R473); until the watchdog restarts it the gate's commands read
BUSY, and writes that set EN wait (R459). -/
def State.mgmtDown (s : State) : Bool := (s.thread mgmtThread).status = .parked

/-- VCTL.RUN: some stand of a function is resident and issuing (R318). -/
def State.vfRunning (s : State) (v : Nat) : Bool := s.vfEnabled v && s.stands.any (fun p => p.2.vf = v && p.2.running)

/-- A save or restore of a function is frozen: SVSTS.FRZ (R434). -/
def State.frozenAny (s : State) (v : Nat) : Bool := s.stands.any (fun p => p.2.vf = v && p.2.frozen.isSome)

/-- A register of a context block as read: RUN and FRZ are what the stands show (R318, R434). -/
def State.ctxRead (s : State) (v off : Nat) : Nat :=
  let r := s.reg (ctxAt v off)
  if off = 0 then (putField r 33 1 (if s.vfRunning v then 1 else 0)).toNat
  else if off = 0x80 then (if s.frozenAny v then r else putField r 0 2 0).toNat
  else r.toNat

/-! ### Device registers by physical address -/

/-- Who reads or writes a device register: a host hart, a thread, or the management core. -/
def Agent.hart? : Agent → Option Nat
  | .host h => some h
  | _ => none

/-- An aligned 64-bit read of a device register: value and label beside the reader's own (R12, R13, R295, R312, R404). Where no
register stands inside a range, the range's reset value: DESIGN CHOICE (notes/assumptions 46). -/
def State.deviceDouble (s : State) (a : Agent) (pa : Nat) : Nat × Label :=
  if pa < 0x080100000000 then
    -- launch-port pages
    let v := (pa - 0x080000000000) / 0x10000
    if pa % 0x10000 = 0x40 && v < 1024 then
      match a.hart? with
      | some h => ((s.lhnd.getD (1024 * h + v) 0).toNat, 0)
      | none => (0, 0)
    else (0, 0)
  else if 0x080B00000000 ≤ pa then
    let v := (pa - 0x080B00000000) / 0x10000
    let n := 0x100 + pa % 0x10000 / 8
    if v < 1024 && supExists n then s.supRead v (s.pageSel v) n else (0, 0)
  else if 0x080600000000 ≤ pa && pa < 0x080700000000 then
    let v := (pa - 0x080600000000) / 0x100
    let off := pa % 0x100
    if 1024 ≤ v || off = 0x58 || off = 0x70 || off = 0x88 || off = 0xF8 then (0, 0)
    else if off = 0xA0 then s.readout v (s.hypSel v) 0x104 true
    else if off = 0xA8 then s.readout v (s.hypSel v) 0x105 true
    else if off = 0xB0 then s.readout v (s.hypSel v) 0x107 true
    else if off = 0xB8 then s.readout v (s.hypSel v) 0x108 true
    else if off = 0xC0 then s.readout v (s.hypSel v) 0x109 true
    else if off = 0xC8 then s.readout v (s.hypSel v) 0x10A true
    else if 0xD0 ≤ off && off < 0xF0 then s.readout v (s.hypSel v) (0x10B + (off - 0xD0) / 8) true
    else if off = 0xF0 then s.readout v (s.hypSel v) 0x110 true
    else (s.ctxRead v off, 0)
  else if pa = gateAt 0x10 then ((putField (s.reg pa) 0 1 (if s.mgmtDown then 1 else 0)).toNat, 0)
  else if pa = gateAt 0 || pa = gateAt 0x38 then (0, 0)
  else if 0x080A00001000 ≤ pa && pa < 0x080A00001860 then
    (leNat ((List.range 8).map (fun i => s.mapByte (pa - 0x080A00001000 + i))), 0)
  else ((s.reg pa).toNat, 0)

/-- Whether an access to a register map is of aligned doubles (R13). -/
def aligned8 (pa n : Nat) : Bool := n % 8 = 0 && pa % 8 = 0

/-- The management core logs a narrow or misaligned read of a register map (R13). -/
def State.noteRead (s : State) (a : Agent) (pa n : Nat) : State := if aligned8 pa n then s else s.logIgnored pa false a

/-- A read of device registers of any size: aligned doubles, and zero for anything narrower or misaligned, which the
management core logs (R13, R82). -/
def State.deviceRead (s : State) (a : Agent) (pa n : Nat) : Nat × Label :=
  if !aligned8 pa n then (0, 0)
  else (List.range (n / 8)).foldr (fun i x =>
    let d := s.deviceDouble a (pa + 8 * i)
    (d.1 + 2 ^ 64 * x.1, d.2 ||| x.2)) (0, 0)

/-- Whether an address lies in the registers that only the hypervisor and the management core reach (R312). -/
def hypervisorOnly (pa : Nat) : Bool := 0x080100000000 ≤ pa && pa < 0x080B00000000

end Sys2Proof.Machine
end

