-- ==== Sys2Proof/Machine/Requests.lean ====
section
/-!
DEFINITION. Writes to device registers as the steps that carry them out: each write becomes the event of the opcode table that
its register and value name, and that event follows at once, before another instruction issues (R12, R312; notes/assumptions 3).
-/

namespace Sys2Proof.Machine

/-- A host's write, not one of the device's own threads. -/
def Agent.outside (a : Agent) : Bool :=
  match a with
  | .host _ => true
  | _ => false

/-- Where a management register's write goes: beyond every physical address (R383). -/
def mgmtRegAt (n : Nat) : Nat := 2 ^ 52 + n

/-- Where a ring register's write goes: beyond every physical address (R384). -/
def ringRegAt (node idx : Nat) : Nat := 2 ^ 53 + 1024 * node + idx

/-- The event that a write of ACT to %pres or HRES is (R400, R403). -/
def presEvent (v : Nat) : Instr :=
  match bits v 32 2 with
  | 1 => .presRetry
  | 2 => .presSkip
  | 3 => .presKill
  | _ => .registerWrite

/-- The event that a write to a supervisor register is (R396, R397). -/
def State.supEvent (s : State) (v n val : Nat) : Instr :=
  if n = 0x101 then
    let on := s.field (supAt v n) 0 1 = 1
    if bit val 0 && !on then .handlerCreate else if !(bit val 0) && on then .handlerTeardown else .registerWrite
  else if n = 0x111 then presEvent val
  else if n = 0x110 then .pvalWrite
  else if n = 0x112 then .forwardEvent
  else .registerWrite

/-- The event that a write to a function's context block is (R318, R403, R404, R434, R442). -/
def State.ctxEvent (s : State) (v off val : Nat) : Instr :=
  if off = 0 then
    let on := s.vfEnabled v
    if bit val 0 && !on then .vfEnable else if !(bit val 0) && on then .vfTeardown else .registerWrite
  else if off = 0x58 then .migrationReplay
  else if off = 0x70 then presEvent val
  else if off = 0x88 then (match bits val 0 2 with
    | 1 => .saveReplay
    | 2 => .saveKill
    | _ => .registerWrite)
  else if off = 0xF0 then .hpvalWrite
  else .registerWrite

/-- The event that a write to the debug block is (R373, R375). -/
def State.dbgEvent (s : State) (pa val : Nat) : Instr :=
  if pa % 0x1000 = 0 then
    if bits val 0 2 &&& (3 - s.field pa 0 2) ≠ 0 then .claimSuspend
    else if s.field pa 0 2 &&& (3 - bits val 0 2) ≠ 0 then .claimResume
    else .registerWrite
  else if 0x40 ≤ pa % 0x1000 && pa % 0x1000 < 0x60 then
    if bit val 3 then .debugResume else if bit val 1 then .debugStopRequest else .registerWrite
  else .registerWrite

/-- The event that a write to a device register is. -/
def State.regEvent (s : State) (w : RegWrite) : Instr :=
  let pa := w.pa
  let val := w.value.toNat
  if pa = mgmtRegAt 0x8000 then .mstateWrite
  else if 2 ^ 53 ≤ pa then
    let node := (pa - 2 ^ 53) / 1024
    let idx := (pa - 2 ^ 53) % 1024
    if 64 ≤ node && node < 160 && idx = 16 then .lmapWrite
    else if node < 48 && 48 ≤ idx && idx < 51 then .fmapWrite
    else .registerWrite
  else if 0x080B00000000 ≤ pa then s.supEvent ((pa - 0x080B00000000) / 0x10000) (0x100 + pa % 0x10000 / 8) val
  else if 0x080A00000000 ≤ pa then
    if pa = featAt 0x40 && bit val 0 then .featureConfirm
    else if pa = errAt 0x20 && bit val 12 then .channelAck
    else .registerWrite
  else if 0x080900000000 ≤ pa then s.dbgEvent pa val
  else if 0x080800000000 ≤ pa then
    if pa = gateAt 0 then (match bits val 0 2 with
      | 1 => .policyInstall
      | 2 => .policyRemove
      | 3 => .keyRegister
      | _ => .registerWrite)
    else if pa = gateAt 0x38 && bit val 63 then .frameZero
    else .registerWrite
  else if 0x080600000000 ≤ pa && pa < 0x080700000000 then s.ctxEvent ((pa - 0x080600000000) / 0x100) (pa % 0x100) val
  else if 0x080500000000 ≤ pa && pa < 0x080600000000 && pa % 0x40 = 0 then
    let on := s.field pa 0 1 = 1
    if bit val 0 && !on then .partitionEnable else if !(bit val 0) && on then .partitionDisable else .registerWrite
  else if 0x080400000000 ≤ pa && pa < 0x080500000000 && 0x100 ≤ pa % 0x200 && pa % 16 = 0 then
    if s.field pa 10 1 = 1 && !(bit val 10) then .circuitDisable else .registerWrite
  else .registerWrite

/-- Register writes become the events that follow, the first of the list performing first: a host's before any input that is
still to come, a thread's after those that earlier lanes of its instruction made (R82). -/
def State.postWrites (s : State) (ws : List RegWrite) : State :=
  let new := ws.map (fun w => ⟨s.regEvent w, ⟨w, []⟩⟩)
  { s with inputs := if ws.any (fun w => w.agent.outside) then new ++ s.inputs else s.inputs ++ new }

/-- A register write becomes an event that follows. -/
def State.postWrite (s : State) (w : RegWrite) : State := s.postWrites [w]

/-- A store to device registers: aligned doubles act; a narrower or misaligned store writes nothing and is logged (R13, R82).
A store to a launch-port window that is not the 64 bytes of a record is dropped and logged (R295). -/
def State.deviceWrite (s : State) (a : Agent) (pa : Nat) (bs : List Byte) (lab : Label) : State :=
  if !aligned8 pa bs.length || pa < 0x080100000000 then s.logIgnored pa true a
  else s.postWrites ((List.range (bs.length / 8)).map (fun i =>
    ⟨pa + 8 * i, BitVec.ofNat 64 (leNat ((bs.drop (8 * i)).take 8)), a, lab⟩))

end Sys2Proof.Machine
end

