-- ==== Sys2Proof/Machine/Lanes.lean ====
section
/-!
DEFINITION. How an instruction acts lane by lane when lanes may raise, fault or wait (R40, R213, R390, R391, R414), the store
queue of a thread (R83, R84, R98), and the plain performing of loads and stores.
-/

namespace Sys2Proof.Machine

/-! ### Raising (R414 to R416) -/

/-- The first poisoned item that a lane raises, guard first, with the label it has (R411, R414, R416). -/
def State.raiseTok (s : State) (gp : BitVec 3) (srcs : List Src) (l : Nat) : Option (Word × Label) :=
  let t := s.lane l
  (Src.p gp.toNat :: srcs).findSome? (fun x => (x.token t).map (fun k => (k, x.label s.curSlot)))

/-- The raise of a lane, if it raises. -/
def State.raiseOf (s : State) (gp : BitVec 3) (srcs : List Src) (l : Nat) : Option Flt :=
  (s.raiseTok gp srcs l).map (fun x => s.raiseFlt l x.1 x.2)

/-! ### One verdict per lane -/

/-- Fold a check over lanes, threading the state that walks may change. -/
def checkLanes {α : Type} (chk : State → Nat → Ans α × State) : State → List Nat → List (Nat × Ans α) × State
  | s, [] => ([], s)
  | s, l :: ls =>
    let a := chk s l
    let r := checkLanes chk a.2 ls
    ((l, a.1) :: r.1, r.2)

/-- Lanes that passed, with what they got. -/
def goodLanes {α : Type} (xs : List (Nat × Ans α)) : List (Nat × α) :=
  xs.filterMap (fun p => match p.2 with
    | .ok a => some (p.1, a)
    | _ => none)

/-- Lanes that faulted. -/
def badLanes {α : Type} (xs : List (Nat × Ans α)) : List (Nat × Flt) :=
  xs.filterMap (fun p => match p.2 with
    | .bad f => some (p.1, f)
    | _ => none)

/-- The reason of the first lane that must wait. -/
def waitReason {α : Type} (xs : List (Nat × Ans α)) : Option Nat :=
  xs.findSome? (fun p => match p.2 with
    | .wait r => some r
    | _ => none)

/-- Lanes have been checked: those that fail park; if any must wait, the group holds and nothing else happens; otherwise `act`
acts for the lanes that passed and says which lanes do not go on (R40, R213). -/
def State.settleLanes {α : Type} (s : State) (r : List (Nat × Ans α) × State) (act : State → List (Nat × α) → State × List Nat) :
    State :=
  let bads := badLanes r.1
  let s1 := r.2.afterStop (r.2.park bads)
  match waitReason r.1 with
  | some k => s1.hold k
  | none =>
    let goods := goodLanes r.1
    let a := if goods.isEmpty then (s1, []) else act s1 goods
    a.1.advance (s.othersOf (bads.map Prod.fst ++ a.2))

/-- Lanes are checked, and then settled. -/
def State.eachLaneStay {α : Type} (s : State) (ex : List Nat) (chk : State → Nat → Ans α × State)
    (act : State → List (Nat × α) → State × List Nat) : State := s.settleLanes (checkLanes chk s ex) act

/-- As `eachLaneStay`, when every lane that passes goes on. -/
def State.eachLane {α : Type} (s : State) (ex : List Nat) (chk : State → Nat → Ans α × State)
    (act : State → List (Nat × α) → State) : State :=
  s.eachLaneStay ex chk (fun s gs => (act s gs, []))

/-- A check that only raises. -/
def State.raiseOnly (gp : BitVec 3) (srcs : List Src) (s : State) (l : Nat) : Ans Unit × State :=
  match s.raiseOf gp srcs l with
  | some f => (.bad f, s)
  | none => (.ok (), s)

/-- Raise before another check (R418: poison comes before the memory checks). -/
def State.afterRaise {α : Type} (gp : BitVec 3) (srcs : List Src) (chk : State → Nat → Ans α × State) (s : State) (l : Nat) :
    Ans α × State :=
  match s.raiseOf gp srcs l with
  | some f => (.bad f, s)
  | none => chk s l

/-- Give an address fault the label of the address registers (R416). -/
def Ans.labelled {α : Type} (lab : Label) : Ans α → Ans α
  | .bad f => if f.hasAddr && !f.dfr then .bad { f with label := lab } else .bad f
  | a => a

/-- `Ans.labelled` of a check. -/
def Ans.relabel {α : Type} (lab : Label) (a : Ans α × State) : Ans α × State := (a.1.labelled lab, a.2)

/-! ### Places -/

/-- Whether two spans share a byte. -/
def overlaps (a : Loc) (n : Nat) (b : Loc) (m : Nat) : Bool :=
  match a, b with
  | .pa x, .pa y => decide (x < y + m) && decide (y < x + n)
  | .sp i x, .sp j y => i = j && decide (x < y + m) && decide (y < x + n)
  | _, _ => false

/-- Whether byte `i` of a span lies in another span, and at which offset. -/
def Loc.within (a : Loc) (b : Loc) (m : Nat) : Option Nat :=
  match a, b with
  | .pa x, .pa y => if y ≤ x && x < y + m then some (x - y) else none
  | .sp i x, .sp j y => if i = j && y ≤ x && x < y + m then some (x - y) else none
  | _, _ => none

/-! ### Stores performing (R83, R98, R448) -/

/-- The core of a stand. -/
def State.coreOf (s : State) (stand : Nat) : Nat :=
  match s.stands.get? stand with
  | some st => st.core
  | none => mgmtCore

/-- Whether a write that does not cover whole sectors touches a bad one (R448). -/
def State.partialBad (s : State) (l : Loc) (n : Nat) : Bool := s.badSpan l n && !(n % 32 = 0 && (match l with
  | .pa a => a % 32 = 0
  | .sp _ o => o % 32 = 0))

/-- A window store applies to every replica at its lap (R66, R98, R284). -/
def State.performWindow (s : State) (v sset wrc : Nat) (pa : Nat) (bs : List Byte) (lab : Label) : State :=
  (wrc :: (s.subscribers v sset).filter (· != wrc)).foldl (fun s c =>
    s.perform none (s.keyOf v) (.pa (pa - wrc * 0x4000000 + c * 0x4000000)) bs lab) s

/-- A TAGSET of a window page applies to every replica at its lap, with its label raise (R66, R87, R224). -/
def State.tagWindow (s : State) (v sset wrc : Nat) (pa tag : Nat) (lab : Label) : State :=
  (wrc :: (s.subscribers v sset).filter (· != wrc)).foldl (fun s c =>
    let a := pa - wrc * 0x4000000 + c * 0x4000000
    (s.setTagAt a tag).raiseLabel (.pa a) lab) s

/-- A label raise of a window page applies to every replica at its lap (R66, R239). -/
def State.raiseWindow (s : State) (v sset wrc pa : Nat) (lab : Label) : State :=
  (wrc :: (s.subscribers v sset).filter (· != wrc)).foldl (fun s c => s.raiseLabel (.pa (pa - wrc * 0x4000000 + c * 0x4000000)) lab) s

/-- What a window message does at its lap: its bytes, its tag, or a label raise alone (R66, R87). -/
def State.applyWindow (s : State) (v sset wrc pa : Nat) (bs : List Byte) (tag : Option Nat) (lab : Label) : State :=
  match tag with
  | some t => s.tagWindow v sset wrc pa t lab
  | none => if bs.isEmpty then s.raiseWindow v sset wrc pa lab else s.performWindow v sset wrc pa bs lab

/-- Whether a place can still be written: a stand that has exited keeps nothing. -/
def State.placeLive (s : State) (l : Loc) : Bool :=
  match l with
  | .pa _ => true
  | .sp k _ => match s.stands.get? k with
    | some st => !st.exited
    | none => false

/-- The oldest window store on a cluster's channel completes its lap (R98): every subscribed replica applies it at this instant,
and it leaves its thread's queue. -/
def State.lapOne (s : State) (cluster : Nat) : State :=
  match s.windowMsgs.find? (fun m => m.cluster = cluster) with
  | none => s
  | some m =>
    let s1 := { s with windowMsgs := s.windowMsgs.erase m }
    let s2 := s1.updThread m.thread (fun t => match t.storeQ with
      | e :: es => if e.sent then ({ t with storeQ := es } : Thread).wakeExit else t
      | [] => t)
    if s.partialBad (.pa m.pa) m.bytes.length then s2.failStand (m.thread / 16384) 0xE0 none false
    else s2.applyWindow m.vf m.sset m.cluster m.pa m.bytes m.tag m.label

/-- Every window store on a cluster's channel completes its lap, in channel order. -/
def State.lapAll (s : State) (cluster : Nat) : State := s.windowMsgs.foldl (fun s _ => s.lapOne cluster) s

/-- A store of a stand performs (R83, R86); a window store after those ahead of it on the channel (R98). A partial write of a
bad sector fails the stand instead (R448). -/
def State.performStore (s : State) (stand : Nat) (nc : Bool) (e : StoreEnt) : State :=
  let v := s.vfOf stand
  if !s.placeLive e.loc then s
  else if s.partialBad e.loc e.bytes.length then s.failStand stand 0xE0 none false
  else match e.window, e.loc with
    | some (sset, wrc), .pa a => (s.lapAll wrc).applyWindow v sset wrc a e.bytes e.tag e.label
    | _, _ => s.perform (if nc then none else some (s.coreOf stand)) (s.keyOf v) e.loc e.bytes e.label

/-- The oldest store of a thread's queue performs (R84). -/
def State.drainOne (s : State) (thread : Nat) : State :=
  let t := s.thread thread
  match t.storeQ with
  | [] => s
  | e :: es => match e.sent, e.window with
    | true, some w => s.lapAll w.2
    | _, _ => (s.updThread thread (fun t => ({ t with storeQ := es } : Thread).wakeExit)).performStore t.stand false e

/-- The oldest store of a thread's queue leaves it: a window store is transmitted on its writer cluster's channel and stays
queued until its lap; any other performs (R84, R98). -/
def State.sendOne (s : State) (thread : Nat) : State :=
  let t := s.thread thread
  match t.storeQ with
  | [] => s
  | e :: es => match e.window, e.loc with
    | some w, .pa a =>
      if e.sent then s
      else
        let s1 := s.updThread thread (fun t => { t with storeQ := { e with sent := true } :: es })
        { s1 with windowMsgs := s1.windowMsgs ++ [⟨w.2, s.vfOf t.stand, w.1, thread, a, e.bytes, e.tag, e.label⟩] }
    | _, _ => s.drainOne thread

/-- A thread's whole queue performs, in order. -/
def State.drainQ (s : State) (thread : Nat) : State :=
  (s.thread thread).storeQ.foldl (fun s _ => s.drainOne thread) s

/-- The queues of lanes' threads perform. -/
def State.drainLanes (s : State) (ls : List Nat) : State := ls.foldl (fun s l => s.drainQ (s.laneKey l)) s

/-- The check of one access of a lane. A tag or label that the lane's thread has queued for a window page performs first, since
a load of a queued store's sector waits for it (R84 item 3, R224). -/
def State.laneCheck (req : Thread → Req) (addr : List Src) (s : State) (l : Nat) : Ans Target × State :=
  let s0 := if (s.lane l).storeQ.any (fun e => e.bytes.isEmpty) then s.drainQ (s.laneKey l) else s
  let a := s0.check (s0.laneWho l) (req (s0.lane l))
  (a.1.labelled (s0.curSlot.srcLabel addr), a.2)

/-- A store enters a thread's queue. -/
def State.enqueue (s : State) (thread : Nat) (e : StoreEnt) : State :=
  s.updThread thread (fun t => { t with storeQ := t.storeQ ++ [e] })

/-! ### Loads performing (R83, R84, R101) -/

/-- What a load obtained. -/
structure Loaded where
  v : Nat
  label : Label
deriving DecidableEq, Repr

/-- The queued stores of a thread that touch a span, oldest first. -/
def Thread.touching (t : Thread) (l : Loc) (n : Nat) : List StoreEnt := t.storeQ.filter (fun e => overlaps e.loc e.bytes.length l n)

/-- The youngest queued byte of a place, if any. -/
def queuedByte (q : List StoreEnt) (l : Loc) : Option Byte :=
  q.foldl (fun m e => match l.within e.loc e.bytes.length with
    | some i => some (e.bytes.getD i 0#8)
    | none => m) none

/-- The youngest buffered DC byte of a thread at a place, if any (R101). -/
def dcByte (q : List DcEnt) (thread : Nat) (l : Loc) : Option Byte :=
  q.foldl (fun m e => match if e.thread = thread then l.within e.loc e.bytes.length else none with
    | some i => some (e.bytes.getD i 0#8)
    | none => m) none

/-- A load from memory. A load covered by queued stores forwards the youngest; one that touches a queued store partly, or
is uncached, waits for the queue, which drains in the same step (R84). -/
def State.loadMem (s0 : State) (w : Who) (t : Target) (n : Nat) (th : Thread) : Loaded × State :=
  let own := s0.ownLabel w.vf
  let q := th.touching t.loc n
  let full := !q.isEmpty && !t.nc && (List.range n).all (fun i => (queuedByte q (t.loc.plus i)).isSome)
  let s1 := if full || (q.isEmpty && !t.nc) then s0 else s0.drainQ w.thread
  let s2 := s1.performRead (if t.nc || t.window.isSome then none else some w.core) t.key t.loc
  let base := s2.bytesOf t.key t.loc n
  let q' := if full then q else []
  let dc := if t.dc then (match s2.stands.get? w.stand with
    | some st => st.dcBuf
    | none => []) else []
  let bs := (List.range n).map (fun i =>
    match dcByte dc w.thread (t.loc.plus i) with
    | some b => b
    | none => match queuedByte q' (t.loc.plus i) with
      | some b => b
      | none => base.getD i 0#8)
  let lab := s2.labelSpan t.key own t.loc n ||| Label.union (q'.map (·.label))
    ||| Label.union ((dc.filter (fun e => e.thread = w.thread && overlaps e.loc e.bytes.length t.loc n)).map (·.label))
  (⟨leNat bs, lab⟩, s2)

/-- A checked load of `n` bytes performs; a device register is read after every earlier access of the thread (R84). -/
def State.loadAt (s : State) (w : Who) (t : Target) (n : Nat) : Loaded × State :=
  let s0 := match t.tlb with
    | some e => s.markAccess w.core e false
    | none => s
  let th := s0.thread w.thread
  let own := s0.ownLabel w.vf
  match t.loc with
  | .pa a =>
    if isDevice a then
      let agent : Agent := if w.phys then .mgmt else .thread w.thread
      let s1 := (s0.drainQ w.thread).noteRead agent a n
      let r := s1.deviceRead agent a n
      (⟨r.1, own ||| r.2⟩, s1)
    else s0.loadMem w t n th
  | .sp _ _ => s0.loadMem w t n th

/-- Whether a load from a DC page must wait for earlier quanta (R101). -/
def State.dcWaits (s : State) (w : Who) (t : Target) : Bool :=
  let th := s.thread w.thread
  t.dc && s.dcStage w.stand th.stage &&
    (!s.dcEnded w.stand (th.dcE, th.dcJ) || (match s.stands.get? w.stand with
      | some st => st.dcBuf.any (fun x => quantumLt (x.e, x.j) (th.dcE, th.dcJ))
      | none => false))

/-! ### Labels of writes (R213) -/

/-- The label written by a lane's store: data, guard, address and the lane's flow. -/
def State.writeLabel (s : State) (gp : BitVec 3) (srcs : List Src) (l : Nat) : Label :=
  s.curSlot.srcLabel srcs ||| s.curSlot.predLabel gp.toNat ||| (s.lane l).flow

/-- A plain store, an atomic or an engine write sets the shadow words of what it writes (R372). -/
def State.setShadow (s : State) (w : Who) (l : Loc) (n : Nat) : State :=
  match l with
  | .pa _ => s
  | .sp k o => s.updStand k (fun st =>
    if st.raceCheck then
      { st with shadow := (List.range ((o % 4 + n + 3) / 4)).foldl (fun t i =>
          t.insert (o / 4 + i) (BitVec.ofNat 32 (s.shadowId w st.gen))) st.shadow }
    else st)

/-- A bad sector under a read or a partial write fails the requester's stand (R448); otherwise `k` goes on. -/
def State.unlessBad (s : State) (w : Who) (l : Loc) (n : Nat) (k : State → State) : State :=
  if s.badSpan l n then s.failStand w.stand 0xE0 none false else k s

end Sys2Proof.Machine
end

