-- ==== Sys2Proof/Machine/Memory.lean ====
section
/-!
DEFINITION. Loads, stores, atomics, fences, hints, tags, broadcast stores, presence, labels and clearing: opcodes 0x100 to
0x10D and 0x119 to 0x11B (R213 to R228, R239, R240).
-/

namespace Sys2Proof

/-- D as a number. -/
def MFmt.rd (f : MFmt) : Nat := f.d.toNat
/-- A as a number. -/
def MFmt.ra (f : MFmt) : Nat := f.a.toNat
/-- B as a number. -/
def MFmt.rb (f : MFmt) : Nat := f.b.toNat
/-- SPC as a number. -/
def MFmt.sp (f : MFmt) : Nat := f.spc.toNat
/-- SZ as a number. -/
def MFmt.z (f : MFmt) : Nat := f.sz.toNat
/-- VAR as a number. -/
def MFmt.v (f : MFmt) : Nat := f.var.toNat
/-- The 16-bit displacement of a form that reads no B (R213). -/
def MFmt.disp16 (f : MFmt) : Int := Machine.sext (f.b.toNat * 256 + f.dl.toNat) 16
/-- The 8-bit displacement of a form that reads B (R213). -/
def MFmt.disp8 (f : MFmt) : Int := Machine.sext f.dl.toNat 8

end Sys2Proof

namespace Sys2Proof.Machine

/-! ### Fields -/

/-- Registers of an address operand (R213). -/
def MFmt.addrRegs (f : MFmt) : Nat := if f.sp = 0 then 2 else 1

/-- The address operand. -/
def MFmt.addr (f : MFmt) : Src := .v f.ra (if f.sp = 0 then 2 else 1)

/-- The address operand is aligned to its span (R111). -/
def MFmt.addrOk (f : MFmt) : Bool := f.sp ≠ 0 || f.ra % 2 = 0

/-- The value of the address operand in a thread. -/
def MFmt.ptr (f : MFmt) (t : Thread) : Nat := t.regNat f.ra (if f.sp = 0 then 2 else 1)

/-- SCO is legal for loads and stores: reserved values, and a scope without an order, are not (R80). -/
def MFmt.scoOk (f : MFmt) : Bool := f.sco.toNat ≤ 4 && (f.ord ≠ 0 || f.sco = 0)

/-- Registers of a memory size: pairs for SZ 5, quads for SZ 6 (R215). -/
def szRegs (z : Nat) : Nat := if z = 5 then 2 else if z = 6 then 4 else 1

/-- Bytes of a memory size (R114). -/
def szBytes (z : Nat) : Nat := if z ≤ 1 then 1 else if z ≤ 3 then 2 else 2 ^ (z - 2)

/-- A request for `n` bytes aligned to `n`. -/
def MFmt.req (f : MFmt) (disp : Int) (t : Thread) (n : Nat) (read write : Bool) (kind : Nat) (plain : Bool) : Req :=
  ⟨f.sp, MFmt.ptr f t, disp, n, n, read, write, some kind, true, true, false, plain⟩

/-! ### LD and LD.S (R215 to R217, R410) -/

/-- What an LD lane does: take a poison token, make one, or load. -/
inductive LdAns where
  | tok (t : Word)
  | make (f : Flt)
  | load (t : Target)

/-- The IA field of a token (R407). -/
def State.tokenIA (s : State) : Nat := bits s.cur.at_ 2 22

/-- A speculative lane makes poison: the record goes into its thread's ring, and the token names it (R407, R408, R410). -/
def State.makePoison (s : State) (l : Nat) (f : Flt) (wload : Bool) : Word × State :=
  let t := s.lane l
  let tok := BitVec.ofNat 32 (f.code * 2 ^ 24 + t.next.toNat * 2 ^ 22 + s.tokenIA)
  let r : RingRec := { addr := f.addr, pc := BitVec.ofNat 64 (s.cur.hdr + s.cur.idx), code := BitVec.ofNat 8 f.code,
                       lane := BitVec.ofNat 5 l, v := true, lost := false, src := wload, info := BitVec.ofNat 16 f.info,
                       tok := tok, det := f.det.setWidth 32 }
  (tok, s.updLane l (fun t => t.pushRec r))

/-- The check of one LD lane. -/
def State.ldCheck (f : MFmt) (spec : Bool) (s : State) (l : Nat) : Ans LdAns × State :=
  let t := s.lane l
  match (Src.p f.gp.toNat).token t, (MFmt.addr f).token t with
  | some k, _ => (.ok (.tok k), s)
  | none, some k => (.ok (.tok k), s)
  | none, none =>
    let c := s.laneCheck (fun t => MFmt.req f f.disp16 t (szBytes f.z) true false 0 (f.ord = 0)) [MFmt.addr f] l
    match c.1 with
    | .bad x => if spec && x.code ≠ 0x12 then (.ok (.make x), c.2) else (.bad x, c.2)
    | .wait r => (.wait r, c.2)
    | .ok tg =>
      if spec && tg.nc then (.ok (.make (Flt.at 0x18 0 (BitVec.ofNat 64 (MFmt.req f f.disp16 t 1 true false 0 false).formed))), c.2)
      else if c.2.dcWaits (c.2.laneWho l) tg then (.wait 5, c.2)
      else (.ok (.load tg), c.2)

/-- The value LD writes from what it read (R216). -/
def ldExtend (z v : Nat) : Nat :=
  if z = 1 then wrap 32 (sext v 8) else if z = 3 then wrap 32 (sext v 16) else v

/-- The lanes of an LD act in ascending order: outputs, memory label, state. -/
def State.ldAct (f : MFmt) (s : State) : List (Nat × LdAns) → List (Nat × List Out) × Label × State
  | [] => ([], 0, s)
  | (l, a) :: rest =>
    let r : Out × Label × State := match a with
      | .tok k => (.tok k (s.laneKey l), 0, s)
      | .make x => let p := s.makePoison l x false; (.tok p.1 (s.laneKey l), 0, p.2)
      | .load tg =>
        let n := szBytes f.z
        if s.badSpan tg.loc n then (.val 0, 0, s.failStand (s.laneWho l).stand 0xE0 none false)
        else
          let x := s.loadAt (s.laneWho l) tg n
          (.val (ldExtend f.z x.1.v), x.1.label, x.2)
    let rs := r.2.2.ldAct f rest
    ((l, [r.1]) :: rs.1, r.2.1 ||| rs.2.1, rs.2.2)

/-- The encoding and quota faults of LD and LD.S (R80, R215, R217). -/
def illLd (f : MFmt) (spec : Bool) (s : State) : Option Flt :=
  illegal (f.sp ≤ 2 && f.z ≤ 6 && (f.ord = 0 || (f.ord = 1 && !spec)) && MFmt.scoOk f && f.v % 4 ≠ 3 && f.v / 4 % 2 = 0
    && MFmt.addrOk f && aligned f.rd (szRegs f.z)) ((MFmt.addr f).beyond s.quota || (Dst.v f.rd (szRegs f.z)).beyond s.quota)

/-- LD and LD.S issue. -/
def State.runLd (s : State) (f : MFmt) (spec : Bool) : State :=
  let dst := Dst.v f.rd (szRegs f.z)
  s.issue f.gn f.gp (illLd f spec s) (fun ex =>
    s.eachLane ex (State.ldCheck f spec) (fun s goods =>
      let r := s.ldAct f goods
      let ls := goods.map Prod.fst
      r.2.2.commit ls [dst] (r.2.2.labelL f.gp.toNat ls (s.curSlot.srcLabel [MFmt.addr f]) r.2.1) r.1))

/-- LD (R215, R216). -/
def execLd (f : MFmt) (s : State) : Host.Outcome State Fault Refusal := .next (s.runLd f false)

/-- LD.S (R217). -/
def execLdS (f : MFmt) (s : State) : Host.Outcome State Fault Refusal := .next (s.runLd f true)

/-! ### ST (R215, R216, R99 to R102) -/

/-- The quanta of a thread with buffered stores. -/
def Stand.quantaOf (st : Stand) (thread : Nat) : List (Nat × Nat) :=
  ((st.dcBuf.filter (fun x => x.thread = thread)).map (fun x => (x.e, x.j))).eraseDups

/-- A DC store finds at most two uncommitted quanta of its thread (R102). -/
def Stand.quantaRoom (st : Stand) (th : Thread) (w : Who) (k : Nat) : Bool :=
  let old := (st.quantaOf w.thread).filter (fun q => q ≠ (th.dcE, th.dcJ))
  old.length + (if 32 < th.dcN + k then 1 else 0) < 2

/-- The DC conditions of a store of `k` buffered entries: stage outside DCM, a second writing stand, a third quantum
(R77, R99, R102). -/
def State.dcStoreCheck (s : State) (w : Who) (r : Req) (tg : Target) (k : Nat) : Ans Target :=
  if !tg.dc then .ok tg
  else
    let th := s.thread w.thread
    let page := match tg.tlb with
      | some e => e.ppn
      | none => 0
    match s.gridAt w.stand, s.stands.get? w.stand with
    | some g, some st =>
      let first := g.dcFirst.getD page st.num
      if !s.dcStage w.stand th.stage then .bad (r.flt 0x0E 2)
      else if first ≠ st.num then .bad (r.flt 0x0E 0 first)
      else if st.quantaRoom th w k then .ok tg else .wait 4
    | _, _ => .bad (r.flt 0x0E 2)

/-- One buffered DC store; the 32nd of a quantum ends it (R99). -/
def State.dcPush (s : State) (w : Who) (loc : Loc) (bs : List Byte) (lab : Label) : State :=
  let th := s.thread w.thread
  let s1 := s.updStand w.stand (fun st => { st with dcBuf := st.dcBuf ++ [⟨w.thread, th.dcE, th.dcJ, loc, bs, lab⟩] })
  s1.updThread w.thread (fun t => if t.dcN + 1 = 32 then t.endQuantum else { t with dcN := t.dcN + 1 })

/-- Buffer a DC store of a lane, noting the page's first writing stand (R77, R99). -/
def State.dcStore (s : State) (w : Who) (tg : Target) (pieces : List (Loc × List Byte)) (lab : Label) : State :=
  let page := match tg.tlb with
    | some e => e.ppn
    | none => 0
  let num := match s.stands.get? w.stand with
    | some st => st.num
    | none => 0
  let s1 := { s with grids := s.grids.modify (gridOf w.stand) (fun g => { g with dcFirst := g.dcFirst.insert page (g.dcFirst.getD page num) }) }
  pieces.foldl (fun s p => s.dcPush w p.1 p.2 lab) s1

/-- A store splits into single-copy-atomic pieces of at most eight bytes (R82). -/
def storePieces (l : Loc) (bs : List Byte) : List (Loc × List Byte) :=
  if bs.length ≤ 8 then [(l, bs)] else [(l, bs.take 8), (l.plus 8, bs.drop 8)]

/-- A checked store of a lane: it enters the store queue; on a DC page it is buffered; an uncached one waits for the queue and
performs at once (R84, R88, R98, R99). -/
def State.storeAt (s : State) (w : Who) (tg : Target) (bs : List Byte) (lab : Label) (slot : Nat) : State :=
  let s1 := match tg.tlb with
    | some e => s.markAccess w.core e true
    | none => s
  let pieces := storePieces tg.loc bs
  let ents := pieces.map (fun p => (⟨p.1, p.2, none, lab, tg.window, false, slot⟩ : StoreEnt))
  if tg.dc then s1.dcStore w tg pieces lab
  else match tg.loc with
    | .pa a =>
      if isDevice a then (s1.drainQ w.thread).deviceWrite (if w.phys then .mgmt else .thread w.thread) a bs lab
      else if tg.nc && tg.window.isNone then ents.foldl (fun s e => s.performStore w.stand true e) (s1.drainQ w.thread)
      else ents.foldl (fun s e => s.enqueue w.thread e) s1
    | .sp _ _ => ents.foldl (fun s e => s.enqueue w.thread e) s1

/-- The encoding and quota faults of ST (R80, R215). -/
def illSt (f : MFmt) (s : State) : Option Flt :=
  illegal (f.sp ≤ 2 && (f.z = 0 || f.z = 2 || f.z = 4 || f.z = 5 || f.z = 6) && (f.ord = 0 || f.ord = 2) && MFmt.scoOk f
    && f.v < 3 && MFmt.addrOk f && aligned f.rd (szRegs f.z)) ((MFmt.addr f).beyond s.quota || (Src.v f.rd (szRegs f.z)).beyond s.quota)

/-- The check of ST in a lane: its raise, the access, and the conditions of a DC page (R213, R99). -/
def State.stCheck (f : MFmt) : State → Nat → Ans Target × State :=
  State.afterRaise f.gp [MFmt.addr f, .v f.rd (szRegs f.z)] (fun s l =>
    let mk := fun t => MFmt.req f f.disp16 t (szBytes f.z) false true 1 (f.ord = 0)
    let c := s.laneCheck mk [MFmt.addr f] l
    match c.1 with
    | .ok tg => ((c.2.dcStoreCheck (c.2.laneWho l) (mk (c.2.lane l)) tg (if szBytes f.z = 16 then 2 else 1)).labelled
        (s.curSlot.srcLabel [MFmt.addr f]), c.2)
    | a => (a, c.2))

/-- The race check among the lanes of one plain store: each lane that passed sets its shadow words before the next is checked
(R79, R372). -/
def State.raceSweep (f : MFmt) : State → List (Nat × Ans Target) → List (Nat × Ans Target)
  | _, [] => []
  | s, (l, .ok tg) :: rest =>
    let w := s.laneWho l
    match s.raceMiss w tg.loc (szBytes f.z) with
    | some m => (l, (Ans.bad ((MFmt.req f f.disp16 (s.lane l) (szBytes f.z) false true 1 true).flt 0x12 0 m)).labelled
        (s.curSlot.srcLabel [MFmt.addr f])) :: State.raceSweep f s rest
    | none => (l, .ok tg) :: State.raceSweep f (s.setShadow w tg.loc (szBytes f.z)) rest
  | s, x :: rest => x :: State.raceSweep f s rest

/-- The verdicts of ST's lanes. -/
def State.stVerdicts (s : State) (f : MFmt) (ex : List Nat) : List (Nat × Ans Target) × State :=
  let r := checkLanes (State.stCheck f) s ex
  (if f.ord = 0 then State.raceSweep f r.2 r.1 else r.1, r.2)

/-- The lanes of one store that write a byte which another lane of it writes. -/
def sharedLanes (n : Nat) (goods : List (Nat × Target)) : List Nat :=
  (goods.filter (fun p => !p.2.dc && goods.any (fun q => q.1 ≠ p.1 && overlaps p.2.loc n q.2.loc n))).map Prod.fst

/-- One lane's store. -/
def State.stLane (f : MFmt) (s : State) (p : Nat × Target) : State :=
  let n := szRegs f.z
  let size := szBytes f.z
  let w := s.laneWho p.1
  let bs := leBytes size ((s.lane p.1).regNat f.rd n)
  let lab := s.writeLabel f.gp [MFmt.addr f, Src.v f.rd n] p.1
  (if f.ord = 0 then s.setShadow w p.2.loc size else s).storeAt w p.2 bs lab s.cur.slotKey

/-- The lanes' stores; those that share a byte perform in this step, in ascending lane order (R82). -/
def State.stAct (f : MFmt) (s : State) (goods : List (Nat × Target)) : State :=
  (goods.foldl (State.stLane f) s).drainLanes (sharedLanes (szBytes f.z) goods)

/-- ST (R215, R216). -/
def execSt (f : MFmt) (s : State) : Host.Outcome State Fault Refusal :=
  .next (s.issue f.gn f.gp (illSt f s) (fun ex =>
    s.settleLanes (s.stVerdicts f ex) (fun s goods => (State.stAct f s goods, []))))

/-! ### Atomics (R218 to R221) -/

/-- The new value of an atomic from the old value and the operand; none when the table of R219 does not list the op and
size. -/
def atomOp (op z o b : Nat) : Option Nat :=
  let n := if z = 4 then 32 else 64
  let i (x : Nat) : Int := sext x n
  let flt : Fmt := if z = 4 then .f32 else .f64
  let fadd (f : Fmt) (x y : Nat) : Nat := f.round .rne false false (sumNum false [f.decode false x, f.decode false y])
  match op with
  | 0 => some b
  | 1 => some ((o + b) % 2 ^ n)
  | 2 => some (if i b < i o then b else o)
  | 3 => some (if i o < i b then b else o)
  | 4 => some (min o b)
  | 5 => some (max o b)
  | 6 => some (o &&& b)
  | 7 => some (o ||| b)
  | 8 => some (o ^^^ b)
  | 9 => some (if b ≤ o then 0 else o + 1)
  | 10 => some (if o = 0 || b < o then b else o - 1)
  | 11 => some (fadd flt o b)
  | 12 => if z = 4 then some (joinElems 16 (List.zipWith (fadd .bf16) (splitElems 16 2 o) (splitElems 16 2 b))) else none
  | 13 => some (flt.round .rne false false (minMaxNum false (flt.decode false o) (flt.decode false b)))
  | 14 => some (flt.round .rne false false (minMaxNum true (flt.decode false o) (flt.decode false b)))
  | _ => none

/-- The check of an atomic of a lane: a device register takes an address fault, a DC page a DC violation (R221). -/
def State.atomCheck (s : State) (r : Req) (addr : List Src) (l : Nat) : Ans Target × State :=
  let c := s.laneCheck (fun _ => r) addr l
  match c.1 with
  | .ok tg =>
    ((if tg.loc.device then Ans.bad (r.flt 0x05 0) else if tg.dc then Ans.bad (r.flt 0x0E 1) else Ans.ok tg).labelled
      (s.curSlot.srcLabel addr), c.2)
  | a => (a, c.2)

/-- Note a checked access in the page tables (R62). -/
def State.touch (s : State) (w : Who) (tg : Target) (write : Bool) : State :=
  match tg.tlb with
  | some e => s.markAccess w.core e write
  | none => s

/-- One atomic of a lane after its thread's queue has drained: reads `n` bytes, and writes what `new` gives from them, or
nothing. Answers the old value and the label of what it read (R72, R84, R220). A failed ATOMC is a load: it sets no D (R62) and,
as it is no writer (R371), no shadow word (notes/assumptions 29). -/
def State.atomAt (s : State) (w : Who) (tg : Target) (n : Nat) (new : Nat → Option Nat) (lab : Label) : Loaded × State :=
  let cl := if tg.nc then none else some w.core
  let s1 := ((s.drainQ w.thread).touch w tg false).performRead cl tg.key tg.loc
  let o := leNat (s1.bytesOf tg.key tg.loc n)
  let rl := s1.labelSpan tg.key (s1.ownLabel w.vf) tg.loc n
  match new o with
  | some v => (⟨o, rl⟩, ((s1.touch w tg true).perform cl tg.key tg.loc (leBytes n v) lab).setShadow w tg.loc n)
  | none => (⟨o, rl⟩, s1)

/-- Lanes perform an atomic in ascending order: old values, memory label, state. -/
def State.atomLanes (n : Nat) (new : Thread → Nat → Option Nat) (gp : BitVec 3) (srcs : List Src) (s : State) :
    List (Nat × Target) → List (Nat × List Out) × Label × State
  | [] => ([], 0, s)
  | (l, tg) :: rest =>
    let w := s.laneWho l
    let t := s.lane l
    let r : Loaded × State :=
      if s.badSpan tg.loc n then (⟨0, 0⟩, s.failStand w.stand 0xE0 none false)
      else s.atomAt w tg n (new t) (s.writeLabel gp srcs l)
    let rs := State.atomLanes n new gp srcs r.2 rest
    ((l, [Out.val r.1.v]) :: rs.1, r.1.label ||| rs.2.1, rs.2.2)

/-- The encoding and quota faults of an atomic; `ok` are those of its row (R214, R218). -/
def illAtomic (f : MFmt) (ok : Bool) (bRegs : Nat) (dsts : List Dst) (s : State) : Option Flt :=
  illegal (ok && f.sp ≤ 2 && (f.z = 4 || f.z = 5) && f.sco.toNat ≤ 4 && MFmt.addrOk f && aligned f.rb bRegs)
    ((MFmt.addr f).beyond s.quota || (Src.v f.rb bRegs).beyond s.quota || dsts.any (·.beyond s.quota))

/-- The check of an atomic in a lane: its raise and the access (R221). -/
def State.atomicCheck (f : MFmt) (bRegs : Nat) : State → Nat → Ans Target × State :=
  State.afterRaise f.gp [MFmt.addr f, .v f.rb bRegs] (fun s l =>
    s.atomCheck (MFmt.req f f.disp8 (s.lane l) (szBytes f.z) true true 2 false) [MFmt.addr f] l)

/-- An atomic issues: `dsts` receive the old value. -/
def State.runAtom (s : State) (f : MFmt) (bad : Option Flt) (bRegs : Nat) (dsts : List Dst) (new : Thread → Nat → Option Nat) : State :=
  let n := szBytes f.z
  let srcs := [MFmt.addr f, .v f.rb bRegs]
  s.issue f.gn f.gp bad (fun ex =>
    s.eachLane ex (State.atomicCheck f bRegs)
      (fun s goods =>
        let r := State.atomLanes n new f.gp srcs s goods
        let ls := goods.map Prod.fst
        if dsts.isEmpty then r.2.2
        else r.2.2.commit ls dsts (r.2.2.labelL f.gp.toNat ls (s.curSlot.srcLabel srcs) r.2.1) r.1))

/-- The encoding and quota faults of ATOM. -/
def illAtom (f : MFmt) (s : State) : Option Flt :=
  illAtomic f ((atomOp f.v f.z 0 0).isSome && aligned f.rd (szRegs f.z)) (szRegs f.z) [.v f.rd (szRegs f.z)] s

/-- The encoding and quota faults of ATOMC. -/
def illAtomc (f : MFmt) (s : State) : Option Flt :=
  illAtomic f (f.v = 0 && aligned f.rd (szRegs f.z)) (2 * szRegs f.z) [.v f.rd (szRegs f.z)] s

/-- The encoding and quota faults of RED. -/
def illRed (f : MFmt) (s : State) : Option Flt :=
  illAtomic f ((atomOp f.v f.z 0 0).isSome && f.v ≠ 0 && f.d = 0 && (f.ord = 0 || f.ord = 2)) (szRegs f.z) [] s

/-- ATOM (R218 to R220). -/
def execAtom (f : MFmt) (s : State) : Host.Outcome State Fault Refusal :=
  let k := szRegs f.z
  .next (s.runAtom f (illAtom f s) k [.v f.rd k] (fun t o => atomOp f.v f.z o (t.regNat f.rb k)))

/-- ATOMC (R218, R220): B holds the compare value, then the new value. -/
def execAtomc (f : MFmt) (s : State) : Host.Outcome State Fault Refusal :=
  let k := szRegs f.z
  .next (s.runAtom f (illAtomc f s) (2 * k) [.v f.rd k]
    (fun t o => if o = t.regNat f.rb k then some (t.regNat (f.rb + k) k) else none))

/-- RED (R218 to R220). -/
def execRed (f : MFmt) (s : State) : Host.Outcome State Fault Refusal :=
  let k := szRegs f.z
  .next (s.runAtom f (illRed f s) k [] (fun t o => atomOp f.v f.z o (t.regNat f.rb k)))

/-! ### FENCE, PREF, EVICT (R222, R223) -/

/-- The encoding fault of FENCE. -/
def illFence (f : MFmt) : Option Flt :=
  illegal (f.d = 0 && f.a = 0 && f.b = 0 && f.spc = 0 && f.z = 0 && f.var = 0 && f.dl = 0 && f.ord ≠ 0 && f.sco.toNat ≤ 4) false

/-- FENCE (R222, R90): in one timeline of performed accesses only the order of earlier stores before later loads is to be
made, so FENCE.ACR drains the queues. -/
def execFence (f : MFmt) (s : State) : Host.Outcome State Fault Refusal :=
  .next (s.issue f.gn f.gp (illFence f) (fun ex =>
    s.eachLane ex (State.raiseOnly f.gp []) (fun s goods => if f.ord = 3 then s.drainLanes (goods.map Prod.fst) else s)))

/-- Lanes of a hint that have a clean guard and address, in which alone it may act (R412, R414). -/
def State.hintLanes (s : State) (f : MFmt) (ex : List Nat) : List Nat :=
  ex.filter (fun l => (s.raiseTok f.gp [MFmt.addr f] l).isNone)

/-- The line that a hint names in a lane, if its translation succeeds and it is neither a window page nor uncached. -/
def State.hintLine (s : State) (f : MFmt) (l : Nat) : Option Nat :=
  let w := s.laneWho l
  let r := MFmt.req f f.disp16 (s.lane l) 1 false false 0 false
  match (s.checkGlobal w { r with align := 0, tags := false, pres := false, kind := none }).1 with
  | .ok tg => match tg.loc with
    | .pa a => if tg.nc || tg.window.isSome || isDevice a then none else some (a / 64)
    | .sp _ _ => none
  | _ => none

/-- What every hint obeys (R214, R223). -/
def hintOk (f : MFmt) (vmax : Nat) : Bool :=
  f.sp = 0 && f.d = 0 && f.z = 0 && f.ord = 0 && f.sco = 0 && f.v ≤ vmax && MFmt.addrOk f

/-- The encoding and quota faults of PREF (`vmax` 2) and EVICT (1). -/
def illHint (f : MFmt) (vmax : Nat) (s : State) : Option Flt := illegal (hintOk f vmax) ((MFmt.addr f).beyond s.quota)

/-- A core prefetches a line: into its L1 (0), into the cluster L2 (1), into its L1 held for writing (2) (R223). -/
def State.prefetch (s : State) (core var line : Nat) : State :=
  let c := clusterOf core
  if c < 384 then
    (if var = 2 then (if s.moesi c line = some .m || s.moesi c line = some .e then s.fillL1 core line
        else let s1 := s.keepBacking line; (if (s.moesi c line).isSome then flumeUpg s1 c line else flumeRdX s1 c line).fillL1 core line)
      else if var = 1 then (if (s.moesi c line).isSome then s else flumeRdS s c line)
      else cachedRead s core line)
  else s

/-- A core's L1 drops a line (R223). -/
def State.evictL1 (s : State) (core line : Nat) : State := { s with l1 := s.l1.filter (fun k => k ≠ l1Key core line) }

/-- A cluster writes a line back and drops it. -/
def State.evict (s : State) (c line : Nat) : State :=
  match s.moesi c line with
  | some .m | some .o => flumeWb s c line
  | some _ => s.setMoesi c line none
  | none => s

/-- A hint acts on the line that each of its lanes names. -/
def State.hinted (s : State) (f : MFmt) (ex : List Nat) (act : State → Nat → State) : State :=
  (s.hintLanes f ex).foldl (fun s l => match s.hintLine f l with
    | some line => act s line
    | none => s) s

/-- PREF (R223): a coherence move and nothing else. -/
def execPref (f : MFmt) (s : State) : Host.Outcome State Fault Refusal :=
  .next (s.issue f.gn f.gp (illHint f 2 s) (fun ex =>
    (s.hinted f ex (fun s line => s.prefetch s.cur.core f.v line)).advance s.cur.lanes))

/-- EVICT (R223): `.L1` drops the line from the core's L1; `.L2` writes it back and drops it from the cluster. -/
def execEvict (f : MFmt) (s : State) : Host.Outcome State Fault Refusal :=
  .next (s.issue f.gn f.gp (illHint f 1 s) (fun ex =>
    (s.hinted f ex (fun s line => if f.v = 1 then s.evict (clusterOf s.cur.core) line else s.evictL1 s.cur.core line)).advance
      s.cur.lanes))

/-! ### TAGSET, TAGGET (R224) -/

/-- Check several spans of one lane in the order of R213. -/
def State.checkSpans (w : Who) (s : State) (rs : List Req) : Ans (List Target) × State :=
  let a := State.checkEach w s rs
  (Ans.all a.1, a.2)

/-- Refuse device targets among spans with an address fault (R69, R221). -/
def noDevice (r : Req) : Ans (List Target) → Ans (List Target)
  | .ok ts => if ts.any (fun t => t.loc.device) then .bad (r.flt 0x05 0) else .ok ts
  | a => a

/-- A thread sets the tag of a sector, or raises its granule alone: on a window page the write enters the store queue and is
sent on the flume like a store, elsewhere it performs after the queue (R66, R87, R224, R239). -/
def State.markTarget (s : State) (w : Who) (tg : Target) (tag : Option Nat) (lab : Label) : State :=
  let s1 := s.touch w tg true
  if tg.window.isSome then s1.enqueue w.thread ⟨tg.loc, [], tag, lab, tg.window, false, s.cur.slotKey⟩
  else
    let s2 := s1.drainQ w.thread
    (match tag with
      | some t => s2.setTagOf tg.loc t
      | none => s2).raiseLabel tg.loc lab

/-- The encoding and quota faults of TAGSET. -/
def illTagset (f : MFmt) (s : State) : Option Flt :=
  illegal (f.sp ≤ 2 && f.d = 0 && f.z = 0 && f.ord = 0 && f.sco = 0 && MFmt.addrOk f) ((MFmt.addr f).beyond s.quota)

/-- The check of TAGSET in a lane: its raise and every sector. -/
def State.tagsetCheck (f : MFmt) : State → Nat → Ans (List Target) × State :=
  State.afterRaise f.gp [MFmt.addr f] (fun s l =>
    let r0 := { MFmt.req f f.disp16 (s.lane l) 32 false true 1 false with tags := false }
    let rs := (List.range (f.v + 1)).map (fun i => { r0 with disp := f.disp16 + (32 * i : Nat) })
    let c := s.checkSpans (s.laneWho l) rs
    ((noDevice r0 c.1).labelled (s.curSlot.srcLabel [MFmt.addr f]), c.2))

/-- What a load-like lane takes: a token, or the place it reads, which on a DC page waits for earlier quanta (R101). -/
def State.orWait (w : Who) (c : Ans Target × State) : Ans (Word ⊕ Target) × State :=
  match c.1 with
  | .ok tg => if c.2.dcWaits w tg then (.wait 5, c.2) else (.ok (Sum.inr tg), c.2)
  | .bad x => (.bad x, c.2)
  | .wait n => (.wait n, c.2)

/-- The lanes of TAGGET or LBRD act in ascending order, each as a load of one byte (R84, R224, R239): `out` gives the result
from the load's label and the state after it. Answers the outputs, the memory label and the state. -/
def State.byteLanes (out : State → Target → Label → Nat) (s : State) :
    List (Nat × (Word ⊕ Target)) → List (Nat × List Out) × Label × State
  | [] => ([], 0, s)
  | (l, a) :: rest =>
    let r : Out × Label × State := match a with
      | .inl k => (.tok k (s.laneKey l), 0, s)
      | .inr tg =>
        if s.badSpan tg.loc 1 then (.val 0, 0, s.failStand (s.laneWho l).stand 0xE0 none false)
        else
          let x := s.loadAt (s.laneWho l) tg 1
          (.val (out x.2 tg x.1.label), x.1.label, x.2)
    let rs := State.byteLanes out r.2.2 rest
    ((l, [r.1]) :: rs.1, r.2.1 ||| rs.2.1, rs.2.2)

/-- TAGSET (R224): performs as one store to each sector, after the thread's earlier stores. -/
def execTagset (f : MFmt) (s : State) : Host.Outcome State Fault Refusal :=
  .next (s.issue f.gn f.gp (illTagset f s) (fun ex =>
    s.eachLane ex (State.tagsetCheck f)
      (fun s goods => goods.foldl (fun s p =>
        let w := s.laneWho p.1
        let tag := (MFmt.req f f.disp16 (s.lane p.1) 32 false true 1 false).tag
        let lab := s.writeLabel f.gp [MFmt.addr f] p.1
        p.2.foldl (fun s tg => s.markTarget w tg (some tag) lab) s) s)))

/-- The encoding and quota faults of TAGGET. -/
def illTagget (f : MFmt) (s : State) : Option Flt :=
  illegal (f.sp ≤ 2 && f.z = 0 && f.ord = 0 && f.sco = 0 && f.var = 0 && MFmt.addrOk f)
    ((MFmt.addr f).beyond s.quota || (Dst.v f.rd 1).beyond s.quota)

/-- The check of TAGGET in a lane: the token it takes, or the sector (R224, R410). -/
def State.taggetCheck (f : MFmt) (s : State) (l : Nat) : Ans (Word ⊕ Target) × State :=
  match s.raiseTok f.gp [MFmt.addr f] l with
  | some k => (.ok (Sum.inl k.1), s)
  | none =>
    let r := { MFmt.req f f.disp16 (s.lane l) 1 true false 0 false with tags := false, align := 32 }
    let c := s.laneCheck (fun _ => r) [MFmt.addr f] l
    match c.1 with
    | .ok tg => if tg.loc.device then ((Ans.bad (r.flt 0x05 0)).labelled (s.curSlot.srcLabel [MFmt.addr f]), c.2)
      else State.orWait (s.laneWho l) c
    | _ => State.orWait (s.laneWho l) c

/-- TAGGET (R224, R410): a poisoned guard or address gives its token. -/
def execTagget (f : MFmt) (s : State) : Host.Outcome State Fault Refusal :=
  let dst := Dst.v f.rd 1
  .next (s.issue f.gn f.gp (illTagget f s) (fun ex =>
    s.eachLane ex (State.taggetCheck f)
      (fun s goods =>
        let ls := goods.map Prod.fst
        let r := State.byteLanes (fun s tg _ => s.tagOf tg.loc) s goods
        r.2.2.commit ls [dst] (r.2.2.labelL f.gp.toNat ls (s.curSlot.srcLabel [MFmt.addr f]) r.2.1) r.1)))

/-! ### BCST (R225) -/

/-- The scratchpad line BCST reads. -/
def bcstSrc (f : MFmt) (t : Thread) : Req := ⟨1, t.regNat f.rb 1, 0, 64, 64, true, false, some 0, true, true, false, true⟩

/-- A destination outside the broadcast windows takes a stage-two permission fault with its IPA (R225). -/
def bcstWindow (r : Req) (tg : Target) : Ans Unit :=
  match tg.window with
  | some _ => .ok ()
  | none =>
    let ipa := match tg.tlb with
      | some e => e.ipn * 0x10000 + r.formed % 0x10000
      | none => 0
    .bad { r.flt 0x0A 1 with ipa := ipa }

/-- BCST's destination: the permission fault of a page that is no window comes before the watchpoints and the tag (R213,
R225). -/
def State.bcstDest (w : Who) (r : Req) (s : State) : Ans Target × State :=
  Ans.bind (s.checkGlobal w r.toPermission) (fun tg s1 => Ans.bind (bcstWindow r tg, s1) (fun _ s2 => s2.checkGlobal w r))

/-- The check of one lane of BCST. -/
def State.bcstCheck (f : MFmt) (s : State) (l : Nat) : Ans (List Target × Target) × State :=
  Ans.bind (Ans.relabel (s.curSlot.srcLabel [.v f.rb 1]) (s.checkSpans (s.laneWho l) [bcstSrc f (s.lane l)])) (fun ts s1 =>
    Ans.relabel (s.curSlot.srcLabel [MFmt.addr f])
      (Ans.bind (State.bcstDest (s.laneWho l) (MFmt.req f f.disp8 (s.lane l) 64 false true 1 false) s1) (fun tg s2 =>
        (.ok (ts, tg), s2))))

/-- The encoding and quota faults of BCST. -/
def illBcst (f : MFmt) (s : State) : Option Flt :=
  illegal (f.sp = 0 && f.d = 0 && f.z = 0 && f.var = 0 && (f.ord = 0 || f.ord = 2) && MFmt.scoOk f && MFmt.addrOk f)
    ((MFmt.addr f).beyond s.quota || (Src.v f.rb 1).beyond s.quota)

/-- BCST (R225): a 64-byte scratchpad line becomes one window store. -/
def execBcst (f : MFmt) (s : State) : Host.Outcome State Fault Refusal :=
  let b := Src.v f.rb 1
  .next (s.issue f.gn f.gp (illBcst f s) (fun ex =>
    s.eachLane ex
      (State.afterRaise f.gp [MFmt.addr f, b] (State.bcstCheck f))
      (fun s goods => goods.foldl (fun s p =>
        let w := s.laneWho p.1
        match p.2.1 with
        | [] => s
        | st :: _ =>
          if s.badSpan st.loc 64 then s.failStand w.stand 0xE0 none false
          else
            let x := s.loadAt w st 64
            let lab := x.1.label ||| s.writeLabel f.gp [MFmt.addr f, b] p.1
            (x.2.touch w p.2.2 true).enqueue w.thread ⟨p.2.2.loc, leBytes 64 x.1.v, none, lab, p.2.2.window, false, s.cur.slotKey⟩) s)))

/-! ### Presence (R226) -/

/-- Lines into which a copy, or an epilogue that behaves as one, is in flight (R226, R248). -/
def State.copyInto (s : State) (stand line : Nat) : Bool :=
  s.commands.any (fun p => p.2.lines.contains (stand * 16384 + line))
    || s.quads.any (fun p => p.2.matrix.queue.any (fun o => o.lines.contains (stand * 16384 + line)))

/-- Whether a line is absent. -/
def State.absentLine (s : State) (stand line : Nat) : Bool :=
  match s.stands.get? stand with
  | some st => st.absent.contains line
  | none => false

/-- The encoding and quota faults of PRES and PCLR. -/
def illPres (f : MFmt) (s : State) : Option Flt :=
  illegal ((f.sp = 1 || f.sp = 2) && f.d = 0 && f.z = 0 && f.ord = 0 && f.sco = 0) ((MFmt.addr f).beyond s.quota)

/-- The check of PRES and PCLR in a lane: its raise, the lines, and the wait for a copy into an absent one (R226). -/
def State.presCheck (f : MFmt) : State → Nat → Ans Target × State :=
  State.afterRaise f.gp [MFmt.addr f] (fun s l =>
    let w := s.laneWho l
    let r : Req := { MFmt.req f f.disp16 (s.lane l) (64 * (f.v + 1)) false true 1 false with
                     align := 64, tags := false, pres := false, kind := none }
    let c := s.check w r
    match c.1 with
    | .ok tg => match tg.loc with
      | .sp k o =>
        if (List.range (f.v + 1)).any (fun i => s.absentLine k (o / 64 + i) && s.copyInto k (o / 64 + i)) then (.wait 4, c.2)
        else (.ok tg, c.2)
      | .pa _ => (.ok tg, c.2)
    | a => (a.labelled (s.curSlot.srcLabel [MFmt.addr f]), c.2))

/-- PRES and PCLR (R226): `set` says which. -/
def State.runPresence (s : State) (f : MFmt) (set : Bool) : State :=
  s.issue f.gn f.gp (illPres f s) (fun ex =>
    s.eachLane ex (State.presCheck f)
      (fun s goods => goods.foldl (fun s p =>
        let w := s.laneWho p.1
        match p.2.loc with
        | .sp k o =>
          let ls := (List.range (f.v + 1)).map (fun i => o / 64 + i)
          let next (a : List Nat) : List Nat :=
            if set then a.filter (fun x => !ls.contains x) else ls.foldl (fun a x => insertNat x a) a
          (s.drainQ w.thread).updStand k (fun st => { st with absent := next st.absent })
        | .pa _ => s) s))

/-- PRES (R226). -/
def execPres (f : MFmt) (s : State) : Host.Outcome State Fault Refusal := .next (s.runPresence f true)
/-- PCLR (R226); it is ordered as a store of its thread, so it follows the queued ones. -/
def execPclr (f : MFmt) (s : State) : Host.Outcome State Fault Refusal := .next (s.runPresence f false)

/-! ### DCQ (R228) -/

/-- The encoding fault of DCQ. -/
def illDcq (f : GFmt) : Option Flt := illegal (f.bare false false false false false true) false

/-- DCQ (R228): ends the thread's quantum in a DC thread. -/
def execDcq (f : GFmt) (s : State) : Host.Outcome State Fault Refusal :=
  .next (s.issue f.gn f.gp (illDcq f) (fun ex =>
    s.eachLane ex (State.raiseOnly f.gp []) (fun s goods => goods.foldl (fun s p =>
      if s.dcStage s.curStand s.curSlot.stage then s.updLane p.1 Thread.endQuantum else s) s)))

/-- QUANTUM_COMMIT (R100): commits the stand's lowest quantum once every DC thread has ended it. -/
def execQuantumCommit (stand : Nat) (s : State) : Host.Outcome State Fault Refusal :=
  .next (match s.dcDue stand with
    | some q => s.dcCommit stand q
    | none => s)

/-- STORE_DRAIN (R84, R98): the oldest queued store of a thread performs, or starts its lap. -/
def execStoreDrain (thread : Nat) (s : State) : Host.Outcome State Fault Refusal := .next (s.sendOne thread)

/-! ### Labels (R239) -/

/-- What every LBRD and LBOR obeys (R239). -/
def lbOk (f : GFmt) : Bool := f.bare true true false false true true && f.s 2 3 = 0 && f.s 0 2 ≠ 3

/-- A label request: the granule that holds an address, read or written; no tag check and no alignment (R239, R425). -/
def lbReq (sp : Bool) (ptr : Nat) (write : Bool) : Req :=
  ⟨if sp then 1 else 0, ptr, 0, 1, 0, !write, write, some (if write then 1 else 0), false, true, false, false⟩

/-- The operand of LBRD: a register, or an address of one or two registers. -/
def lbrdSrc (f : GFmt) : Src := .v f.ra (if f.s 0 2 = 1 then 2 else 1)

/-- The encoding and quota faults of LBRD. -/
def illLbrd (f : GFmt) (s : State) : Option Flt :=
  illegal (lbOk f && aligned f.rd 2 && aligned f.ra (if f.s 0 2 = 1 then 2 else 1))
    ((lbrdSrc f).beyond s.quota || (Dst.v f.rd 2).beyond s.quota)

/-- The check of LBRD in a lane that reads a granule's label: the token it takes, or the granule. -/
def State.lbrdCheck (f : GFmt) (s : State) (l : Nat) : Ans (Word ⊕ Target) × State :=
  match s.raiseTok f.gp [lbrdSrc f] l with
  | some t => (.ok (Sum.inl t.1), s)
  | none =>
    State.orWait (s.laneWho l)
      (s.laneCheck (fun t => lbReq (f.s 0 2 = 2) (t.regNat f.ra (if f.s 0 2 = 1 then 2 else 1)) false) [lbrdSrc f] l)

/-- LBRD (R239, R410): its memory forms are loads of one byte, whose label is the granule's with that of the thread's own queued
stores to it (R84). -/
def execLbrd (f : GFmt) (s : State) : Host.Outcome State Fault Refusal :=
  let k := f.s 0 2
  let a := lbrdSrc f
  let dst := Dst.v f.rd 2
  .next (s.issue f.gn f.gp (illLbrd f s) (fun ex =>
    if k = 0 then
      let lab := s.curSlot.regLabel f.ra
      let outs := ex.map (fun l => (l, [match (Src.p f.gp.toNat).token (s.lane l) with
        | some t => Out.tok t (s.laneKey l)
        | none => match a.token (s.lane l) with
          | some t => Out.tok t (s.laneKey l)
          | none => Out.val lab.toNat]))
      (s.commit ex [dst] (s.labelL f.gp.toNat ex (s.curSlot.srcLabel [a]) lab) outs).advance s.cur.lanes
    else
      s.eachLane ex (State.lbrdCheck f)
        (fun s goods =>
          let ls := goods.map Prod.fst
          let r := State.byteLanes (fun _ _ lab => lab.toNat) s goods
          r.2.2.commit ls [dst] (r.2.2.labelL f.gp.toNat ls (s.curSlot.srcLabel [a]) r.2.1) r.1)))

/-- What LBOR names in D: a register, or an address of one or two registers. -/
def lborSrc (f : GFmt) : Src := .v f.rd (if f.s 0 2 = 1 then 2 else 1)

/-- The encoding and quota faults of LBOR. -/
def illLbor (f : GFmt) (s : State) : Option Flt :=
  illegal (lbOk f && aligned f.ra 2 && aligned f.rd (if f.s 0 2 = 1 then 2 else 1))
    ((Src.v f.ra 2).beyond s.quota || (lborSrc f).beyond s.quota)

/-- The check of LBOR in a lane that raises a granule's label: its raise and the granule. -/
def State.lborCheck (f : GFmt) : State → Nat → Ans Target × State :=
  State.afterRaise f.gp [lborSrc f, .v f.ra 2] (fun s l =>
    s.laneCheck (fun t => lbReq (f.s 0 2 = 2) (t.regNat f.rd (if f.s 0 2 = 1 then 2 else 1)) true) [lborSrc f] l)

/-- LBOR (R239). -/
def execLbor (f : GFmt) (s : State) : Host.Outcome State Fault Refusal :=
  let k := f.s 0 2
  let a := Src.v f.ra 2
  .next (s.issue f.gn f.gp (illLbor f s) (fun ex =>
    if k = 0 then
      s.eachLane ex (State.raiseOnly f.gp [a]) (fun s goods =>
        let ls := goods.map Prod.fst
        let lab := s.labelL f.gp.toNat ls (s.curSlot.srcLabel [a]) 0 ||| Label.union (ls.map (fun l => (s.lane l).pair f.ra))
        s.updSlot s.cur.slotKey (fun sl => sl.setRegLabel f.rd (sl.regLabel f.rd ||| lab)))
    else
      s.eachLane ex (State.lborCheck f)
        (fun s goods => goods.foldl (fun s p =>
          let w := s.laneWho p.1
          let lab := (s.lane p.1).pair f.ra ||| s.writeLabel f.gp [lborSrc f, a] p.1
          s.markTarget w p.2 none lab) s)))

/-! ### CLRSEG (R240) -/

/-- Copies and epilogues in flight into a span (R240, R248). -/
def State.copyTouches (s : State) (l : Loc) (n : Nat) : Bool :=
  let hit (d : Span) : Bool := overlaps d.loc d.len l n
  s.commands.any (fun p => p.2.moves.any (fun m => m.dst.any hit))
    || s.quads.any (fun p => p.2.matrix.queue.any (fun o => o.dest.any (fun r => r.any hit)))

/-- A segment is cleared: bytes, tags, presence and label (R240); `who` is the core, or none on an uncached page (R88). -/
def State.clearSegment (s : State) (who : Option Nat) (key : Nat) (l : Loc) (n tag : Nat) (lab : Label) : State :=
  let s1 := (List.range (n / 64)).foldl (fun s i =>
    s.perform who key (l.plus (64 * i)) (List.replicate 64 0#8) 0#64) s
  let s2 := (List.range (n / 32)).foldl (fun s i => s.setTagOf (l.plus (32 * i)) tag) s1
  match l with
  | .pa a => s2.setLabelAt a lab
  | .sp k o => s2.updStand k (fun st => { st with
      absent := st.absent.filter (fun x => x < o / 64 || (o + n) / 64 ≤ x)
      splabels := st.splabels.put st.fill (o / 1024) lab })

/-- The encoding and quota faults of CLRSEG. -/
def illClrseg (f : MFmt) (s : State) : Option Flt :=
  illegal (f.sp ≤ 1 && f.d = 0 && f.z = 0 && f.ord = 0 && f.sco = 0 && f.var = 0 && MFmt.addrOk f) ((MFmt.addr f).beyond s.quota)

/-- The bytes of a segment: 4 KiB in a global space, 1 KiB in a scratchpad (R240). -/
def segBytes (f : MFmt) : Nat := if f.sp = 0 then 4096 else 1024

/-- A segment that CLRSEG may not clear: on a window page, outside the vault, on a DC page (R240). -/
def segFlt (r : Req) (tg : Target) : Option Flt :=
  match tg.loc with
  | .pa a =>
    if tg.window.isSome then
      some { r.flt 0x0A 1 with ipa := (match tg.tlb with
        | some e => e.ipn * 0x10000 + r.formed % 0x10000
        | none => 0) }
    else if !isVault a then some (r.flt 0x05 0)
    else if tg.dc then some (r.flt 0x0E 3)
    else none
  | .sp _ _ => none

/-- The check of CLRSEG in a lane: its raise, the segment, and the wait for copies into it (R240). -/
def State.clrsegCheck (f : MFmt) : State → Nat → Ans Target × State :=
  State.afterRaise f.gp [MFmt.addr f] (fun s l =>
    let r := { MFmt.req f f.disp16 (s.lane l) (segBytes f) false true 1 false with tags := false, pres := false }
    let c := s.laneCheck (fun _ => r) [MFmt.addr f] l
    match c.1 with
    | .ok tg => match segFlt r tg with
      | some x => ((Ans.bad x).labelled (s.curSlot.srcLabel [MFmt.addr f]), c.2)
      | none => if c.2.copyTouches tg.loc (segBytes f) then (.wait 4, c.2) else (.ok tg, c.2)
    | a => (a, c.2))

/-- CLRSEG (R240). -/
def execClrseg (f : MFmt) (s : State) : Host.Outcome State Fault Refusal :=
  let n := segBytes f
  .next (s.issue f.gn f.gp (illClrseg f s) (fun ex =>
    s.eachLane ex (State.clrsegCheck f)
      (fun s goods => goods.foldl (fun s p =>
        let w := s.laneWho p.1
        let lab := s.ownLabel w.vf ||| s.writeLabel f.gp [MFmt.addr f] p.1
        let tag := (MFmt.req f f.disp16 (s.lane p.1) n false true 1 false).tag
        ((s.drainQ w.thread).touch w p.2 true).clearSegment (if p.2.nc then none else some w.core) p.2.key p.2.loc n tag lab) s)))

end Sys2Proof.Machine
end

