-- ==== Sys2Proof/Machine/Sync.lean ====
section
/-!
DEFINITION. Queues (R229 to R232), WAITW (R233), barriers (R234 to R237) and transaction barriers (R238): opcodes 0x10E to
0x118, with the events WAITW_REREAD and LINKED_ARRIVAL.
-/

namespace Sys2Proof.Machine

/-- An instruction that acts once, with the operands of its lowest executing lane: lanes that raise park, the lowest of the
others is checked, and its fault parks them all (R231, R235, R238, R419). -/
def State.onceLane {α : Type} (s : State) (gp : BitVec 3) (srcs : List Src) (ex : List Nat)
    (chk : State → Nat → Ans α × State) (act : State → Nat → α → State) : State :=
  let r := checkLanes (State.raiseOnly gp srcs) s ex
  let bads := badLanes r.1
  let s1 := r.2.park bads
  let ls := (goodLanes r.1).map Prod.fst
  match ls with
  | [] => s1.advance (s.othersOf (bads.map Prod.fst))
  | l :: _ =>
    let c := chk s1 l
    match c.1 with
    | .wait k => c.2.hold k
    | .bad f => (c.2.afterStop (c.2.park (ls.map (fun l => (l, f))))).advance (s.othersOf ex)
    | .ok a => (act c.2 l a).advance (s.othersOf (bads.map Prod.fst))

/-! ### Queues (R229) -/

/-- A queue as a lane finds it: the descriptor's place, its fields, and the label of its granule. -/
structure Que where
  desc : Target
  cap : Nat
  esz : Nat
  rsv : Nat
  head : Nat
  tail : Nat
  label : Label
deriving DecidableEq, Repr

/-- Where a vault queue may lie: the vault of the thread's own cluster, off window and DC pages (R229). -/
def Target.queuePlace (t : Target) (core : Nat) : Bool :=
  match t.loc with
  | .pa a => isVault a && homeOf (a / 64) = clusterOf core && t.window.isNone && !t.dc
  | .sp _ _ => true

/-- A request for the bytes of a queue at an offset from the address operand. -/
def queReq (f : MFmt) (disp : Int) (t : Thread) (off n : Nat) (write : Bool) (kind : Nat) : Req :=
  ⟨f.sp, MFmt.ptr f t, disp + off, n, n, true, write, some kind, true, true, true, false⟩

/-- A queue access is checked and its place tested (R229). -/
def State.queCheck (s : State) (w : Who) (r : Req) : Ans Target × State :=
  let c := s.check w r
  match c.1 with
  | .ok t => if t.queuePlace w.core then (.ok t, c.2) else (.bad (r.flt 0x05 0), c.2)
  | a => (a, c.2)

/-- Whether a queue of `n` bytes, descriptor and ring, whose descriptor lies at a checked place lies in its region (R229). A
page of the ring that has no translation puts nothing outside the region: the access that reaches it takes its own fault. -/
def State.ringIn (s : State) (w : Who) (r : Req) (t : Target) (n : Nat) : Bool :=
  match t.loc with
  | .sp k o => o + n ≤ (s.regionOf k true).2
  | .pa _ =>
    let va := r.formed % 2 ^ 56
    let page := va / 0x10000
    va + n ≤ 2 ^ 56 && (List.range ((va + n - 1) / 0x10000 - page)).all (fun i =>
      let p := (page + 1 + i) * 0x10000
      match (s.translate w.core w.vf p).1 with
      | .ok e => (s.targetOf w { r with ptr := p, disp := 0 } e).queuePlace w.core
      | .error _ => true)

/-- Open the queue of a lane: the descriptor is checked and read, and the ring that its configuration word, or the word `cfg`
that QINIT gives, declares must lie in the region. -/
def State.queOpen (s : State) (f : MFmt) (disp : Int) (write : Bool) (kind l : Nat) (cfg : Option Nat) : Ans Que × State :=
  let w := s.laneWho l
  let r := queReq f disp (s.lane l) 0 64 write kind
  let c := s.queCheck w r
  let lab := s.curSlot.srcLabel [MFmt.addr f]
  match c.1 with
  | .bad x => ((Ans.bad x).labelled lab, c.2)
  | .wait n => (.wait n, c.2)
  | .ok t =>
    let n := leNat (c.2.bytesOf t.key t.loc 12)
    let k := cfg.getD (n % 2 ^ 32)
    let size := 64 + bits k 0 16 * 4 * 2 ^ bits k 16 2
    if bits k 0 16 ≠ 0 && bits k 16 2 ≠ 3 && !c.2.ringIn w r t size then ((Ans.bad (r.flt 0x05 0)).labelled lab, c.2)
    else (.ok ⟨t, bits n 0 16, bits n 16 2, bits n 18 14, bits n 32 32, bits n 64 32,
      c.2.labelOf t.key (c.2.ownLabel w.vf) t.loc⟩, c.2)

/-- Entries in a queue. -/
def Que.count (q : Que) : Nat := (q.tail + 2 ^ 32 - q.head) % 2 ^ 32

/-- Whether a queue's descriptor, and a size code where an entry is accessed, are legal (R229, R430). -/
def Que.legal (q : Que) (sz : Option Nat) : Bool :=
  q.cap ≠ 0 && q.esz ≠ 3 && q.rsv = 0 && (match sz with
    | some z => z = q.esz + 4
    | none => true)

/-- The offset of entry `i` from the descriptor. -/
def Que.entryOff (q : Que) (i : Nat) : Nat := 64 + (i % q.cap) * 4 * 2 ^ q.esz

/-- The queue fault. -/
def queFlt : Flt := .plain 0x0F 0

/-- Write the descriptor's words: CAP and ESZ, HEAD, TAIL. -/
def State.quePut (s : State) (w : Who) (q : Que) (cfg head tail : Nat) (lab : Label) : State :=
  s.perform (if q.desc.nc then none else some w.core) q.desc.key q.desc.loc
    (leBytes 12 (cfg + head % 2 ^ 32 * 2 ^ 32 + tail % 2 ^ 32 * 2 ^ 64)) lab

/-- The configuration word of a queue. -/
def Que.cfg (q : Que) : Nat := q.cap + q.esz * 2 ^ 16

/-- What one lane of a queue instruction did. -/
inductive QAns where
  | done (out : Option Nat) (label : Label)
  | bad (f : Flt)
  | wait (reason : Nat)
  | retired

/-- Running totals of an issue: lanes completed now, lanes that faulted, lanes retired, and the reason of the first wait. -/
structure QRun where
  now : List Nat
  bads : List (Nat × Flt)
  gone : List Nat
  stop : Option Nat

/-- Lanes act in ascending order until one must wait; a lane that completes writes its result at once (R231, R232). -/
def queLanes (dst : Option Dst) (one : State → Nat → QAns × State) : State → List Nat → QRun → QRun × State
  | s, [], r => (r, s)
  | s, l :: ls, r =>
    let a := one s l
    match a.1 with
    | .wait k => ({ r with stop := some k }, a.2)
    | .bad f => queLanes dst one a.2 ls { r with bads := r.bads ++ [(l, f)] }
    | .retired => queLanes dst one a.2 ls { r with gone := r.gone ++ [l] }
    | .done o lab =>
      let s1 := match dst, o with
        | some d, some v => a.2.writeDst (a.2.laneKey l) d (.val v)
        | _, _ => a.2
      queLanes dst one (s1.updLane l (fun t => { t with qlane := .done lab })) ls { r with now := r.now ++ [l] }

/-- A thread whose lane of a queue instruction has completed. -/
def Thread.queueDone (t : Thread) : Bool :=
  match t.qlane with
  | .done _ => true
  | _ => false

/-- The label that a completed lane keeps. -/
def Thread.queueLabel (t : Thread) : Label :=
  match t.qlane with
  | .done l => l
  | _ => 0

/-- Each executing lane that begins takes its rank. -/
def Thread.queueRank (k : Nat) (t : Thread) : Thread :=
  match t.qlane with
  | .idle => { t with qlane := .rank k }
  | _ => t

/-- The rank of a lane (R231). -/
def Thread.rank (t : Thread) : Nat :=
  match t.qlane with
  | .rank k => k
  | _ => 0

/-- One lane of a queue instruction: it raises, or does what `one` says. -/
def State.queLane (gp : BitVec 3) (srcs : List Src) (one : State → Nat → QAns × State) (s : State) (l : Nat) : QAns × State :=
  match s.raiseOf gp srcs l with
  | some x => (.bad x, s)
  | none => one s l

/-- The executing lanes that begin take their ranks. -/
def State.queRanks (s : State) (ex : List Nat) : State :=
  (ex.zip (List.range ex.length)).foldl (fun s p => s.updLane p.1 (Thread.queueRank p.2)) s

/-- A queue instruction ends in lanes `ls`: the destination takes its label, and their threads forget it (R147, R232). -/
def State.queEnd (s : State) (gp : BitVec 3) (srcs : List Src) (dst : Option Dst) (ls : List Nat) : State :=
  let m := Label.union (ls.map (fun l => (s.lane l).queueLabel))
  let ds := match dst with
    | some d => [d]
    | none => []
  ls.foldl (fun s l => s.updLane l (fun t => { t with prog := 0, qlane := .idle }))
    (s.labelDsts ls ds (s.labelL gp.toNat ls (s.curSlot.srcLabel srcs) m))

/-- A queue instruction issues or goes on: lanes that have not completed act in order; while one must wait, the group holds
with %prog the lanes completed; at the end %prog is 0 and the results take their labels (R231, R232; notes/assumptions 16). -/
def State.runQueue (s : State) (f : MFmt) (srcs : List Src) (dst : Option Dst) (ex : List Nat)
    (one : State → Nat → QAns × State) : State :=
  let left := ex.filter (fun l => !(s.lane l).queueDone)
  let r := queLanes dst (State.queLane f.gp srcs one) (s.queRanks ex) left ⟨[], [], [], none⟩
  let run := r.1
  let n := run.now.length
  let stay := ex.filter (fun l => !run.gone.contains l)
  let s1 := stay.foldl (fun s l => s.updLane l (fun t => { t with prog := t.prog + n })) r.2
  let s2 := s1.afterStop (s1.park run.bads)
  match run.stop with
  | some k => s2.hold k
  | none =>
    (s2.queEnd f.gp srcs dst (stay.filter (fun l => !(run.bads.any (·.1 = l))))).advance
      (s.othersOf (run.bads.map Prod.fst ++ run.gone))

/-- What every queue instruction obeys (R214, R230). -/
def queOk (f : MFmt) : Bool := f.sp ≤ 1 && f.ord = 0 && f.sco = 0 && MFmt.addrOk f

/-- A queue's entry sizes. -/
def queSz (f : MFmt) : Bool := 4 ≤ f.z && f.z ≤ 6

/-- The encoding and quota faults of QINIT. -/
def illQinit (f : MFmt) (s : State) : Option Flt :=
  illegal (queOk f && f.d = 0 && f.z = 0 && f.var = 0) ((MFmt.addr f).beyond s.quota || (Src.v f.rb 1).beyond s.quota)

/-- The check of QINIT in its lane: the descriptor, then the configuration (R230). -/
def State.qinitCheck (f : MFmt) (s : State) (l : Nat) : Ans (Que × Nat) × State :=
  let cfg := ((s.lane l).reg f.rb).toNat
  let c := s.queOpen f f.disp8 true 1 l (some cfg)
  match c.1 with
  | .ok q => if cfg / 2 ^ 18 ≠ 0 || cfg % 2 ^ 16 = 0 || bits cfg 16 2 = 3 then (.bad queFlt, c.2) else (.ok (q, cfg), c.2)
  | .bad x => (.bad x, c.2)
  | .wait n => (.wait n, c.2)

/-- QINIT (R230, R231): once, with the lowest lane's operands; a release, so its thread's stores perform first. -/
def execQinit (f : MFmt) (s : State) : Host.Outcome State Fault Refusal :=
  let b := Src.v f.rb 1
  .next (s.issue f.gn f.gp (illQinit f s) (fun ex =>
    s.onceLane f.gp [MFmt.addr f, b] ex (State.qinitCheck f)
      (fun s l a =>
        let w := s.laneWho l
        ((s.drainQ w.thread).touch w a.1.desc true).quePut w a.1 a.2 0 0 (s.writeLabel f.gp [MFmt.addr f, b] l))))

/-- The encoding and quota faults of QENQ. -/
def illQenq (f : MFmt) (s : State) : Option Flt :=
  illegal (queOk f && f.d = 0 && queSz f && f.var = 0 && aligned f.rb (szRegs f.z))
    ((MFmt.addr f).beyond s.quota || (Src.v f.rb (szRegs f.z)).beyond s.quota)

/-- An entry is written at a checked place, and TAIL rises (R230). -/
def State.quePush (s : State) (f : MFmt) (w : Who) (q : Que) (t : Target) (v : Nat) (lab : Label) : State :=
  (((s.drainQ w.thread).touch w t true).perform (if t.nc then none else some w.core) t.key t.loc
    (leBytes (szBytes f.z) v) lab).quePut w q q.cfg q.head (q.tail + 1) lab

/-- One lane of QENQ: a full queue waits (R230, R231). -/
def State.qenqLane (f : MFmt) (s : State) (l : Nat) : QAns × State :=
  let w := s.laneWho l
  let c := s.queOpen f f.disp8 true 1 l none
  match c.1 with
  | .bad x => (.bad x, c.2)
  | .wait k => (.wait k, c.2)
  | .ok q =>
    if !q.legal (some f.z) then (.bad queFlt, c.2)
    else if q.count = q.cap then (.wait 7, c.2)
    else
      let e := c.2.queCheck w (queReq f f.disp8 (s.lane l) (q.entryOff q.tail) (szBytes f.z) true 1)
      match e.1 with
      | .bad x => ((.bad x), e.2)
      | .wait k => (.wait k, e.2)
      | .ok t => (.done none 0, e.2.quePush f w q t ((s.lane l).regNat f.rb (szRegs f.z))
          (s.writeLabel f.gp [MFmt.addr f, .v f.rb (szRegs f.z)] l))

/-- QENQ (R230, R231). -/
def execQenq (f : MFmt) (s : State) : Host.Outcome State Fault Refusal :=
  .next (s.issue f.gn f.gp (illQenq f s) (fun ex =>
    s.runQueue f [MFmt.addr f, .v f.rb (szRegs f.z)] none ex (State.qenqLane f)))

/-! ### The spawn yard at a park point (R35, R36, R46) -/

/-- A thread of the issuing slot goes to the yard with `n` live registers, to continue at a PC: its queue drains, it gives up
its join points, its carried label takes its flow label and `lab`, and its lane is released (R34 to R36, R46). -/
def State.toYard (s : State) (l n : Nat) (target : PC) (atQueue : Bool) (lab : Label) : State :=
  let k := s.laneKey l
  let sl := s.curSlot
  let labels := (List.range n).map (fun i => (i, sl.regLabel i)) ++ (List.range 7).map (fun i => (256 + i, sl.predLabel i))
  let s1 := s.drainQ k
  let s2 := s1.updThread k (fun t =>
    { t with carried := t.flow ||| lab, joins := [], status := .yarded, wait := .none, pc := target, prog := 0, qlane := .idle })
  let s3 := s2.leaveJoins s.curStand k
  let s4 := s3.updStand s.curStand (fun st => { st with
    yard := st.yard ++ [{ thread := k, live := n, labels := labels, target := target, atQueue := atQueue, since := s.cycles }] })
  s4.dropLane k

/-- Whether the yard holds records for `k` threads of `n` live registers. -/
def State.yardRoom (s : State) (n k : Nat) : Bool :=
  match s.stands.get? s.curStand with
  | some st => k * yardSize n ≤ st.yardFree
  | none => false

/-- The balancer's class of a stage that lets it retire threads: Starved (R304). -/
def classStarved : Nat := 1

/-- Whether the balancer retires the thread of a lane at a park point now: it may when the stage is Starved, is no
communication stage, and the yard has room (R46, R47, R304; notes/assumptions 20). -/
def State.mayRetire (s : State) (n l : Nat) : Bool :=
  Config.retires (32 * s.tick + l) && s.yardRoom n 1 && (match s.stands.get? s.curStand with
    | some st => st.classes.getD s.curSlot.stage 0 = classStarved
    | none => false) && (match s.stageOf s.curStand s.curSlot.stage with
    | some g => !g.com
    | none => false)

/-- The encoding and quota faults of QDEQ; at a park point B is a live-register count (R46). -/
def illQdeq (f : MFmt) (s : State) : Option Flt :=
  illegal (queOk f && queSz f && f.v ≤ 1 && (f.v = 1 || f.b = 0) && aligned f.rd (szRegs f.z))
    ((MFmt.addr f).beyond s.quota || (Dst.v f.rd (szRegs f.z)).beyond s.quota || (f.v = 1 && s.quota < f.rb + 1))

/-- An entry is read from a checked place, and HEAD rises (R230). -/
def State.quePop (s : State) (f : MFmt) (w : Who) (q : Que) (t : Target) : Loaded × State :=
  let x := ((s.drainQ w.thread).touch w q.desc true).loadAt w t (szBytes f.z)
  (x.1, x.2.quePut w q q.cfg (q.head + 1) q.tail 0)

/-- One lane of QDEQ: an empty queue waits, or retires the thread at a park point (R46, R230, R231). -/
def State.qdeqLane (f : MFmt) (s : State) (l : Nat) : QAns × State :=
  let w := s.laneWho l
  let c := s.queOpen f f.disp8 true 0 l none
  match c.1 with
  | .bad x => (.bad x, c.2)
  | .wait k => (.wait k, c.2)
  | .ok q =>
    if !q.legal (some f.z) then (.bad queFlt, c.2)
    else if q.count = 0 then
      (if f.v = 1 && c.2.mayRetire (f.rb + 1) l then
        (.retired, c.2.toYard l (f.rb + 1) s.cur.pc true (s.curSlot.predLabel f.gp.toNat))
       else (.wait 6, c.2))
    else
      let e := c.2.queCheck w (queReq f f.disp8 (s.lane l) (q.entryOff q.head) (szBytes f.z) false 0)
      match e.1 with
      | .bad x => (.bad x, e.2)
      | .wait k => (.wait k, e.2)
      | .ok t =>
        if e.2.badSpan t.loc (szBytes f.z) then (.done none 0, e.2.failStand w.stand 0xE0 none false)
        else
          let x := e.2.quePop f w q t
          (.done (some x.1.v) (q.label ||| x.1.label), x.2)

/-- QDEQ (R230, R231, R46). -/
def execQdeq (f : MFmt) (s : State) : Host.Outcome State Fault Refusal :=
  .next (s.issue f.gn f.gp (illQdeq f s) (fun ex =>
    s.runQueue f [MFmt.addr f] (some (.v f.rd (szRegs f.z))) ex (State.qdeqLane f)))

/-- The encoding and quota faults of QPEEK. -/
def illQpeek (f : MFmt) (s : State) : Option Flt :=
  illegal (queOk f && queSz f && f.v ≤ 1 && (!(f.v = 1) || f.z = 4) && aligned f.rd (szRegs f.z))
    ((MFmt.addr f).beyond s.quota || (Dst.v f.rd (szRegs f.z)).beyond s.quota)

/-- One lane of QPEEK: the count, or the entry at its rank (R230, R231). -/
def State.qpeekLane (f : MFmt) (s : State) (l : Nat) : QAns × State :=
  let w := s.laneWho l
  let c := s.queOpen f f.disp16 false 0 l none
  match c.1 with
  | .bad x => (.bad x, c.2)
  | .wait k => (.wait k, c.2)
  | .ok q =>
    if !q.legal (if f.v = 1 then none else some f.z) then (.bad queFlt, c.2)
    else if f.v = 1 then (.done (some q.count) q.label, c.2.touch w q.desc false)
    else
      let k := (s.lane l).rank
      if q.count ≤ k then (.wait 6, c.2)
      else
        let e := c.2.queCheck w (queReq f f.disp16 (s.lane l) (q.entryOff (q.head + k)) (szBytes f.z) false 0)
        match e.1 with
        | .bad x => (.bad x, e.2)
        | .wait k => (.wait k, e.2)
        | .ok t =>
          if e.2.badSpan t.loc (szBytes f.z) then (.done none 0, e.2.failStand w.stand 0xE0 none false)
          else
            let x := (e.2.touch w q.desc false).loadAt w t (szBytes f.z)
            (.done (some x.1.v) (q.label ||| x.1.label), x.2)

/-- QPEEK (R230, R231). -/
def execQpeek (f : MFmt) (s : State) : Host.Outcome State Fault Refusal :=
  .next (s.issue f.gn f.gp (illQpeek f s) (fun ex =>
    s.runQueue f [MFmt.addr f] (some (.v f.rd (szRegs f.z))) ex (State.qpeekLane f)))

/-! ### WAITW (R233) -/

/-- The six conditions of R179 between integers. -/
def condHolds (k : Nat) (a b : Int) : Bool :=
  match k with
  | 0 => a = b
  | 1 => a ≠ b
  | 2 => a < b
  | 3 => a ≤ b
  | 4 => b < a
  | _ => b ≤ a

/-- What a thread of WAITW waits on: the line of the word. -/
def Loc.waitOn (l : Loc) : Wait :=
  match l with
  | .pa a => .word (a / 64) (isDevice a)
  | .sp k o => .spWord k (o / 64 * 64)

/-- The encoding and quota faults of WAITW. -/
def illWaitw (f : MFmt) (s : State) : Option Flt :=
  illegal (f.sp ≤ 2 && f.ord = 1 && f.sco.toNat ≤ 4 && (f.z = 4 || f.z = 5) && f.v % 8 ≤ 5 && MFmt.addrOk f
    && aligned f.rb (szRegs f.z) && aligned f.rd (szRegs f.z))
    ((MFmt.addr f).beyond s.quota || (Src.v f.rb (szRegs f.z)).beyond s.quota || (Dst.v f.rd (szRegs f.z)).beyond s.quota)

/-- The check of WAITW in a lane: its raise and the load. -/
def State.waitwCheck (f : MFmt) : State → Nat → Ans Target × State :=
  State.afterRaise f.gp [MFmt.addr f, .v f.rb (szRegs f.z)] (fun s l =>
    let c := s.laneCheck (fun t => MFmt.req f f.disp8 t (szBytes f.z) true false 0 false) [MFmt.addr f] l
    match c.1 with
    | .ok tg => if c.2.dcWaits (c.2.laneWho l) tg then (.wait 5, c.2) else (.ok tg, c.2)
    | a => (a, c.2))

/-- Whether the condition of WAITW holds between the word read and B (R233). -/
def waitwHolds (f : MFmt) (v b : Nat) : Bool :=
  let i (y : Nat) : Int := if 8 ≤ f.v then sext y (32 * szRegs f.z) else (y : Int)
  condHolds (f.v % 8) (i v) (i b)

/-- One lane of WAITW reads: its result and the label read, or nothing where it waits for a store to the line (R233). -/
def State.waitwLane (f : MFmt) (s : State) (l : Nat) (tg : Target) : Option Loaded × State :=
  let v := s.loadAt (s.laneWho l) tg (szBytes f.z)
  if waitwHolds f v.1.v ((s.lane l).regNat f.rb (szRegs f.z)) then (some v.1, v.2)
  else (none, v.2.updLane l (fun t => t.sleep tg.loc.waitOn))

/-- WAITW (R233): each lane reads; one whose condition fails waits for a store to the line and reads again. -/
def execWaitw (f : MFmt) (s : State) : Host.Outcome State Fault Refusal :=
  let size := szBytes f.z
  let dst := Dst.v f.rd (szRegs f.z)
  let srcs := [MFmt.addr f, .v f.rb (szRegs f.z)]
  .next (s.issue f.gn f.gp (illWaitw f s) (fun ex =>
    s.eachLaneStay ex (State.waitwCheck f)
      (fun s goods =>
        let r := goods.foldl (fun (x : List (Nat × List Out) × Label × List Nat × State) p =>
          let s := x.2.2.2
          if s.badSpan p.2.loc size then (x.1, x.2.1, x.2.2.1, s.failStand (s.laneWho p.1).stand 0xE0 none false)
          else
            let v := s.waitwLane f p.1 p.2
            match v.1 with
            | some y => (x.1 ++ [(p.1, [Out.val y.v])], x.2.1 ||| y.label, x.2.2.1, v.2)
            | none => (x.1, x.2.1, x.2.2.1 ++ [p.1], v.2)) ([], 0, [], s)
        let ls := r.1.map Prod.fst
        (r.2.2.2.commit ls [dst] (r.2.2.2.labelL f.gp.toNat ls (s.curSlot.srcLabel srcs) r.2.1) r.1, r.2.2.1))))

/-- WAITW_REREAD (R233): a thread that waits on a device register reads it again. -/
def execWaitwReread (thread : Nat) (s : State) : Host.Outcome State Fault Refusal :=
  .next (match (s.thread thread).wait with
    | .word _ true => s.updThread thread Thread.wake
    | _ => s)

/-! ### Stand and crew barriers (R234 to R237) -/

/-- The crew of a thread identity of a stand (R43, R47, R397). -/
def State.crewOfTid (s : State) (stand stage tid : Nat) : Nat :=
  if isHandler stand then s.field (supAt stand 0x101) 15 2
  else match s.stageOf stand stage with
    | some g => if g.com then g.cqd else tid / 32 % 4
    | none => tid / 32 % 4

/-- Threads of masked stages that have not exited, in a stand or in one of its crews (R235). -/
def State.maskedCount (s : State) (stand mask : Nat) (crew : Option Nat) : Nat :=
  let mine (stage tid : Nat) : Bool := bit mask stage && (match crew with
    | some c => s.crewOfTid stand stage tid = c
    | none => true)
  (s.threads.filter (fun p => p.2.stand = stand && p.2.status ≠ .exited && mine p.2.stage p.2.tid)).length
    + (match s.stands.get? stand with
      | some st => (st.pending.filter (fun p => mine p.1 p.2)).length
      | none => 0)

/-- The barrier of a stand under its key. -/
def State.barrierAt (s : State) (stand b : Nat) : Option Barrier :=
  match s.stands.get? stand with
  | some st => st.barriers.get? b
  | none => none

/-- Change a barrier. -/
def State.updBarrier (s : State) (stand b : Nat) (f : Barrier → Barrier) : State :=
  s.updStand stand (fun st => { st with barriers := st.barriers.modify b f })

/-- Whether any thread of a stand waits on a barrier. -/
def State.barrierWaited (s : State) (stand b : Nat) : Bool :=
  s.threads.any (fun p => p.2.stand = stand && (match p.2.wait with
    | .barrier x _ _ => x = b
    | .arrive x => x = b
    | _ => false))

/-- The key of the barrier that an instruction names in a lane (R235). -/
def State.barOf (s : State) (f : MFmt) (l : Nat) : Nat :=
  barKey (if f.sco = 0 then some (s.crewOf (s.laneKey l)) else none) f.v

/-- The barrier-misuse fault (R389). -/
def barFlt (info : Nat) : Flt := .plain 0x10 info

/-- Whether SCO agrees with a barrier's link (R235). -/
def Barrier.scoped (x : Barrier) (sco : Nat) : Bool :=
  match x.link with
  | none => sco ≤ 1
  | some l => l.scope = sco

/-- What every barrier instruction obeys. -/
def barOk (f : MFmt) : Bool := f.spc = 0 && f.ord = 0 && f.z = 0 && f.sco.toNat ≤ 3

/-- Where a linked record may lie: the own cluster's vault for a compartment, DRAM or any vault for the device, off window and
DC pages (R237). -/
def Target.recordPlace (t : Target) (sco core : Nat) : Bool :=
  match t.loc with
  | .pa a => t.window.isNone && !t.dc && !isDevice a && (sco = 3 || (isVault a && homeOf (a / 64) = clusterOf core))
  | .sp _ _ => false

/-- The checks of BARI in its lane: the configuration and, for a linked barrier, the record, read as a load of its thread
after the thread's own stores (R84, R235, R237, R425). -/
def State.bariCheck (f : MFmt) (s : State) (l : Nat) : Ans (Option Nat) × State :=
  let cfg := ((s.lane l).reg f.rb).toNat
  let b := s.barOf f l
  let stand := s.curStand
  let stages := match s.stands.get? stand with
    | some st => st.stages.length
    | none => 0
  let idle := match s.barrierAt stand b with
    | some x => x.arr = 0 && !s.barrierWaited stand b
    | none => false
  let good := cfg / 2 ^ 20 = 0 && bits cfg 0 8 / 2 ^ stages = 0
    && (bits cfg 0 8 ≠ 0 || (1 ≤ bits cfg 8 12 && bits cfg 8 12 ≤ 2048))
  if f.sco.toNat < 2 then (if idle && good then (.ok none, s) else (.bad (barFlt f.v), s))
  else
    let r := { MFmt.req f f.disp8 (s.lane l) 16 true true 1 false with kind := none }
    let c := (s.drainQ (s.laneKey l)).checkGlobal (s.laneWho l) r
    match c.1 with
    | .bad x => ((Ans.bad x).labelled (s.curSlot.srcLabel [MFmt.addr f]), c.2)
    | .wait n => (.wait n, c.2)
    | .ok t =>
      if !t.recordPlace f.sco.toNat s.cur.core then ((Ans.bad (r.flt 0x05 0)).labelled (s.curSlot.srcLabel [MFmt.addr f]), c.2)
      else
        let n := leNat (c.2.bytesOf t.key t.loc 16)
        let clean := bits n 13 19 = 0 && bits n 45 19 = 0 && n / 2 ^ 65 = 0 && bits n 0 13 ≠ 0
        if idle && good && clean then (.ok (match t.loc with
          | .pa a => some a
          | .sp _ _ => none), c.2)
        else (.bad (barFlt f.v), c.2)

/-- The registers that BARI reads: a linked barrier has a record. -/
def bariSrcs (f : MFmt) : List Src := if 2 ≤ f.sco.toNat then [MFmt.addr f, .v f.rb 1] else [.v f.rb 1]

/-- The encoding and quota faults of BARI. -/
def illBari (f : MFmt) (s : State) : Option Flt :=
  illegal (barOk f && f.d = 0 && (if 2 ≤ f.sco.toNat then MFmt.addrOk f else f.a = 0 && f.dl = 0))
    ((bariSrcs f).any (·.beyond s.quota))

/-- BARI (R235, R237). -/
def execBari (f : MFmt) (s : State) : Host.Outcome State Fault Refusal :=
  .next (s.issue f.gn f.gp (illBari f s) (fun ex =>
    s.onceLane f.gp (bariSrcs f) ex (State.bariCheck f) (fun s l rcd =>
      let cfg := ((s.lane l).reg f.rb).toNat
      let crew := if f.sco = 0 then some (s.crewOf (s.laneKey l)) else none
      let mask := bits cfg 0 8
      let exp := if mask = 0 then bits cfg 8 12 else s.maskedCount s.curStand mask crew
      s.updBarrier s.curStand (s.barOf f l) (fun x =>
        { x with smask := BitVec.ofNat 8 mask, exp := exp, link := rcd.map (fun p => ⟨f.sco.toNat, p, false, false⟩) }))))

/-- The check of an arrival or a wait in a lane: the barrier, or the misuse fault (R234, R235). -/
def State.barCheck (f : MFmt) (arrive : Bool) (s : State) (l : Nat) : Ans Barrier × State :=
  match s.barrierAt s.curStand (s.barOf f l) with
  | some x =>
    if !x.scoped f.sco.toNat then (.bad (barFlt f.v), s)
    else if arrive && x.smask ≠ 0#8 && !x.smask.getLsbD s.curSlot.stage then (.bad (barFlt f.v), s)
    else (.ok x, s)
  | none => (.bad (barFlt f.v), s)

/-- Whether a thread's arrived bit is set. -/
def State.arrived (s : State) (b key : Nat) : Bool :=
  match s.barrierAt s.curStand b with
  | some x => x.arrivedBits.contains key
  | none => false

/-- The parity of a barrier now. -/
def State.barPhase (s : State) (b : Nat) : Bool :=
  match s.barrierAt s.curStand b with
  | some x => x.ph
  | none => false

/-- One arrival (R236): the thread's stores perform, an arrival at a stand barrier ends its DC quanta, and the phase is
tested. -/
def State.arriveAt (s : State) (b l : Nat) : State :=
  let k := s.laneKey l
  let s1 := s.drainQ k
  let s2 := if b < 16 && s1.dcStage s.curStand s.curSlot.stage then s1.updThread k Thread.endEpoch else s1
  (s2.updBarrier s.curStand b (fun x => { x with arr := x.arr + 1, arrivedBits := insertNat k x.arrivedBits })).testBarrier s.curStand b

/-- The encoding and quota faults of BARA. -/
def illBara (f : MFmt) (s : State) : Option Flt :=
  illegal (barOk f && f.a = 0 && f.b = 0 && f.dl = 0) ((Dst.v f.rd 1).beyond s.quota)

/-- The encoding and quota faults of BARW. -/
def illBarw (f : MFmt) (s : State) : Option Flt :=
  illegal (barOk f && f.a = 0 && f.d = 0 && f.dl = 0) ((Src.v f.rb 1).beyond s.quota)

/-- The encoding fault of BARS. -/
def illBars (f : MFmt) : Option Flt := illegal (barOk f && f.a = 0 && f.d = 0 && f.b = 0 && f.dl = 0) false

/-- BARA (R236): a lane whose arrived bit is set waits for the phase to complete and then issues again. -/
def execBara (f : MFmt) (s : State) : Host.Outcome State Fault Refusal :=
  let dst := Dst.v f.rd 1
  .next (s.issue f.gn f.gp (illBara f s) (fun ex =>
    s.eachLaneStay ex (State.afterRaise f.gp [] (State.barCheck f true)) (fun s goods =>
      let r := goods.foldl (fun (x : List (Nat × List Out) × List Nat × State) p =>
        let s := x.2.2
        let b := s.barOf f p.1
        if s.arrived b (s.laneKey p.1) then (x.1, x.2.1 ++ [p.1], s.updLane p.1 (fun t => t.sleep (.arrive b)))
        else (x.1 ++ [(p.1, [Out.val (if s.barPhase b then 1 else 0)])], x.2.1, s.arriveAt b p.1)) ([], [], s)
      let ls := r.1.map Prod.fst
      (r.2.2.commit ls [dst] (r.2.2.labelL f.gp.toNat ls 0 0) r.1, r.2.1))))

/-- BARW (R236). -/
def execBarw (f : MFmt) (s : State) : Host.Outcome State Fault Refusal :=
  let b := Src.v f.rb 1
  .next (s.issue f.gn f.gp (illBarw f s) (fun ex =>
    s.eachLaneStay ex (State.afterRaise f.gp [b] (State.barCheck f false)) (fun s goods =>
      let stay := goods.filter (fun p => p.2.ph = ((s.lane p.1).reg f.rb).getLsbD 0)
      (stay.foldl (fun s p => s.updLane p.1 (fun t => t.sleep (.barrier (s.barOf f p.1) p.2.ph s.cur.nextPC))) s,
        stay.map Prod.fst))))

/-- BARS (R236): an arrival, then a wait on its own parity; the last arrival releases its own lane as well. -/
def execBars (f : MFmt) (s : State) : Host.Outcome State Fault Refusal :=
  .next (s.issue f.gn f.gp (illBars f) (fun ex =>
    s.eachLaneStay ex (State.afterRaise f.gp [] (State.barCheck f true)) (fun s goods =>
      (goods.foldl (fun s p =>
        let b := s.barOf f p.1
        if s.arrived b (s.laneKey p.1) then s.updLane p.1 (fun t => t.sleep (.arrive b))
        else (s.updLane p.1 (fun t => t.sleep (.barrier b (s.barPhase b) s.cur.nextPC))).arriveAt b p.1) s,
        goods.map Prod.fst))))

/-- LINKED_ARRIVAL (R237): the stand arrives at a linked barrier's record, or sees its phase toggle. -/
def execLinkedArrival (stand bar : Nat) (s : State) : Host.Outcome State Fault Refusal := .next (s.linkStep stand bar)

/-! ### Transaction barriers (R238) -/

/-- A transaction barrier's record. -/
structure TBar where
  raw : Nat
  expa : Nat
  arr : Nat
  ph : Bool
  byt : Nat
deriving DecidableEq, Repr

/-- The record as its 128 bits. -/
def tbarOf (n : Nat) : TBar := ⟨n, bits n 0 12, bits n 32 12, bit n 63, bits n 64 32⟩

/-- The bits of a record with new ARR, PH and BYT; other bits stay. -/
def TBar.bits (t : TBar) : Nat :=
  t.raw - Machine.bits t.raw 32 12 * 2 ^ 32 - Machine.bits t.raw 63 33 * 2 ^ 63
    + t.arr % 2 ^ 12 * 2 ^ 32 + (if t.ph then 2 ^ 63 else 0) + t.byt % 2 ^ 32 * 2 ^ 64

/-- The completion test: ARR = EXPA and BYT = 0 completes the phase (R238). -/
def TBar.settle (t : TBar) : TBar := if t.arr = t.expa && t.byt = 0 then { t with arr := 0, ph := !t.ph } else t

/-- Read a record. -/
def State.tbar (s : State) (stand off : Nat) : TBar := tbarOf (leNat (s.bytesOf 0 (.sp stand off) 16))

/-- Threads that wait on a record whose phase has completed go on. -/
def State.tbarWake (s : State) (stand off : Nat) : State :=
  s.mapStand stand (fun _ t => match t.wait with
    | .tbar o _ dest => if o = off then t.wakeTo dest else t
    | .tbarArrive o => if o = off then t.wake else t
    | _ => t)

/-- Write a record `u` in the place of `t`; where its phase has toggled, its waiters go on. -/
def State.storeTbar (s : State) (stand off : Nat) (t u : TBar) (lab : Label) : State :=
  let s1 := s.perform none 0 (.sp stand off) (leBytes 16 u.bits) lab
  if u.ph ≠ t.ph then s1.tbarWake stand off else s1

/-- Write a record after its completion test. -/
def State.putTbar (s : State) (stand off : Nat) (t : TBar) (lab : Label) : State := s.storeTbar stand off t t.settle lab

/-- BYT falls by one for each of `n` bytes; where it reaches zero on the way with every arrival there, the phase completes at
that byte, and the bytes after it count in the next phase (R238, R276). -/
def TBar.credit (t : TBar) (n : Nat) : TBar :=
  let u := { t with byt := (t.byt + 2 ^ 32 - n % 2 ^ 32) % 2 ^ 32 }
  if t.arr = t.expa && 0 < t.byt && t.byt ≤ n then { u with arr := 0, ph := !u.ph } else u

/-- A copy credits bytes (R97, R238, R276). -/
def State.tbarCredit (s : State) (stand off n : Nat) (lab : Label) : State :=
  let t := s.tbar stand off
  s.storeTbar stand off t (t.credit n) lab

/-- A request for a record of a lane. -/
def tbarReq (f : MFmt) (t : Thread) (write : Bool) : Req :=
  ⟨1, t.regNat f.ra 1, f.disp8, 16, 16, true, write, some (if write then 2 else 0), true, true, false, false⟩

/-- Whether a thread of a stand waits on a record. -/
def State.tbarWaited (s : State) (stand off : Nat) : Bool :=
  s.threads.any (fun p => p.2.stand = stand && (match p.2.wait with
    | .tbar o _ _ => o = off
    | .tbarArrive o => o = off
    | _ => false))

/-- The offset of a target in the scratchpad. -/
def Loc.off (l : Loc) : Nat :=
  match l with
  | .sp _ o => o
  | .pa a => a

/-- The encoding and quota faults of TBARI. -/
def illTbari (f : MFmt) (s : State) : Option Flt :=
  illegal (f.sp = 1 && f.d = 0 && f.ord = 0 && f.sco = 0 && f.z = 0 && f.var = 0)
    ((Src.v f.ra 1).beyond s.quota || (Src.v f.rb 1).beyond s.quota)

/-- The check of TBARI in its lane: the record, as its thread's own stores leave it, that it is idle with its reserved bits
zero, and the configuration (R84, R238, R430). -/
def State.tbariCheck (f : MFmt) (s : State) (l : Nat) : Ans Nat × State :=
  let c := (s.drainQ (s.laneKey l)).laneCheck (fun t => tbarReq f t true) [.v f.ra 1] l
  match c.1 with
  | .ok tg =>
    let o := tg.loc.off
    let t := c.2.tbar s.curStand o
    let cfg := ((s.lane l).reg f.rb).toNat
    let rsv := bits t.raw 12 20 ≠ 0 || bits t.raw 44 19 ≠ 0 || bits t.raw 96 32 ≠ 0
    if rsv || t.arr ≠ 0 || t.byt ≠ 0 || c.2.tbarWaited s.curStand o || cfg % 2 ^ 12 = 0 || cfg / 2 ^ 12 ≠ 0 then
      (.bad (barFlt (bits o 4 16)), c.2)
    else (.ok o, c.2)
  | .bad x => (.bad x, c.2)
  | .wait n => (.wait n, c.2)

/-- The record that TBARI writes: EXPA, with ARR, PH and BYT zero and the other bits as they were (R238). -/
def TBar.init (t : TBar) (expa : Nat) : TBar :=
  { tbarOf (t.raw - Machine.bits t.raw 0 12 + expa % 2 ^ 12) with arr := 0, ph := false, byt := 0 }

/-- TBARI (R238). -/
def execTbari (f : MFmt) (s : State) : Host.Outcome State Fault Refusal :=
  .next (s.issue f.gn f.gp (illTbari f s) (fun ex =>
    s.onceLane f.gp [.v f.ra 1, .v f.rb 1] ex (State.tbariCheck f)
      (fun s l o => s.perform none 0 (.sp s.curStand o)
        (leBytes 16 ((s.tbar s.curStand o).init ((s.lane l).reg f.rb).toNat).bits) (s.writeLabel f.gp [.v f.ra 1, .v f.rb 1] l))))

/-- One lane of TBARE: its thread's own stores perform, then its result, the label of the record, and whether it stays (R84,
R238). -/
def State.tbareLane (f : MFmt) (srcs : List Src) (s0 : State) (l : Nat) (tg : Target) : Option Out × Label × Bool × State :=
  let s := s0.drainQ (s0.laneKey l)
  let o := tg.loc.off
  let stand := s.curStand
  let t := s.tbar stand o
  let m := s.labelOf 0 0 tg.loc
  let b := (s.lane l).reg f.rb
  if f.v = 3 then (some (.val (if t.ph = b.getLsbD 0 then 0 else 1)), m, false, s)
  else if f.v = 2 then
    (if t.ph = b.getLsbD 0 then (none, 0, true, s.updLane l (fun th => th.sleep (.tbar o t.ph s.cur.nextPC))) else (none, 0, false, s))
  else if t.expa < t.arr + 1 then (none, 0, true, s.updLane l (fun th => th.sleep (.tbarArrive o)))
  else
    let byt := if f.v = 1 then (t.byt + b.toNat) % 2 ^ 32 else t.byt
    (some (.val (if t.ph then 1 else 0)), m, false,
      s.putTbar stand o { t with arr := t.arr + 1, byt := byt } (s.writeLabel f.gp srcs l))

/-- The registers that TBARE reads. -/
def tbareSrcs (f : MFmt) : List Src := if f.v = 0 then [.v f.ra 1] else [.v f.ra 1, .v f.rb 1]

/-- The destination of TBARE; TBARE.WAIT has none. -/
def tbareDst (f : MFmt) : List Dst := if f.v = 2 then [] else [.v f.rd 1]

/-- The encoding and quota faults of TBARE. -/
def illTbare (f : MFmt) (s : State) : Option Flt :=
  illegal (f.sp = 1 && f.ord = 0 && f.sco = 0 && f.z = 0 && f.v ≤ 3 && (f.v ≠ 2 || f.d = 0) && (f.v ≠ 0 || f.b = 0))
    ((tbareSrcs f).any (·.beyond s.quota) || (tbareDst f).any (·.beyond s.quota))

/-- The check of TBARE in a lane: its raise and the record. -/
def State.tbareCheck (f : MFmt) : State → Nat → Ans Target × State :=
  State.afterRaise f.gp (tbareSrcs f) (State.laneCheck (fun t => tbarReq f t (f.v ≤ 1)) [.v f.ra 1])

/-- TBARE (R238). -/
def execTbare (f : MFmt) (s : State) : Host.Outcome State Fault Refusal :=
  let srcs := tbareSrcs f
  let dsts := tbareDst f
  .next (s.issue f.gn f.gp (illTbare f s) (fun ex =>
    s.eachLaneStay ex (State.tbareCheck f)
      (fun s goods =>
        let r := goods.foldl (fun (x : List (Nat × List Out) × Label × List Nat × State) p =>
          let q := State.tbareLane f srcs x.2.2.2 p.1 p.2
          (x.1 ++ (match q.1 with
            | some v => [(p.1, [v])]
            | none => []), x.2.1 ||| q.2.1, if q.2.2.1 then x.2.2.1 ++ [p.1] else x.2.2.1, q.2.2.2)) ([], 0, [], s)
        let ls := r.1.map Prod.fst
        (r.2.2.2.commit ls dsts (r.2.2.2.labelL f.gp.toNat ls (s.curSlot.srcLabel srcs) r.2.1) r.1, r.2.2.1))))

end Sys2Proof.Machine
end

