-- ==== Sys2Proof/Machine/Control.lean ====
section
/-!
DEFINITION. Control transfers, regrouping, exit, join points, election, yield and CHK: opcodes 0x000 to 0x00D (R149 to R159,
R34 to R36, R39, R324, R422).
-/

namespace Sys2Proof.Machine

/-- The encoding fault of NOP, EXIT and YIELD: every field but the guard and LA is zero (R155). -/
def illBare (f : GFmt) : Option Flt := illegal (f.bare false false false false false false) false

/-- NOP (R155): no effect. -/
def execNop (f : GFmt) (s : State) : Host.Outcome State Fault Refusal :=
  .next (s.issue f.gn f.gp (illBare f) (fun _ => s.advance s.cur.lanes))

/-! ### Transfers (R149 to R153, R324) -/

/-- The target of a direct transfer: header + 8 × sext(IMM32) (R149). -/
def State.directTarget (s : State) (imm : Nat) : Int := (s.cur.hdr : Int) + 8 * sext imm 32

/-- The address of the next clause, which a call writes as its link (R150). -/
def State.linkValue (s : State) : Nat := s.cur.next

/-- The address fault of a target out of range, before any transfer (R149, R152). -/
def targetFlt (t : Int) : Option Flt :=
  if 0 ≤ t && t < (2 ^ 56 : Nat) then none else some (Flt.at 0x05 0 (BitVec.ofInt 64 t))

/-- The flow check of a lane (R324): with FCHK = 1 and GP ≠ 7, the labels that decide the transfer lie within its flow. -/
def State.flowFlt (s : State) (gp : BitVec 3) (ind : Label) (l : Nat) : Option Flt :=
  let v := s.vfOf s.curStand
  let g := s.curSlot.predLabel gp.toNat ||| ind
  if v < 1024 && s.vfFchk v && gp ≠ 7 && g &&& ~~~(s.lane l).flow ≠ 0 then some (.plain 0x13 0) else none

/-- A lane takes a transfer: its carried label grows and its PC is the target's index 0 (R107, R153). -/
def State.takeTransfer (s : State) (l t : Nat) (lab : Label) : State :=
  s.updLane l (fun th => { th with carried := th.carried ||| lab, pc := ⟨t, 0⟩ })

/-- The check of a transfer in a lane: its raise, a target that faults, and the flow check (R149, R152, R324). -/
def State.transferCheck (gp : BitVec 3) (srcs : List Src) (target : Thread → Int × Option Flt) : State → Nat → Ans Nat × State :=
  State.afterRaise gp srcs (fun s l =>
    match firstFault (target (s.lane l)).2 (s.flowFlt gp (s.curSlot.srcLabel srcs) l) with
    | some f => (.bad f, s)
    | none => (.ok (target (s.lane l)).1.toNat, s))

/-- A transfer issues: each lane has a target or a fault; lanes that take it write the link where there is one (R148 to
R153). `ind` is the label of the target register. -/
def State.runTransfer (s : State) (gn : BitVec 1) (gp : BitVec 3) (bad : Option Flt) (srcs : List Src) (link : Option Nat)
    (target : Thread → Int × Option Flt) : State :=
  s.issue gn gp bad (fun ex =>
    let ind := s.curSlot.srcLabel srcs
    s.eachLaneStay ex (State.transferCheck gp srcs target)
      (fun s goods =>
        let ls := goods.map Prod.fst
        let s1 := match link with
          | some d => s.commit ls [.v d 2] (s.labelL gp.toNat ls ind 0) (ls.map (fun l => (l, [Out.val s.linkValue])))
          | none => s
        let lab := s.curSlot.predLabel gp.toNat ||| ind
        (goods.foldl (fun s p => s.takeTransfer p.1 p.2 lab) s1, ls)))

/-- The encoding fault of BRA. -/
def illBra (f : IFmt) : Option Flt := illegal (f.x = 0 && f.d = 0 && f.sel = 0) false

/-- The encoding and quota faults of CALL. -/
def illCall (f : IFmt) (s : State) : Option Flt :=
  illegal (f.x = 0 && aligned f.d.toNat 2 && f.sel = 0) (overSpan s.quota f.d.toNat 2)

/-- BRA (R149). -/
def execBra (f : IFmt) (s : State) : Host.Outcome State Fault Refusal :=
  let t := s.directTarget f.imm.toNat
  .next (s.runTransfer f.gn f.gp (illBra f) [] none (fun _ => (t, targetFlt t)))

/-- CALL (R150). -/
def execCall (f : IFmt) (s : State) : Host.Outcome State Fault Refusal :=
  let t := s.directTarget f.imm.toNat
  .next (s.runTransfer f.gn f.gp (illCall f s) [] (some f.d.toNat) (fun _ => (t, targetFlt t)))

/-- The target of an indirect transfer in a lane, or its fault: an address outside 56 bits, then misalignment (R152, R422). -/
def indirectTarget (a : Nat) (t : Thread) : Int × Option Flt :=
  let n := t.regNat a 2
  (n, if 2 ^ 56 ≤ n then some (Flt.at 0x05 0 (BitVec.ofNat 64 n))
      else if n % 8 ≠ 0 then some (Flt.at 0x06 8 (BitVec.ofNat 64 n)) else none)

/-- The encoding and quota faults of BRX, CALLX and RET; `link` says that there is a link. -/
def illIndirect (f : GFmt) (link : Bool) (s : State) : Option Flt :=
  illegal (f.bare link true false false false false && aligned f.ra 2 && aligned f.rd 2)
    (overSpan s.quota f.ra 2 || (link && overSpan s.quota f.rd 2))

/-- An indirect transfer issues (R152). -/
def State.runIndirect (s : State) (f : GFmt) (link : Bool) : State :=
  s.runTransfer f.gn f.gp (illIndirect f link s) [.v f.ra 2] (if link then some f.rd else none) (indirectTarget f.ra)

/-- BRX (R152). -/
def execBrx (f : GFmt) (s : State) : Host.Outcome State Fault Refusal := .next (s.runIndirect f false)
/-- CALLX (R152). -/
def execCallx (f : GFmt) (s : State) : Host.Outcome State Fault Refusal := .next (s.runIndirect f true)
/-- RET (R152): exactly the effect of BRX. -/
def execRet (f : GFmt) (s : State) : Host.Outcome State Fault Refusal := .next (s.runIndirect f false)

/-! ### RGRP (R34 to R36, R151, R153) -/

/-- Participants transfer or fall through as an ordinary divergent branch (R34 steps 1 and 5). -/
def State.divergentBranch (s : State) (taken others : List Nat) (t : Nat) (lab : Label) : State :=
  (taken.foldl (fun s l => s.takeTransfer l t lab) s).sendLanes others ⟨s.cur.next, 0⟩

/-- The regroup of clean participants: which side departs, and whether the yard holds its records (R34). -/
def State.regroup (s : State) (taken others : List Nat) (t n : Nat) (lab : Label) : State :=
  if taken.isEmpty || others.isEmpty then s.divergentBranch taken others t lab
  else
    let departs := if taken.length ≤ others.length then taken else others
    if !s.yardRoom n departs.length then s.divergentBranch taken others t lab
    else if taken.length ≤ others.length then
      taken.foldl (fun s l => s.toYard l n ⟨t, 0⟩ false lab) (s.divergentBranch [] others t lab)
    else
      let pc : PC := ⟨s.cur.next, 0⟩
      others.foldl (fun s l => s.toYard l n pc false lab) (s.divergentBranch taken [] t lab)

/-- The encoding and quota faults of RGRP. -/
def illRgrp (f : IFmt) (s : State) : Option Flt :=
  illegal (f.x = 0 && bits f.sel.toNat 3 3 = 0) (s.quota < f.d.toNat + 1)

/-- The check of RGRP in a lane: the raise of its guard and of predicate `c`, and the target where it is taken. -/
def State.rgrpCheck (f : IFmt) (c : Nat) : State → Nat → Ans Bool × State :=
  State.afterRaise f.gp [.p c] (fun s l => match targetFlt (s.directTarget f.imm.toNat) with
    | some x => if (s.lane l).pred c then (.bad x, s) else (.ok false, s)
    | none => (.ok ((s.lane l).pred c), s))

/-- RGRP (R34, R151). -/
def execRgrp (f : IFmt) (s : State) : Host.Outcome State Fault Refusal :=
  let c := bits f.sel.toNat 0 3
  let n := f.d.toNat + 1
  let t := s.directTarget f.imm.toNat
  let lab := s.curSlot.predLabel f.gp.toNat ||| s.curSlot.predLabel c
  .next (s.issue f.gn f.gp (illRgrp f s) (fun ex =>
    s.eachLaneStay ex (State.rgrpCheck f c)
      (fun s goods =>
        let taken := (goods.filter Prod.snd).map Prod.fst
        let others := (goods.filter (fun p => !p.2)).map Prod.fst
        (s.regroup taken others t.toNat n lab, goods.map Prod.fst))))

/-! ### EXIT (R154) -/

/-- Whether a thread has an operation outstanding on some token. -/
def Thread.outstanding (t : Thread) : Bool := t.sbs.any (fun p => p.2.count ≠ 0)

/-- EXIT (R154): the stores of each executing lane's thread perform; a thread with a token that counts becomes Waiting under
reason 1 and issues EXIT again when its tokens are down, and the others exit (R184). -/
def execExit (f : GFmt) (s : State) : Host.Outcome State Fault Refusal :=
  .next (s.issue f.gn f.gp (illBare f) (fun ex =>
    s.eachLaneStay ex (State.raiseOnly f.gp [])
      (fun s goods =>
        let ls := goods.map Prod.fst
        let s1 := s.drainLanes ls
        let late := ls.filter (fun l => (s1.lane l).outstanding)
        let keys := (ls.filter (fun l => !late.contains l)).map s1.laneKey
        (keys.foldl State.exitThread (late.foldl (fun s l => s.updLane l (fun t => t.sleep .exit)) s1), ls))))

/-! ### Join points (R39, R155, R156) -/

/-- The encoding fault of JSET. -/
def illJset (f : GFmt) : Option Flt := illegal (f.bare true true false false false false && f.rd < 16 && isPred f.ra) false

/-- The encoding fault of JWAIT and JCLR. -/
def illJoin (f : GFmt) : Option Flt := illegal (f.bare true false false false false false && f.rd < 16) false

/-- JSET (R39, R156): the executing lanes' threads are the set, those that raise among them (R110); the poison of Pc is ignored
(R412). -/
def execJset (f : GFmt) (s : State) : Host.Outcome State Fault Refusal :=
  .next (s.issue f.gn f.gp (illJset f) (fun ex =>
    s.eachLane ex (State.raiseOnly f.gp []) (fun s goods =>
      let ls := goods.map Prod.fst
      let point : JoinPoint := ⟨sortNat (ex.map s.laneKey), s.curSlot.predLabel f.ra⟩
      ls.foldl (fun s l => s.updLane l (fun t => { t with joins := t.joins.insert f.rd point })) s)))

/-- Whether a thread's join point is pending. -/
def Thread.joinPending (t : Thread) (k : Nat) : Bool := (t.joins.get? k).isSome

/-- JWAIT (R39): every executing lane with the point pending waits and arrives; those whose set is then empty go on. -/
def execJwait (f : GFmt) (s : State) : Host.Outcome State Fault Refusal :=
  .next (s.issue f.gn f.gp (illJoin f) (fun ex =>
    s.eachLaneStay ex (State.raiseOnly f.gp []) (fun s goods =>
      let ls := (goods.map Prod.fst).filter (fun l => (s.lane l).joinPending f.rd)
      let pc := s.cur.nextPC
      let s1 := ls.foldl (fun s l => s.updLane l (fun t => t.sleep (.join f.rd pc))) s
      (ls.foldl (fun s l => s.arriveJoin s.curStand (s.laneKey l) f.rd) s1, ls))))

/-- JCLR (R39): a pending point becomes idle, and the thread has arrived for the others. -/
def execJclr (f : GFmt) (s : State) : Host.Outcome State Fault Refusal :=
  .next (s.issue f.gn f.gp (illJoin f) (fun ex =>
    s.eachLane ex (State.raiseOnly f.gp []) (fun s goods =>
      let ls := (goods.map Prod.fst).filter (fun l => (s.lane l).joinPending f.rd)
      ls.foldl (fun s l => (s.updLane l (fun t => { t with joins := t.joins.erase f.rd })).arriveJoin s.curStand (s.laneKey l) f.rd) s)))

/-! ### ELECT, YIELD, CHK (R157 to R159) -/

/-- The encoding fault of ELECT. -/
def illElect (f : GFmt) : Option Flt := illegal (f.bare true false false false false false && isPred f.rd) false

/-- ELECT (R157): a poisoned guard of any participant poisons every result with the lowest such lane's token (R412). -/
def execElect (f : GFmt) (s : State) : Host.Outcome State Fault Refusal :=
  .next (s.issue f.gn f.gp (illElect f) (fun ex =>
    let hit := ex.findSome? (fun l => ((s.lane l).predTok? f.gp.toNat).map (fun k => (l, k)))
    let outs := ex.map (fun l => (l, [match hit with
      | some (j, k) => Out.tok k (s.laneKey j)
      | none => Out.val (if ex.head? = some l then 1 else 0)]))
    (s.commit ex [.p f.rd] (s.labelL f.gp.toNat ex 0 0) outs).advance s.cur.lanes))

/-- YIELD (R158): its group is held at the next instruction until the slot's other groups have had their turn. -/
def execYield (f : GFmt) (s : State) : Host.Outcome State Fault Refusal :=
  .next (s.issue f.gn f.gp (illBare f) (fun ex =>
    let clean := ex.any (fun l => !(s.lane l).predPoisoned f.gp.toNat)
    let s1 := s.advance s.cur.lanes
    if clean then s1.updSlot s.cur.slotKey (fun sl => { sl with yielded := some (s.cur.nextPC, s.tick) }) else s1))

/-- What CHK tests: a predicate or a register. -/
def chkSrc (f : GFmt) : Src := if f.s 0 1 = 1 then Src.p f.ra else Src.v f.ra 1

/-- The encoding and quota faults of CHK. -/
def illChk (f : GFmt) (s : State) : Option Flt :=
  illegal (f.bare false true false false true false && f.s 1 4 = 0 && (!(f.s 0 1 = 1) || isPred f.ra)) ((chkSrc f).beyond s.quota)

/-- CHK (R159). -/
def execChk (f : GFmt) (s : State) : Host.Outcome State Fault Refusal :=
  .next (s.issue f.gn f.gp (illChk f s) (fun ex => s.eachLane ex (State.raiseOnly f.gp [chkSrc f]) (fun s _ => s)))

end Sys2Proof.Machine
end

