-- ==== Sys2Proof/Machine/System.lean ====
section
/-!
DEFINITION. TRAP, IRET, TRIG, SRD, SWR, DBGBRK, MARK and HALT (R160 to R163, R166 to R170, R422). LAUNCH and JOIN stand with
the distributor.
-/

namespace Sys2Proof

/-- D as a number. -/
def SFmt.rd (f : SFmt) : Nat := f.d.toNat
/-- A as a number. -/
def SFmt.ra (f : SFmt) : Nat := f.a.toNat
/-- IMM16 as a number. -/
def SFmt.n (f : SFmt) : Nat := f.imm.toNat
/-- SEL10 bits. -/
def SFmt.s (f : SFmt) (lo n : Nat) : Nat := Machine.bits f.sel.toNat lo n

/-- TE, TOK and the fields not named are zero (R160): `kd`, `ka`, `ki`, `ks` name D, A, IMM16 and SEL10. LA is legal. -/
def SFmt.bare (f : SFmt) (kd ka ki ks : Bool) : Bool :=
  f.te = 0 && f.tok = 0 && (kd || f.d = 0) && (ka || f.a = 0) && (ki || f.imm = 0) && (ks || f.sel = 0)

end Sys2Proof

namespace Sys2Proof.Machine

/-- The encoding fault of TRAP and DBGBRK. -/
def illCode (f : SFmt) : Option Flt := illegal (f.bare false false true false && f.n < 256) false

/-- The privilege, encoding and quota faults of IRET. -/
def illIret (f : SFmt) (s : State) : Option Flt :=
  firstFault s.privileged
    (illegal (f.bare true true false true && f.s 1 9 = 0) ((Src.v f.ra 1).beyond s.quota || (Dst.v f.rd 1).beyond s.quota))

/-- The encoding fault of TRIG. -/
def illTrig (f : SFmt) : Option Flt := illegal (f.bare false false false false) false

/-- TRAP (R162): every executing lane faults with the software-trap cause. -/
def execTrap (f : SFmt) (s : State) : Host.Outcome State Fault Refusal :=
  .next (s.issue f.gn f.gp (illCode f) (fun ex =>
    s.eachLane ex (State.afterRaise f.gp [] (fun s _ => ((.bad (.plain 0x17 f.n) : Ans Unit), s))) (fun s _ => s)))

/-- One lane of IRET of a handler of function `v`: the sub-warp that a handle names resumes where it belongs to the handler's
partition, or nothing does; the answer is D (R163). -/
def State.iretOne (s : State) (skip : Bool) (v : Nat) (h : Word) : Nat × State :=
  match s.findSub h with
  | some x => if s.vfPart (s.vfOf x.stand) = s.vfPart v then (0, s.resumeSub x skip) else (1, s)
  | none => (1, s)

/-- IRET (R163): lanes act in ascending order, after their threads' stores. -/
def execIret (f : SFmt) (s : State) : Host.Outcome State Fault Refusal :=
  let a := Src.v f.ra 1
  let d := Dst.v f.rd 1
  .next (s.issue f.gn f.gp (illIret f s) (fun ex =>
    s.eachLane ex (State.raiseOnly f.gp [a]) (fun s goods =>
      let ls := goods.map Prod.fst
      let v := s.vfOf s.curStand
      let r := ls.foldl (fun (x : List (Nat × List Out) × State) l =>
        let q := x.2.iretOne (f.s 0 1 = 1) v ((s.lane l).reg f.ra)
        (x.1 ++ [(l, [Out.val q.1])], q.2)) ([], s.drainLanes ls)
      r.2.commit ls [d] (s.labelL f.gp.toNat ls (s.curSlot.srcLabel [a]) 0) r.1)))

/-- TRIG (R166, R50): the stand has triggered; a handler stand has no grid to trigger. -/
def execTrig (f : SFmt) (s : State) : Host.Outcome State Fault Refusal :=
  .next (s.issue f.gn f.gp (illTrig f) (fun ex =>
    s.eachLane ex (State.raiseOnly f.gp []) (fun s goods =>
      let s1 := s.drainLanes (goods.map Prod.fst)
      if isHandler s.curStand || goods.isEmpty then s1 else s1.updStand s.curStand (fun st => { st with triggered := true }))))

/-! ### Special registers (R123, R167) -/

/-- Words of the special register that a number names for the issuing core and level; 0 for a number that names none (R123). -/
def State.specialWords (s : State) (n : Nat) : Nat :=
  if n < 0x100 then userWidth n
  else if n < 0x200 then (if isHandler s.curStand && supExists n then (if supWord n then 1 else 2) else 0)
  else if s.onMgmt && 0x8000 ≤ n && n ≤ 0x8003 then (if n = 0x8003 then 1 else 2)
  else 0

/-- A management register (R383). -/
def State.mgmtRead (s : State) (n : Nat) : Nat :=
  match n with
  | 0x8000 => s.mgmt.mstate.toNat
  | 0x8001 => s.mgmt.mwake.toNat
  | 0x8002 => s.mgmt.mtimer.toNat
  | _ => s.measures.length

/-- What SRD reads in a lane: value and label beside L (R167). -/
def State.specialRead (s : State) (n l : Nat) : Nat × Label :=
  if n < 0x100 then (s.userReg n l, 0)
  else if n < 0x200 then s.supRead (s.vfOf s.curStand) (s.lane l).sel n
  else (s.mgmtRead n, 0)

/-- The encoding and quota faults of SRD: a number that names no register is illegal (R123). -/
def illSrd (f : SFmt) (s : State) : Option Flt :=
  let n := s.specialWords f.n
  illegal (f.bare true false true false && n ≠ 0 && aligned f.rd (max n 1)) ((Dst.v f.rd n).beyond s.quota)

/-- SRD (R167): no source is read, so only the lane's own guard can poison the result (R412). -/
def execSrd (f : SFmt) (s : State) : Host.Outcome State Fault Refusal :=
  let d := Dst.v f.rd (s.specialWords f.n)
  .next (s.issue f.gn f.gp (illSrd f s) (fun ex =>
    let outs := ex.map (fun l => (l, [match (s.lane l).predTok? f.gp.toNat with
      | some k => Out.tok k (s.laneKey l)
      | none => Out.val (s.specialRead f.n l).1]))
    let m := Label.union (ex.map (fun l => (s.specialRead f.n l).2))
    (s.commit ex [d] (s.labelL f.gp.toNat ex 0 m) outs).advance s.cur.lanes))

/-- Whether SWR may write a number (R123). -/
def swrAllowed (n : Nat) : Bool :=
  if n < 0x100 then n = 0x0A else if n < 0x200 then !supReadOnly n else n ≠ 0x8003

/-- Set %rmode of the issuing stage (R141). -/
def State.setRmode (s : State) (v : Nat) : State :=
  let x := BitVec.ofNat 32 (v % 32)
  if s.onMgmt then { s with mgmt := { s.mgmt with rmode := x } }
  else s.updStand s.curStand (fun st => { st with rmode := st.rmode.insert s.curSlot.stage x })

/-- SWR to a supervisor register: a selection is each handler thread's own, and each lane's %pres is a resolution of its own
(R405); every other write is the highest lane's, and goes to the register's map as the next step (R167, R396). -/
def State.swrSup (s : State) (n : Nat) (vals : List (Nat × Nat)) (lab : Label) : State :=
  let write (p : Nat × Nat) : RegWrite :=
    ⟨supAt (s.vfOf s.curStand) n, BitVec.ofNat 64 p.2, .thread (s.laneKey p.1), lab⟩
  if n = 0x103 then vals.foldl (fun s p => s.updLane p.1 (fun t => { t with psel := BitVec.ofNat 32 p.2 })) s
  else if n = 0x106 then vals.foldl (fun s p => s.updLane p.1 (fun t => { t with plane := BitVec.ofNat 32 (p.2 % 32) })) s
  else if n = 0x10F then vals.foldl (fun s p => s.updLane p.1 (fun t => { t with preg := BitVec.ofNat 32 (p.2 % 512) })) s
  else if n = 0x111 then s.postWrites (vals.map write)
  else s.postWrites (vals.getLast?.map write).toList

/-- SWR to a management register (R383). -/
def State.swrMgmt (s : State) (n v : Nat) : State :=
  match n with
  | 0x8000 => s.postWrite ⟨mgmtRegAt 0x8000, BitVec.ofNat 64 v, .mgmt, 0⟩
  | 0x8001 => { s with mgmt := { s.mgmt with mwake := BitVec.ofNat 64 (v % 8) } }
  | 0x8002 => { s with mgmt := { s.mgmt with mtimer := BitVec.ofNat 64 v } }
  | _ => s

/-- The lanes of SWR that do not raise, with the value that each writes. -/
def State.swrVals (s : State) (f : SFmt) (ex : List Nat) : List (Nat × Nat) :=
  let n := s.specialWords f.n
  (ex.filter (fun l => (s.raiseOf f.gp [.v f.ra n] l).isNone)).map (fun l => (l, (s.lane l).regNat f.ra n))

/-- Whether SWR to %rmode would leave a DRM that %rmode does not take: the value that would stand is the highest lane's
(R141, R422). -/
def State.badDrm (s : State) (f : SFmt) (ex : List Nat) : Bool :=
  f.n = 0x0A && (match (s.swrVals f ex).getLast? with
    | some (_, v) => v % 8 = 0 || v % 8 = 7
    | none => false)

/-- The encoding and quota faults of SWR: a number that names no writable register is illegal, and so, in every executing
lane, is a DRM that %rmode does not take (R123, R167, R422). -/
def illSwr (f : SFmt) (s : State) : Option Flt :=
  let n := s.specialWords f.n
  illegal (f.bare false true true false && n ≠ 0 && swrAllowed f.n && aligned f.ra (max n 1)
    && !s.badDrm f (s.execLanes f.gn f.gp)) ((Src.v f.ra n).beyond s.quota)

/-- SWR (R167, R141). -/
def execSwr (f : SFmt) (s : State) : Host.Outcome State Fault Refusal :=
  let a := Src.v f.ra (s.specialWords f.n)
  .next (s.issue f.gn f.gp (illSwr f s) (fun ex =>
    let vals := s.swrVals f ex
    s.eachLane ex (State.raiseOnly f.gp [a])
      (fun s goods =>
        let ls := goods.map Prod.fst
        let lab := s.labelL f.gp.toNat ls (s.curSlot.srcLabel [a]) 0
        let s1 := s.drainLanes ls
        match vals.getLast? with
        | none => s
        | some (_, v) =>
          if f.n = 0x0A then s1.setRmode v
          else if f.n < 0x200 then s1.swrSup f.n vals lab
          else s1.swrMgmt f.n v)))

/-! ### DBGBRK, MARK, HALT (R168 to R170) -/

/-- DBGBRK (R168): stops the quadrant when its debug unit is armed; the thread resumes after it. -/
def execDbgbrk (f : SFmt) (s : State) : Host.Outcome State Fault Refusal :=
  .next (s.issue f.gn f.gp (illCode f) (fun ex =>
    let s1 := s.eachLane ex (State.raiseOnly f.gp []) (fun s _ => s)
    match (goodLanes (checkLanes (State.raiseOnly f.gp []) s ex).1).head? with
    | some (l, _) =>
      let armed := !s.onMgmt && s.field (dbgAt s.cur.core (0x40 + 8 * s.cur.quad)) 0 1 = 1
      if armed then
        let pc := s.cur.nextPC
        (s1.stopQuad s.cur.core s.cur.quad 0 f.n (pc.hdr + pc.idx) l []).finishStop s.cur.core s.cur.quad
      else s1
    | none => s1))

/-- The encoding and quota faults of MARK. -/
def illMark (f : SFmt) (s : State) : Option Flt :=
  illegal (f.bare true true true false && aligned f.rd 2) ((Src.v f.ra 1).beyond s.quota || (Dst.v f.rd 2).beyond s.quota)

/-- The encoding fault of HALT: off the management core it is illegal (R170). -/
def illHalt (f : SFmt) (s : State) : Option Flt := illegal (s.onMgmt && f.bare false false false false) false

/-- MARK (R169): one stamp for every lane, and a trace record with the lowest lane's value. -/
def execMark (f : SFmt) (s : State) : Host.Outcome State Fault Refusal :=
  let a := Src.v f.ra 1
  let d := Dst.v f.rd 2
  .next (s.issue f.gn f.gp (illMark f s) (fun ex =>
    s.eachLane ex (State.raiseOnly f.gp [a]) (fun s goods =>
      let ls := goods.map Prod.fst
      let stamp := (s.clk s.cur.core).toNat
      let val := match ls with
        | l :: _ => ((s.lane l).reg f.ra).toNat
        | [] => 0
      let s1 := s.commit ls [d] (s.labelL f.gp.toNat ls (s.curSlot.srcLabel [a]) 0) (ls.map (fun l => (l, [Out.val stamp])))
      s1.traceRecord (s.vfOf s.curStand) s.cur.core f.n 0 val)))

/-- HALT (R170): on the management core alone. -/
def execHalt (f : SFmt) (s : State) : Host.Outcome State Fault Refusal :=
  .next (s.issue f.gn f.gp (illHalt f s) (fun ex =>
    s.eachLane ex (State.raiseOnly f.gp []) (fun s goods =>
      if goods.isEmpty then s else { s with mgmt := { s.mgmt with halted := true } })))

end Sys2Proof.Machine
end

