-- ==== Sys2Proof/Machine/Engine.lean ====
section
/-!
DEFINITION. What engine commands share: acting once for a PC group (R253, R268, R414), checking every byte they will touch
(R213, R268), reading and writing spans (R94, R95), and tokens (R115).
-/

namespace Sys2Proof.Machine

/-! ### Acting once for the PC group -/

/-- The token that a lane raises: its guard's, else that of the first poisoned source of those every lane raises on and, in
the lowest lane, of the operands (R414). -/
def State.groupTok (s : State) (gp : BitVec 3) (low each : List Src) (first : Bool) (l : Nat) : Option (Word × Label) :=
  s.raiseTok gp (if first then low ++ each else each) l

/-- Every executing lane faults with the code of the lowest lane that raised: a lane whose own register is poisoned attaches
its own record, any other a relocated copy of that lane's (R409, R414). No ring changes at a raise (R415). -/
def State.raiseTogether (s : State) (ex : List Nat) (l0 : Nat) (k0 : Word × Label) (own : Nat → Option (Word × Label)) : State :=
  let code := (s.raiseFlt l0 k0.1 k0.2).code
  let flt (l : Nat) : Flt := match own l with
    | some k => s.raiseFlt l k.1 k.2
    | none =>
      let a := s.relocate (s.laneKey l0) (s.laneKey l) k0.1
      a.2.raiseFlt l a.1 k0.2
  (s.park (ex.map (fun l => (l, { flt l with code := code })))).advance (s.othersOf ex)

/-- An instruction that acts once for its PC group: a raise or a failed check parks every executing lane; otherwise `act`
answers the whole next state from the lowest lane, the executing lanes and what the check gave (R253, R268). -/
def State.runGroup {α : Type} (s : State) (gn : BitVec 1) (gp : BitVec 3) (bad : Option Flt) (low each : List Src)
    (chk : State → Nat → List Nat → Ans α × State) (act : State → Nat → List Nat → α → State) : State :=
  s.issue gn gp bad (fun ex =>
    let own (l : Nat) : Option (Word × Label) := s.groupTok gp low each (ex.head? = some l) l
    match ex.findSome? (fun l => (own l).map (fun k => (l, k))) with
    | some (l0, k0) => s.raiseTogether ex l0 k0 own
    | none => match ex with
      | [] => s
      | l :: _ =>
        let c := chk s l ex
        match c.1 with
        | .bad f => (c.2.afterStop (c.2.park (ex.map (fun l => (l, f))))).advance (s.othersOf ex)
        | .wait k => c.2.hold k
        | .ok a => act c.2 l ex a)

/-! ### Spans -/

/-- Cut `n` bytes from an address into pieces that lie in one 64 KiB page each: offset and length. -/
def pageCuts : Nat → Nat → Nat → Nat → List (Nat × Nat)
  | 0, _, _, _ => []
  | fuel + 1, va, off, n =>
    let k := 0x10000 - (va + off) % 0x10000
    if n ≤ k then [(off, n)] else (off, k) :: pageCuts fuel va (off + k) (n - k)

/-- The stand that first wrote a DC page in this launch, when it is another one (R77). -/
def State.dcOther (s : State) (w : Who) (t : Target) : Option Nat :=
  match t.dc, t.tlb, s.gridAt w.stand with
  | true, some e, some g => match g.dcFirst.get? e.ppn with
    | some n => if n = w.stand % 8192 then none else some n
    | none => none
  | _, _, _ => none

/-- Note the writing stand of a DC page (R77). -/
def State.dcNote (s : State) (w : Who) (t : Target) : State :=
  match t.dc, t.tlb with
  | true, some e => { s with grids := s.grids.modify (gridOf w.stand) (fun g =>
      { g with dcFirst := g.dcFirst.insert e.ppn (g.dcFirst.getD e.ppn (w.stand % 8192)) }) }
  | _, _ => s

/-- The check of one piece of a request, `n` bytes at an offset. A write to a DC page of another stand is a DC-page violation
(R77). -/
def State.checkPiece (s : State) (w : Who) (r : Req) (off n : Nat) : Ans (Target × Nat) × State :=
  Ans.bind (s.check w { r with disp := r.disp + (off : Nat), size := n, align := if off = 0 then r.align else 0 }) (fun t s1 =>
    match (if r.write then s1.dcOther w t else none) with
    | some first => (.bad (r.flt 0x0E 0 first), s1)
    | none => (.ok (t, n), s1))

/-- The checks of the pieces of a request. -/
def State.checkPieces (w : Who) (r : Req) : State → List (Nat × Nat) → List (Ans (Target × Nat)) × State
  | s, [] => ([], s)
  | s, (off, n) :: ps =>
    let a := s.checkPiece w r off n
    let b := State.checkPieces w r a.2 ps
    (a.1 :: b.1, b.2)

/-- The pieces of a request that are checked apart: page by page in a global space. -/
def Req.pieces (r : Req) : List (Nat × Nat) :=
  if r.spc = 0 then pageCuts (r.size / 0x10000 + 2) (r.formed % 2 ^ 56) 0 r.size else [(0, r.size)]

/-- Check every byte of a request (R268). -/
def State.checkSpan (s : State) (w : Who) (r : Req) : Ans (List (Target × Nat)) × State :=
  let a := State.checkPieces w r s r.pieces
  (Ans.all a.1, a.2)

/-- The checks of the pieces of several requests. -/
def State.checkLists (w : Who) : State → List Req → List (List (Ans (Target × Nat))) × State
  | s, [] => ([], s)
  | s, r :: rs =>
    let a := State.checkPieces w r s r.pieces
    let b := State.checkLists w a.2 rs
    (a.1 :: b.1, b.2)

/-- Check every byte of several requests (R268). -/
def State.checkAll (w : Who) (s : State) (rs : List Req) : Ans (List (List (Target × Nat))) × State :=
  let a := State.checkLists w s rs
  Ans.bind (Ans.all a.1.flatten, a.2) (fun _ s1 => (.ok (a.1.map (fun xs => xs.filterMap Ans.ok?)), s1))

/-- The spans of checked pieces. -/
def spansOf (ts : List (Target × Nat)) : List Span := ts.map (fun p => ⟨p.1.loc, p.2, p.1.window⟩)

/-- Note checked pieces in the page tables, and the writer of a DC page (R62, R77). -/
def State.touchAll (s : State) (w : Who) (ts : List (Target × Nat)) (write : Bool) : State :=
  ts.foldl (fun s p => (if write then s.dcNote w p.1 else s).touch w p.1 write) s

/-- Whether any checked piece satisfies a test. -/
def anyTarget (ts : List (Target × Nat)) (p : Target → Bool) : Bool := ts.any (fun x => p x.1)

/-- A request of an engine for `n` bytes of a space. -/
def engReq (spc ptr off n align : Nat) (write : Bool) (kind : Nat) : Req :=
  ⟨spc, ptr, (off : Nat), n, align, !write, write, some kind, true, !write, false, false⟩

/-- The management core logs an engine's access to a device register (R13). -/
def State.logEngine (s : State) (l : Loc) (write : Bool) (stand : Nat) : State :=
  match l with
  | .pa a => s.logIgnored a write (.engine stand)
  | .sp _ _ => s

/-- An engine read of spans: the bytes, the label of their granules, and whether a sector is bad (R94, R448). Engine accesses
are atomic per byte only, so device registers read as zero and the access is logged (R13, R82). -/
def State.readSpans (s : State) (stand : Nat) (sp : List Span) : (List Byte × Label × Bool) × State :=
  let v := s.vfOf stand
  let k := s.keyOf v
  sp.foldl (fun x p =>
    if p.loc.device then ((x.1.1 ++ List.replicate p.len 0#8, x.1.2.1, x.1.2.2), x.2.logEngine p.loc false stand) else
    let s1 := (List.range (p.len / 64 + 2)).foldl (fun s i => if 64 * i < p.len then s.performRead none k (p.loc.plus (64 * i)) else s) x.2
    ((x.1.1 ++ s1.bytesOf k p.loc p.len, x.1.2.1 ||| s1.labelSpan k (s1.ownLabel v) p.loc p.len,
      x.1.2.2 || s1.badSpan p.loc p.len), s1)) (([], 0, false), s)

/-- The part of spans that starts `off` bytes in. -/
def dropSpans : List Span → Nat → List Span
  | [], _ => []
  | p :: ps, off =>
    if p.len ≤ off then dropSpans ps (off - p.len) else { p with loc := p.loc.plus off, len := p.len - off } :: ps

/-- The first `n` bytes of spans. -/
def takeSpans : List Span → Nat → List Span
  | [], _ => []
  | p :: ps, n => if n = 0 then [] else if p.len < n then p :: takeSpans ps (n - p.len) else [{ p with len := n }]

/-- An engine write of bytes over spans, under the labels of R72; a partial write of a bad sector fails the stand (R448); a
device register takes nothing and the access is logged (R13). -/
def State.writeSpans (s : State) (stand thread : Nat) : List Span → List Byte → Label → State
  | [], _, _ => s
  | p :: ps, bs, lab =>
    let here := bs.take p.len
    let s1 := if p.loc.device then s.logEngine p.loc true stand
      else s.performStore stand true ⟨p.loc, here, none, lab, p.win, true, 0⟩
    let s2 := if here.isEmpty then s else s1.setShadow (s1.who thread stand (s1.coreOf stand)) p.loc here.length
    if bs.length ≤ p.len then s2 else s2.writeSpans stand thread ps (bs.drop p.len) lab

/-! ### Tokens (R115, R268) -/

/-- Whether some lane's token is full, so that the issue must wait. -/
def State.tokenFull (s : State) (ex : List Nat) (tok : Nat) : Bool := ex.any (fun l => 63 ≤ ((s.lane l).sb tok).count)

/-- The token of every executing lane rises. -/
def State.tokensUp (s : State) (ex : List Nat) (tok : Nat) : State := ex.foldl (fun s l => s.tokenUp (s.laneKey l) tok) s

/-- The lines of a scratchpad span, as commands name them. -/
def Span.lines (p : Span) : List Nat :=
  match p.loc with
  | .sp k o => if p.len = 0 then [] else (List.range ((o + p.len - 1) / 64 - o / 64 + 1)).map (fun i => k * 16384 + o / 64 + i)
  | .pa _ => []

/-- The absent lines after one becomes present or absent. -/
def setAbsent (present : Bool) (line : Nat) (ls : List Nat) : List Nat :=
  if present then ls.filter (fun x => x != line) else insertNat line ls

/-- A line becomes absent, or present (R68, R96). -/
def State.setPresence (s : State) (line : Nat) (present : Bool) : State :=
  s.updStand (line / 16384) (fun st => { st with absent := setAbsent present (line % 16384) st.absent })

end Sys2Proof.Machine
end

