-- ==== Sys2Proof/Machine/MatrixNum.lean ====
section
/-!
DEFINITION. The matrix engine's operand layouts and arithmetic (R244 to R251, R256, R259, R260), without
the instructions.
-/

namespace Sys2Proof.Machine

/-! ### Macros and accumulators (R242) -/

/-- The bits of a macro's element: physical row `k`, column `n`, under cells `wc` wide (notes/assumptions 15). -/
def Macro.cell (m : Macro) (wc k n : Nat) : Nat :=
  let i := k * 64 + n
  if wc = 4 then bits (m.cells.getD (i / 2) 0#8).toNat (4 * (i % 2)) 4
  else leNat ((List.range (wc / 8)).map (fun j => m.cells.getD (i * (wc / 8) + j) 0#8))

/-- Write a macro's element. -/
def Macro.setCell (m : Macro) (wc k n v : Nat) : Macro :=
  let i := k * 64 + n
  if wc = 4 then
    let old := (m.cells.getD (i / 2) 0#8).toNat
    let new := if i % 2 = 0 then old / 16 * 16 + v % 16 else old % 16 + 16 * (v % 16)
    { m with cells := m.cells.put 0#8 (i / 2) (BitVec.ofNat 8 new) }
  else
    { m with cells := (leBytes (wc / 8) v).zipIdx.foldl (fun t p => t.put 0#8 (i * (wc / 8) + p.2) p.1) m.cells }

/-- The scale of a block and column; 0x7F where nothing was loaded. -/
def Macro.scale (m : Macro) (blk n : Nat) : Nat := (m.scales.getD (blk * 64 + n) 0x7F#8).toNat

/-- The mask of a group and column. -/
def Macro.mask (m : Macro) (g n : Nat) : Nat := (m.masks.getD (g * 64 + n) 0#24).toNat

/-- A macro of a quadrant. -/
def Matrix.macAt (x : Matrix) (i : Nat) : Macro := x.macros.getD i Macro.empty
/-- Change a macro. -/
def Matrix.updMac (x : Matrix) (i : Nat) (f : Macro → Macro) : Matrix := { x with macros := x.macros.insert i (f (x.macAt i)) }
/-- An accumulator. -/
def Matrix.accAt (x : Matrix) (j : Nat) : Acc := x.accs.getD j Acc.empty
/-- Change an accumulator. -/
def Matrix.updAcc (x : Matrix) (j : Nat) (f : Acc → Acc) : Matrix := { x with accs := x.accs.insert j (f (x.accAt j)) }

/-- The bits of an accumulator element; under F64 accumulator 2j holds the low words and 2j + 1 the high ones. -/
def Matrix.elem (x : Matrix) (wide : Bool) (j row n : Nat) : Nat :=
  ((x.accAt j).elems.getD (64 * row + n) 0#32).toNat
    + (if wide then 2 ^ 32 * ((x.accAt (j + 1)).elems.getD (64 * row + n) 0#32).toNat else 0)

/-- Write an accumulator element. -/
def Matrix.setElem (wide : Bool) (j row n : Nat) (v : Nat) (x : Matrix) : Matrix :=
  let put (w : Word) (a : Acc) : Acc := { a with elems := a.elems.put 0#32 (64 * row + n) w }
  let x1 := x.updAcc j (put (BitVec.ofNat 32 v))
  if wide then x1.updAcc (j + 1) (put (BitVec.ofNat 32 (v / 2 ^ 32))) else x1

/-- The poison of an accumulator element: its row's, else its column's (R264). -/
def Matrix.elemPoison (x : Matrix) (j row n : Nat) : Option MPoison :=
  match (x.accAt j).rows.get? row with
  | some p => some p
  | none => (x.accAt j).cols.get? n

/-- An accumulator becomes zero and clean; its label stays (R259, R263). -/
def Matrix.clearAcc (x : Matrix) (wide : Bool) (j : Nat) : Matrix :=
  let z (a : Acc) : Acc := { a with elems := [], rows := [], cols := [] }
  let x1 := x.updAcc j z
  if wide then x1.updAcc (j + 1) z else x1

/-! ### One row (R144, R251, R259) -/

/-- The position of mask bit `t` among the set bits, if it is kept (R251). -/
def keptRank (mask n t : Nat) : Option Nat :=
  let r := popCount t mask
  if bit mask t && r < n then some r else none

/-- The value of B at logical row `k`, column `n`; none where sparsity leaves it out. Under MMASP with MXB a kept element takes
the scale of the block of its physical row: DESIGN CHOICE, since R245 and R251 do not say which rows the blocks count
(notes/assumptions 15). -/
def Matrix.bValue (x : Matrix) (c : Block) (sparse : Bool) (macs : List Nat) (k n : Nat) : Option FloatVal :=
  let val (m : Macro) (row : Nat) : FloatVal :=
    let v := c.tyB.value c.ftz (m.cell c.wc row n)
    if c.mxb then mulNum v (decodeE8M0 (m.scale (row / 32) n)) else v
  if sparse then
    let span := 24 * c.groups
    let m := x.macAt (macs.getD (k / span) 0)
    let g := k % span / 24
    (keptRank (m.mask g n) c.spn (k % 24)).map (fun r => val m (g * c.spn + r))
  else some (val (x.macAt (macs.getD (k / c.kd) 0)) (k % c.kd))

/-- The value of A at logical index `k` of a row. -/
def ARow.value (r : ARow) (c : Block) (k : Nat) : FloatVal :=
  let v := c.tyA.value c.ftz (r.elems.getD k 0)
  if c.mxa then mulNum v (decodeE8M0 (r.scales.getD (k / 32) 0x7F)) else v

/-- The integer value of an element. -/
def CvtTy.intValue (t : CvtTy) (v : Nat) : Int :=
  match t with
  | .int nat w => readInt nat w v
  | _ => 0

/-- The B element at logical row `k` as an integer; zero where sparsity leaves it out. -/
def Matrix.bInt (x : Matrix) (c : Block) (sparse : Bool) (macs : List Nat) (k n : Nat) : Int :=
  if sparse then
    let span := 24 * c.groups
    let m := x.macAt (macs.getD (k / span) 0)
    let g := k % span / 24
    match keptRank (m.mask g n) c.spn (k % 24) with
    | some r => c.tyB.intValue (m.cell c.wc (g * c.spn + r) n)
    | none => 0
  else c.tyB.intValue ((x.macAt (macs.getD (k / c.kd) 0)).cell c.wc (k % c.kd) n)

/-- The products of one chunk of 128 logical indices (R144). -/
def Matrix.products (x : Matrix) (c : Block) (sparse : Bool) (macs : List Nat) (row : ARow) (n ch : Nat) : List FloatVal :=
  (List.range (min 128 (c.klen - 128 * ch))).filterMap (fun i =>
    let k := 128 * ch + i
    (x.bValue c sparse macs k n).map (fun b => mulNum (row.value c k) b))

/-- An accumulator element after a row: integers modulo 2^32, floats chunk by chunk (R144, R259). -/
def Matrix.accumulate (x : Matrix) (c : Block) (sparse : Bool) (macs : List Nat) (row : ARow) (n old : Nat) : Nat :=
  match c.accFmt with
  | none => wrap 32 ((List.range c.klen).foldl (fun (a : Int) k =>
      a + c.tyA.intValue (row.elems.getD k 0) * x.bInt c sparse macs k n) (old : Int))
  | some f => (List.range (ceilDiv c.klen 128)).foldl (fun a ch => chunkSum f a (x.products c sparse macs row n ch)) old

/-! ### The epilogue's arithmetic (R248) -/

/-- The ends of an interval that holds tanh x, or the logistic function of x, and whose inside rounds as they do if they
round alike. -/
def actEnds (tanh : Bool) (x : FloatVal) : FloatVal × FloatVal :=
  let two (v : FloatVal) : FloatVal × FloatVal := (v, v)
  match x with
  | .nan => two .nan
  | .inf neg => if tanh then two (.fin neg 1 0 false) else two (if neg then .zero false else .fin false 1 0 false)
  | .fin neg m e _ =>
    if m = 0 then two (if tanh then .zero neg else .fin false 1 (-1) false)
    else if 9 < floorLog2 m e then two (if tanh then belowOne neg else if neg then tiny else belowOne false)
    else if floorLog2 m e < -200 then
      two (if tanh then .fin neg (m * 2 ^ 400 - 1) (e - 400) false
        else .fin false (if neg then 2 ^ 600 - 1 else 2 ^ 600 + 1) (-601) false)
    else
      let one : Int := (2 ^ fxBits : Nat)
      let ends (v ex : Int) : FloatVal × FloatVal :=
        let put (i : Int) : FloatVal := .fin (i < 0) i.natAbs (ex - fxBits) false
        (put (v - (2 ^ 60 : Nat)), put (v + (2 ^ 60 : Nat)))
      if tanh then
        let t := fxExp (2 * toFx false m e)
        let g := t.1 <<< t.2.toNat
        let v := (g - one) * one / (g + one)
        ends (if neg then -v else v) 0
      else
        let t := fxExp (toFx false m e)
        let g := t.1 <<< t.2.toNat
        if neg then ends (one * one * (2 ^ t.2.toNat : Nat) / (g + one)) (-t.2) else ends (g * one / (g + one)) 0

/-- An output element of the epilogue: accumulator bits, column scale and bias (R248). -/
def epilogueElem (c e : Block) (v : Nat) (scale bias : Word) : Nat :=
  let x0 := match c.accFmt with
    | some f => f.decode false v
    | none => intNum (readInt false 32 v)
  let x1 := if e.f 14 1 = 1 then mulNum x0 (Fmt.f32.decode false scale.toNat) else x0
  let mode := resolveRM (e.f 7 3) 1 false 0 0
  let x2 := if e.f 15 1 = 1 then sumNum (mode = .rdn) [x1, Fmt.f32.decode false bias.toNat] else x1
  let enc (x : FloatVal) : Nat := e.out.encode mode (e.f 5 1 = 1) (e.f 6 1 = 1) x
  match e.f 11 3 with
  | 0 => enc x2
  | 1 => enc (minMaxNum true x2 (.zero false))
  | a =>
    let r := actEnds (a = 2) x2
    let lo := enc r.1
    if lo = enc r.2 then lo else Config.freeSpecial (a + 4) e.out.width v % 2 ^ e.out.width

end Sys2Proof.Machine
end

