-- ==== Sys2Proof/Machine/Matrix.lean ====
section
/-!
DEFINITION. The matrix instructions, opcodes 0x140 to 0x14C (R243, R252 to R267, R413, R426), and the events WLOAD_COMPLETE,
ROW_ACCEPT, ROW_WRITE and EPILOGUE of the engine.
-/

namespace Sys2Proof

/-- D as a number. -/
def XFmt.rd (f : XFmt) : Nat := f.d.toNat
/-- A as a number. -/
def XFmt.ra (f : XFmt) : Nat := f.a.toNat
/-- B as a number. -/
def XFmt.rb (f : XFmt) : Nat := f.b.toNat
/-- The accumulator. -/
def XFmt.rj (f : XFmt) : Nat := f.acc.toNat
/-- Bits of SEL. -/
def XFmt.s (f : XFmt) (lo n : Nat) : Nat := Machine.bits f.sel.toNat lo n
/-- The macros named, ascending. -/
def XFmt.macros (f : XFmt) : List Nat := Machine.lanesOf 4 f.macs.toNat
/-- The token, if TE is set. -/
def XFmt.token (f : XFmt) : Option Nat := if f.te = 1 then some f.tok.toNat else none
/-- Fields that must be zero (R252): `kd ka kb kt ko km kc ks` say which of D, A, B, the token, the order, MACS, ACC and SEL
the row uses. -/
def XFmt.bare (f : XFmt) (kd ka kb kt ko km kc ks : Bool) : Bool :=
  (kd || f.d = 0) && (ka || f.a = 0) && (kb || f.b = 0) && (f.te = 1 || f.tok = 0) && (kt || f.te = 0)
    && (ko || (f.ord = 0 && f.sco = 0)) && f.sco.toNat ≤ 4 && (if km then f.macs ≠ 0 else f.macs = 0) && (kc || f.acc = 0)
    && (ks || f.sel = 0)

end Sys2Proof

namespace Sys2Proof.Machine

/-! ### The issuing quadrant's engine -/

/-- The quadrant of the issuing group. -/
def Cur.quadKey (c : Cur) : Nat := 4 * c.core + c.quad

/-- Its matrix state. -/
def State.mx (s : State) : Matrix := (s.quadAt s.cur.quadKey).matrix

/-- Change a quadrant's matrix state. -/
def State.updMx (s : State) (q : Nat) (f : Matrix → Matrix) : State := s.updQuad q (fun x => { x with matrix := f x.matrix })

/-- Step 7 of R419: the crew does not hold the matrix state (R243). -/
def State.unclaimed (s : State) : Option Flt := if s.mx.owner = some s.curStand then none else some (.plain 0x01 2)

/-- The matrix-configuration fault. -/
def mcfgFlt : Flt := .plain 0x14 0

/-- Interrupted operations of the issuing crew (R266). -/
def State.interrupted (s : State) : List MOp :=
  match s.stands.get? s.curStand with
  | some st => st.ops.filter (fun o => o.cur.core = s.cur.core && o.cur.quad = s.cur.quad)
  | none => []

/-- Whether no operation of the engine is incomplete (R254). -/
def State.engineIdle (s : State) : Bool := s.mx.queue.isEmpty && s.interrupted.isEmpty

/-- Whether a thread has an epilogue into registers pending: its operation has taken its last row (R265). -/
def State.epiloguePending (s : State) (thread : Nat) : Bool :=
  s.quads.any (fun q => q.2.matrix.queue.any (fun o =>
    o.final && o.accepted = o.last && o.lanes.any (fun p => p.2 = thread) && (match o.eblock with
      | some e => !e.toMem
      | none => false)))

/-! ### MCFG, EPCFG (R254, R255) -/

/-- The encoding of MCFG and EPCFG (R252). -/
def XFmt.blockOk (f : XFmt) (low : Nat) : Bool :=
  f.bare false true false false false false false true && f.s 3 2 ≤ 1 && f.s 0 3 &&& low = 0
    && aligned f.ra (if f.s 3 2 = 0 then 2 else 1)

/-- The address operand of MCFG and EPCFG. -/
def XFmt.blockSrc (f : XFmt) : Src := .v f.ra (if f.s 3 2 = 0 then 2 else 1)

/-- A parameter block is read as a 64-byte load of the thread: its check. -/
def State.blockCheck (f : XFmt) (s : State) (l : Nat) : Ans Target × State :=
  let n := if f.s 3 2 = 0 then 2 else 1
  let c := s.laneCheck (fun t => ⟨f.s 3 2, t.regNat f.ra n, 0, 64, 64, true, false, some 0, true, true, false, true⟩) [(XFmt.blockSrc f)] l
  match c.1 with
  | .ok t => if c.2.dcWaits (c.2.laneWho l) t then (.wait 5, c.2) else (.ok t, c.2)
  | a => (a, c.2)

/-- Load a parameter block and act on its bits and label (M ∪ L), or fail the stand on a bad sector (R448). -/
def State.withBlock (s : State) (f : XFmt) (l : Nat) (ex : List Nat) (t : Target) (k : State → Block → State) : State :=
  let w := s.laneWho l
  if s.badSpan t.loc 64 then s.failStand w.stand 0xE0 none false
  else
    let x := s.loadAt w t 64
    let lab := x.2.labelL f.gp.toNat ex (x.2.curSlot.srcLabel [(XFmt.blockSrc f)]) x.1.label
    k x.2 ⟨BitVec.ofNat 512 x.1.v, lab⟩

/-- The encoding, quota and claim faults of MCFG (`low` 7) and EPCFG (1). -/
def illBlock (f : XFmt) (low : Nat) (s : State) : Option Flt :=
  firstFault (illegal (XFmt.blockOk f low) ((XFmt.blockSrc f).beyond s.quota)) s.unclaimed

/-- The check of MCFG: it waits for the engine (R254). -/
def State.mcfgCheck (f : XFmt) (s : State) (l : Nat) (_ex : List Nat) : Ans Target × State :=
  if !s.engineIdle then (.wait 8, s) else s.blockCheck f l

/-- The check of EPCFG: its block, then that there is a configuration (R255, R419). -/
def State.epcfgCheck (f : XFmt) (s : State) (l : Nat) (_ex : List Nat) : Ans Target × State :=
  Ans.bind (s.blockCheck f l) (fun t s1 => if s.mx.cfg.isNone then (.bad mcfgFlt, s1) else (.ok t, s1))

/-- MCFG (R254): waits for the engine, then loads the configuration and clears every accumulator. -/
def execMcfg (f : XFmt) (s : State) : Host.Outcome State Fault Refusal :=
  .next (s.runGroup f.gn f.gp (illBlock f 7 s) [(XFmt.blockSrc f)] [] (State.mcfgCheck f)
    (fun s l ex t => s.withBlock f l ex t (fun s b =>
      if b.cfgOk (!s.withheld 5) then
        (s.updMx s.cur.quadKey (fun x => { x with
          cfg := some b
          accs := Table.ofList 0 (List.replicate 16 { Acc.empty with label := b.label }) })).advance s.cur.lanes
      else s.parkAll ex mcfgFlt)))

/-- EPCFG (R255): loads block e; operations accepted before it keep the old one. -/
def execEpcfg (f : XFmt) (s : State) : Host.Outcome State Fault Refusal :=
  .next (s.runGroup f.gn f.gp (illBlock f 1 s) [(XFmt.blockSrc f)] [] (State.epcfgCheck f)
    (fun s l ex t => s.withBlock f l ex t (fun s b =>
      if b.epOk then (s.updMx s.cur.quadKey (fun x => { x with blocks := x.blocks.insert (f.s 1 2) b })).advance s.cur.lanes
      else s.parkAll ex mcfgFlt)))

/-! ### WLOAD (R256) -/

/-- Whether an operand address that must be 16-byte aligned is well placed: its address bits, then its alignment (R253,
R256). -/
def operandFlt (spc ptr : Nat) : Option Flt :=
  let r := engReq spc ptr 0 1 0 false 0
  if (if spc = 0 then bits ptr 60 4 else if spc = 1 then bits ptr 20 8 else bits ptr 26 2) ≠ 0 then some (r.flt 0x05 0)
  else if ptr % 16 ≠ 0 then some (r.flt 0x06 16)
  else none

/-- The pieces that a WLOAD reads: place in MACS, row, block or group, offset from A, bytes. -/
def Block.wload (c : Block) (kind n : Nat) : List (Nat × Nat × Nat × Nat) :=
  (List.range n).flatMap (fun i =>
    match kind with
    | 0 => (List.range (min c.kd (c.klen - i * c.kd))).map (fun k => (i, k, (i * c.kd + k) * c.f 96 32, 8 * c.wB))
    | 1 => ((List.range (c.kd / 32)).filter (fun b => i * c.kd + 32 * b < c.klen)).map (fun b => (i, b, (i * (c.kd / 32) + b) * 64, 64))
    | _ => (List.range c.groups).map (fun g => (i, g, (i * c.groups + g) * 256, 256)))

/-- A macro before the pieces of a WLOAD enter it: what is written without access, and column poison cleared. Scales of blocks
and masks of groups that the configuration does not have stay. -/
def Macro.blank (m : Macro) (c : Block) (kind : Nat) : Macro :=
  match kind with
  | 0 => { m with cells := [], poison := [] }
  | 1 => { m with scales := m.scales.filterT (fun i _ => c.kd / 32 * 64 ≤ i), poison := [] }
  | _ => { m with masks := m.masks.filterT (fun i _ => c.groups * 64 ≤ i), poison := [] }

/-- One piece of a WLOAD enters a macro. -/
def Macro.loadPiece (c : Block) (kind row : Nat) (bs : List Byte) (m : Macro) : Macro :=
  match kind with
  | 0 =>
    let v := leNat bs
    (List.range 64).foldl (fun m n => m.setCell c.wc row n (bits v (n * c.wB) c.wB)) m
  | 1 => { m with scales := (List.range 64).foldl (fun t n => t.put 0x7F#8 (row * 64 + n) (bs.getD n 0#8)) m.scales }
  | _ => { m with masks := (List.range 64).foldl (fun t n =>
      t.put 0#24 (row * 64 + n) (BitVec.ofNat 24 (leNat ((bs.drop (4 * n)).take 3)))) m.masks }

/-- An operation of no rows, to be filled in. -/
def MOp.base (s : State) (kind : MKind) (f : XFmt) (ex : List Nat) (c : Block) (lab : Label) : MOp where
  kind := kind
  stand := s.curStand
  cur := s.cur
  lanes := ex.map (fun l => (l, s.laneKey l))
  label := lab
  tok := f.token
  cfg := c
  eblock := none
  dreg := f.rd
  acc := f.rj
  macs := f.macros
  clear := false
  accepted := 0
  last := 0
  final := true
  rows := []
  ptr := 0
  own := false
  shape := 0
  p0 := 0
  k0 := 0
  areg := 0
  wkind := 0
  sources := []
  svec := []
  bvec := []
  velabel := 0
  dest := []
  lines := []

/-- An operation enters the engine: the lanes' queues drain (R94), the tokens rise (R115), and the lines of a scratchpad
destination become absent (R96). -/
def State.enterEngine (s : State) (ex : List Nat) (o : MOp) : State :=
  let s1 := s.drainLanes ex
  let s2 := match o.tok with
    | some t => s1.tokensUp ex t
    | none => s1
  let s3 := o.lines.foldl (fun s ln => s.setPresence ln false) s2
  s3.updMx s.cur.quadKey (fun x => { x with queue := x.queue ++ [o] })

/-- Room for another operation, and for its token in each lane (R115, R243). -/
def State.engineRoom (s : State) (ex : List Nat) (tok : Option Nat) : Option Nat :=
  if 8 ≤ s.mx.queue.length then some 8
  else match tok with
    | some t => if s.tokenFull ex t then some 4 else none
    | none => none

/-- The encoding, quota and claim faults of WLOAD. -/
def illWload (f : XFmt) (s : State) : Option Flt :=
  firstFault (illegal (f.bare false true false true true true false true && f.s 3 2 ≤ 2 && f.s 1 2 ≤ 2 && f.s 0 1 = 0
    && aligned f.ra (if f.s 3 2 = 0 then 2 else 1)) ((XFmt.blockSrc f).beyond s.quota)) s.unclaimed

/-- The check of WLOAD: the operand, a configuration, every piece, and room in the engine; it answers the configuration and the
pieces (R253, R256, R419). -/
def State.wloadCheck (f : XFmt) (s : State) (l : Nat) (ex : List Nat) : Ans (Block × List (List (Target × Nat))) × State :=
  let ptr := (s.lane l).regNat f.ra (if f.s 3 2 = 0 then 2 else 1)
  match operandFlt (f.s 3 2) ptr, s.mx.cfg with
  | some x, _ => ((Ans.bad x).labelled (s.curSlot.srcLabel [(XFmt.blockSrc f)]), s)
  | none, none => (.bad mcfgFlt, s)
  | none, some c => Ans.relabel (s.curSlot.srcLabel [(XFmt.blockSrc f)])
      (Ans.bind (State.checkAll (s.laneWho l) s
        ((c.wload (f.s 1 2) f.macros.length).map (fun p => engReq (f.s 3 2) ptr p.2.2.1 p.2.2.2 16 false 0)))
        (fun ts s1 => match s1.engineRoom ex f.token with
          | some k => (.wait k, s1)
          | none => (.ok (c, ts), s1)))

/-- The operation of a WLOAD. -/
def State.wloadOp (f : XFmt) (s : State) (ex : List Nat) (c : Block) (ts : List (List (Target × Nat))) : MOp :=
  { MOp.base s .wload f ex c (s.labelL f.gp.toNat ex (s.curSlot.srcLabel [(XFmt.blockSrc f)]) 0) with
    wkind := f.s 1 2, sources := ts.map spansOf }

/-- WLOAD (R256). -/
def execWload (f : XFmt) (s : State) : Host.Outcome State Fault Refusal :=
  .next (s.runGroup f.gn f.gp (illWload f s) [(XFmt.blockSrc f)] [] (State.wloadCheck f)
    (fun s l ex r =>
      let s1 := r.2.foldl (fun s t => s.touchAll (s.laneWho l) t false) s
      (s1.enterEngine ex (s1.wloadOp f ex r.1 r.2)).advance s.cur.lanes))

/-- Drop the head of a quadrant's engine queue. -/
def State.popEngine (s : State) (q : Nat) : State := s.updMx q (fun x => { x with queue := x.queue.tail })

/-- An operation completes: its lines are present, its token falls (R96, R115). -/
def State.finishOp (s : State) (q : Nat) (o : MOp) : State :=
  let s1 := o.lines.foldl (fun s ln => s.setPresence ln true) (s.popEngine q)
  match o.tok with
  | some t => s1.tokensDown (o.lanes.map Prod.snd) t 0 0 0
  | none => s1

/-- Pieces read from memory enter macros of MACS one by one. -/
def State.loadPieces (q : Nat) (o : MOp) : State → List ((Nat × Nat × Nat × Nat) × List Span) → State
  | s, [] => s
  | s, (p, sp) :: ps =>
    let r := s.readSpans o.stand sp
    if r.1.2.2 then r.2.failStand o.stand 0xE0 none false
    else
      let s1 := r.2.updMx q (fun x => x.updMac (o.macs.getD p.1 0) (fun m =>
        { m.loadPiece o.cfg o.wkind p.2.1 r.1.1 with label := m.label ||| r.1.2.1 }))
      State.loadPieces q o s1 ps

/-- WLOAD_COMPLETE (R256): the WLOAD at the head of the engine queue reads its sources and completes. -/
def execWloadComplete (quad : Nat) (s : State) : Host.Outcome State Fault Refusal :=
  .next (match (s.quadAt quad).matrix.queue with
    | [] => s
    | o :: _ =>
      if o.kind ≠ .wload then s
      else
        let s1 := s.updMx quad (fun x => o.macs.foldl (fun x i =>
          x.updMac i (fun m => { m.blank o.cfg o.wkind with label := m.label ||| o.label })) x)
        let s2 := State.loadPieces quad o s1 ((o.cfg.wload o.wkind o.macs.length).zip o.sources)
        if (s2.quadAt quad).matrix.queue.isEmpty then s2 else s2.finishOp quad o)

/-! ### WLOADR, WCLR (R257, R258) -/

/-- A poison bit is set; one that is set already keeps its token and its record copy (R413). -/
def keepBit (t : Table MPoison) (k : Nat) (p : MPoison) : Table MPoison := if (t.get? k).isSome then t else t.insert k p

/-- What a WLOADR lane loads: nothing, a token, a token to be made, or checked spans. -/
inductive ColAns where
  | skip
  | tok (t : Word)
  | make (f : Flt)
  | load (ts : List (Target × Nat))

/-- Bytes of a WLOADR column. -/
def Block.colBytes (c : Block) (n : Nat) : Nat := ceilDiv (min c.klen (n * c.kd) * c.wB) 8

/-- The check of one WLOADR lane; `col` is its column. A poisoned pointer poisons the column (R412). -/
def State.colCheck (f : XFmt) (c : Block) (col : Nat) (s : State) (l : Nat) : Ans ColAns × State :=
  let t := s.lane l
  let a := Src.v f.ra 2
  if 64 ≤ col then (.ok .skip, s)
  else match a.token t with
    | some k => (.ok (.tok k), s)
    | none =>
      let spec := f.s 3 1 = 1
      let r := engReq 0 (t.regNat f.ra 2) 0 (c.colBytes f.macros.length) 16 false 0
      let x := s.checkSpan (s.laneWho l) r
      match x.1 with
      | .ok ts =>
        if spec && anyTarget ts (·.nc) then (.ok (.make (Flt.at 0x18 0 (BitVec.ofNat 64 r.formed))), x.2) else (.ok (.load ts), x.2)
      | .bad e => if spec then (.ok (.make e), x.2) else ((Ans.bad e).labelled (s.curSlot.srcLabel [a]), x.2)
      | .wait k => (.wait k, x.2)

/-- A column of the macros of MACS is written: the bits of its logical rows, or poison. A poison bit that is set keeps its token
(R257, R264, R413). -/
def Matrix.setColumn (x : Matrix) (c : Block) (macs : List Nat) (col : Nat) (v : Nat) (p : Option MPoison) (lab : Label) : Matrix :=
  macs.zipIdx.foldl (fun x mi => x.updMac mi.1 (fun m =>
    let m1 := (List.range c.kd).foldl (fun m k =>
      let lk := mi.2 * c.kd + k
      m.setCell c.wc k col (if p.isNone && lk < c.klen then bits v (lk * c.wB) c.wB else 0)) m
    { m1 with label := m.label ||| lab, poison := match p with
      | some t => keepBit m1.poison col t
      | none => m1.poison })) x

/-- One WLOADR lane acts. -/
def State.loadColumn (f : XFmt) (c : Block) (lab : Label) (s : State) (l col : Nat) (a : ColAns) : State :=
  let put (s : State) (v : Nat) (p : Option MPoison) (m : Label) : State :=
    s.updMx s.cur.quadKey (fun x => x.setColumn c f.macros col v p (lab ||| m))
  let poison (s : State) (t : Word) : Option MPoison := some ⟨t, (s.lane l).attached t, s.laneKey l⟩
  match a with
  | .skip => s
  | .tok t => put s 0 (poison s t) 0
  | .make e =>
    let r := s.makePoison l e true
    put r.2 0 (poison r.2 r.1) 0
  | .load ts =>
    let r := (s.touchAll (s.laneWho l) ts false).readSpans s.curStand (spansOf ts)
    if r.1.2.2 then r.2.failStand s.curStand 0xE0 none false else put r.2 (leNat r.1.1) none r.1.2.1

/-- The encoding, quota and claim faults of WLOADR. -/
def illWloadr (f : XFmt) (s : State) : Option Flt :=
  firstFault (illegal (f.bare false true true false true true false true && f.s 0 3 = 0 && f.s 4 1 = 0 && aligned f.ra 2)
    ((Src.v f.ra 2).beyond s.quota || (Src.v f.rb 1).beyond s.quota)) s.unclaimed

/-- The check of WLOADR in a lane: its guard's raise and its column, counted from `base` (R257). -/
def State.wloadrCheck (f : XFmt) (c : Block) (base : Nat) : State → Nat → Ans ColAns × State :=
  State.afterRaise f.gp [] (fun s l => s.colCheck f c (base + l) l)

/-- The first column of WLOADR: B of the lowest executing lane. A poisoned B, for which R412 and R414 give no rule, leaves it a
free value: DESIGN CHOICE (notes/assumptions 29). -/
def State.firstColumn (s : State) (f : XFmt) (l : Nat) : Nat :=
  if ((Src.v f.rb 1).token (s.lane l)).isSome then (s.free 0).toNat else ((s.lane l).reg f.rb).toNat

/-- The check of a WLOADR lane without a configuration: its pointer's place, then the configuration fault (R253, R419). -/
def State.bareColumn (f : XFmt) (s : State) (l : Nat) : Ans Unit × State :=
  let a := Src.v f.ra 2
  if (a.token (s.lane l)).isSome || f.s 3 1 = 1 then (.bad mcfgFlt, s)
  else match operandFlt 0 ((s.lane l).regNat f.ra 2) with
    | some x => ((Ans.bad x).labelled (s.curSlot.srcLabel [a]), s)
    | none => (.bad mcfgFlt, s)

/-- WLOADR (R257, R412). -/
def execWloadr (f : XFmt) (s : State) : Host.Outcome State Fault Refusal :=
  .next (s.issue f.gn f.gp (illWloadr f s) (fun ex =>
    let base := s.firstColumn f (ex.headD 0)
    match s.mx.cfg with
    | none => s.eachLane ex (State.afterRaise f.gp [] (State.bareColumn f)) (fun s _ => s)
    | some c =>
      if !s.engineIdle then s.hold 8
      else s.eachLane ex (State.wloadrCheck f c base)
        (fun s goods =>
          let s0 := s.drainLanes (goods.map Prod.fst)
          let lab := s0.labelL f.gp.toNat (goods.map Prod.fst) (s0.curSlot.srcLabel [.v f.ra 2, .v f.rb 1]) 0
          goods.foldl (fun s p => s.loadColumn f c lab p.1 (base + p.1) p.2) s0)))

/-- The encoding and claim faults of WCLR. -/
def illWclr (f : XFmt) (s : State) : Option Flt :=
  firstFault (illegal (f.bare false false false false false true false false) false) s.unclaimed

/-- The check of WCLR: a configuration, and the wait for the engine (R258). -/
def State.wclrCheck (s : State) (_l : Nat) (_ex : List Nat) : Ans Unit × State :=
  if s.mx.cfg.isNone then (.bad mcfgFlt, s) else if !s.engineIdle then (.wait 8, s) else (.ok (), s)

/-- WCLR (R258). -/
def execWclr (f : XFmt) (s : State) : Host.Outcome State Fault Refusal :=
  .next (s.runGroup f.gn f.gp (illWclr f s) [] [] State.wclrCheck
    (fun s _ ex _ =>
      let lab := s.labelL f.gp.toNat ex 0 0
      (s.updMx s.cur.quadKey (fun x => f.macros.foldl (fun x i => x.updMac i (fun _ => { Macro.empty with label := lab })) x)).advance
        s.cur.lanes))

/-! ### Acceptance of the four multiply forms (R253, R266) -/

/-- The encoding of a multiply form (R252). -/
def XFmt.mmaOk (f : XFmt) (kind : MKind) : Bool :=
  let sp := f.s 1 1
  f.bare (f.s 4 1 = 1) true (kind = .mconv) true true true true true
    && (match kind with
      | .mconv => sp = 1 && aligned f.rb 2
      | .mmar => sp = 0
      | _ => sp = 1 || aligned f.ra 2)

/-- The registers of a multiply form that its lowest lane reads. -/
def XFmt.mmaSrcs (f : XFmt) (kind : MKind) : List Src :=
  match kind with
  | .mconv => [.v f.ra 1, .v f.rb 2]
  | .mmar => []
  | _ => [.v f.ra (if f.s 1 1 = 1 then 1 else 2)]

/-- The block of an epilogue, if the operation has one. -/
def State.epBlock (s : State) (f : XFmt) : Option Block := if f.s 4 1 = 1 then s.mx.blocks.get? (f.s 2 2) else none

/-- The interrupted operation that a lane continues (R266). -/
def State.continued (s : State) (ex : List Nat) : Option MOp :=
  s.interrupted.find? (fun o => o.cur.pc = s.cur.pc && ex.any (fun l => o.lanes.any (fun p => p.2 = s.laneKey l)))

/-- Whether a lane has an operation here whose last row is not yet accepted (R259). -/
def State.accepting (s : State) (ex : List Nat) : Bool :=
  s.mx.queue.any (fun o => o.accepted < o.last && o.cur.pc = s.cur.pc && o.stand = s.curStand
    && ex.any (fun l => o.lanes.any (fun p => p.2 = s.laneKey l)))

/-- What acceptance obtained: configuration, epilogue block, the checked pieces by purpose, and the shape record. -/
structure Accepted where
  cfg : Block
  ep : Option Block
  scales : List (List (Target × Nat))
  shape : List (Target × Nat)
  svec : List (Target × Nat)
  bvec : List (Target × Nat)
  dest : List (List (Target × Nat))
  bits : BitVec 512
  mlab : Label

/-- Whether a shape record is legal (R249, R250). -/
def shapeOk (b : BitVec 512) (c : Block) : Bool :=
  let g (lo n : Nat) : Nat := bits b.toNat lo n
  let pos := g 0 16 ≠ 0 && g 16 16 ≠ 0 && g 32 16 ≠ 0 && g 48 8 ≠ 0 && g 56 8 ≠ 0 && g 64 8 ≠ 0 && g 72 8 ≠ 0 && g 96 8 ≠ 0 && g 104 8 ≠ 0
  pos && g 112 16 = 0 && g 224 288 = 0 && c.f 10 1 = 0 && !c.mxa
    && g 96 8 * (g 48 8 - 1) + 1 ≤ g 0 16 + 2 * g 80 8 && g 104 8 * (g 56 8 - 1) + 1 ≤ g 16 16 + 2 * g 88 8

/-- The rows that an operation processes (R259, R260). -/
def rowsOf (kind : MKind) (m : Nat) (lanes : List Nat) : List Nat :=
  if kind = .mmar then (List.range m).filter (fun r => lanes.contains r) else List.range m

/-- Whether the registers of an operation's rows lie beyond the quota (R248, R420). -/
def State.mmaBeyond (s : State) (f : XFmt) (kind : MKind) (c : Block) (e : Option Block) : Bool :=
  (match e with
    | some b => !b.toMem && decide (s.quota < f.rd + b.rowRegs)
    | none => false) || (kind = .mmar && decide (s.quota < f.ra + ceilDiv (c.klen * c.tyA.width) 32))

/-- Whether an operation takes the matrix-configuration fault: KLEN, an odd accumulator, or its epilogue block (R253). -/
def mmaMisfit (f : XFmt) (kind : MKind) (c : Block) (e : Option Block) : Bool :=
  !c.klenOk kind f.macros.length || (c.wide && f.rj % 2 = 1) || (match e with
    | some b => b.toMem && f.te = 0
    | none => f.s 4 1 = 1)

/-- Requests for the memory epilogue's rows. -/
def Block.destReqs (e : Block) (rows : List Nat) : List Req :=
  rows.map (fun m => engReq (if e.dsp then 1 else 0) (if e.dsp then e.f 96 32 else e.f 96 64) (m * e.f 176 16) e.rowBytes 0 true 1)

/-- The requests made at acceptance, in order: A scales, the vectors, the destination. -/
def mmaReqs (c : Block) (e : Option Block) (rows : List Nat) : List Req :=
  (if c.mxa then rows.map (fun m => engReq 1 (c.f 128 32) (m * c.f 160 16) (ceilDiv c.klen 32) 0 false 0) else [])
    ++ (match e with
      | some b =>
        (if b.f 14 1 = 1 then [engReq 1 (b.f 32 32) (4 * b.c0) (4 * b.cnt) 0 false 0] else [])
          ++ (if b.f 15 1 = 1 then [engReq 1 (b.f 64 32) (4 * b.c0) (4 * b.cnt) 0 false 0] else [])
          ++ (if b.toMem then b.destReqs rows else [])
      | none => [])

/-- Split the answers of `mmaReqs` by purpose. -/
def Accepted.ofAnswers (c : Block) (e : Option Block) (rows : List Nat) (ts : List (List (Target × Nat))) : Accepted :=
  let n := if c.mxa then rows.length else 0
  let r1 := ts.drop n
  let scl : Bool := match e with
    | some b => b.f 14 1 = 1
    | none => false
  let bias : Bool := match e with
    | some b => b.f 15 1 = 1
    | none => false
  let r2 := if scl then r1.tail else r1
  { cfg := c, ep := e, scales := ts.take n, shape := [], svec := if scl then r1.headD [] else [],
    bvec := if bias then r2.headD [] else [], dest := if bias then r2.tail else r2, bits := 0, mlab := 0 }

/-- The memory checks of acceptance after the shape record. -/
def State.mmaSpans (s : State) (l : Nat) (c : Block) (e : Option Block) (rows : List Nat) : Ans Accepted × State :=
  let r := State.checkAll (s.laneWho l) s (mmaReqs c e rows)
  match r.1 with
  | .bad x => (.bad x, r.2)
  | .wait k => (.wait k, r.2)
  | .ok ts =>
    let a := Accepted.ofAnswers c e rows ts
    let busy := (match e with
      | some b => b.dsp
      | none => false) && a.dest.any (fun d => d.any (fun p => r.2.absentSpan p.1.loc p.2))
    if busy then (.wait 4, r.2) else (.ok a, r.2)

/-- The memory checks of an operation whose A is in memory: its operand's place, then the other spans (R248, R253). -/
def State.operandSpans (f : XFmt) (kind : MKind) (s : State) (l : Nat) (c : Block) (e : Option Block) (rows : List Nat) :
    Ans Accepted × State :=
  match operandFlt (f.s 1 1) ((s.lane l).regNat f.ra (if f.s 1 1 = 1 then 1 else 2)) with
  | some x => ((Ans.bad x).labelled (s.curSlot.srcLabel (XFmt.mmaSrcs f kind)), s)
  | none => s.mmaSpans l c e rows

/-- An MCONV accepted with its shape record `bs`, read from `tg`. -/
def Accepted.withShape (s : State) (tg : Target) (bs : BitVec 512) (a : Accepted) : Accepted :=
  { a with shape := [(tg, 64)], bits := bs, mlab := s.labelSpan tg.key (s.ownLabel (s.vfOf s.curStand)) tg.loc 64 }

/-- The place of MCONV's shape record (R249). -/
def State.shapePlace (f : XFmt) (s : State) (l : Nat) : Ans Target × State :=
  s.laneCheck (fun t => engReq 1 (t.regNat f.ra 1) 0 64 64 false 0) [.v f.ra 1] l

/-- The memory checks of MCONV: the shape record's place, the other spans, then what the record holds (R249, R250, R419). -/
def State.convSpans (f : XFmt) (s : State) (l : Nat) (c : Block) (e : Option Block) (rows : List Nat) : Ans Accepted × State :=
  Ans.bind (s.shapePlace f l) (fun tg s1 => Ans.bind (s1.mmaSpans l c e rows) (fun a s2 =>
    let bs := BitVec.ofNat 512 (leNat (s2.bytesOf tg.key tg.loc 64))
    if shapeOk bs c then (.ok (a.withShape s2 tg bs), s2) else (.bad mcfgFlt, s2)))

/-- The memory checks of an operation, by its kind. -/
def State.kindSpans (f : XFmt) (kind : MKind) (s : State) (l : Nat) (c : Block) (e : Option Block) (rows : List Nat) :
    Ans Accepted × State :=
  match kind with
  | .mma | .mmasp => State.operandSpans f kind s l c e rows
  | .mconv => State.convSpans f s l c e rows
  | _ => s.mmaSpans l c e rows

/-- A multiply form without a configuration: what of its operands can be checked, then the configuration fault (R253, R419). -/
def State.bareSpans (f : XFmt) (kind : MKind) (s : State) (l : Nat) : Ans Accepted × State :=
  match kind with
  | .mma | .mmasp => match operandFlt (f.s 1 1) ((s.lane l).regNat f.ra (if f.s 1 1 = 1 then 1 else 2)) with
    | some x => ((Ans.bad x).labelled (s.curSlot.srcLabel (XFmt.mmaSrcs f kind)), s)
    | none => (.bad mcfgFlt, s)
  | .mconv => Ans.bind (s.shapePlace f l) (fun _ s1 => (.bad mcfgFlt, s1))
  | _ => (.bad mcfgFlt, s)

/-- Everything that acceptance checks, in order: the quota, memory, the configuration, room in the engine. The lanes' stores
perform before a record or a vector is read (R94, R248, R249, R253, R419). -/
def State.mmaCheck (f : XFmt) (kind : MKind) (s : State) (l : Nat) (ex : List Nat) : Ans Accepted × State :=
  let old := s.continued ex
  match (match old with
    | some o => some o.cfg
    | none => s.mx.cfg) with
  | none => s.bareSpans f kind l
  | some c =>
    let e := match old with
      | some o => o.eblock
      | none => s.epBlock f
    if s.mmaBeyond f kind c e then (.bad (.plain 0x01 1), s)
    else Ans.bind (State.kindSpans f kind (s.drainLanes ex) l c e (rowsOf kind c.m ex)) (fun a s1 =>
      if mmaMisfit f kind c e then (.bad mcfgFlt, s1)
      else match s1.engineRoom ex f.token with
        | some k => (.wait k, s1)
        | none => (.ok a, s1))

/-- The words of a vector read at acceptance, with their label and whether a sector is bad (R248, R253). -/
def State.readVec (s : State) (stand : Nat) (ts : List (Target × Nat)) : (List Word × Label × Bool) × State :=
  let r := s.readSpans stand (spansOf ts)
  (((List.range (r.1.1.length / 4)).map (fun j => BitVec.ofNat 32 (leNat ((r.1.1.drop (4 * j)).take 4))), r.1.2.1, r.1.2.2), r.2)

/-- An operation is accepted, fresh or continued: it enters the engine, and its threads stay at the instruction until its last
row is accepted (R259, R266). -/
def State.mmaAccept (f : XFmt) (kind : MKind) (s : State) (l : Nat) (ex : List Nat) (a : Accepted) : State :=
  let w := s.laneWho l
  let s1 := (a.scales ++ [a.shape, a.svec, a.bvec]).foldl (fun s t => s.touchAll w t false) s
  let s2 := a.dest.foldl (fun s t => s.touchAll w t true) s1
  let v1 := s2.readVec s.curStand a.svec
  let v2 := v1.2.readVec s.curStand a.bvec
  if v1.1.2.2 || v2.1.2.2 || a.shape.any (fun p => s.badSpan p.1.loc 64) then v2.2.failStand s.curStand 0xE0 none false
  else
    let s3 := v2.2
    let dest := a.dest.map spansOf
    let lines := match a.ep with
      | some e => if e.dsp then (dest.flatMap (fun d => d.flatMap Span.lines)).eraseDups else []
      | none => []
    let lab := s3.labelL f.gp.toNat ex (s3.curSlot.srcLabel (XFmt.mmaSrcs f kind)) a.mlab
    match s.continued ex with
    | some o =>
      let mine := ex.filter (fun l => o.lanes.any (fun p => p.2 = s.laneKey l))
      let o' := { o with cur := s.cur, lanes := mine.map (fun l => (l, s.laneKey l)), dest := dest, lines := lines }
      (s3.updStand s.curStand (fun st => { st with ops := st.ops.erase o })).enterEngine mine o'
    | none =>
      let n := if f.s 1 1 = 1 then 1 else 2
      let t := s3.lane l
      let o := { MOp.base s3 kind f ex a.cfg lab with
                 eblock := a.ep, clear := f.s 0 1 = 1, last := a.cfg.m
                 ptr := if kind = .mma || kind = .mmasp then t.regNat f.ra n else 0
                 own := f.s 1 1 = 1, shape := a.bits
                 p0 := if kind = .mconv then (t.reg f.rb).toNat else f.gp.toNat
                 k0 := if kind = .mconv then (t.reg (f.rb + 1)).toNat else 0
                 areg := f.ra, svec := v1.1.1, bvec := v2.1.1, velabel := v1.1.2.1 ||| v2.1.2.1, dest := dest, lines := lines }
      s3.enterEngine ex o

/-- The encoding, quota and claim faults of a multiply form. -/
def illMma (f : XFmt) (kind : MKind) (s : State) : Option Flt :=
  firstFault (illegal (XFmt.mmaOk f kind)
    ((XFmt.mmaSrcs f kind).any (·.beyond s.quota) || (kind = .mmar && (Src.v f.ra 1).beyond s.quota))) s.unclaimed

/-- A multiply form issues (R253, R259). An operation whose rows are still being accepted holds its lanes under stall reason
8. MMAR acts lane by lane in its guards; a poisoned guard does not raise when the epilogue writes registers (R411, R414). -/
def State.runMma (s : State) (f : XFmt) (kind : MKind) : State :=
  let srcs := XFmt.mmaSrcs f kind
  s.issue f.gn f.gp (illMma f kind s) (fun ex =>
    if s.accepting ex then s.hold 8
    else if kind = .mmar then
      let regs := match (match s.continued ex with
        | some o => o.eblock
        | none => s.epBlock f) with
        | some b => !b.toMem
        | none => false
      let bads := if regs then [] else badLanes (checkLanes (State.raiseOnly f.gp []) s ex).1
      let s1 := s.park bads
      let rest := ex.filter (fun l => !(bads.any (fun p => p.1 = l)))
      match rest with
      | [] => s1.advance (s.othersOf ex)
      | l :: _ =>
        let c := State.mmaCheck f kind s1 l rest
        match c.1 with
        | .bad x => (c.2.afterStop (c.2.park (rest.map (fun l => (l, x))))).advance (s.othersOf ex)
        | .wait k => c.2.hold k
        | .ok a => State.mmaAccept f kind c.2 l rest a
    else s.runGroup f.gn f.gp none srcs [] (State.mmaCheck f kind) (State.mmaAccept f kind))

/-- MMA (R259). -/
def execMma (f : XFmt) (s : State) : Host.Outcome State Fault Refusal := .next (s.runMma f .mma)
/-- MMASP (R251, R259). -/
def execMmasp (f : XFmt) (s : State) : Host.Outcome State Fault Refusal := .next (s.runMma f .mmasp)
/-- MCONV (R249, R250, R259). -/
def execMconv (f : XFmt) (s : State) : Host.Outcome State Fault Refusal := .next (s.runMma f .mconv)
/-- MMAR (R259, R260). -/
def execMmar (f : XFmt) (s : State) : Host.Outcome State Fault Refusal := .next (s.runMma f .mmar)

/-! ### Rows (R249, R250, R259, R260) -/

/-- The address offset of element (m, k) of an implicit convolution from BASE, or none for padding (R250). -/
def convAt (o : MOp) (m k : Nat) : Option (Nat × Nat) :=
  let g (lo n : Nat) : Nat := bits o.shape.toNat lo n
  let ih := g 0 16
  let iw := g 16 16
  let ic := g 32 16
  let fh := g 48 8
  let fw := g 56 8
  let oh := (ih + 2 * g 80 8 - g 96 8 * (fh - 1) - 1) / g 64 8 + 1
  let ow := (iw + 2 * g 88 8 - g 104 8 * (fw - 1) - 1) / g 72 8 + 1
  let p := o.p0 + m
  let kk := o.k0 + k
  if oh * ow ≤ p || fh * fw * ic ≤ kk then none
  else
    let iy : Int := ((p / ow * g 64 8 + kk / (ic * fw) * g 96 8 : Nat) : Int) - (g 80 8 : Nat)
    let ix : Int := ((p % ow * g 72 8 + kk / ic % fw * g 104 8 : Nat) : Int) - (g 88 8 : Nat)
    if iy < 0 || ix < 0 || (ih : Int) ≤ iy || (iw : Int) ≤ ix then none
    else
      let w := o.cfg.wA
      let c := kk % ic
      some (iy.toNat * g 160 32 + ix.toNat * g 192 32 + c * w / 8, if w = 4 then 4 * (c % 2) else 0)

/-- A row fetched: its elements, label and poison, or a bad sector. -/
structure RowIn where
  elems : List Nat
  label : Label
  poison : Option MPoison
  bad : Bool

/-- Fetch one element of an MCONV row: its value, its label and whether its sector is bad; 0 where the window has none. -/
def State.convElem (s : State) (o : MOp) (w : Who) (m k : Nat) : Ans (Nat × Label × Bool) × State :=
  match convAt o m k with
  | none => (.ok (0, 0, false), s)
  | some (off, sh) =>
    let n := ceilDiv o.cfg.wA 8
    Ans.bind (s.checkSpan w (engReq 1 (bits o.shape.toNat 128 32) off n 0 false 0)) (fun ts s1 =>
      let r := s1.readSpans o.stand (spansOf ts)
      (.ok (bits (leNat r.1.1) sh o.cfg.wA, r.1.2.1, r.1.2.2), r.2))

/-- Fetch the elements of a row of MCONV one by one (R250). -/
def State.convRow (o : MOp) (w : Who) (m : Nat) : State → List Nat → Ans RowIn × State
  | s, [] => (.ok ⟨[], 0, none, false⟩, s)
  | s, k :: ks =>
    Ans.bind (s.convElem o w m k) (fun v s1 =>
      Ans.bind (State.convRow o w m s1 ks) (fun r s2 =>
        (.ok ⟨v.1 :: r.elems, v.2.1 ||| r.label, r.poison, v.2.2 || r.bad⟩, s2)))

/-- Fetch row `m` of an operation. -/
def State.fetchRow (s : State) (o : MOp) (w : Who) (m : Nat) : Ans RowIn × State :=
  let c := o.cfg
  match o.kind with
  | .mmar =>
    match o.lanes.find? (fun p => p.1 = m) with
    | none => (.ok ⟨[], 0, none, false⟩, s)
    | some p =>
      let t := s.thread p.2
      let n := ceilDiv (c.klen * c.tyA.width) 32
      let v := t.regNat o.areg n
      let tok := match t.predTok? o.p0 with
        | some k => some k
        | none => t.spanTok o.areg n
      (.ok ⟨splitElems c.tyA.width c.klen v, s.curSlot.spanLabel o.areg n, tok.map (fun k => ⟨k, t.attached k, p.2⟩), false⟩, s)
  | .mconv => State.convRow o w m s (List.range c.klen)
  | .wload => (.ok ⟨[], 0, none, false⟩, s)
  | .mma | .mmasp =>
    let n := ceilDiv (c.klen * c.wA) 8
    let off := m * c.f 32 16
    let pad := (o.ptr + off) % 32 + n
    let x := s.checkSpan w (engReq (if o.own then 1 else 0) o.ptr off (ceilDiv pad 32 * 32 - (o.ptr + off) % 32) 16 false 0)
    match x.1 with
    | .bad e => (.bad e, x.2)
    | .wait k => (.wait k, x.2)
    | .ok ts =>
      let r := (x.2.touchAll w ts false).readSpans o.stand (spansOf ts)
      (.ok ⟨splitElems c.wA c.klen (leNat (r.1.1.take n)), r.1.2.1, none, r.1.2.2⟩, r.2)

/-- Fetch the A scales of a row, checked again since acceptance (R245; notes/assumptions 17). -/
def State.fetchScales (s : State) (o : MOp) (w : Who) (m : Nat) : Ans (List Nat × Label × Bool) × State :=
  if !o.cfg.mxa then (.ok ([], 0, false), s)
  else
    Ans.bind (s.checkSpan w (engReq 1 (o.cfg.f 128 32) (m * o.cfg.f 160 16) (ceilDiv o.cfg.klen 32) 0 false 0)) (fun ts s1 =>
      let x := s1.readSpans o.stand (spansOf ts)
      (.ok (x.1.1.map BitVec.toNat, x.1.2.1, x.1.2.2), x.2))

/-- Replace the first operation of a quadrant's queue whose rows are still being accepted. -/
def Matrix.updAccepting (f : MOp → MOp) (x : Matrix) : Matrix :=
  { x with queue := replaceFirst (fun o => o.accepted < o.last) f x.queue }

/-- An interrupted operation leaves the engine: the rows accepted stay to be written, and the clear of `.Z` with them when they
were all skipped, the rest waits in the stand, and its token and absent lines are as they were before the instruction (R259,
R266, R391). -/
def State.interruptOp (s : State) (q : Nat) (o : MOp) : State :=
  let rest := { o with rows := [], lines := [], clear := o.clear && o.accepted = 0 }
  let s1 := s.updMx q (Matrix.updAccepting (fun o => { o with last := o.accepted, final := false, lines := [] }))
  let s2 := s1.updMx q (fun x => { x with queue := x.queue.filter (fun o =>
    o.final || !o.rows.isEmpty || (o.clear && o.accepted ≠ 0)) })
  let s3 := o.lines.foldl (fun s ln => s.setPresence ln true) s2
  let s4 := match o.tok with
    | some t => s3.tokensDown (o.lanes.map Prod.snd) t 0 0 0
    | none => s3
  s4.updStand o.stand (fun st => { st with ops := st.ops ++ [rest] })

/-- A fault on a row parks the lanes with %prog at that row (R266). -/
def State.rowFault (s : State) (q : Nat) (o : MOp) (x : Flt) : State :=
  let s1 := (s.interruptOp q o)
  let s2 := { s1 with cur := o.cur }
  s2.afterStop (s2.park (o.lanes.map (fun p => (p.1, x))))

/-- A row is accepted: %prog counts it, and after the last the threads pass the instruction boundary (R259). -/
def State.rowTaken (s : State) (q : Nat) (o : MOp) (row : Option ARow) : State :=
  let add (o : MOp) : MOp := { o with accepted := o.accepted + 1, rows := match row with
    | some r => o.rows ++ [r]
    | none => o.rows }
  let s1 := s.updMx q (Matrix.updAccepting add)
  let n := o.accepted + 1
  o.lanes.foldl (fun s p => s.updThread p.2 (fun t =>
    if n = o.last then { t with prog := 0, pc := o.cur.nextPC } else { t with prog := n })) s1

/-- Whether an operation's lanes still stand at it, running. -/
def State.lanesThere (s : State) (o : MOp) : Bool :=
  o.lanes.all (fun p => let t := s.thread p.2; t.status = .active && t.pc = o.cur.pc)

/-- ROW_ACCEPT (R244, R259): the first operation still taking rows takes its next one, if the row buffer has room and no debug
stop holds the quadrant (R374, R378). -/
def execRowAccept (quad : Nat) (s : State) : Host.Outcome State Fault Refusal :=
  let q := (s.quadAt quad).matrix.queue
  .next (match q.find? (fun o => o.accepted < o.last) with
    | none => s
    | some o =>
      if 2 ≤ (q.map (fun o => o.rows.length)).sum || !s.lanesThere o || (s.quadAt quad).stopped.isSome then s
      else
        let m := o.accepted
        let s0 := { s with cur := o.cur }
        let w := s0.who (match o.lanes with
          | p :: _ => p.2
          | [] => noThread) o.stand o.cur.core
        if o.kind = .mmar && !(o.lanes.any (fun p => p.1 = m)) then s0.rowTaken quad o none
        else
          let sc := s0.fetchScales o w m
          match sc.1 with
          | .wait _ => s
          | .bad x => sc.2.rowFault quad o x
          | .ok g =>
            let r := sc.2.fetchRow o w m
            match r.1 with
            | .wait _ => s
            | .bad x => r.2.rowFault quad o x
            | .ok a =>
              if a.bad || g.2.2 then r.2.failStand o.stand 0xE0 none false
              else r.2.rowTaken quad o (some ⟨m, a.elems, g.1, a.label ||| g.2.1, a.poison⟩))

/-- What every operation adds to its accumulator's label (R263). -/
def Matrix.opLabel (x : Matrix) (o : MOp) : Label :=
  o.label ||| o.cfg.label ||| Label.union (o.macs.map (fun i => (x.macAt i).label))

/-- Clear the accumulator once, if the operation still has to (R259). -/
def Matrix.opClear (o : MOp) (x : Matrix) : Matrix := if o.clear then x.clearAcc o.cfg.wide o.acc else x

/-- The lowest macro of MACS whose column is poisoned gives its poison (R264). -/
def Matrix.colPoison (x : Matrix) (macs : List Nat) (n : Nat) : Option MPoison :=
  macs.findSome? (fun i => (x.macAt i).poison.get? n)

/-- The thread that an operation's matrix bits belong to: that of its lowest lane (R409). -/
def MOp.thread (o : MOp) : Nat :=
  match o.lanes with
  | p :: _ => p.2
  | [] => noThread

/-- A matrix bit's token enters a matrix bit or register of thread `th`: one of another owner is copied into that thread's ring
and renamed (R409). -/
def State.moveBit (s : State) (th : Nat) (p : MPoison) : MPoison × State :=
  if p.owner = th then (p, s)
  else
    let a := s.adopt th p.tok p.copy
    (⟨a.1, { p.copy with tok := a.1 }, th⟩, a.2)

/-- The poisoned columns of the macros set the column bits of the accumulator that are clear (R264, R409, R413). -/
def State.takeCols (s : State) (q : Nat) (o : MOp) : State :=
  (List.range 64).foldl (fun s n =>
    let x := (s.quadAt q).matrix
    match x.colPoison o.macs n, (x.accAt o.acc).cols.get? n with
    | some p, none =>
      let r := s.moveBit o.thread p
      r.2.updMx q (fun x => x.updAcc o.acc (fun a => { a with cols := a.cols.insert n r.1 }))
    | _, _ => s) s

/-- A row meets the macros: its 64 elements, its poison, the label (R144, R259, R263, R264). -/
def Matrix.processRow (o : MOp) (r : ARow) (x : Matrix) : Matrix :=
  let x1 := match r.poison with
    | some _ => x
    | none => (List.range 64).foldl (fun y n =>
        Matrix.setElem o.cfg.wide o.acc r.row n (x.accumulate o.cfg (o.kind = MKind.mmasp) o.macs r n (x.elem o.cfg.wide o.acc r.row n)) y) x
  x1.updAcc o.acc (fun a => { a with
    label := a.label ||| r.label ||| x.opLabel o
    rows := match r.poison with
      | some p => keepBit a.rows r.row p
      | none => a.rows })

/-- Replace the head of the engine queue. -/
def Matrix.updHead (f : MOp → MOp) (x : Matrix) : Matrix :=
  match x.queue with
  | [] => x
  | o :: os => { x with queue := f o :: os }

/-- ROW_WRITE (R244, R259): the operation at the head of the queue processes its oldest row; one without an epilogue
completes after its last. -/
def execRowWrite (quad : Nat) (s : State) : Host.Outcome State Fault Refusal :=
  .next (match (s.quadAt quad).matrix.queue with
    | [] => s
    | o :: _ =>
      if o.kind = .wload then s
      else match o.rows with
        | r :: rs =>
          let s1 := ((s.updMx quad (Matrix.opClear o)).takeCols quad o).updMx quad (fun x =>
            (x.processRow o r).updHead (fun o => { o with rows := rs, clear := false }))
          if rs.isEmpty && o.accepted = o.last then
            (if !o.final then s1.popEngine quad else if o.eblock.isNone then s1.finishOp quad o else s1)
          else s1
        | [] =>
          if !o.final then (s.updMx quad (Matrix.opClear o)).popEngine quad
          else if o.accepted = o.last && o.eblock.isNone then
            (s.updMx quad (fun x => (x.opClear o).updAcc o.acc (fun a => { a with label := a.label ||| x.opLabel o }))).finishOp quad o
          else s)

/-! ### The epilogue (R248, R263, R264, R413) -/

/-- An output element: its bits, or its poison. -/
abbrev OutElem := Nat × Option MPoison

/-- The elements of an output row. -/
def Matrix.outRow (x : Matrix) (o : MOp) (e : Block) (m : Nat) : List OutElem :=
  (List.range e.cnt).map (fun j =>
    (epilogueElem o.cfg e (x.elem o.cfg.wide o.acc m (e.c0 + j)) (o.svec.getD j 0) (o.bvec.getD j 0),
      x.elemPoison o.acc m (e.c0 + j)))

/-- A row of elements goes to a lane's registers; one poisoned element poisons its whole register, and a 64-bit one its pair
(R248, R264, R407). -/
def State.outRegs (s : State) (th d wo : Nat) (els : List OutElem) (n : Nat) : State :=
  let v := joinElems wo (els.map Prod.fst)
  let k := max 1 (wo / 32)
  (List.range (n / k)).foldl (fun s i =>
    let mine := els.zipIdx.filter (fun p => p.2 * wo < 32 * k * (i + 1) && 32 * k * i < (p.2 + 1) * wo)
    match mine.findSome? (fun p => p.1.2) with
    | some p =>
      let a := s.moveBit th p
      a.2.updThread th (fun t => (List.range k).foldl (fun t j => t.poisonReg (d + k * i + j) a.1.tok) t)
    | none => s.updThread th (fun t => t.setRegs (d + k * i) k (v / 2 ^ (32 * k * i) % 2 ^ (32 * k)))) s

/-- One clean element goes to memory; a four-bit one leaves its neighbour's nibble. -/
def State.outElem (s : State) (stand th wo : Nat) (sp : List Span) (lab : Label) (j v : Nat) : State :=
  let at_ := dropSpans sp (j * wo / 8)
  let bs := if wo = 4 then
      match at_ with
      | p :: _ =>
        let old := (s.byteOf (s.keyOf (s.vfOf stand)) p.loc).toNat
        [BitVec.ofNat 8 (if j % 2 = 0 then old / 16 * 16 + v % 16 else old % 16 + 16 * (v % 16))]
      | [] => []
    else leBytes (wo / 8) v
  s.writeSpans stand th at_ bs lab

/-- A row of elements goes to memory: whole when every element is clean and fills its bytes, else element by element. -/
def State.outMem (s : State) (stand th wo : Nat) (sp : List Span) (lab : Label) (els : List OutElem) : State :=
  if els.all (fun p => p.2.isNone) && els.length * wo % 8 = 0 then
    s.writeSpans stand th sp (leBytes (els.length * wo / 8) (joinElems wo (els.map Prod.fst))) lab
  else els.zipIdx.foldl (fun s p => match p.1.2 with
    | some _ => s
    | none => s.outElem stand th wo sp lab p.2 p.1.1) s

/-- What CLR does after readout (R248). -/
def Matrix.clrRead (o : MOp) (e : Block) (rows : List Nat) (x : Matrix) : Matrix :=
  if !e.clr then x
  else
    let x1 := rows.foldl (fun x m => (List.range e.cnt).foldl (fun x j => Matrix.setElem o.cfg.wide o.acc m (e.c0 + j) 0 x) x) x
    x1.updAcc o.acc (fun a => { a with
      rows := if e.cnt = 64 then a.rows.filterT (fun m _ => !rows.contains m) else a.rows
      cols := if rows.length = 32 then a.cols.filterT (fun n _ => n < e.c0 || e.c0 + e.cnt ≤ n) else a.cols })

/-- The operation's token completes with the deferred-fault status of the first poisoned element: its record copy enters
every executing lane's ring (R264, R413). -/
def State.deferToken (s : State) (ths : List Nat) (tok : Nat) (p : MPoison) (lab : Label) : State :=
  ths.foldl (fun s th =>
    let i := (s.thread th).next
    (s.updThread th (fun t => t.pushRec { p.copy with tok := setTokRing p.tok i.toNat })).tokenDown th tok 0x01 i 0 lab) s

/-- EPILOGUE (R248): the operation at the head of the queue writes its results and completes. -/
def execEpilogue (quad : Nat) (s : State) : Host.Outcome State Fault Refusal :=
  .next (match (s.quadAt quad).matrix.queue with
    | [] => s
    | o :: _ => match o.eblock with
      | none => s
      | some e =>
        if !o.final || o.accepted ≠ o.last || !o.rows.isEmpty then s
        else
          let s0 := { s with cur := o.cur }
          let s1 := s0.updMx quad (fun x => (x.opClear o).updAcc o.acc (fun a => { a with label := a.label ||| x.opLabel o }))
          let x := (s1.quadAt quad).matrix
          let rows := rowsOf o.kind o.cfg.m (o.lanes.map Prod.fst)
          let lab := (x.accAt o.acc).label ||| e.label ||| o.velabel
          let els := rows.map (fun m => (m, x.outRow o e m))
          let wo := e.out.width
          let th := o.thread
          let s2 := s1.updMx quad (Matrix.clrRead o e rows)
          if e.toMem then
            let s3 := (els.zip o.dest).foldl (fun s p => s.outMem o.stand th wo p.2 lab p.1.2) s2
            if (s3.quadAt quad).matrix.queue.isEmpty then s3
            else match els.findSome? (fun r => r.2.findSome? Prod.snd), o.tok with
              | some p, some t =>
                (o.lines.foldl (fun s ln => s.setPresence ln true) (s3.popEngine quad)).deferToken (o.lanes.map Prod.snd) t p lab
              | _, _ => s3.finishOp quad o
          else
            let s3 := els.foldl (fun s r => match o.lanes.find? (fun p => p.1 = r.1) with
              | some p => s.outRegs p.2 o.dreg wo r.2 e.rowRegs
              | none => s) s2
            (s3.labelDsts (o.lanes.map Prod.fst) [.v o.dreg e.rowRegs] lab).finishOp quad o)

/-! ### MSTAT, MDRAIN, MRDACC, MWRACC (R261, R262) -/

/-- The word of MSTAT (R261). -/
def Matrix.stat (x : Matrix) : Nat :=
  min 8 x.queue.length + (if x.cfg.isSome then 16 else 0)
    + 2 ^ 16 * maskOf ((List.range 16).filter (fun j => let a := x.accAt j; !a.rows.isEmpty || !a.cols.isEmpty))

/-- The encoding, quota and claim faults of MSTAT. -/
def illMstat (f : XFmt) (s : State) : Option Flt :=
  firstFault (illegal (f.bare true false false false false false false false) ((Dst.v f.rd 1).beyond s.quota)) s.unclaimed

/-- The encoding and claim faults of MDRAIN. -/
def illMdrain (f : XFmt) (s : State) : Option Flt :=
  firstFault (illegal (f.bare false false false false false false false false) false) s.unclaimed

/-- MSTAT (R261): legal at any time. -/
def execMstat (f : XFmt) (s : State) : Host.Outcome State Fault Refusal :=
  let d := Dst.v f.rd 1
  .next (s.issue f.gn f.gp (illMstat f s) (fun ex =>
    let outs := ex.map (fun l => (l, [match (Src.p f.gp.toNat).token (s.lane l) with
      | some t => Out.tok t (s.laneKey l)
      | none => Out.val s.mx.stat]))
    let c := match s.mx.cfg with
      | some b => b.label
      | none => 0#64
    (s.commit ex [d] (s.labelL f.gp.toNat ex 0 c) outs).advance s.cur.lanes))

/-- MDRAIN (R261). -/
def execMdrain (f : XFmt) (s : State) : Host.Outcome State Fault Refusal :=
  .next (s.runGroup f.gn f.gp (illMdrain f s) [] []
    (fun s _ _ => if s.engineIdle then (.ok (), s) else (.wait 8, s)) (fun s _ _ _ => s.advance s.cur.lanes))

/-- Whether the loaded configuration has FP64 accumulators. -/
def State.wideNow (s : State) : Bool :=
  match s.mx.cfg with
  | some c => c.wide
  | none => false

/-- The encoding and quota tests of MRDACC and MWRACC; `r` is the data register (R252, R420, R426). -/
def State.accBad (s : State) (f : XFmt) (rd : Bool) : Option Flt :=
  let r := if rd then f.rd else f.ra
  let n := 2 ^ f.s 0 3 * (if s.wideNow then 2 else 1)
  let ok := f.bare rd (!rd) true false false false true true && f.s 0 3 ≤ 6 && f.s 3 2 = 0 && (!s.wideNow || r % 2 = 0)
  firstFault (illegal ok (overSpan s.quota r n || overSpan s.quota f.rb 1)) s.unclaimed

/-- The configuration conditions of MRDACC and MWRACC: a loaded configuration, an even accumulator under F64 (R253). -/
def State.accFault (s : State) (f : XFmt) : Option Flt :=
  if s.mx.cfg.isNone || (s.wideNow && f.rj % 2 = 1) then some mcfgFlt else none

/-- One lane of MRDACC: its row's columns from B on, modulo 64, each to its own registers (R262, R412). -/
def State.readAcc (f : XFmt) (x : Matrix) (k cols : Nat) (s : State) (l : Nat) : State :=
  let th := s.laneKey l
  let t := s.lane l
  match s.raiseTok f.gp [.v f.rb 1] l with
  | some p => s.writeDst th (.v f.rd (k * cols)) (.tok p.1 th)
  | none => (List.range cols).foldl (fun s j =>
      let n := ((t.reg f.rb).toNat + j) % 64
      match x.elemPoison f.rj l n with
      | some p =>
        let a := s.moveBit th p
        a.2.updThread th (fun t => (List.range k).foldl (fun t i => t.poisonReg (f.rd + k * j + i) a.1.tok) t)
      | none => s.updThread th (fun t => t.setRegs (f.rd + k * j) k (x.elem (k = 2) f.rj l n))) s

/-- MRDACC (R262, R412). -/
def execMrdacc (f : XFmt) (s : State) : Host.Outcome State Fault Refusal :=
  let k := if s.wideNow then 2 else 1
  let cols := 2 ^ f.s 0 3
  .next (s.issue f.gn f.gp (s.accBad f true) (fun ex =>
    match s.accFault f with
    | some x => s.parkAll ex x
    | none =>
      if !s.engineIdle then s.hold 8
      else
        let lab := s.labelL f.gp.toNat ex (s.curSlot.srcLabel [.v f.rb 1]) (s.mx.accAt f.rj).label
        ((ex.foldl (State.readAcc f s.mx k cols) s).labelDsts ex [.v f.rd (k * cols)] lab).advance s.cur.lanes))

/-- One lane of MWRACC: its columns, or its row's poison where the bit is clear (R262, R412, R413). -/
def State.writeAcc (f : XFmt) (k cols : Nat) (s : State) (l : Nat) : State :=
  let t := s.lane l
  let p := match t.spanTok f.ra (k * cols) with
    | some x => some x
    | none => t.spanTok f.rb 1
  s.updMx s.cur.quadKey (fun x => match p with
    | some tok => x.updAcc f.rj (fun a => { a with rows := keepBit a.rows l ⟨tok, t.attached tok, s.laneKey l⟩ })
    | none =>
      let y := (List.range cols).foldl (fun x j =>
        Matrix.setElem (k = 2) f.rj l (((t.reg f.rb).toNat + j) % 64) (t.regNat (f.ra + k * j) k) x) x
      if cols = 64 then y.updAcc f.rj (fun a => { a with rows := a.rows.erase l }) else y)

/-- MWRACC (R262). -/
def execMwracc (f : XFmt) (s : State) : Host.Outcome State Fault Refusal :=
  let k := if s.wideNow then 2 else 1
  let cols := 2 ^ f.s 0 3
  .next (s.issue f.gn f.gp (s.accBad f false) (fun ex =>
    match s.accFault f with
    | some x => s.eachLane ex (State.afterRaise f.gp [] (fun s _ => ((.bad x : Ans Unit), s))) (fun s _ => s)
    | none =>
      if !s.engineIdle then s.hold 8
      else s.eachLane ex (State.raiseOnly f.gp []) (fun s goods =>
        let ls := goods.map Prod.fst
        let lab := s.labelL f.gp.toNat ls (s.curSlot.srcLabel [.v f.ra (k * cols), .v f.rb 1]) 0
        (ls.foldl (State.writeAcc f k cols) s).updMx s.cur.quadKey (fun x =>
          x.updAcc f.rj (fun a => { a with label := a.label ||| lab })))))

end Sys2Proof.Machine
end

