-- ==== Sys2Proof/Machine/Async.lean ====
section
/-!
DEFINITION. The asynchronous instructions, opcodes 0x180 to 0x18A (R268 to R291), and the events of copies, messages and
optical bursts.
-/

namespace Sys2Proof

/-- D as a number. -/
def YFmt.rd (f : YFmt) : Nat := f.d.toNat
/-- A as a number. -/
def YFmt.ra (f : YFmt) : Nat := f.a.toNat
/-- B as a number. -/
def YFmt.rb (f : YFmt) : Nat := f.b.toNat
/-- The token. -/
def YFmt.k (f : YFmt) : Nat := f.tok.toNat
/-- Destination space. -/
def YFmt.ds (f : YFmt) : Nat := f.dspc.toNat
/-- Source space. -/
def YFmt.ss (f : YFmt) : Nat := f.sspc.toNat
/-- Bits of SEL9. -/
def YFmt.s (f : YFmt) (lo n : Nat) : Nat := Machine.bits f.sel.toNat lo n
/-- Fields that must be zero (R268): the flags say which of D, A, B, the token, the order, DSPC, SSPC and SEL9 the entry uses;
an entry that uses the token needs TE = 1 (R426). -/
def YFmt.bare (f : YFmt) (kd ka kb kt ko kp kq ks : Bool) : Bool :=
  (kd || f.d = 0) && (ka || f.a = 0) && (kb || f.b = 0) && (if kt then f.te = 1 else f.te = 0 && f.tok = 0)
    && (ko || (f.ord = 0 && f.sco = 0)) && f.sco.toNat ≤ 4 && (kp || f.dspc = 0) && (kq || f.sspc = 0) && (ks || f.sel = 0)

end Sys2Proof

namespace Sys2Proof.Machine

/-! ### Copies (R272 to R276) -/

/-- Registers of an address operand in a space: pairs for global and far, words for scratchpads (R272). -/
def spcRegs (spc : Nat) : Nat := if spc = 0 || spc = 3 then 2 else 1

/-- The address fault at issue that names no access. -/
def addrFlt : Flt := .plain 0x05 0

/-- The far-window record of a function (R319). -/
def State.farRecord (s : State) (v w : Nat) : Nat := leNat (s.bytesOf 0 (.pa (s.ctxAddr v 0x28 + 32 * w)) 32)

/-- A far operand of `n` bytes: port, circuit, remote address and window label, or the status that completes the command: an
offset outside an open window, or a port that is down (R76, R269). -/
def State.farOpen (s : State) (v ptr off n : Nat) : Except (Byte × BitVec 16) (Nat × Nat × Nat × Label) :=
  let r := s.farRecord v (bits ptr 56 8)
  let port := bits r 0 7
  let cir := bits r 8 4
  let o := bits ptr 0 56 + off
  let serves := port < 96 && s.field (circuitAt port cir) 10 1 = 1 && s.field (circuitAt port cir) 0 10 = v
  if !bit r 7 || !serves || bits r 128 64 < o + n then .error (0x03, 0)
  else if !s.portUp port then .error (0x08, BitVec.ofNat 16 port)
  else .ok (port, cir, bits r 64 64 + o, BitVec.ofNat 64 (bits r 192 64))

/-- A copy of `n` bytes before its addresses are checked: source and destination as space, operand and offset; no source
means a fill pattern. -/
structure Piece where
  src : Option (Nat × Nat × Nat)
  fill : List Byte
  dst : Nat × Nat × Nat
  n : Nat
  shaped : Bool
  tba : Option Nat
deriving DecidableEq, Repr

/-- What checking pieces obtained: the moves, the checked targets read and written, the union of the labels read, the first
non-normal status. -/
structure Copied where
  moves : List Move
  reads : List (Target × Nat)
  writes : List (Target × Nat)
  label : Label
  code : Byte
  info : BitVec 16

/-- Nothing to copy. -/
def Copied.none : Copied := ⟨[], [], [], 0, 0, 0⟩

/-- Two results, the first status standing. -/
def Copied.append (a b : Copied) : Copied :=
  ⟨a.moves ++ b.moves, a.reads ++ b.reads, a.writes ++ b.writes, a.label ||| b.label,
    if a.code = 0 then b.code else a.code, if a.code = 0 then b.info else a.info⟩

/-- The label of the granules of checked pieces. -/
def State.labelOfAll (s : State) (w : Who) (ts : List (Target × Nat)) : Label :=
  Label.union (ts.map (fun p => s.labelSpan p.1.key (s.ownLabel w.vf) p.1.loc p.2))

/-- Check one side of a piece: checked targets, or a far place, or a status. -/
def State.sideCheck (s : State) (w : Who) (x : Nat × Nat × Nat) (n : Nat) (write : Bool) :
    Ans (List (Target × Nat) × Option (Except (Byte × BitVec 16) (Nat × Nat × Nat × Label))) × State :=
  if x.1 = 3 then (.ok ([], some (s.farOpen w.vf x.2.1 x.2.2 n)), s)
  else
    let c := s.checkSpan w { engReq x.1 x.2.1 0 n 0 write 3 with disp := (x.2.2 : Nat) }
    match c.1 with
    | .ok ts => (.ok (ts, none), c.2)
    | .bad f => (.bad f, c.2)
    | .wait k => (.wait k, c.2)

/-- What a side of a piece came to: its checked targets, and for the far tier a place or a status. -/
abbrev Side := List (Target × Nat) × Option (Except (Byte × BitVec 16) (Nat × Nat × Nat × Label))

/-- A piece whose sides passed: the move with the labels it reads, or the status that ends it. -/
def State.pieceMove (s : State) (w : Who) (p : Piece) (src dst : Side) : Copied :=
  let lab := s.labelOfAll w src.1
  let mk (far : Option (Nat × Nat × Nat)) (wl : Label) : Copied :=
    ⟨[⟨spansOf src.1, p.fill, far, spansOf dst.1, if p.shaped then [] else spansOf src.1, p.tba, p.n, lab ||| wl⟩],
      src.1, dst.1, lab ||| wl, 0, 0⟩
  match src.2, dst.2 with
  | some (.error e), _ => { Copied.none with code := e.1, info := e.2 }
  | some (.ok r), _ => mk (some (r.1, r.2.1, r.2.2.1)) r.2.2.2
  | none, some (.error e) => { Copied.none with code := e.1, info := e.2, label := lab }
  | none, some (.ok r) => mk (some (r.1, r.2.1, r.2.2.1)) 0
  | none, none => mk none 0

/-- Check a piece, source and destination; a second copy into an absent line waits (R68). -/
def State.pieceCheck (s : State) (w : Who) (p : Piece) : Ans Copied × State :=
  let a := match p.src with
    | some x => s.sideCheck w x p.n false
    | none => (.ok ([], none), s)
  let b := a.2.sideCheck w p.dst p.n true
  Ans.bind (Ans.all [a.1, b.1], b.2) (fun sides s1 => match sides with
    | [src, dst] =>
      if dst.1.any (fun t => s1.absentSpan t.1.loc t.2) then (.wait 4, s1) else (.ok (s1.pieceMove w p src dst), s1)
    | _ => (.ok Copied.none, s1))

/-- The checks of each piece. -/
def State.checkCopies (w : Who) : State → List Piece → List (Ans Copied) × State
  | s, [] => ([], s)
  | s, p :: ps =>
    let a := s.pieceCheck w p
    let b := State.checkCopies w a.2 ps
    (a.1 :: b.1, b.2)

/-- Check every byte of a command's pieces in the order of R213 (R268). -/
def State.piecesCheck (w : Who) (s : State) (ps : List Piece) : Ans Copied × State :=
  let a := State.checkCopies w s ps
  Ans.bind (Ans.all a.1, a.2) (fun xs s1 => (.ok (xs.foldl Copied.append Copied.none), s1))

/-- The transaction barrier of a command: 16-byte aligned in the issuing stand's own program area, else an address fault
(R276). -/
def State.tbaCheck (s : State) (w : Who) (ptr : Nat) : Option Flt :=
  let r := { engReq 1 ptr 0 16 0 false 0 with kind := none, tags := false, pres := false }
  if ptr % 16 ≠ 0 then some (r.flt 0x05 0)
  else match s.checkSp w r with
    | .bad f => some f
    | _ => none

/-- Whether a move leaves for the far tier under a label that its function may not send there (R76); `lab` is the command's. -/
def State.egressBarred (s : State) (v : Nat) (lab : Label) (m : Move) : Bool :=
  m.far.isSome && m.dst.isEmpty && !(Label.subset (m.label ||| lab) (s.ownLabel v))

/-- A command enters the request engine: queues drain (R94), tokens rise (R115), destination lines become absent (R96). An entry
that may not leave for the far tier moves nothing, and its status is a release refusal (R76, R277). -/
def State.submit (s : State) (l : Nat) (ex : List Nat) (tok : Nat) (c : Copied) (lab : Label) : State :=
  let w := s.laneWho l
  let s1 := (((s.drainLanes ex).touchAll w c.reads false).touchAll w c.writes true).tokensUp ex tok
  let refused := c.code = 0 && c.moves.any (s.egressBarred w.vf lab)
  let moves := c.moves.filter (fun m => !s.egressBarred w.vf lab m)
  let lines := (moves.flatMap (fun m => m.dst.flatMap Span.lines)).eraseDups
  let s2 := lines.foldl (fun s ln => s.setPresence ln false) s1
  let cmd : Command := { kind := .copy, vf := w.vf, stand := w.stand, threads := ex.map s.laneKey, tok := tok, moves := moves,
                         label := lab, lines := lines, code := if refused then 0x02#8 else c.code
                         info := if refused then (s.free 0).setWidth 16 else c.info
                         tag := 0, len := 0, scratch := false, recOff := 0, peer := 0, got := none, inLabel := c.label }
  { s2 with commands := s2.commands.insert s2.nextId cmd, nextId := s2.nextId + 1 }

/-- A fresh answer in place of one that is not a success. -/
def Ans.recast {α β : Type} (d : β) : Ans α → Ans β
  | .bad f => .bad f
  | .wait k => .wait k
  | .ok _ => .ok d

/-- The bytes of the slice of crew `c` of `n` bytes in `k` slices: first offset and end (R273). -/
def sliceOf (n c k : Nat) : Nat × Nat :=
  let u := ceilDiv n 64
  (64 * (c * u / k), min n (64 * ((c + 1) * u / k)))

/-- The fields of a copy shape record (R274). -/
structure CopyShape where
  e : Nat
  pmt : Bool
  n0 : Nat
  n1 : Nat
  n2 : Nat
  ss1 : Nat
  ss2 : Nat
  ds1 : Nat
  ds2 : Nat
  l0 : Nat
  l1 : Nat
  l2 : Nat
  fill : List Byte
  tba : Nat
deriving DecidableEq, Repr

/-- Read a shape record; none for a reserved value or a stride that is not a multiple of the element (R274). -/
def copyShape (v : Nat) : Option CopyShape :=
  let g (lo n : Nat) : Nat := bits v lo n
  let e := 2 ^ g 0 3
  if 4 < g 0 3 || g 4 12 ≠ 0 || g 448 64 ≠ 0 || g 16 16 = 0 || g 32 16 = 0 || g 48 16 = 0
    || g 64 32 % e ≠ 0 || g 96 32 % e ≠ 0 || g 128 32 % e ≠ 0 || g 160 32 % e ≠ 0 then none
  else some ⟨e, g 3 1 = 1, g 16 16, g 32 16, g 48 16, g 64 32, g 96 32, g 128 32, g 160 32, g 192 32, g 224 32, g 256 32,
    leBytes e (g 288 128), g 416 32⟩

/-- The pieces of one row of a shaped copy, or an element outside the limits without PMT (R275): the elements of the row that
lie inside the limits are one run. -/
def CopyShape.row (h : CopyShape) (src dst : Nat × Nat) (o : Int × Int × Int) (tba : Option Nat) (r : Nat) : Option (List Piece) :=
  let i1 := r % h.n1
  let i2 := r / h.n1
  let c1 := o.2.1 + (i1 : Nat)
  let c2 := o.2.2 + (i2 : Nat)
  let inside := decide (0 ≤ c1) && decide (c1 < (h.l1 : Nat)) && decide (0 ≤ c2) && decide (c2 < (h.l2 : Nat))
  let lo := if inside then min h.n0 (-o.1).toNat else h.n0
  let hi := if inside then max lo (min h.n0 ((h.l0 : Int) - o.1).toNat) else h.n0
  let at_ := i1 * h.ds1 + i2 * h.ds2
  let fill (a b : Nat) : List Piece :=
    if a < b then [⟨none, h.fill, (dst.1, dst.2, at_ + a * h.e), (b - a) * h.e, true, tba⟩] else []
  let run : List Piece :=
    if lo < hi then
      [⟨some (src.1, src.2, ((o.1 + (lo : Nat)) * (h.e : Nat) + c1 * (h.ss1 : Nat) + c2 * (h.ss2 : Nat)).toNat), [],
        (dst.1, dst.2, at_ + lo * h.e), (hi - lo) * h.e, true, tba⟩]
    else []
  if !h.pmt && !(lo = 0 && hi = h.n0 && inside) then none else some (fill 0 lo ++ run ++ fill hi h.n0)

/-- The pieces of a shaped copy's slice; none when an element lies outside the limits without PMT (R275). -/
def CopyShape.pieces (h : CopyShape) (src dst : Nat × Nat) (o : Int × Int × Int) (tba : Option Nat) (c k : Nat) : Option (List Piece) :=
  let nr := h.n1 * h.n2
  let a := c * nr / k
  let b := (c + 1) * nr / k
  (List.range (b - a)).foldl (fun acc i => match acc, h.row src dst o tba (a + i) with
    | some ps, some qs => some (ps ++ qs)
    | _, _ => none) (some [])

/-- A copy prepared at issue: its pieces and the label of the record it read (M of R268). -/
structure Prepared where
  pieces : List Piece
  mlab : Label
  rcd : List (Target × Nat)

/-- A linear copy prepared (R273). -/
def State.prepLinear (s : State) (f : YFmt) (w : Who) (t : Thread) (src dst : Nat × Nat) : Ans Prepared × State :=
  let n := (t.reg f.rb).toNat
  let tbaW := (t.reg (f.rb + 1)).toNat
  let k := f.s 6 2 + 1
  let crew := s.crewOf w.thread
  if n = 0 || 16777215 < n then (.bad addrFlt, s)
  else match (if f.s 5 1 = 1 then s.tbaCheck w tbaW else none) with
    | some x => (.bad x, s)
    | none =>
      let sl := sliceOf n crew k
      let tba := if f.s 5 1 = 1 then some (bits tbaW 0 20) else none
      let ps := if k ≤ crew || sl.2 ≤ sl.1 then []
        else [⟨some (src.1, src.2, sl.1), [], (dst.1, dst.2, sl.1), sl.2 - sl.1, false, tba⟩]
      (.ok ⟨ps, 0, []⟩, s)

/-- A shaped copy prepared: its record is read as part of the command (R274). -/
def State.prepShaped (s : State) (f : YFmt) (w : Who) (t : Thread) (src dst : Nat × Nat) : Ans Prepared × State :=
  let ptr := (t.reg f.rb).toNat
  let r := engReq 1 ptr 0 64 0 false 0
  if ptr % 64 ≠ 0 then (.bad (r.flt 0x05 0), s)
  else
    Ans.bind (s.checkSpan w r) (fun ts s1 =>
      let bs := ts.flatMap (fun p => s1.bytesOf p.1.key p.1.loc p.2)
      let off (spc p : Nat) : Nat := if spc = 0 then bits p 0 56 else bits p 0 20
      match copyShape (leNat bs) with
      | none => (.bad (r.flt 0x05 0), s1)
      | some h =>
        if off src.1 src.2 % h.e ≠ 0 || off dst.1 dst.2 % h.e ≠ 0 then (.bad (r.flt 0x05 0), s1)
        else match (if f.s 5 1 = 1 then s1.tbaCheck w h.tba else none) with
          | some x => (.bad x, s1)
          | none =>
            let k := f.s 6 2 + 1
            let crew := s1.crewOf w.thread
            let o (i : Nat) : Int := sext (t.reg (f.rb + i)).toNat 32
            let tba := if f.s 5 1 = 1 then some (bits h.tba 0 20) else none
            let mk (ps : List Piece) : Ans Prepared := .ok ⟨ps, s1.labelOfAll w ts, ts⟩
            if k ≤ crew then (mk [], s1)
            else match h.pieces src dst (o 1, o 2, o 3) tba crew k with
              | none => (.bad (r.flt 0x05 0), s1)
              | some ps => (mk ps, s1))

/-- Whether a bad sector lies under a record read at issue (R448). -/
def State.badRecord (s : State) (ts : List (Target × Nat)) : Bool := ts.any (fun p => s.badSpan p.1.loc p.2)

/-- The check of a command: room for its token, its preparation after the lanes' stores, and every piece (R94, R115, R268). -/
def State.copyCheck (f : YFmt) (srcs : List Src) (prep : State → Who → Thread → Ans Prepared × State) (s : State) (l : Nat)
    (ex : List Nat) : Ans (Prepared × Copied) × State :=
  if s.tokenFull ex f.k then (.wait 4, s)
  else Ans.relabel (s.curSlot.srcLabel srcs) (Ans.bind (prep (s.drainLanes ex) (s.laneWho l) (s.lane l)) (fun a s1 =>
    Ans.bind (State.piecesCheck (s.laneWho l) s1 a.pieces) (fun y s2 => (.ok (a, y), s2))))

/-- A command whose pieces are prepared is checked, and submitted. -/
def State.runCopy (s : State) (f : YFmt) (bad : Option Flt) (srcs : List Src)
    (prep : State → Who → Thread → Ans Prepared × State) : State :=
  s.runGroup f.gn f.gp bad srcs [] (State.copyCheck f srcs prep)
    (fun s l ex r =>
      if s.badRecord r.1.rcd then s.failStand s.curStand 0xE0 none false
      else
        let lab := s.labelL f.gp.toNat ex (s.curSlot.srcLabel srcs) r.1.mlab
        ((s.touchAll (s.laneWho l) r.1.rcd false).submit l ex f.k r.2 lab).advance s.cur.lanes)

/-- The registers that XCOPY reads: source, length and record, destination (R272). -/
def xcopySrcs (f : YFmt) : List Src :=
  [.v f.ra (spcRegs f.ss), .v f.rb (if f.s 8 1 = 1 then 4 else 2), .v f.rd (spcRegs f.ds)]

/-- The feature, encoding and quota faults of XCOPY (R272, R385). -/
def illXcopy (f : YFmt) (s : State) : Option Flt :=
  firstFault (if f.ds = 3 || f.ss = 3 then s.featured 3 else none)
    (illegal (f.bare true true true true true true true true && f.s 0 5 = 0 && !(f.ds = 3 && f.ss = 3)
      && !(f.s 8 1 = 1 && (f.ds = 3 || f.ss = 3))
      && aligned f.ra (spcRegs f.ss) && aligned f.rb (if f.s 8 1 = 1 then 4 else 2) && aligned f.rd (spcRegs f.ds))
      ((xcopySrcs f).any (·.beyond s.quota)))

/-- XCOPY prepared: linear or shaped (R273, R274). -/
def State.xcopyPrep (f : YFmt) (s : State) (w : Who) (t : Thread) : Ans Prepared × State :=
  let src := (f.ss, t.regNat f.ra (spcRegs f.ss))
  let dst := (f.ds, t.regNat f.rd (spcRegs f.ds))
  if f.s 8 1 = 1 then s.prepShaped f w t src dst else s.prepLinear f w t src dst

/-- XCOPY (R272 to R276, R426). -/
def execXcopy (f : YFmt) (s : State) : Host.Outcome State Fault Refusal :=
  .next (s.runCopy f (illXcopy f s) (xcopySrcs f) (State.xcopyPrep f))

/-- The pieces of a kick list; none for a reserved value (R277). -/
def kickPieces (n : Nat) (v : Nat) : Option (List Piece) :=
  (List.range n).foldl (fun acc i =>
    let e := bits v (256 * i) 256
    let g (lo k : Nat) : Nat := bits e lo k
    let tba := if g 156 1 = 1 then some (g 192 32) else none
    match acc with
    | none => none
    | some ps =>
      if g 128 24 = 0 || g 157 35 ≠ 0 || g 224 32 ≠ 0 || (g 152 2 = 3 && g 154 2 = 3) then none
      else some (ps ++ [⟨some (g 152 2, g 0 64, 0), [], (g 154 2, g 64 64, 0), g 128 24, false, tba⟩])) (some [])

/-- A scratchpad operand of a kick entry is the low word of its field. -/
def Piece.words (p : Piece) : Piece :=
  let fix (x : Nat × Nat × Nat) : Nat × Nat × Nat := if x.1 = 1 || x.1 = 2 then (x.1, x.2.1 % 2 ^ 32, x.2.2) else x
  { p with src := p.src.map fix, dst := fix p.dst }

/-- The registers that XKICK reads. -/
def xkickSrcs (f : YFmt) : List Src := [.v f.ra (spcRegs f.ss), .v f.rb 1]

/-- The encoding and quota faults of XKICK. -/
def illXkick (f : YFmt) (s : State) : Option Flt :=
  illegal (f.bare false true true true true false true false && f.ss ≤ 1 && aligned f.ra (spcRegs f.ss))
    ((xkickSrcs f).any (·.beyond s.quota))

/-- Whether a piece names the far tier (R272). -/
def Piece.isFar (p : Piece) : Bool := p.dst.1 = 3 || (match p.src with
  | some x => x.1 = 3
  | none => false)

/-- The pieces of a kick list after their barriers are tested and their far tier (R276, R277, R385). -/
def State.kickReady (s : State) (w : Who) (qs : List Piece) : Option Flt :=
  if s.withheld 3 && qs.any Piece.isFar then some (.plain 0x01 4)
  else qs.findSome? (fun p => match p.tba with
    | some x => s.tbaCheck w x
    | none => none)

/-- XKICK prepared: its list is read as part of the command (R277). -/
def State.xkickPrep (f : YFmt) (s : State) (w : Who) (t : Thread) : Ans Prepared × State :=
  let n := (t.reg f.rb).toNat
  if n = 0 || 256 < n then (.bad addrFlt, s)
  else
    let r := { engReq f.ss (t.regNat f.ra (spcRegs f.ss)) 0 (32 * n) 32 false 0 with plain := false }
    Ans.bind (s.checkSpan w r) (fun ts s1 =>
      match kickPieces n (leNat (ts.flatMap (fun p => s1.bytesOf p.1.key p.1.loc p.2))) with
      | none => (.bad (r.flt 0x05 0), s1)
      | some ps => match s1.kickReady w (ps.map Piece.words) with
        | some x => (.bad x, s1)
        | none => (.ok ⟨(ps.map Piece.words).map (fun p => { p with tba := p.tba.map (fun x => bits x 0 20) }),
            s1.labelOfAll w ts, ts⟩, s1))

/-- XKICK (R277). -/
def execXkick (f : YFmt) (s : State) : Host.Outcome State Fault Refusal :=
  .next (s.runCopy f (illXkick f s) (xkickSrcs f) (State.xkickPrep f))

/-! ### Copies in flight (R95 to R97, R273, R276) -/

/-- Change a command. -/
def State.updCmd (s : State) (k : Nat) (f : Command → Command) : State := { s with commands := s.commands.modify k f }

/-- Whether a byte of a destination lies in a span. -/
def Span.holds (p : Span) (l : Loc) : Bool := (l.within p.loc p.len).isSome

/-- The lines of a command that no remaining move writes become present (R96). -/
def State.settleLines (s : State) (k : Nat) : State :=
  match s.commands.get? k with
  | none => s
  | some c =>
    let left := c.moves.flatMap (fun m => m.dst.flatMap Span.lines)
    let done := c.lines.filter (fun ln => !left.contains ln)
    (done.foldl (fun s ln => s.setPresence ln true) s).updCmd k (fun c => { c with lines := c.lines.filter (fun ln => left.contains ln) })

/-- The bytes that the next part of a move writes, with their label and whether a source sector is bad. A byte where source
and destination overlap is free (R8, R273). -/
def State.moveBytes (s : State) (c : Command) (m : Move) (p : Span) (n : Nat) (data : List Byte) : (List Byte × Label × Bool) × State :=
  let r := if m.far.isSome then ((data, 0#64, false), s) else s.readSpans c.stand (takeSpans m.src n)
  let bs := (List.range n).map (fun i =>
    if m.under.any (fun x => x.holds (p.loc.plus i)) then r.2.freeB i
    else if m.src.isEmpty && m.far.isNone then m.fill.getD (i % m.fill.length) 0#8
    else r.1.1.getD i 0#8)
  ((bs, r.1.2.1, r.1.2.2), r.2)

/-- What is left of a move after `n` bytes. -/
def Move.rest (m : Move) (n : Nat) : Move :=
  let k := n % max 1 m.fill.length
  { m with src := dropSpans m.src n, dst := dropSpans m.dst n, len := m.len - n, fill := m.fill.drop k ++ m.fill.take k
           far := m.far.map (fun x => (x.1, x.2.1, x.2.2 + n)) }

/-- Remaining moves of a command, without an empty one in front. -/
def trimMoves (m : Move) (ms : List Move) : List Move := if m.len = 0 then ms else m :: ms

/-- The transaction barrier of a move, if it has one, is credited with `n` bytes written (R276). -/
def State.creditMove (s : State) (stand : Nat) (m : Move) (n : Nat) (lab : Label) : State :=
  match m.tba with
  | some o => s.tbarCredit stand o n lab
  | none => s

/-- COPY_LINE_ARRIVAL (R95, R96, R97, R276): the next part of a copy performs, at most one 64-byte line of the destination;
`data` is what the far tier sent. A copy to the far tier leaves in one piece, or is refused whole (R76). -/
def execCopyLineArrival (cmd : Nat) (data : List Byte) (s : State) : Host.Outcome State Fault Refusal :=
  .next (match s.commands.get? cmd with
    | none => s
    | some c => match c.kind, c.moves with
      | .copy, m :: ms => match m.dst with
        | [] => match m.far with
          | none => s.updCmd cmd (fun c => { c with moves := ms })
          | some x =>
            let r := s.readSpans c.stand m.src
            let s1 := r.2
            if r.1.2.2 then s1.failStand c.stand 0xE0 none false
            else
              let lab := c.label ||| m.label ||| r.1.2.1
              let bad : Option (Byte × BitVec 16) :=
                if !(Label.subset lab (s1.ownLabel c.vf)) then some (0x02, (s.free 0).setWidth 16)
                else if !s1.portUp x.1 then some (0x08, BitVec.ofNat 16 x.1)
                else none
              match bad with
              | some e => s1.updCmd cmd (fun c => { c with moves := ms, code := if c.code = 0 then e.1 else c.code
                                                           info := if c.code = 0 then e.2 else c.info })
              | none => ({ (s1.updCmd cmd (fun c => { c with moves := ms })) with
                  outputs := s1.outputs ++ [Output.farWrite x.1 x.2.1 x.2.2 r.1.1] }).creditMove c.stand m r.1.1.length lab
        | p :: _ =>
          let off := match p.loc with
            | .pa a => a % 64
            | .sp _ o => o % 64
          let n := min (min (64 - off) p.len) (if m.far.isSome then data.length else 64)
          if n = 0 then s
          else
            let r := s.moveBytes c m p n data
            if r.1.2.2 then r.2.failStand c.stand 0xE0 none false
            else
              let lab := c.label ||| m.label ||| r.1.2.1
              let s1 := r.2.writeSpans c.stand (c.threads.headD noThread) (takeSpans m.dst n) r.1.1 lab
              let s2 := s1.updCmd cmd (fun c => { c with moves := trimMoves (m.rest n) ms })
              (s2.settleLines cmd).creditMove c.stand m n lab
      | _, _ => s)

/-- COPY_COMPLETE (R95, R268, R270): the command's token falls with its status after its last write. -/
def execCopyComplete (cmd : Nat) (s : State) : Host.Outcome State Fault Refusal :=
  .next (match s.commands.get? cmd with
    | none => s
    | some c =>
      if c.kind ≠ .copy || !c.moves.isEmpty then s
      else
        let s1 := s.settleLines cmd
        { (s1.tokensDown c.threads c.tok c.code c.info (c.label ||| c.inLabel)) with commands := s1.commands.erase cmd })

/-! ### XWAIT, XTEST (R269 to R271) -/

/-- The status word of a token (R269). -/
def Token.status (x : Token) (cnt : Bool) : Nat :=
  x.info.toNat + x.ring.toNat * 2 ^ 16 + (if cnt then min 63 x.count else 0) * 2 ^ 18 + x.code.toNat * 2 ^ 24

/-- The poison token that a status with CODE 0x01 names (R270). -/
def Thread.statusTok (t : Thread) (x : Token) : Word :=
  let e := t.ring.getD x.ring.toNat RingRec.empty
  if e.v then e.tok else BitVec.ofNat 32 (2 ^ 24 + x.ring.toNat * 2 ^ 22)

/-- A lane's status with CODE 0x01 raises its poison, and CODE becomes 0 (R270, R416). -/
def State.statusRaise (s : State) (l k : Nat) : Flt × State :=
  let t := s.lane l
  let x := t.sb k
  (s.raiseFlt l (t.statusTok x) x.label, s.updLane l (fun t => t.setSb k (t.sb k).read))

/-- What an XWAIT lane does: a fault, to wait, or a status word. -/
inductive WaitAns where
  | bad (f : Flt)
  | stay
  | word (v : Nat)

/-- One XWAIT lane (R270, R271). -/
def State.waitLane (s : State) (gp : BitVec 3) (k : Nat) (trap : Bool) (l : Nat) : WaitAns × State :=
  match s.raiseOf gp [] l with
  | some f => (.bad f, s)
  | none =>
    let x := (s.lane l).sb k
    if x.count ≠ 0 then (.stay, s)
    else if x.code = 0x01 then
      let r := s.statusRaise l k
      (.bad r.1, r.2)
    else
      let s1 := s.updLane l (fun t => t.setSb k (t.sb k).read)
      if trap && x.code ≠ 0 then
        (.bad { Flt.plain 0x15 x.code.toNat with det := BitVec.ofNat 64 (x.status false), label := 0 }, s1)
      else (.word (x.status false), s1)

/-- Fold a lane's answer over lanes. -/
def waitLanes (go : State → Nat → WaitAns × State) : State → List Nat → List (Nat × WaitAns) × State
  | s, [] => ([], s)
  | s, l :: ls =>
    let a := go s l
    let r := waitLanes go a.2 ls
    ((l, a.1) :: r.1, r.2)

/-- The encoding and quota faults of XWAIT. -/
def illXwait (f : YFmt) (s : State) : Option Flt :=
  illegal (f.bare (!(f.s 3 1 = 1)) false false false false false false true && f.s 4 5 = 0)
    (!(f.s 3 1 = 1) && (Dst.v f.rd 1).beyond s.quota)

/-- XWAIT (R271). -/
def execXwait (f : YFmt) (s : State) : Host.Outcome State Fault Refusal :=
  let trap := f.s 3 1 = 1
  let k := f.s 0 3
  let d := Dst.v f.rd 1
  .next (s.issue f.gn f.gp (illXwait f s) (fun ex =>
    let r := waitLanes (fun s l => s.waitLane f.gp k trap l) s ex
    let bads := r.1.filterMap (fun p => match p.2 with
      | .bad x => some (p.1, x)
      | _ => none)
    let stay := r.1.filterMap (fun p => match p.2 with
      | .stay => some p.1
      | _ => none)
    let outs := r.1.filterMap (fun p => match p.2 with
      | .word v => some (p.1, [Out.val v])
      | _ => none)
    let ls := outs.map Prod.fst
    let s1 := stay.foldl (fun s l => s.updLane l (fun t => t.sleep (.token k))) r.2
    let s2 := if trap then s1 else s1.commit ls [d] (s1.labelL f.gp.toNat ls 0 0) outs
    (s2.park bads).advance (s.othersOf (bads.map Prod.fst ++ stay))))

/-- The encoding and quota faults of XTEST (`lo` 3) and RTEST (6): the SEL9 bits from `lo` on are zero. -/
def illTest (f : YFmt) (lo : Nat) (s : State) : Option Flt :=
  illegal (f.bare true false false false false false false true && f.s lo (9 - lo) = 0) ((Dst.v f.rd 1).beyond s.quota)

/-- XTEST (R271, R411). -/
def execXtest (f : YFmt) (s : State) : Host.Outcome State Fault Refusal :=
  let k := f.s 0 3
  let d := Dst.v f.rd 1
  .next (s.issue f.gn f.gp (illTest f 3 s) (fun ex =>
    let outs := ex.map (fun l => (l, [match (Src.p f.gp.toNat).token (s.lane l) with
      | some t => Out.tok t (s.laneKey l)
      | none => Out.val (((s.lane l).sb k).status true)]))
    (s.commit ex [d] (s.labelL f.gp.toNat ex 0 0) outs).advance s.cur.lanes))

/-! ### Static routes (R279 to R282) -/

/-- One hop from a site: none off the wafer. -/
def hopFrom (site dir : Nat) : Option Nat :=
  let x := siteX site
  let y := siteY site
  match dir with
  | 0 => if y = 0 then none else some (site - 80)
  | 1 => if x = 79 then none else some (site + 1)
  | 2 => if y = 95 then none else some (site + 80)
  | _ => if x = 0 then none else some (site - 1)

/-- Follow a hop list inside a claimed rectangle, off holes: the sites entered, or none (R279). -/
def State.followHops (s : State) (x0 y0 w h rec' : Nat) : Nat → Nat → Option (List Nat)
  | 0, _ => some []
  | n + 1, site =>
    match hopFrom site (rec' % 4) with
    | none => none
    | some t =>
      if siteX t < x0 || x0 + w ≤ siteX t || siteY t < y0 || y0 + h ≤ siteY t || s.siteState t = 2 then none
      else match State.followHops s x0 y0 w h (rec' / 4) n t with
        | some ts => some (t :: ts)
        | none => none

/-- The sites that route record `b` enters from a stand of a grid; none when the route is void there (R279). -/
def State.routeFrom (s : State) (g : Grid) (b : BitVec 512) (num : Nat) : Option (List Nat) :=
  let n := bits b.toNat 0 8
  if n = 0 || 232 < n then none
  else match s.followHops g.x0 g.y0 g.width g.height (b.toNat / 256) n (g.siteOf num) with
    | none => none
    | some ts => match ts.getLast? with
      | some t => if s.siteState t = 0 then some ts else none
      | none => none

/-- The stand key that route `k` reaches from a stand; none when it is void. -/
def State.routeTo (s : State) (stand k : Nat) : Option Nat :=
  match s.gridAt stand with
  | none => none
  | some g => match s.routeFrom g (g.routes.getD k 0) (stand % 8192) with
    | none => none
    | some ts => match ts.getLast? with
      | some t => some (gridOf stand * 8192 + ((siteY t - g.y0) * g.width + (siteX t - g.x0)))
      | none => none

/-- An inbound circuit of a stand. -/
def State.circuit (s : State) (stand k : Nat) : Circuit :=
  match s.stands.get? stand with
  | some st => st.circuits.getD k ⟨[], []⟩
  | none => ⟨[], []⟩

/-- Change an inbound circuit. -/
def State.updCircuit (s : State) (stand k : Nat) (f : Circuit → Circuit) : State :=
  s.updStand stand (fun st => { st with circuits := st.circuits.put ⟨[], []⟩ k (f (st.circuits.getD k ⟨[], []⟩)) })

/-- Whether a stand can take another message on a route: two credits a circuit, none while it is saved (R281, R290). -/
def State.hasCredit (s : State) (stand k : Nat) : Bool :=
  match s.stands.get? stand with
  | some st => st.saved.isNone && st.frozen.isNone && ((st.circuits.getD k ⟨[], []⟩).flight.length + (st.circuits.getD k ⟨[], []⟩).waiting.length < 2)
  | none => false

/-- The words per lane of a SEND or RECV. -/
def YFmt.words (f : YFmt) : Nat := 2 ^ f.s 6 2

/-- SCO is legal on SEND and RECV (R80). -/
def YFmt.scoOk (f : YFmt) : Bool := f.ord ≠ 0 || f.sco = 0

/-- The encoding and quota faults of SEND. -/
def illSend (f : YFmt) (s : State) : Option Flt :=
  illegal (f.bare false true false false true false false true && (f.ord = 0 || f.ord = 2) && YFmt.scoOk f && f.s 6 2 ≠ 3 && f.s 8 1 = 0
    && aligned f.ra (YFmt.words f)) ((Src.v f.ra (YFmt.words f)).beyond s.quota)

/-- The check of SEND: its route, and a credit at the far end (R279, R281). -/
def State.sendCheck (f : YFmt) (s : State) (_l : Nat) (_ex : List Nat) : Ans Nat × State :=
  match s.routeTo s.curStand (f.s 0 6) with
  | none => (.bad (.plain 0x11 (f.s 0 6)), s)
  | some t => if s.hasCredit t (f.s 0 6) then (.ok t, s) else (.wait 7, s)

/-- The message of SEND: for each of the 32 lanes its words, zeros where the lane does not execute (R280). -/
def State.sendMsg (f : YFmt) (s : State) (ex : List Nat) : Msg :=
  let n := YFmt.words f
  ⟨n, (List.range 32).flatMap (fun l => (List.range n).map (fun i => if ex.contains l then (s.lane l).reg (f.ra + i) else 0#32)),
    BitVec.ofNat 32 (maskOf ex), s.labelL f.gp.toNat ex (s.curSlot.srcLabel [.v f.ra n]) 0⟩

/-- SEND (R280 to R282). -/
def execSend (f : YFmt) (s : State) : Host.Outcome State Fault Refusal :=
  .next (s.runGroup f.gn f.gp (illSend f s) [] [.v f.ra (YFmt.words f)] (State.sendCheck f)
    (fun s _ ex t =>
      let s1 := if f.ord = 2 then s.drainLanes ex else s
      (s1.updCircuit t (f.s 0 6) (fun c => { c with flight := c.flight ++ [s.sendMsg f ex] })).advance s.cur.lanes))

/-- MESSAGE_ARRIVAL (R281): the oldest message crossing a circuit reaches its end. -/
def execMessageArrival (stand route : Nat) (s : State) : Host.Outcome State Fault Refusal :=
  .next (match (s.circuit stand route).flight with
    | [] => s
    | m :: ms => s.updCircuit stand route (fun c => ⟨ms, c.waiting ++ [m]⟩))

/-- The encoding and quota faults of RECV. -/
def illRecv (f : YFmt) (s : State) : Option Flt :=
  illegal (f.bare true false false false true false false true && (f.ord = 0 || f.ord = 1) && YFmt.scoOk f && f.s 6 2 ≠ 3 && f.s 8 1 = 0
    && aligned f.rd (YFmt.words f)) ((Dst.v f.rd (YFmt.words f)).beyond s.quota)

/-- The check of RECV: the oldest message of the circuit, of the same width (R281). -/
def State.circuitCheck (f : YFmt) (s : State) (_l : Nat) (_ex : List Nat) : Ans Msg × State :=
  match (s.circuit s.curStand (f.s 0 6)).waiting with
  | [] => (.wait 6, s)
  | m :: _ => if m.width = YFmt.words f then (.ok m, s) else (.bad (.plain 0x11 (f.s 0 6)), s)

/-- The words of a message that belong to a lane, as one number (R280). -/
def Msg.laneWords (m : Msg) (n l : Nat) : Nat :=
  (List.range n).foldl (fun v i => v + (m.words.getD (n * l + i) 0#32).toNat * 2 ^ (32 * i)) 0

/-- RECV (R280 to R282). -/
def execRecv (f : YFmt) (s : State) : Host.Outcome State Fault Refusal :=
  let k := f.s 0 6
  let n := YFmt.words f
  .next (s.runGroup f.gn f.gp (illRecv f s) [] [] (State.circuitCheck f)
    (fun s _ ex m =>
      let s1 := s.updCircuit s.curStand k (fun c => { c with waiting := c.waiting.tail })
      (s1.commit ex [.v f.rd n] (s1.labelL f.gp.toNat ex 0 m.label) (ex.map (fun l => (l, [Out.val (m.laneWords n l)])))).advance
        s.cur.lanes))

/-- RTEST (R281, R411). -/
def execRtest (f : YFmt) (s : State) : Host.Outcome State Fault Refusal :=
  let k := f.s 0 6
  let d := Dst.v f.rd 1
  .next (s.issue f.gn f.gp (illTest f 6 s) (fun ex =>
    let v := min 3 (s.circuit s.curStand k).waiting.length + (if (s.routeTo s.curStand k).isNone then 4 else 0)
    let outs := ex.map (fun l => (l, [match (Src.p f.gp.toNat).token (s.lane l) with
      | some t => Out.tok t (s.laneKey l)
      | none => Out.val v]))
    (s.commit ex [d] (s.labelL f.gp.toNat ex 0 0) outs).advance s.cur.lanes))

/-! ### Optical bursts (R285 to R288, R437) -/

/-- The destination-table entry of a function (R285). -/
def State.destEntry (s : State) (v i : Nat) : Nat := leNat (s.bytesOf 0 (.pa (s.ctxAddr v 0x20 + 16 * i)) 16)

/-- The lowest valid circuit of a port that satisfies a test. -/
def State.portCircuit (s : State) (port : Nat) (p : Nat → Bool) : Option Nat :=
  if port < 96 then (List.range 16).find? (fun i => s.field (circuitAt port i) 10 1 = 1 && p i) else none

/-- The circuit by which a port serves a function (R315). -/
def State.servedBy (s : State) (port v : Nat) : Option Nat := s.portCircuit port (fun i => s.field (circuitAt port i) 0 10 = v)

/-- A burst joins its port's queue, or completes at once when the port is down (R286, R457). -/
def State.queueBurst (s : State) (b : Burst) : State :=
  if !s.portUp b.port then s.tokensDown b.threads b.tok 0x08 (BitVec.ofNat 16 b.port) b.label
  else { s with bursts := s.bursts.insert s.nextId b, nextId := s.nextId + 1
                portQueues := s.portQueues.insert b.port (s.portQueues.getD b.port [] ++ [s.nextId]) }

/-- A vault or own-scratchpad buffer: any other place is an address fault (R286, R287). -/
def vaultOnly (r : Req) : Ans (List (Target × Nat)) → Ans (List (Target × Nat))
  | .ok ts => if ts.any (fun t => match t.1.loc with
      | .pa a => !isVault a
      | .sp _ _ => false) then .bad (r.flt 0x05 0) else .ok ts
  | a => a

/-- The registers that OBSEND reads. -/
def obsendSrcs (f : YFmt) : List Src := [.v f.ra (spcRegs f.ss), .v f.rb 2]

/-- The feature, encoding and quota faults of OBSEND (R285, R385). -/
def illObsend (f : YFmt) (s : State) : Option Flt :=
  firstFault (s.featured 4)
    (illegal (f.bare false true true true true false true false && f.ss ≤ 1 && aligned f.ra (spcRegs f.ss) && aligned f.rb 2)
      ((obsendSrcs f).any (·.beyond s.quota)))

/-- A check whose targets must lie in the vault or a scratchpad. -/
def State.checkVault (s : State) (w : Who) (r : Req) : Ans (List (Target × Nat)) × State :=
  (vaultOnly r (s.checkSpan w r).1, (s.checkSpan w r).2)

/-- The check of OBSEND: room for the token, length, tag and destination, the circuit, and the buffer; it answers the
destination entry, the circuit and the buffer (R285, R286). -/
def State.obsendCheck (f : YFmt) (s : State) (l : Nat) (ex : List Nat) : Ans (Nat × Nat × List (Target × Nat)) × State :=
  let t := s.lane l
  let w := s.laneWho l
  let n := (t.reg f.rb).toNat
  let x := (t.reg (f.rb + 1)).toNat
  let e := s.destEntry w.vf (bits x 0 8)
  if s.tokenFull ex f.k then (.wait 4, s)
  else if n < 64 || 65536 < n || n % 64 ≠ 0 || bits x 14 18 ≠ 0 || bits x 8 6 = 0x3F || !bit e 7 || 1024 ≤ w.vf then (.bad addrFlt, s)
  else match s.servedBy (bits e 0 7) w.vf with
    | none => (.bad addrFlt, s)
    | some c => Ans.bind (Ans.relabel (s.curSlot.srcLabel [.v f.ra (spcRegs f.ss)])
        (s.checkVault w (engReq f.ss (t.regNat f.ra (spcRegs f.ss)) 0 n 0 false 3))) (fun ts s1 => (.ok (e, c, ts), s1))

/-- OBSEND (R285, R286). -/
def execObsend (f : YFmt) (s : State) : Host.Outcome State Fault Refusal :=
  .next (s.runGroup f.gn f.gp (illObsend f s) (obsendSrcs f) [] (State.obsendCheck f)
    (fun s l ex r =>
      let t := s.lane l
      let w := s.laneWho l
      let s1 := (s.drainLanes ex).touchAll w r.2.2 false
      let d := s1.readSpans w.stand (spansOf r.2.2)
      if d.1.2.2 then d.2.failStand w.stand 0xE0 none false
      else
        let lab := s.labelL f.gp.toNat ex (s.curSlot.srcLabel (obsendSrcs f)) d.1.2.1
        let ths := ex.map s.laneKey
        let s2 := d.2.tokensUp ex f.k
        let x := (t.reg (f.rb + 1)).toNat
        let s3 := if !(Label.subset lab (s.ownLabel w.vf)) then s2.tokensDown ths f.k 0x02 ((s.free 0).setWidth 16) lab
          else s2.queueBurst ⟨w.vf, bits r.1 0 7, bits x 0 8, BitVec.ofNat 32 (bits r.1 32 32), BitVec.ofNat 16 (bits r.1 64 16),
            BitVec.ofNat 6 (bits x 8 6), d.1.1, ths, f.k, lab, false, r.2.1, 0⟩
        s3.advance s.cur.lanes))

/-- BURST_TRANSMIT (R285): a port sends its oldest queued burst, in issue order. -/
def execBurstTransmit (port : Nat) (s : State) : Host.Outcome State Fault Refusal :=
  .next (match s.portQueues.getD port [] with
    | [] => s
    | k :: ks =>
      if !s.portUp port then s
      else
        let s1 := { s with portQueues := s.portQueues.put [] port ks }
        match s1.bursts.get? k with
        | none => s1
        | some b => { s1 with bursts := s1.bursts.insert k { b with sent := true }
                              outputs := s1.outputs ++ [.burst port b.path b.peer b.tag b.data.length b.data] })

/-- A burst completes with a status. -/
def State.endBurst (s : State) (k : Nat) (code : Byte) (info : BitVec 16) : State :=
  match s.bursts.get? k with
  | none => s
  | some b => { (s.tokensDown b.threads b.tok code info b.label) with bursts := s.bursts.erase k }

/-- BURST_ACK (R286): the peer acknowledged or refused a sent burst; the normal completion of a release carries the index of its
log record (R331). -/
def execBurstAck (burst : Nat) (refused : Bool) (s : State) : Host.Outcome State Fault Refusal :=
  .next (match s.bursts.get? burst with
    | none => s
    | some b => if !b.sent then s else if refused then s.endBurst burst 0x05 0 else s.endBurst burst 0x00 b.info)

/-- A saturating 16-bit count of a destination rises (R288). -/
def bumpCount (t : Table Nat) (k n : Nat) : Table Nat := t.put 0 k (min 0xFFFF (t.getD k 0 + n))

/-- ACK_TIMEOUT (R286, R288): ATO passed without an answer; the burst counts as lost. -/
def execAckTimeout (burst : Nat) (s : State) : Host.Outcome State Fault Refusal :=
  .next (match s.bursts.get? burst with
    | none => s
    | some b => if b.sent then { (s.endBurst burst 0x04 0) with dstLost := bumpCount s.dstLost (256 * b.vf + b.dst) 1 } else s)

/-- Whether the length or the tag of a receive is out of its range. -/
def recvBad (f : YFmt) (t : Thread) : Bool :=
  let n := (t.reg f.rb).toNat
  n < 64 || 65536 < n || n % 64 ≠ 0 || bits (t.reg (f.rb + 1)).toNat 0 6 = 0x3F

/-- The buffer of a receive. -/
def recvReq (f : YFmt) (t : Thread) : Req := engReq f.ds (t.regNat f.ra (spcRegs f.ds)) 0 (t.reg f.rb).toNat 0 true 3

/-- The completion record of a receive. -/
def recvRecordReq (f : YFmt) (t : Thread) : Req := engReq 1 (t.reg (f.rb + 2)).toNat 0 16 0 true 3

/-- After the buffer of a receive, its completion record, and the wait for absent lines of the buffer. -/
def recvThen (f : YFmt) (lab : Label) (w : Who) (t : Thread) (ts : List (Target × Nat)) (s : State) :
    Ans (List (Target × Nat) × List (Target × Nat)) × State :=
  Ans.bind (Ans.relabel lab (s.checkSpan w (recvRecordReq f t))) (fun rs s1 =>
    if ts.any (fun p => s1.absentSpan p.1.loc p.2) then (.wait 4, s1) else (.ok (ts, rs), s1))

/-- The check of the lane that acts for OBRECV. -/
def State.recvCheck (f : YFmt) (s : State) (l : Nat) (ex : List Nat) : Ans (List (Target × Nat) × List (Target × Nat)) × State :=
  if s.tokenFull ex f.k then (.wait 4, s)
  else if recvBad f (s.lane l) then (.bad addrFlt, s)
  else
    Ans.bind (Ans.relabel (s.curSlot.srcLabel [.v f.ra (spcRegs f.ds)]) (s.checkVault (s.laneWho l) (recvReq f (s.lane l))))
      (recvThen f (s.curSlot.srcLabel [.v f.rb 4]) (s.laneWho l) (s.lane l))

/-- The registers that OBRECV reads. -/
def obrecvSrcs (f : YFmt) : List Src := [.v f.ra (spcRegs f.ds), .v f.rb 4]

/-- The feature, encoding and quota faults of OBRECV (R287, R385). -/
def illObrecv (f : YFmt) (s : State) : Option Flt :=
  firstFault (s.featured 4)
    (illegal (f.bare false true true true false true false false && f.ds ≤ 1 && aligned f.ra (spcRegs f.ds) && aligned f.rb 4)
      ((obrecvSrcs f).any (·.beyond s.quota)))

/-- The post of OBRECV: a buffer of the stand for a burst of its tag, with its completion record (R287). -/
def State.obrecvPost (f : YFmt) (s : State) (l : Nat) (ex : List Nat) (dst : List Span) : Command :=
  let t := s.lane l
  let w := s.laneWho l
  { kind := .recv, vf := w.vf, stand := w.stand, threads := ex.map s.laneKey, tok := f.k
    moves := [⟨[], [], none, dst, [], none, (t.reg f.rb).toNat, 0⟩]
    label := s.labelL f.gp.toNat ex (s.curSlot.srcLabel (obrecvSrcs f)) 0, lines := (dst.flatMap Span.lines).eraseDups, code := 0
    info := 0, tag := bits (t.reg (f.rb + 1)).toNat 0 6, len := (t.reg f.rb).toNat, scratch := f.ds = 1
    recOff := bits (t.reg (f.rb + 2)).toNat 0 20, peer := 0, got := none, inLabel := 0 }

/-- OBRECV (R287, R290): posts a receive buffer. -/
def execObrecv (f : YFmt) (s : State) : Host.Outcome State Fault Refusal :=
  .next (s.runGroup f.gn f.gp (illObrecv f s) (obrecvSrcs f) []
    (State.recvCheck f)
    (fun s l ex r =>
      let w := s.laneWho l
      let s1 := (((s.drainLanes ex).touchAll w r.1 true).touchAll w r.2 true).tokensUp ex f.k
      let cmd := s.obrecvPost f l ex (spansOf r.1)
      let s2 := cmd.lines.foldl (fun s ln => s.setPresence ln false) s1
      ({ s2 with commands := s2.commands.insert s2.nextId cmd, nextId := s2.nextId + 1 }).advance s.cur.lanes))

/-- A burst is refused, and counted while its function is being torn down (R287, R436, R437). -/
def State.refuseBurst (s : State) (port : Nat) (peer : BitVec 16) (v : Option Nat) : State :=
  let s1 := match v with
    | some v => if s.vfEnabled v then s else s.setField (ctxAt v 0x90) 32 16 (min 0xFFFF (s.field (ctxAt v 0x90) 32 16 + 1))
    | none => s
  { s1 with outputs := s1.outputs ++ [.refused port peer] }

/-- BURST_ARRIVAL (R287, R315): a header is routed to the lowest valid circuit with its PEER, and its burst takes the oldest
post of its tag that is long enough; otherwise it is refused. A header with tag 0x3F is a reset notice and meets no post. A port
that is down, or stands at a hole, takes nothing in (R23, R457). -/
def execBurstArrival (port : Nat) (peer : BitVec 16) (tag : BitVec 6) (data : List Byte) (s : State) : Host.Outcome State Fault Refusal :=
  .next (if !s.portUp port then s
    else match s.portCircuit port (fun i => s.field (circuitAt port i) 16 16 = peer.toNat) with
    | none => s.refuseBurst port peer none
    | some i =>
      let v := s.field (circuitAt port i) 0 10
      if tag = 0x3F then s
      else if !s.vfEnabled v then s.refuseBurst port peer (some v)
      else match s.commands.find? (fun p => p.2.kind = .recv && p.2.vf = v && p.2.tag = tag.toNat && p.2.got.isNone && data.length ≤ p.2.len) with
        | none => s.refuseBurst port peer (some v)
        | some p => s.updCmd p.1 (fun c => { c with
            got := some data.length, peer := peer, inLabel := s.reg (circuitAt port i + 8)
            moves := c.moves.map (fun m => { m with fill := data }) }))

/-- The completion record of a receive (R287). -/
def recvRecord (n : Nat) (peer : BitVec 16) (lab : Label) : List Byte := leBytes 4 n ++ leBytes 2 peer.toNat ++ [0, 0] ++ leBytes 8 lab.toNat

/-- RECEIVE_COMPLETE (R287): the bytes of a received burst are written, the buffer's lines become present, the record follows,
and the token completes. -/
def execReceiveComplete (cmd : Nat) (s : State) : Host.Outcome State Fault Refusal :=
  .next (match s.commands.get? cmd with
    | none => s
    | some c => match c.kind, c.got with
      | .recv, some n =>
        let lab := c.label ||| c.inLabel
        let th := c.threads.headD noThread
        let s1 := c.moves.foldl (fun s m => s.writeSpans c.stand th (takeSpans m.dst n) (m.fill.take n) lab) s
        if (s1.commands.get? cmd).isNone then s1
        else
          let s2 := c.lines.foldl (fun s ln => s.setPresence ln true) s1
          let s3 := s2.writeSpans c.stand th [⟨.sp c.stand c.recOff, 16, none⟩] (recvRecord n c.peer c.inLabel) lab
          { (s3.tokensDown c.threads c.tok 0 0 0) with commands := s3.commands.erase cmd }
      | _, _ => s)

/-- A reset notice's length is added to the bursts-discarded counts of a function's valid destination entries for the sender
(R437). -/
def State.noteReset (s : State) (peer : BitVec 16) (len : Nat) (t : Table Nat) (v : Nat) : Table Nat :=
  (List.range 256).foldl (fun t k =>
    let e := s.destEntry v k
    if bit e 7 && bits e 64 16 = peer.toNat then bumpCount t (256 * v + k) len else t) t

/-- RESET_NOTICE (R437): the length is added to the bursts-discarded count of every valid destination entry whose PEER is the
sender, of every enabled function. -/
def execResetNotice (port : Nat) (peer : BitVec 16) (len : Nat) (s : State) : Host.Outcome State Fault Refusal :=
  .next (if !s.portUp port then s
    else { s with dstDisc := ((List.range 1024).filter s.vfEnabled).foldl (s.noteReset peer len) s.dstDisc })

/-- Whether a port's guarantee has lapsed: fewer trained data lanes than PGUAR promises (R457). -/
def State.lapsed (s : State) (port : Nat) : Bool := s.trainedLanes port < s.field (portAt port + 8) 0 4

/-- The word of OBSTAT (R288). -/
def State.obstat (s : State) (v item b : Nat) : Nat :=
  if item = 0 then
    let port := bits b 0 7
    if 96 ≤ port || s.field (portAt port) 0 8 ≠ s.vfPart v || 1024 ≤ v then 0
    else min 8 (s.trainedLanes port) + (if s.portUp port then 16 else 0) + (if s.lapsed port then 32 else 0)
      + min 255 (s.portQueues.getD port []).length * 256
  else
    let k := 256 * v + bits b 0 8
    s.dstLost.getD k 0 + s.dstDisc.getD k 0 * 2 ^ 16

/-- The encoding and quota faults of OBSTAT. -/
def illObstat (f : YFmt) (s : State) : Option Flt :=
  illegal (f.bare true false true false false false false true && f.s 1 8 = 0)
    ((Src.v f.rb 1).beyond s.quota || (Dst.v f.rd 1).beyond s.quota)

/-- OBSTAT (R288). -/
def execObstat (f : YFmt) (s : State) : Host.Outcome State Fault Refusal :=
  let b := Src.v f.rb 1
  let d := Dst.v f.rd 1
  .next (s.runGroup f.gn f.gp (illObstat f s) [b] []
    (fun s _ _ => (.ok (), s))
    (fun s l ex _ =>
      let v := s.obstat (s.laneWho l).vf (f.s 0 1) ((s.lane l).reg f.rb).toNat
      (s.commit ex [d] (s.labelL f.gp.toNat ex (s.curSlot.srcLabel [b]) 0) (ex.map (fun x => (x, [Out.val v])))).advance s.cur.lanes))

/-! ### REL (R289, R329) -/

/-- The release-table entry of a function (R329). -/
def State.relEntry (s : State) (v i : Nat) : Nat := leNat (s.bytesOf 0 (.pa (s.ctxAddr v 0x38 + 16 * i)) 16)

/-- The registers that REL reads. -/
def relSrcs (f : YFmt) : List Src := [.v f.ra (spcRegs f.ss), .v f.rb 4]

/-- The encoding and quota faults of REL. -/
def illRel (f : YFmt) (s : State) : Option Flt :=
  illegal (f.bare false true true true true false true false && f.ss ≤ 1 && aligned f.ra (spcRegs f.ss) && aligned f.rb 4)
    ((relSrcs f).any (·.beyond s.quota))

/-- The check of REL: room for the token, the length, the buffer, and under KIND 2 the memory destination; it answers the table
entry, the buffer and the destination (R289, R329). -/
def State.relCheck (f : YFmt) (s : State) (l : Nat) (ex : List Nat) : Ans (Nat × List (Target × Nat) × List (Target × Nat)) × State :=
  let t := s.lane l
  let w := s.laneWho l
  let n := (t.reg f.rb).toNat
  let word := (t.reg (f.rb + 2)).toNat
  if s.tokenFull ex f.k then (.wait 4, s)
  else if n < 4 || 65536 < n || n % 4 ≠ 0 then (.bad addrFlt, s)
  else
    Ans.bind (Ans.relabel (s.curSlot.srcLabel [.v f.ra (spcRegs f.ss)])
      (s.checkSpan w (engReq f.ss (t.regNat f.ra (spcRegs f.ss)) 0 n 0 false 3))) (fun ts s1 =>
        let e := s1.relEntry w.vf (bits word 0 8)
        if bit e 2 && bits e 0 2 = 2 && bits word 14 18 = 0 then
          Ans.bind (s1.checkSpan w (engReq 0 (bits e 64 64) 0 n 0 true 3)) (fun ds s2 => (.ok (e, ts, ds), s2))
        else (.ok (e, ts, []), s1))

/-- The release that REL hands to the gate: data, label, handle, destination word, and the two table entries (R289, R329). -/
def State.relRecord (f : YFmt) (s : State) (l : Nat) (ex : List Nat) (e : Nat) (data : List Byte) (m : Label)
    (dst : List (Target × Nat)) : Release :=
  let t := s.lane l
  let w := s.laneWho l
  { vf := w.vf, threads := ex.map s.laneKey, tok := f.k, data := data, label := s.labelL f.gp.toNat ex (s.curSlot.srcLabel (relSrcs f)) m
    handle := (t.reg (f.rb + 1)).setWidth 16, dstWord := t.reg (f.rb + 2), entry := BitVec.ofNat 128 e
    dest := BitVec.ofNat 128 (s.destEntry w.vf (bits e 8 8)), spans := spansOf dst }

/-- REL (R289): the buffer, its label and the table entry are read at issue, and the release joins the gate. -/
def execRel (f : YFmt) (s : State) : Host.Outcome State Fault Refusal :=
  .next (s.runGroup f.gn f.gp (illRel f s) (relSrcs f) [] (State.relCheck f)
    (fun s l ex r =>
      let w := s.laneWho l
      let s1 := ((s.drainLanes ex).touchAll w r.2.1 false).touchAll w r.2.2 true
      let d := s1.readSpans w.stand (spansOf r.2.1)
      if d.1.2.2 then d.2.failStand w.stand 0xE0 none false
      else
        let s2 := d.2.tokensUp ex f.k
        ({ s2 with gate := s2.gate ++ [s.relRecord f l ex r.1 d.1.1 d.1.2.1 r.2.2] }).advance s.cur.lanes))

end Sys2Proof.Machine
end

