-- ==== Sys2Proof/Machine/Debug.lean ====
section
/-!
DEFINITION. Watchpoints, counters and debug stops: opcodes 0x1C0 to 0x1C2 (R364, R368 to R370), and the events
STALL_REASON_COUNT, DEBUG_STOP_REQUEST, DEBUG_RESUME, CLAIM_SUSPEND and CLAIM_RESUME (R373 to R375).
-/

namespace Sys2Proof.Machine

/-! ### WPSET, WPCLR (R368, R369) -/

/-- Watchpoints per instance of a scope (R368). -/
def wpCount (scope : Nat) : Nat :=
  match scope with
  | 0 => 2 | 1 => 4 | 2 => 8 | 3 => 16 | 4 => 32 | _ => 0

/-- The watchpoint that a quad of registers names (R368). -/
def Thread.watchpoint (t : Thread) (r : Nat) : Watchpoint :=
  let m := t.reg (r + 3)
  ⟨t.pair r, (t.reg (r + 2)).toNat, m.extractLsb' 0 4, m.getLsbD 4, m.getLsbD 5⟩

/-- Put or remove a watchpoint. -/
def wpPut (t : Table Watchpoint) (k : Nat) (w : Option Watchpoint) : Table Watchpoint :=
  match w with
  | some x => t.insert k x
  | none => t.erase k

/-- Set or clear a watchpoint of the issuing lane's instance of a scope above a thread. -/
def State.setWatch (s : State) (l scope idx : Nat) (w : Option Watchpoint) : State :=
  let stand := s.curStand
  match scope with
  | 1 => s.updStand stand (fun st => { st with wps := wpPut st.wps (32 * (s.crewOf (s.laneKey l) + 1) + idx) w })
  | 2 => s.updStand stand (fun st => { st with wps := wpPut st.wps idx w })
  | _ =>
    let key := if scope = 3 then 64 * (clusterOf s.cur.core + 1) + idx else idx
    match s.stands.get? stand with
    | some st => { s with grids := s.grids.modify st.grid (fun g => { g with wps := wpPut g.wps key w }) }
    | none => s

/-- The registers that WPSET reads; WPCLR reads none. -/
def watchSrcs (f : SFmt) (set : Bool) : List Src := if set then [Src.v f.ra 4] else []

/-- The encoding and quota faults of WPSET and WPCLR. -/
def illWatch (f : SFmt) (set : Bool) (s : State) : Option Flt :=
  illegal (f.bare false set true false && bits f.imm.toNat 8 8 = 0 && bits f.imm.toNat 3 5 < wpCount (bits f.imm.toNat 0 3)
    && (!set || aligned f.ra 4)) ((watchSrcs f set).any (·.beyond s.quota))

/-- WPSET and WPCLR: thread scope acts per lane, any other once for the group (R369). A compartment or grid change is held by
every core at once in this model, so the wait of stall reason 15 ends at once. -/
def State.runWatch (s : State) (f : SFmt) (set : Bool) : State :=
  let scope := bits f.imm.toNat 0 3
  let idx := bits f.imm.toNat 3 5
  let srcs := watchSrcs f set
  let bad := illWatch f set s
  let wp (s : State) (l : Nat) : Option Watchpoint := if set then some ((s.lane l).watchpoint f.ra) else none
  if scope = 0 then
    s.issue f.gn f.gp bad (fun ex => s.eachLane ex (State.raiseOnly f.gp srcs) (fun s goods =>
      goods.foldl (fun s p => s.updLane p.1 (fun t => { t with wps := wpPut t.wps idx (wp s p.1) })) s))
  else
    s.runGroup f.gn f.gp bad srcs [] (fun s _ _ => (.ok (), s)) (fun s l _ _ =>
      (s.setWatch l scope idx (wp s l)).advance s.cur.lanes)

/-- WPSET (R368, R369). -/
def execWpset (f : SFmt) (s : State) : Host.Outcome State Fault Refusal := .next (s.runWatch f true)
/-- WPCLR (R368, R369). -/
def execWpclr (f : SFmt) (s : State) : Host.Outcome State Fault Refusal := .next (s.runWatch f false)

/-! ### PROFRD (R370, R375) -/

/-- The stand total of a reason: what its slots have folded, and for reason 13 its Yarded threads' cycles (R365, R370). -/
def State.standCount (s : State) (stand k : Nat) : Nat :=
  match s.stands.get? stand with
  | some st => st.totals.getD k 0
  | none => 0

/-- The encoding and quota faults of PROFRD. -/
def illProfrd (f : SFmt) (s : State) : Option Flt :=
  illegal (f.bare true false true false && bits f.imm.toNat 6 10 = 0 && bits f.imm.toNat 4 2 ≤ 1 && aligned f.rd 2)
    ((Dst.v f.rd 2).beyond s.quota)

/-- PROFRD (R370). -/
def execProfrd (f : SFmt) (s : State) : Host.Outcome State Fault Refusal :=
  let k := bits f.imm.toNat 0 4
  let src := bits f.imm.toNat 4 2
  let d := Dst.v f.rd 2
  .next (s.issue f.gn f.gp (illProfrd f s) (fun ex =>
    let n := if src = 0 then s.curSlot.stall.getD k 0 else s.standCount s.curStand k
    let susp := s.suspended (s.vfOf s.curStand) s.cur.core 0
    let outs := ex.map (fun l => (l, [match (Src.p f.gp.toNat).token (s.lane l) with
      | some t => Out.tok t (s.laneKey l)
      | none => Out.val (n + if susp then 2 ^ 32 else 0)]))
    (s.commit ex [d] (s.labelL f.gp.toNat ex 0 0) outs).advance s.cur.lanes))

/-! ### STALL_REASON_COUNT (R364, R365) -/

/-- The reason under which a waiting thread is held. -/
def Wait.reason (w : Wait) : Nat :=
  match w with
  | .token _ => 1
  | .exit => 1
  | _ => 5

/-- A context save or restore holds a stand's slots, or HALT the management core's thread (R170, R309, R364). -/
def State.heldWhole (s : State) (stand : Nat) : Bool :=
  match s.stands.get? stand with
  | some st => st.frozen.isSome || st.savePending
  | none => stand = mgmtStand && s.mgmt.halted

/-- The reasons that apply to a slot, by thread states and the groups that are not ready (R364). A slot held as a whole has no
ready group that could lose the issue. -/
def State.slotReasons (s : State) (sk : Nat) : List Nat :=
  let sl := s.slotAt sk
  let ths := sl.lanes.map (fun p => s.thread p.2)
  let waits := ths.filterMap (fun t => if t.status = .waiting then some t.wait.reason else none)
  let groups := if s.heldWhole sl.stand then [15]
    else ths.filterMap (fun t =>
      if t.status = .active then some (match s.holds.find? (fun h => h.slot = sk && h.pc = t.pc) with
        | some h => h.reason
        | none => 11) else none)
  waits ++ groups ++ (if ths.all (fun t => t.status = .parked) then [12] else [])

/-- A cycle of a quadrant: each slot with a thread, but for the one that issues, counts the lowest reason that applies, and each
stand of the core its yarded threads (R364, R365). A stopped quadrant counts nothing (R374), nor does a stand whose function's
claim is suspended (R375). -/
def State.stallCycle (s : State) (quad : Nat) (issued : Option Nat) : State :=
  if (s.quadAt quad).stopped.isSome then s
  else
    let s1 := ((List.range 16).map (fun w => 16 * quad + w)).foldl (fun s sk =>
      let sl := s.slotAt sk
      if sl.lanes.isEmpty || issued = some sk || !s.counting (s.vfOf sl.stand) (quad / 4) then s
      else match (sortNat (s.slotReasons sk)).head? with
        | some k => s.countStall sk k
        | none => s) s
    { s1 with stands := s1.stands.mapVals (fun _ st =>
        if quad % 4 = 0 && st.core = quad / 4 && !st.yard.isEmpty && s1.counting st.vf st.core then
          st.addTotal 13 st.yard.length else st) }

/-- STALL_REASON_COUNT (R364, R365, R375): a cycle in which no slot of the quadrant issues. -/
def execStallReasonCount (quad : Nat) (s : State) : Host.Outcome State Fault Refusal := .next (s.stallCycle quad none)

/-! ### Debug stops and claims (R373 to R375) -/

/-- The write in progress. -/
def State.wr (s : State) : RegWrite := s.stim.write

/-- Whether the agent of the write in progress may reach its register: hypervisor registers take writes from a host core in
hypervisor mode and from the management core only (R312; HORG.NONE, R321). -/
def State.wrAllowed (s : State) : Bool :=
  if !hypervisorOnly s.wr.pa then true
  else match s.wr.agent with
    | .host h => s.field (horgAt h) 6 1 = 1
    | .thread _ => false
    | .engine _ => false
    | .mgmt => true

/-- The quadrant key that a debug register belongs to. -/
def qdbgQuad (pa : Nat) : Nat := 4 * ((pa - 0x080900000000) / 0x1000) + (pa % 0x1000 - 0x40) / 8

/-- The writable fields of QDBG: ARM and DUMP, and REQ, which a 1 sets (R12, R373). -/
def State.writeQdbg (s : State) : State :=
  let v := s.wr.value.toNat
  let r := putField (putField (s.reg s.wr.pa) 0 1 (bits v 0 1)) 16 48 (bits v 16 48)
  s.setReg s.wr.pa (if bit v 1 then putField r 1 1 1 else r)

/-- A stop of the quadrant that the write in progress requests, unless it is stopped already (R374). No thread stops it, so the
header's PC, lane and code are free. -/
def State.stopRequested (s : State) (k : Nat) : State :=
  if (s.quadAt k).stopped.isSome then s
  else
    (s.stopQuad (k / 4) (k % 4) 2 ((s.free 2).toNat % 256) ((s.free 0).toNat) ((s.free 1).toNat % 32) []).finishStop (k / 4) (k % 4)

/-- A stopped quadrant resumes: issue restarts, and the records of lanes that a STOP watchpoint parked are written. REQ and
STOPPED become 0 (R369, R373, R374; notes/assumptions 49). -/
def State.resumeQuad (s : State) (k : Nat) : State :=
  match (s.quadAt k).stopped with
  | none => s
  | some st =>
    let s1 := (s.updQuad k (fun q => { q with stopped := none })).setField (dbgAt (k / 4) (0x40 + 8 * (k % 4))) 1 2 0
    st.recs.foldl (fun s r => s.joinTrap (k / 4) { r with opened := s.clk (k / 4) }) s1

/-- Whether the write in progress is to a QDBG register that the agent may reach. -/
def State.isQdbg (s : State) : Bool :=
  let pa := s.wr.pa
  s.wrAllowed && 0x080900000000 ≤ pa && pa < 0x080900000000 + 0x1000 * 7680 && 0x40 ≤ pa % 0x1000 && pa % 0x1000 < 0x60 && pa % 8 = 0

/-- DEBUG_STOP_REQUEST (R373, R374): REQ stops the quadrant with cause 2. -/
def execDebugStopRequest (s : State) : Host.Outcome State Fault Refusal :=
  .next (if !s.isQdbg then s else s.writeQdbg.stopRequested (qdbgQuad s.wr.pa))

/-- DEBUG_RESUME (R369, R373, R374): the quadrant resumes; a write that sets REQ as well stops it again. -/
def execDebugResume (s : State) : Host.Outcome State Fault Refusal :=
  .next (if !s.isQdbg then s
    else
      let k := qdbgQuad s.wr.pa
      let s1 := (s.resumeQuad k).writeQdbg
      if bit s.wr.value.toNat 1 then s1.stopRequested k else s1)

/-- A write to HCLM (R375): setting HCB suspends the counter-bank claims of the core's stands, whose records will carry SUSP. -/
def State.writeHclm (s : State) : State :=
  let pa := s.wr.pa
  let core := (pa - 0x080900000000) / 0x1000
  if !s.wrAllowed || pa < 0x080900000000 || 7680 ≤ core || pa % 0x1000 ≠ 0 then s
  else (s.setReg pa (BitVec.ofNat 64 (s.wr.value.toNat % 4))).noteSusp

/-- CLAIM_SUSPEND (R375). -/
def execClaimSuspend (s : State) : Host.Outcome State Fault Refusal := .next s.writeHclm
/-- CLAIM_RESUME (R375): counting goes on from the frozen values. -/
def execClaimResume (s : State) : Host.Outcome State Fault Refusal := .next s.writeHclm

end Sys2Proof.Machine
end

