-- ==== Sys2Proof/Machine/Context.lean ====
section
/-!
DEFINITION. The privileged instructions TLBI, CTXSV and CTXLD: opcodes 0x1C3 to 0x1C5 (R427, R428). The layout of the
2,048-byte block is not architectural; the one here is the model's own (notes/assumptions 22).
-/

namespace Sys2Proof.Machine

/-- The registers that TLBI reads. -/
def tlbiSrcs (f : SFmt) : List Src := if f.s 0 1 = 1 then [] else [Src.v f.ra 2]

/-- The privilege, encoding and quota faults of TLBI. -/
def illTlbi (f : SFmt) (s : State) : Option Flt :=
  firstFault s.privileged (illegal (f.bare false (!(f.s 0 1 = 1)) false true && f.s 1 9 = 0 && (f.s 0 1 = 1 || aligned f.ra 2))
    ((tlbiSrcs f).any (·.beyond s.quota)))

/-- Whether TLBI invalidates an entry: of its function, and under `.VA` of its page (R427). -/
def tlbiHits (f : SFmt) (v page : Nat) (e : TlbEntry) : Bool := e.vf = v && (f.s 0 1 = 1 || e.vpn = page)

/-- The frames that an access under a TLB entry may reach: under a window also the core's own replica (R66). -/
def State.framesOf (s : State) (core : Nat) (e : TlbEntry) : List Nat :=
  [false, true].filterMap (fun write =>
    match (s.targetOf ⟨noThread, e.vf, core, e.vf, true, false⟩ (engReq 0 (e.vpn * 0x10000) 0 1 0 write 0) e).loc with
    | .pa a => some (a / 0x10000)
    | .sp _ _ => none)

/-- Whether a place lies in one of some frames. -/
def Loc.inFrames (frames : List Nat) (l : Loc) : Bool :=
  match l with
  | .pa a => frames.contains (a / 0x10000)
  | .sp _ _ => false

/-- Whether a function's stands on a core have accesses to some frames that are past translation and have not performed:
stores in queues, in DC buffers and on the flume, engine commands, and releases at the gate (R64, R78, R427). -/
def State.pastTranslation (s : State) (core v : Nat) (frames : List Nat) : Bool :=
  let mine (stand : Nat) : Bool := s.vfOf stand = v && s.coreOf stand = core
  let spans (xs : List Span) : Bool := xs.any (fun p => p.loc.inFrames frames)
  s.threads.any (fun p => mine p.2.stand && p.2.storeQ.any (fun e => e.loc.inFrames frames))
    || s.stands.any (fun p => mine p.1 && p.2.dcBuf.any (fun e => e.loc.inFrames frames))
    || s.windowMsgs.any (fun m => m.vf = v && s.coreOf (s.thread m.thread).stand = core && frames.contains (m.pa / 0x10000))
    || s.commands.any (fun p => mine p.2.stand && p.2.moves.any (fun m => spans m.src || spans m.dst))
    || s.quads.any (fun p => p.1 / 4 = core && p.2.matrix.queue.any (fun o =>
        mine o.stand && (spans o.sources.flatten || spans o.dest.flatten)))
    || s.gate.any (fun r => r.threads.any (fun t => mine (s.thread t).stand) && spans r.spans)

/-- The check of TLBI in its lane: the page; while an access past translation under an entry that goes has not performed, the
thread waits under stall reason 4 (R427). -/
def State.tlbiCheck (f : SFmt) (s : State) (l : Nat) (_ex : List Nat) : Ans Nat × State :=
  let page := (s.lane l).regNat f.ra 2 % 2 ^ 56 / 0x10000
  let v := s.vfOf s.curStand
  let gone := (s.coreAt s.cur.core).tlb.filter (tlbiHits f v page)
  if s.pastTranslation s.cur.core v (gone.flatMap (s.framesOf s.cur.core)) then (.wait 4, s) else (.ok page, s)

/-- TLBI (R427): entries of the executing function on this core alone. -/
def execTlbi (f : SFmt) (s : State) : Host.Outcome State Fault Refusal :=
  .next (s.runGroup f.gn f.gp (illTlbi f s) (tlbiSrcs f) [] (State.tlbiCheck f)
    (fun s _ _ page =>
      let v := s.vfOf s.curStand
      (s.updCore s.cur.core (fun c => { c with tlb := c.tlb.filter (fun e => !tlbiHits f v page e) })).advance s.cur.lanes))

/-! ### The block of CTXSV and CTXLD (R428) -/

/-- The register quota of a thread's stage. -/
def State.quotaOf (s : State) (thread : Nat) : Nat :=
  match s.stageOf (s.thread thread).stand (s.thread thread).stage with
  | some g => g.quota
  | none => 256

/-- A little-endian field of a block. -/
def blockField (bs : List Byte) (off n : Nat) : Nat := leNat ((bs.drop off).take n)

/-- A join point of a block: its set as lanes of the slot, and its label. -/
def Thread.joinMask (t : Thread) (sl : Slot) (k : Nat) : Nat :=
  match t.joins.get? k with
  | some j => maskOf (sl.lanes.filterMap (fun p => if j.expect.contains p.2 then some p.1 else none))
  | none => 0

/-- The bytes of a thread's block. -/
def Thread.toBlock (t : Thread) (sl : Slot) (q v : Nat) : List Byte :=
  let tok (k : Nat) : Nat := (t.predTok.getD k 0#32).toNat
  let sbs := (List.range 8).flatMap (fun k => leBytes 4 ((t.sb k).code.toNat + (t.sb k).ring.toNat * 2 ^ 8 + (t.sb k).info.toNat * 2 ^ 16))
  let sbl := (List.range 8).flatMap (fun k => leBytes 8 (t.sb k).label.toNat)
  let jl (k : Nat) : Nat := match t.joins.get? k with
    | some j => j.label.toNat
    | none => 0
  let ring := (List.range 4).flatMap (fun k => (List.range 4).flatMap (fun i => leBytes 8 ((t.ring.getD k RingRec.empty).word i)))
  let head := leBytes 2 q ++ leBytes 2 v ++ [t.preds, BitVec.ofNat 8 (maskOf (t.predTok.keys)), t.next.setWidth 8, 0#8]
    ++ leBytes 8 t.carried.toNat ++ (List.range 8).flatMap (fun k => leBytes 4 (tok k))
  let joins := leBytes 8 (maskOf t.joins.keys) ++ (List.range 16).flatMap (fun k => leBytes 4 (t.joinMask sl k))
    ++ (List.range 16).flatMap (fun k => leBytes 8 (jl k))
  let regs := (List.range 256).flatMap (fun r => leBytes 4 (if r < q then (t.reg r).toNat else 0))
  let body := head ++ sbs ++ sbl ++ leBytes 32 (maskOf t.poison) ++ joins ++ ring ++ regs
  body ++ List.replicate (2048 - body.length) 0#8

/-- A ring record from its four words (R408). -/
def RingRec.ofWords (w : Nat → Nat) : RingRec where
  addr := BitVec.ofNat 64 (w 0)
  pc := BitVec.ofNat 64 (w 1)
  code := BitVec.ofNat 8 (w 2)
  lane := BitVec.ofNat 5 (bits (w 2) 8 5)
  v := bit (w 2) 13
  lost := bit (w 2) 14
  src := bit (w 2) 15
  info := BitVec.ofNat 16 (bits (w 2) 16 16)
  tok := BitVec.ofNat 32 (bits (w 2) 32 32)
  det := BitVec.ofNat 32 (w 3)

/-- A thread with the state of a block: token counts are zero, and its PC and status stay (R428). -/
def Thread.ofBlock (t : Thread) (sl : Slot) (q : Nat) (bs : List Byte) : Thread :=
  let pm := blockField bs 5 1
  let jm := blockField bs 176 8
  let set (k : Nat) : List Nat := sortNat ((lanesOf 32 (blockField bs (184 + 4 * k) 4)).filterMap (fun l => sl.lanes.get? l))
  { t with
    regs := (List.range q).foldl (fun m r => m.put 0#32 r (BitVec.ofNat 32 (blockField bs (504 + 4 * r) 4))) []
    poison := lanesOf q (blockField bs 144 32)
    preds := BitVec.ofNat 8 (blockField bs 4 1) ||| 0x80#8
    predTok := ((List.range 7).filter (fun k => bit pm k)).foldl (fun m k => m.insert k (BitVec.ofNat 32 (blockField bs (16 + 4 * k) 4))) []
    next := BitVec.ofNat 2 (blockField bs 6 1)
    carried := BitVec.ofNat 64 (blockField bs 8 8)
    sbs := (List.range 8).foldl (fun m k =>
      let x := blockField bs (48 + 4 * k) 4
      m.put Token.zero k ⟨0, BitVec.ofNat 8 x, BitVec.ofNat 2 (x / 2 ^ 8), BitVec.ofNat 16 (x / 2 ^ 16),
        BitVec.ofNat 64 (blockField bs (80 + 8 * k) 8)⟩) []
    joins := ((List.range 16).filter (fun k => bit jm k)).foldl (fun m k =>
      m.insert k ⟨set k, BitVec.ofNat 64 (blockField bs (248 + 8 * k) 8)⟩) []
    ring := (List.range 4).foldl (fun m k => m.put RingRec.empty k (RingRec.ofWords (fun i => blockField bs (376 + 32 * k + 8 * i) 8))) [] }

/-- The union of the labels that a block holds. -/
def Thread.blockLabel (t : Thread) (sl : Slot) (q : Nat) : Label :=
  sl.spanLabel 0 q ||| Label.union ((List.range 7).map sl.predLabel) ||| t.flow ||| Label.union (t.sbs.map (fun p => p.2.label))

/-- Change the slot of a sub-warp where it stands. -/
def State.updFound (s : State) (f : Found) (g : Slot → Slot) : State :=
  if f.saved then
    s.updStand f.stand (fun st => { st with saved := st.saved.map (fun sv => { sv with slots := sv.slots.modify f.slot g }) })
  else s.updSlot f.slot g

/-- The block of a context instruction (R428). -/
def blockReq (ptr : Nat) (write : Bool) : Req :=
  ⟨0, ptr, 0, 2048, 64, !write, write, some (if write then 1 else 0), true, false, false, false⟩

/-- What the check of a context instruction finds: no such lane, or the lane with the block's pieces. -/
abbrev CtxAns : Type := Option ((Found × ParkedLane) × List (Target × Nat))

/-- The check of CTXSV and CTXLD: the selection of the lowest lane's thread, then for a save the wait for its tokens, then the
block, which may not lie on a window or DC page. -/
def State.ctxCheck (s : State) (f : SFmt) (save : Bool) (l : Nat) : Ans CtxAns × State :=
  let th := s.lane l
  match s.selLane (s.vfOf s.curStand) th.sel with
  | none => (.ok none, s)
  | some x =>
    if save && (s.thread x.2.thread).outstanding then (.wait 1, s)
    else
      let r := blockReq (th.regNat f.ra 2) save
      Ans.relabel (s.curSlot.srcLabel [.v f.ra 2]) (Ans.bind (s.checkSpan (s.laneWho l) r) (fun ts s1 =>
        match ts.find? (fun p => p.1.dc || p.1.window.isSome) with
        | some p => (.bad (r.flt 0x08 r.info (match p.1.tlb with
            | some e => e.s1.toNat
            | none => 0)), s1)
        | none => (.ok (some (x, ts)), s1)))

/-- The line targets of a block's pieces, ascending. -/
def lineTargets (ts : List (Target × Nat)) : List Target :=
  ts.flatMap (fun p => (List.range (p.2 / 64)).map (fun i => { p.1 with loc := p.1.loc.plus (64 * i) }))

/-- A status word for every executing lane. -/
def State.ctxStatus (s : State) (f : SFmt) (ex : List Nat) (lab : Label) (v : Nat) : State :=
  (s.commit ex [.v f.rd 1] lab (ex.map (fun l => (l, [Out.val v])))).advance s.cur.lanes

/-- The privilege, encoding and quota faults of CTXSV and CTXLD. -/
def illCtx (f : SFmt) (s : State) : Option Flt :=
  firstFault s.privileged (illegal (f.bare true true false false && aligned f.ra 2)
    ((Src.v f.ra 2).beyond s.quota || (Dst.v f.rd 1).beyond s.quota))

/-- CTXSV and CTXLD begin alike. -/
def State.runCtx (s : State) (f : SFmt) (save : Bool) (act : State → Nat → List Nat → CtxAns → State) : State :=
  s.runGroup f.gn f.gp (illCtx f s) [.v f.ra 2] [] (fun s l _ => s.ctxCheck f save l) act

/-- CTXSV (R428): the block is written as the issuing thread's stores, line by line. -/
def execCtxsv (f : SFmt) (s : State) : Host.Outcome State Fault Refusal :=
  .next (s.runCtx f true (fun s l ex a =>
    let lab := s.labelL f.gp.toNat ex (s.curSlot.srcLabel [.v f.ra 2]) 0
    match a with
    | none => s.ctxStatus f ex lab 1
    | some ((x, p), ts) =>
      let sl := s.foundSlot x
      let t := s.thread p.thread
      let q := s.quotaOf p.thread
      let bs := t.toBlock sl q (s.vfOf x.stand)
      let up := t.blockLabel sl q ||| lab
      let w := s.laneWho l
      let s1 := ((lineTargets ts).zip (List.range 32)).foldl (fun s y =>
        s.storeAt w y.1 ((bs.drop (64 * y.2)).take 64) up s.cur.slotKey) s
      s1.ctxStatus f ex lab 0))

/-- CTXLD (R428): a block of another quota or function is an address fault in every executing lane. -/
def execCtxld (f : SFmt) (s : State) : Host.Outcome State Fault Refusal :=
  .next (s.runCtx f false (fun s l ex a =>
    let lab := s.labelL f.gp.toNat ex (s.curSlot.srcLabel [.v f.ra 2]) 0
    match a with
    | none => s.ctxStatus f ex lab 1
    | some ((x, p), ts) =>
      let w := s.laneWho l
      let s1 := (s.drainQ w.thread).touchAll w ts false
      let r := s1.readSpans w.stand (spansOf ts)
      let bs := r.1.1
      let q := s.quotaOf p.thread
      if r.1.2.2 then r.2.failStand w.stand 0xE0 none false
      else if blockField bs 0 2 ≠ q || blockField bs 2 2 ≠ s.vfOf x.stand then
        let e := { (blockReq ((s.lane l).regNat f.ra 2) false).flt 0x05 0 with label := s.curSlot.srcLabel [.v f.ra 2] }
        (r.2.park (ex.map (fun l => (l, e)))).advance (s.othersOf ex)
      else
        let sl := s.foundSlot x
        let up := r.1.2.1 ||| lab
        let s2 := r.2.updThread p.thread (fun t => t.ofBlock sl q bs)
        let s3 := s2.updFound x (fun sl => (List.range 7).foldl (fun sl k => sl.setPredLabel k (sl.predLabel k ||| up))
          ((List.range q).foldl (fun sl k => sl.setRegLabel k (sl.regLabel k ||| up)) sl))
        s3.ctxStatus f ex lab 0))

end Sys2Proof.Machine
end

