-- ==== Sys2Proof/Machine/Launch.lean ====
section
/-!
DEFINITION. Launch records, their checks, submission and the end of a grid: LAUNCH and JOIN (R164, R165, R422), and the events
LAUNCH_SUBMIT (R295) and GRID_END (R307).
-/

namespace Sys2Proof.Machine

/-! ### The launch record and the stage table (R292, R293) -/

/-- A field of a grid's launch record (R292). -/
def Grid.f (g : Grid) (lo n : Nat) : Nat := bits g.rcd.toNat lo n
/-- Priority. -/
def Grid.pri (g : Grid) : Nat := g.f 355 3
/-- Gang size; 1 without a gang. -/
def Grid.gang (g : Grid) : Nat := g.f 349 6 + 1
/-- Gang patience in cycles (R5, R292). -/
def Grid.patience (g : Grid) : Nat := 1500 * (if g.f 435 16 = 0 then 50 else g.f 435 16)
/-- The completion area. -/
def Grid.cptr (g : Grid) : Nat := g.f 256 64
/-- Scratchpad need in KiB. -/
def Grid.needKiB (g : Grid) : Nat := g.f 384 11 + g.f 395 11 + g.f 406 11 + g.f 417 11
/-- Whether every stand claims matrix state. -/
def Grid.mtx (g : Grid) : Bool := g.f 369 1 = 1
/-- Whether the rectangle is pinned. -/
def Grid.pinned (g : Grid) : Bool := g.f 348 1 = 1

/-- A stage table entry (R293). -/
def Stage.ofBits (v : Nat) : Stage where
  ent := bits v 0 64
  threads := bits v 64 11 + 1
  quota := 8 * (bits v 75 5 + 1)
  com := bit v 80
  cqd := bits v 81 2
  weight := bits v 83 3 + 1
  qloc := bits v 86 2
  qesz := bits v 88 2
  qcap := bits v 96 16
  qptr := BitVec.ofNat 64 (bits v 128 64)

/-- Whether an entry of the stage table holds a non-zero reserved field, QLOC 3, or CQD without COM (R293, R294). -/
def stageReserved (v : Nat) : Bool :=
  bits v 90 6 ≠ 0 || bits v 112 16 ≠ 0 || bits v 192 64 ≠ 0 || bits v 86 2 = 3 || (bits v 81 2 ≠ 0 && !bit v 80)

/-- The quadrants that hold a crew of a stage (R43, R47). -/
def Stage.quads (g : Stage) : List Nat := if g.com then [g.cqd] else (List.range 4).filter (fun q => 32 * q < g.threads)

/-- Bytes of a stage's output queue (R229). -/
def Stage.queueBytes (g : Stage) : Nat := 64 + g.qcap * (4 * 2 ^ g.qesz)

/-! ### The distributor's accesses

They are translated by both stages of the function and need R or W of both leaves; the spec gives them no level, tag or
watchpoint (notes/assumptions 30). -/

/-- The page of a distributor access: its entry and physical address. -/
def State.distPage (s : State) (v va : Nat) (write : Bool) : Option (TlbEntry × Nat) :=
  match s.walkBoth v va with
  | .error _ => none
  | .ok e =>
    let pa := e.ppn * 0x10000 + va % 0x10000
    let b := if write then 3 else 2
    if bit e.s1.toNat b && bit e.s2.toNat b && s.exists? pa && !isDevice pa && !(write && (bit e.s2.toNat 8 || bit e.s2.toNat 10))
    then some (e, pa) else none

/-- The pages of a distributor access of `n` bytes, with the bytes in each; none when one cannot be reached. -/
def State.distSpans (s : State) (v ptr n : Nat) (write : Bool) : Option (List (TlbEntry × Nat × Nat)) :=
  if 2 ^ 60 ≤ ptr || 2 ^ 56 < ptr % 2 ^ 56 + n then none
  else (pageCuts (n / 0x10000 + 2) (ptr % 2 ^ 56) 0 n).foldr (fun c r =>
    match s.distPage v (ptr % 2 ^ 56 + c.1) write, r with
    | some (e, pa), some ps => some ((e, pa, c.2) :: ps)
    | _, _ => none) (some [])

/-- What the distributor reads; none when it cannot (R294, R448). -/
def State.distRead (s : State) (v ptr n : Nat) : Option (List Byte) :=
  match s.distSpans v ptr n false with
  | none => none
  | some ps =>
    if ps.any (fun p => s.badSpan (.pa p.2.1) p.2.2) then none
    else some (ps.flatMap (fun p => s.bytesOf (s.keyOf v) (.pa p.2.1) p.2.2))

/-- A little-endian number that the distributor reads. -/
def State.distNat (s : State) (v ptr n : Nat) : Option Nat := (s.distRead v ptr n).map leNat

/-- Set A, and D on a write, for the pages of a distributor access, and count the key mismatches of a read (R62, R74). -/
def State.distMark (s : State) (v ptr n : Nat) (write : Bool) : State :=
  if n = 0 then s
  else match s.distSpans v ptr n write with
    | none => s
    | some ps => ps.foldl (fun s p =>
        let s1 := s.markAccess mgmtCore p.1 write
        if write then s1 else (lineStarts p.2.1 p.2.2).foldl (fun s a => s.noteMismatch (s.keyOf v) a) s1) s

/-- Write bytes over pages. -/
def State.distPut (s : State) (v : Nat) : List (TlbEntry × Nat × Nat) → List Byte → Label → State
  | [], _, _ => s
  | p :: ps, bs, lab => (s.perform none (s.keyOf v) (.pa p.2.1) (bs.take p.2.2) lab).distPut v ps (bs.drop p.2.2) lab

/-- The distributor writes bytes, if it can. -/
def State.distWrite (s : State) (v ptr : Nat) (bs : List Byte) (lab : Label) : State :=
  match s.distSpans v ptr bs.length true with
  | none => s
  | some ps => (s.distMark v ptr bs.length true).distPut v ps bs lab

/-! ### The checks of R294 -/

/-- Bytes of the core map, whole 64-bit words (R296, R349). -/
def Grid.mapBytes (g : Grid) : Nat := 8 * ceilDiv (g.width * g.height) 64

/-- The completion area is misaligned, zero or cannot be written. -/
def State.areaBad (s : State) (v : Nat) (g : Grid) : Bool :=
  g.cptr = 0 || g.cptr % 64 ≠ 0 || (s.distSpans v g.cptr 16 true).isNone || (s.distSpans v (g.cptr + 64) g.mapBytes true).isNone

/-- The stage table as read. -/
def State.stageWords (s : State) (v : Nat) (g : Grid) : Option (List Nat) :=
  (s.distRead v (g.f 0 64) (32 * (g.f 358 3 + 1))).map (fun bs =>
    (List.range (g.f 358 3 + 1)).map (fun i => leNat ((bs.drop (32 * i)).take 32)))

/-- The dependence list as read. -/
def State.depList (s : State) (v : Nat) (g : Grid) : Option (List Nat) :=
  if g.f 428 7 = 0 then some []
  else (s.distRead v (g.f 192 64) (4 * g.f 428 7)).map (fun bs => (List.range (g.f 428 7)).map (fun i => leNat ((bs.drop (4 * i)).take 4)))

/-- The sites of a rectangle that lie on the wafer. -/
def rectSites (x0 y0 w h : Nat) : List Nat :=
  (List.range (w * h)).filterMap (fun i =>
    if x0 + i % w < 80 && y0 + i / w < 96 then some (80 * (y0 + i / w) + (x0 + i % w)) else none)

/-- A rectangle lies on the wafer and wholly in a partition (R299). -/
def State.inPartition (s : State) (part x0 y0 w h : Nat) : Bool :=
  x0 + w ≤ 80 && y0 + h ≤ 96 && (rectSites x0 y0 w h).all (fun c => s.siteOwner c = some part)

/-- The origins at which a rectangle lies wholly in a partition, in ascending y, then x (R299). -/
def State.positions (s : State) (part w h : Nat) : List (Nat × Nat) :=
  (List.range (97 - h)).flatMap (fun y => (List.range (81 - w)).filterMap (fun x =>
    if s.inPartition part x y w h then some (x, y) else none))

/-- Whether new stands of a function run in race-check mode (R367, R371, R385). -/
def State.raceMode (s : State) (v : Nat) : Bool := !s.withheld 0 && s.field (supAt v 0x1C0) 0 1 = 1

/-- KiB of a core that a stand of a partition may use at most (R294, R371). -/
def State.kibOf (s : State) (site part : Nat) (race : Bool) : Nat := (s.banks site part).length * (if race then 16 else 32)

/-- Reason 3 over a rectangle: some working site of the partition has too little (R294). -/
def State.tooBig (s : State) (part : Nat) (race : Bool) (g : Grid) (x0 y0 : Nat) : Bool :=
  (rectSites x0 y0 g.width g.height).any (fun c =>
    s.siteState c = 0 && s.siteOwner c = some part && s.kibOf c part race < g.needKiB)

/-- Whether two spans of scratchpad or addresses overlap. -/
def spansMeet : List (Nat × Nat) → Bool
  | [] => false
  | p :: ps => ps.any (fun q => p.1 < q.1 + q.2 && q.1 < p.1 + p.2) || spansMeet ps

/-- Whether a vault queue of a function lies wholly in a cluster's vault, off window and DC pages (R229). -/
def State.vaultQueueOk (s : State) (v ptr n c : Nat) : Bool :=
  ptr % 64 = 0 && (match s.distSpans v ptr n true with
    | none => false
    | some ps => ps.all (fun p => isVault p.2.1 && homeOf (p.2.1 / 64) = c && !bit p.1.s1.toNat 9))

/-- The vault queues of a compartment: pointer and bytes; none when a pointer cannot be read. -/
def State.vaultQueues (s : State) (v : Nat) (stages : List Stage) (i : Nat) : Option (List (Nat × Nat)) :=
  (stages.filter (fun x => x.qloc = 2)).foldr (fun x r =>
    match s.distNat v (x.qptr.toNat + 8 * i) 8, r with
    | some p, some ps => some ((p, x.queueBytes) :: ps)
    | _, _ => none) (some [])

/-- Whether a compartment's vault queues break reason 6. -/
def State.vaultBad (s : State) (v : Nat) (stages : List Stage) (i c : Nat) : Bool :=
  match s.vaultQueues v stages i with
  | none => true
  | some qs => qs.any (fun q => !s.vaultQueueOk v q.1 q.2 c) || spansMeet qs

/-- Whether a launch's vault queues break reason 6 in some compartment of its rectangle. -/
def State.vaultsBad (s : State) (v : Nat) (g : Grid) (stages : List Stage) : Bool :=
  (g.clusters.zip (List.range g.clusters.length)).any (fun p => s.vaultBad v stages p.2 p.1)

/-- Whether the vault queues of a launch have no place: in its pinned rectangle, or in every rectangle that its partition could
give it (R294, R295; notes/assumptions 30). -/
def State.queuesBad (s : State) (v : Nat) (g : Grid) (stages : List Stage) : Bool :=
  if g.pinned then s.vaultsBad v g stages
  else
    let ps := s.positions (s.vfPart v) g.width g.height
    !ps.isEmpty && ps.all (fun p => s.vaultsBad v { g with x0 := p.1, y0 := p.2 } stages)

/-- Reason 6 (R294). -/
def State.stagesBad (s : State) (v : Nat) (g : Grid) (stages : List Stage) : Bool :=
  let a := 1024 * g.f 384 11
  let top := a + 1024 * g.f 395 11
  let sp := (stages.filter (fun x => x.qloc = 1)).map (fun x => (x.qptr.toNat, x.queueBytes))
  2048 < (stages.map (·.threads)).sum
    || stages.any (fun x => x.com && 512 < x.threads)
    || (match stages.getLast? with
        | some x => x.qloc ≠ 0
        | none => false)
    || stages.any (fun x => x.qloc ≠ 0 && (x.qcap = 0 || x.qesz = 3))
    || sp.any (fun p => 2 ^ 32 ≤ p.1 || p.1 % 64 ≠ 0 || p.1 < a || top < p.1 + p.2) || spansMeet sp
    || (stages.any (fun x => x.qloc = 2) && s.queuesBad v g stages)

/-- Reason 8 over a rectangle: a claim of a launch of at least this priority with a communication stage (R294). -/
def State.mtxBlocked (s : State) (g : Grid) (x0 y0 : Nat) : Bool :=
  g.mtx && (rectSites x0 y0 g.width g.height).any (fun c => (List.range 4).any (fun q =>
    match (s.quadAt (4 * c + q)).matrix.owner with
    | none => false
    | some k => match s.grids.get? (gridOf k) with
      | some o => g.pri ≤ o.pri && o.stages.any (·.com)
      | none => false))

/-- Reason 1 (R294). -/
def State.recordBad (s : State) (v : Nat) (g : Grid) (words : Option (List Nat)) (deps : Option (List Nat)) : Bool :=
  s.areaBad v g || g.f 0 64 % 32 ≠ 0 || g.f 128 64 % 64 ≠ 0 || (g.f 428 7 ≠ 0 && g.f 192 64 % 4 ≠ 0) || g.f 370 14 ≠ 0
    || g.f 451 61 ≠ 0 || g.f 384 11 = 0 || 1024 < g.f 384 11 || 64 < g.f 428 7
    || (!g.pinned && (g.f 334 7 ≠ 0 || g.f 341 7 ≠ 0)) || deps.isNone
    || (match words with
        | none => true
        | some ws => ws.any stageReserved)

/-- The reasons of R294 that hold at submission. -/
def State.reasons (s : State) (v : Nat) (g : Grid) : List Nat :=
  let words := s.stageWords v g
  let stages := (words.getD []).map Stage.ofBits
  let part := s.vfPart v
  let race := s.raceMode v
  let dc := ((stages.zip (List.range 8)).filter (fun p => bit (g.f 361 8) p.2)).map (fun p => p.1.threads)
  let big := if g.pinned then s.tooBig part race g (g.f 334 7) (g.f 341 7)
    else
      let ps := s.positions part g.width g.height
      !ps.isEmpty && ps.all (fun p => s.tooBig part race g p.1 p.2)
  (if s.recordBad v g words (s.depList v g) then [1] else []) ++ (if big then [3] else [])
    ++ (if g.f 406 11 < dc.sum then [4] else []) ++ (if s.stagesBad v g stages then [6] else [])
    ++ (if g.f 349 6 ≠ 0 && g.width * g.height < g.gang then [7] else [])
    ++ (if g.pinned && s.mtxBlocked g (g.f 334 7) (g.f 341 7) then [8] else [])

/-! ### The end of a grid (R296, R307) -/

/-- The status word of a grid (R49). -/
def Grid.status (g : Grid) : Nat :=
  match g.fail with
  | none => 0
  | some f => f.code.toNat * 2 ^ 24 + (f.rcd.getD 0) % 2 ^ 16

/-- A thread that waits in JOIN for a handle issues it again. -/
def Thread.childEnded (h : Nat) (t : Thread) : Thread :=
  match t.wait with
  | .child w => if w.toNat = h then t.wake else t
  | _ => t

/-- Matrix state without poison: it ends with its threads and their context (R417). -/
def Matrix.unpoisoned (x : Matrix) : Matrix :=
  { x with macros := x.macros.mapVals (fun _ m => { m with poison := [] })
           accs := x.accs.mapVals (fun _ a => { a with rows := [], cols := [] }) }

/-- A quadrant whose matrix state a grid claims is free again. -/
def Quad.unclaim (g : Nat) (q : Quad) : Quad :=
  match q.matrix.owner with
  | some k => if gridOf k = g && 8192 ≤ k then { q with matrix := { q.matrix.unpoisoned with owner := none } } else q
  | none => q

/-- A grid ends: it releases its rectangle, circuits and matrix claims, its completion record is written, and every JOIN on
its handle completes; its own children's handles name nothing any more (R296, R307). -/
def State.endGrid (s : State) (k : Nat) : State :=
  match s.grids.get? k with
  | none => s
  | some g =>
    let s1 := { s with quads := s.quads.mapVals (fun _ q => Quad.unclaim k q) }
    let s2 := if g.noCompletion then s1
      else s1.distWrite g.vf g.cptr (leBytes 16 (k % 2 ^ 32 + g.status * 2 ^ 32 + g.rsn * 2 ^ 64)) 0
    { s2 with
        threads := s2.threads.mapVals (fun _ t => Thread.childEnded k t)
        stands := s2.stands.filterT (fun _ st => st.grid ≠ k)
        grids := (if g.parent = 0 then s2.grids.erase k else s2.grids.modify k (fun g => { g with state := .ended })).filterT
          (fun _ c => c.parent ≠ k) }

/-- A launch is rejected: launch-rejected status with REC 0 (R294). -/
def State.rejectGrid (s : State) (k rsn : Nat) : State :=
  ({ s with grids := s.grids.modify k (fun g => { g with fail := some ⟨0xE1, none, false, 0⟩, rsn := rsn }) }).endGrid k

/-- Whether every launch that a grid submitted has ended. -/
def State.childrenDone (s : State) (k : Nat) : Bool := s.grids.all (fun p => p.2.parent ≠ k || p.2.state = .ended)

/-- Whether a grid may end: every stand exited, or a stand failed and its record is settled; and no child is left (R164,
R307, R400). -/
def State.gridDone (s : State) (k : Nat) : Bool :=
  match s.grids.get? k with
  | none => false
  | some g => g.state ≠ .ended && s.childrenDone k && (match g.fail with
    | some f => !f.due
    | none => (g.state = .placing || g.state = .placed) && s.stands.all (fun p => p.2.grid ≠ k || isHandler p.1 || p.2.exited))

/-- GRID_END (R307). -/
def execGridEnd (grid : Nat) (s : State) : Host.Outcome State Fault Refusal := .next (if s.gridDone grid then s.endGrid grid else s)

/-! ### Submission (R164, R294, R295, R297) -/

/-- Grids of a partition that satisfy a test. -/
def State.gridsIn (s : State) (part : Nat) (p : Grid → Bool) : Nat := (s.grids.filter (fun x => s.vfPart x.2.vf = part && p x.2)).length

/-- The launch that a record submits: its grid as Submitted. -/
def newGrid (v parent : Nat) (hart : Option Nat) (rcd : Nat) (carried : Label) : Grid where
  vf := v
  state := .submitted
  parent := parent
  hart := hart
  rcd := BitVec.ofNat 512 rcd
  stages := []
  routes := []
  deps := []
  x0 := bits rcd 334 7
  y0 := bits rcd 341 7
  carried := carried
  fail := none
  rsn := 0
  noCompletion := false
  exitLabel := 0
  firstStart := []
  expired := []
  lack := []
  wps := []
  dcFirst := []
  vqDone := []
  unjoined := true

/-- Submit a record: the checks made at submission, and Waiting or Ended (R294, R297). Of several reasons that hold the spec
names none first, so which one is reported is free (notes/assumptions 30). Answers the handle, the reason (0: none), whether no
completion record will be written, and the state. -/
def State.submitGrid (s : State) (v parent : Nat) (hart : Option Nat) (rcd : Nat) (carried : Label) (n : Nat) : Nat × Nat × Bool × State :=
  let k := s.nextId
  let g := newGrid v parent hart rcd carried
  let rs := s.reasons v g
  let stages := ((s.stageWords v g).getD []).map Stage.ofBits
  let g1 := { g with stages := stages, deps := (s.depList v g).getD [], noCompletion := s.areaBad v g, state := .waiting }
  let s1 := { ((s.distMark v (g.f 0 64) (32 * (g.f 358 3 + 1)) false).distMark v (g.f 192 64) (4 * g.f 428 7) false) with nextId := k + 1 }
  let s2 := { s1 with grids := s1.grids.insert k g1 }
  match rs with
  | [] => (k, 0, false, s2)
  | r :: _ =>
    let why := rs.getD ((s.free n).toNat % rs.length) r
    (k, why, g1.noCompletion, s2.rejectGrid k why)

/-- Whether a function's launch port accepts records: STATE 6, features confirmed, the function enabled (R295, R383, R385). -/
def State.launchOpen (s : State) (v : Nat) : Bool :=
  v < 1024 && s.mgmt.mstate.toNat % 16 = 6 && s.field (featAt 0x40) 1 1 = 1 && s.vfEnabled v

/-- A launch handle is live: its grid has not ended, or its parent's has not (R296). -/
def State.handleLive (s : State) (g : Grid) : Bool := g.state ≠ .ended || (s.grids.get? g.parent).isSome

/-- LAUNCH_SUBMIT (R295): a hart's 64-byte store to a launch port; any other store is dropped and logged. -/
def execLaunchSubmit (hart vf : Nat) (data : List Byte) (s : State) : Host.Outcome State Fault Refusal :=
  let key := 1024 * hart + vf
  .next (if data.length ≠ 64 || !s.launchOpen vf then s.logIgnored (launchAt vf) true (.host hart)
    else if 4096 ≤ s.gridsIn (s.vfPart vf) s.handleLive then
      { s with lhnd := s.lhnd.put 0 key (putField (s.lhnd.getD key 0) 32 1 1) }
    else
      let r := s.submitGrid vf 0 (some hart) (leNat data) (s.vfLabel vf) 0
      let w := r.1 % 2 ^ 32 + (if r.2.1 ≠ 0 then 2 ^ 33 + r.2.1 * 2 ^ 34 else 0) + (if r.2.2.1 then 2 ^ 42 else 0)
      { r.2.2.2 with lhnd := r.2.2.2.lhnd.put 0 key (BitVec.ofNat 64 w) })

/-! ### LAUNCH and JOIN (R164, R165) -/

/-- Whether the issuing stand belongs to a grid: a handler stand and the management core do not (R397, R422, R473). -/
def State.hasGrid (s : State) : Bool := !isHandler s.curStand && !s.onMgmt

/-- The encoding and quota faults of LAUNCH; where there is no grid it is illegal (R164, R422). -/
def illLaunch (f : SFmt) (s : State) : Option Flt :=
  illegal (f.bare true true false false && aligned f.ra 2 && s.hasGrid) ((Src.v f.ra 2).beyond s.quota || (Dst.v f.rd 1).beyond s.quota)

/-- The check of LAUNCH in a lane: its raise, the limit of unjoined children counted with the lanes before it, and the record,
a 64-byte load (R164). -/
def State.launchCheck (f : SFmt) (used : Nat) (ex : List Nat) : State → Nat → Ans Target × State :=
  State.afterRaise f.gp [.v f.ra 2] (fun s l =>
    if 4096 ≤ used + (ex.filter (fun x => x < l)).length then (.wait 4, s)
    else
      let c := s.laneCheck (fun t => ⟨0, t.regNat f.ra 2, 0, 64, 64, true, false, some 0, true, true, false, false⟩) [.v f.ra 2] l
      match c.1 with
      | .ok tg => if c.2.dcWaits (c.2.laneWho l) tg then (.wait 5, c.2) else (.ok tg, c.2)
      | x => (x, c.2))

/-- The unjoined children of the issuing partition that have not ended (R164). -/
def State.unjoined (s : State) : Nat := s.gridsIn (s.vfPart (s.vfOf s.curStand)) (fun g => g.unjoined && g.state ≠ .ended)

/-- LAUNCH (R164). -/
def execLaunch (f : SFmt) (s : State) : Host.Outcome State Fault Refusal :=
  let a := Src.v f.ra 2
  let d := Dst.v f.rd 1
  .next (s.issue f.gn f.gp (illLaunch f s) (fun ex =>
    let v := s.vfOf s.curStand
    s.eachLane ex (State.launchCheck f s.unjoined ex)
      (fun s goods =>
        let r := goods.foldl (fun (x : List (Nat × List Out) × Label × State) p =>
          let s := x.2.2
          let w := s.laneWho p.1
          if s.badSpan p.2.loc 64 then (x.1, x.2.1, s.failStand w.stand 0xE0 none false)
          else
            let s1 := s.drainQ w.thread
            let ld := s1.loadAt w p.2 64
            let carried := s.curSlot.srcLabel [a] ||| ld.1.label ||| (s.lane p.1).flow
            let g := ld.2.submitGrid v (gridOf s.curStand) none ld.1.v carried p.1
            (x.1 ++ [(p.1, [Out.val g.1])], x.2.1 ||| ld.1.label, g.2.2.2)) ([], 0, s)
        let ls := r.1.map Prod.fst
        r.2.2.commit ls [d] (r.2.2.labelL f.gp.toNat ls (s.curSlot.srcLabel [a]) r.2.1) r.1)))

/-- What a lane of JOIN finds: the status word with the child's exit label, or a child that has not ended (R49, R165). -/
inductive JoinAns where
  | status (w : Nat) (label : Label)
  | running (h : Nat)

/-- JOIN's look at a handle (R165): one that the grid did not receive is BADH. -/
def State.joinLook (s : State) (h : Nat) : JoinAns :=
  match s.grids.get? h with
  | none => .status (0xE2 * 2 ^ 24) 0
  | some g =>
    if g.parent = 0 || g.parent ≠ gridOf s.curStand then .status (0xE2 * 2 ^ 24) 0
    else if g.state = .ended then .status g.status g.exitLabel
    else .running h

/-- The destination of JOIN; JOIN.F has none. -/
def joinDst (f : SFmt) : List Dst := if f.s 0 1 = 1 then [] else [.v f.rd 1]

/-- The encoding and quota faults of JOIN; where there is no grid it is illegal (R165, R422). -/
def illJoinGrid (f : SFmt) (s : State) : Option Flt :=
  illegal (f.bare (!(f.s 0 1 = 1)) true false true && f.s 1 9 = 0 && s.hasGrid)
    ((Src.v f.ra 1).beyond s.quota || (joinDst f).any (·.beyond s.quota))

/-- The check of JOIN in a lane: its raise, and under JOIN.F a status that is not a success (R165). -/
def State.joinCheck (f : SFmt) : State → Nat → Ans JoinAns × State :=
  State.afterRaise f.gp [.v f.ra 1] (fun s l =>
    match s.joinLook ((s.lane l).reg f.ra).toNat with
    | .running h => (.ok (JoinAns.running h), s)
    | .status w lab =>
      if f.s 0 1 = 1 && w / 2 ^ 24 ≠ 0 then (.bad { Flt.plain 0x16 (w / 2 ^ 24) with det := BitVec.ofNat 64 w }, s)
      else (.ok (.status w lab), s))

/-- JOIN and JOIN.F (R49, R165). When a handle stops counting as unjoined, which R164 does not say, is a DESIGN CHOICE: as soon as
a JOIN of it begins to wait; the handles of a host's launches count (notes/assumptions 21). -/
def execJoin (f : SFmt) (s : State) : Host.Outcome State Fault Refusal :=
  let a := Src.v f.ra 1
  let trap := f.s 0 1 = 1
  let ds := joinDst f
  .next (s.issue f.gn f.gp (illJoinGrid f s) (fun ex =>
    s.eachLaneStay ex (State.joinCheck f)
      (fun s goods =>
        let ends := goods.filterMap (fun p => match p.2 with
          | .status w lab => some (p.1, w, lab)
          | .running _ => none)
        let runs := goods.filterMap (fun p => match p.2 with
          | .running h => some (p.1, h)
          | .status _ _ => none)
        let s1 := runs.foldl (fun s p => { (s.updLane p.1 (fun t => t.sleep (.child (BitVec.ofNat 32 p.2)))) with
          grids := s.grids.modify p.2 (fun g => { g with unjoined := false }) }) s
        let ls := ends.map Prod.fst
        let m := Label.union (ends.map (fun p => p.2.2))
        let s2 := if trap then s1
          else s1.commit ls ds (s1.labelL f.gp.toNat ls (s.curSlot.srcLabel [a]) m) (ends.map (fun p => (p.1, [Out.val p.2.1])))
        (s2, runs.map Prod.fst))))

end Sys2Proof.Machine
end

