-- ==== Sys2Proof/Machine/Place.lean ====
section
/-!
DEFINITION. From Waiting to the last stand: LAUNCH_CLAIM (R298 to R300), STAND_PLACE (R301, R302), STAND_START (R303),
GANG_PATIENCE_EXPIRE (R302) and GANG_RELIEF (R440).
-/

namespace Sys2Proof.Machine

/-! ### Room (R301, R302) -/

/-- A stand holds its room: it runs, or the distributor has chosen it and it has not started or returned yet. -/
def Stand.holds (st : Stand) : Bool := !st.exited && (st.chosen || (st.started && st.saved.isNone))

/-- KiB of scratchpad that a stand takes, doubled where its shadow takes as much (R67, R371). -/
def Stand.kib (st : Stand) : Nat := (st.areaA / 1024 + st.queueKiB + st.dcKiB + st.yardKiB) * (if st.raceCheck then 2 else 1)

/-- A stand in the mode that it has, or would start in now (R367, R371). -/
def State.inMode (s : State) (st : Stand) : Stand := if st.started then st else { st with raceCheck := s.raceMode st.vf }

/-- KiB of a core's banks that a partition has unreserved. -/
def State.kibFree (s : State) (core part : Nat) : Nat :=
  32 * (s.banks core part).length
    - (s.stands.filterMap (fun p => if p.2.core = core && p.2.holds && s.vfPart p.2.vf = part then some p.2.kib else none)).sum

/-- The largest quota among a stand's stages on a quadrant; 0 when none is placed there. -/
def Stand.quotaOn (st : Stand) (q : Nat) : Nat := (st.stages.filter (fun x => x.quads.contains q)).foldl (fun m x => max m x.quota) 0

/-- The quadrants that hold a crew of a stand. -/
def Stand.quadsUsed (st : Stand) : List Nat := (List.range 4).filter (fun q => st.quotaOn q ≠ 0)

/-- The slots that chosen stands return to, with the registers of each (R301). -/
def State.awaited (s : State) (quad : Nat) : List (Nat × Nat) :=
  s.stands.flatMap (fun p => if !p.2.chosen then [] else match p.2.saved with
    | none => []
    | some sv => sv.slots.filterMap (fun x => if x.1 / 16 = quad && !x.2.lanes.isEmpty then
        some (x.1, 32 * (match p.2.stages[x.2.stage]? with
          | some g => g.quota
          | none => 0)) else none))

/-- Registers of one resident slot. -/
def State.slotRegs (s : State) (sl : Slot) : Nat :=
  if sl.lanes.isEmpty then 0 else match s.stageOf sl.stand sl.stage with
    | some g => 32 * g.quota
    | none => 0

/-- Slots of a quadrant that are neither resident nor awaited. -/
def State.openSlots (s : State) (quad : Nat) : List Nat :=
  ((List.range 16).map (fun w => 16 * quad + w)).filter (fun k =>
    (s.slotAt k).lanes.isEmpty && !((s.awaited quad).any (fun x => x.1 = k)))

/-- Slots and registers of a quadrant still owed to stands other than one. -/
def State.owedTo (s : State) (quad except : Nat) : List Nat :=
  s.stands.filterMap (fun p => if p.1 ≠ except && p.2.core = quad / 4 && p.2.holds && p.2.owed.contains (quad % 4)
    then some (32 * p.2.quotaOn (quad % 4)) else none)

/-- Registers of a quadrant free for a stand (R45). -/
def State.regsFree (s : State) (quad except : Nat) : Nat :=
  65536 - ((List.range 16).map (fun w => s.slotRegs (s.slotAt (16 * quad + w)))).sum
    - ((s.awaited quad).map Prod.snd).sum - (s.owedTo quad except).sum

/-- Whether a quadrant has a slot and `n` registers for a stand. -/
def State.quadRoom (s : State) (quad except n : Nat) : Bool :=
  (s.owedTo quad except).length < (s.openSlots quad).length && n ≤ s.regsFree quad except

/-- Whether the slots of a save are free, with their registers (R301, R310). -/
def State.savedRoom (s : State) (k : Nat) (st : Stand) (sv : SavedState) : Bool :=
  let mine := sv.slots.filter (fun x => !x.2.lanes.isEmpty)
  (List.range 4).all (fun q =>
    let quad := 4 * st.core + q
    let here := mine.filter (fun x => x.1 / 16 = quad)
    let need := (here.map (fun x => 32 * (match st.stages[x.2.stage]? with
      | some g => g.quota
      | none => 0))).sum
    here.all (fun x => (s.openSlots quad).contains x.1) && need ≤ s.regsFree quad k
      && (here.isEmpty || (s.owedTo quad k).length + here.length ≤ (s.openSlots quad).length))

/-- Whether a launch's stands claim matrix state. -/
def State.claims (s : State) (k : Nat) : Bool :=
  match s.gridAt k with
  | some g => g.mtx
  | none => false

/-- A stand has room on its core (R301). -/
def State.hasRoom (s : State) (k : Nat) : Bool :=
  match s.stands.get? k with
  | none => false
  | some st =>
    (s.inMode st).kib ≤ s.kibFree st.core (s.vfPart st.vf)
      && st.quadsUsed.all (fun q => s.quadRoom (4 * st.core + q) k (32 * st.quotaOn q))
      && (!s.claims k || (List.range 4).all (fun q => (s.quadAt (4 * st.core + q)).matrix.owner.isNone))
      && (match st.saved with
          | some sv => s.savedRoom k st sv
          | none => true)

/-- The machine as it would be with stands gone from their sites: the question of what pre-emption would free (R302). -/
def State.without (s : State) (gone : List Nat) : State :=
  { s with
      slots := s.slots.mapVals (fun _ sl => if gone.contains sl.stand then { sl with lanes := [] } else sl)
      stands := s.stands.mapVals (fun k st => if gone.contains k then { st with exited := true } else st)
      quads := s.quads.mapVals (fun _ q => match q.matrix.owner with
        | some k => if gone.contains k then { q with matrix := { q.matrix with owner := none } } else q
        | none => q) }

/-! ### LAUNCH_CLAIM (R298 to R300) -/

/-- A dependence is met: its grid has triggered or ended, or the handle names no live grid (R50, R298). -/
def State.depMet (s : State) (v h : Nat) : Bool :=
  match s.grids.get? h with
  | none => true
  | some g => g.vf ≠ v || g.state = .ended || ((g.state = .placing || g.state = .placed)
      && s.stands.all (fun p => p.2.grid ≠ h || isHandler p.1 || p.2.triggered))

/-- A stand of a claimed launch, not started (R27, R67, R292). -/
def newStand (g : Grid) (grid num core : Nat) (race : Bool) (fill : Label) : Stand where
  grid := grid
  num := num
  core := core
  vf := g.vf
  stages := g.stages
  started := false
  exited := false
  triggered := false
  areaA := 1024 * g.f 384 11
  queueKiB := g.f 395 11
  dcKiB := g.f 406 11
  yardKiB := g.f 417 11
  fill := fill
  sp := []
  sptags := []
  splabels := []
  absent := []
  bad := []
  raceCheck := race
  shadow := []
  gen := 0
  barriers := []
  rmode := []
  pending := []
  yard := []
  dcBuf := []
  wps := []
  totals := []
  iss := 0
  sat := false
  t0 := 0
  susp := false
  weights := []
  classes := []
  circuits := []
  frozen := none
  saved := none
  savePending := false
  chosen := false
  owed := []
  ops := []
  order := 0

/-- The stand keys and sites of a claimed launch: no stand at a hole or a router-only site (R299). -/
def State.standSites (s : State) (k : Nat) (g : Grid) : List (Nat × Nat) :=
  (List.range (g.width * g.height)).filterMap (fun n => if s.siteState (g.siteOf n) = 0 then some (8192 * k + n, g.siteOf n) else none)

/-- Create a launch's stands, or some of them. -/
def State.addStands (s : State) (k : Nat) (g : Grid) : State :=
  (s.standSites k g).foldl (fun s p =>
    let st := newStand g k (p.1 % 8192) p.2 (s.raceMode g.vf) (s.vfLabel g.vf)
    { s with stands := s.stands.insert p.1 st }) s

/-- How many stands of a launch would have room at a position (R299). -/
def State.roomAt (s : State) (k : Nat) (g : Grid) (x y : Nat) : Nat × Nat :=
  let g1 := { g with x0 := x, y0 := y }
  let s1 := { (s.addStands k g1) with grids := s.grids.insert k g1 }
  let sites := s.standSites k g1
  ((sites.filter (fun p => s1.hasRoom p.1)).length, sites.length)

/-- The position that the distributor chooses: the first with room for every stand, else the first with room for most, of those
whose vaults hold the launch's vault queues (R229, R299). -/
def State.choosePosition (s : State) (k : Nat) (g : Grid) : Option (Nat × Nat) :=
  let ps := (s.positions (s.vfPart g.vf) g.width g.height).filter (fun p =>
    !(g.stages.any (fun x => x.qloc = 2) && s.vaultsBad g.vf { g with x0 := p.1, y0 := p.2 } g.stages))
  match ps.find? (fun p => let r := s.roomAt k g p.1 p.2; r.1 = r.2) with
  | some p => some p
  | none => (ps.foldl (fun (m : Option ((Nat × Nat) × Nat)) p =>
      let n := (s.roomAt k g p.1 p.2).1
      match m with
      | none => some (p, n)
      | some (q, best) => if best < n then some (p, n) else some (q, best)) none).map Prod.fst

/-- The directed links of a launch's non-void routes, one entry for each circuit over them (R279). -/
def State.gridLinks (s : State) (g : Grid) : List (Nat × Nat) :=
  (List.range (g.width * g.height)).flatMap (fun n =>
    if s.siteState (g.siteOf n) ≠ 0 then []
    else g.routes.flatMap (fun r => match s.routeFrom g r.2 n with
      | none => []
      | some ts => (g.siteOf n :: ts).zip ts))

/-- The route table of a launch; none when it cannot be read or holds a reserved value (R279, R294). -/
def State.loadRoutes (s : State) (g : Grid) : Option (Table (BitVec 512)) :=
  if g.f 128 64 = 0 then some []
  else match s.distRead g.vf (g.f 128 64) 4096 with
    | none => none
    | some bs =>
      let rs := (List.range 64).map (fun i => leNat ((bs.drop (64 * i)).take 64))
      if rs.any (fun r => 232 < bits r 0 8 || bits r 472 40 ≠ 0) then none
      else some ((rs.zip (List.range 64)).foldl (fun t p => if bits p.1 0 8 = 0 then t else t.insert p.2 (BitVec.ofNat 512 p.1)) [])

/-- Whether circuits need more than 16 slots on some directed link, with those of the partition's placed launches (R279, R300). -/
def State.linksFull (s : State) (g : Grid) : Bool :=
  let others := s.grids.flatMap (fun p =>
    if (p.2.state = .placing || p.2.state = .placed) && s.vfPart p.2.vf = s.vfPart g.vf then s.gridLinks p.2 else [])
  let mine := s.gridLinks g
  mine.any (fun l => 16 < (mine.filter (fun x => x = l)).length + (others.filter (fun x => x = l)).length)

/-- The core map of a launch: bit i is 1 when stand number i has a stand (R296). -/
def State.coreMap (s : State) (g : Grid) : List Byte :=
  leBytes g.mapBytes (maskOf ((List.range (g.width * g.height)).filter (fun n => s.siteState (g.siteOf n) = 0)))

/-- LAUNCH_CLAIM (R297 to R300). -/
def execLaunchClaim (grid : Nat) (s : State) : Host.Outcome State Fault Refusal :=
  .next (match s.grids.get? grid with
    | none => s
    | some g =>
      if g.state ≠ .waiting || g.fail.isSome || !g.deps.all (s.depMet g.vf) then s
      else
        let pos := if g.pinned then
            (if s.inPartition (s.vfPart g.vf) g.x0 g.y0 g.width g.height then some (g.x0, g.y0) else none)
          else s.choosePosition grid g
        match pos with
        | none => s.rejectGrid grid 2
        | some (x, y) =>
          if !g.pinned && s.mtxBlocked g x y then s.rejectGrid grid 8
          else match s.loadRoutes g with
            | none => s.rejectGrid grid 5
            | some rs =>
              let g1 := { g with x0 := x, y0 := y, routes := rs, state := .placing }
              if s.linksFull g1 then s.rejectGrid grid 5
              else
                let s0 := s.distMark g.vf (g.f 128 64) (if g.f 128 64 = 0 then 0 else 4096) false
                let s1 := { s0 with grids := s0.grids.insert grid g1 }
                (s1.distWrite g1.vf (g1.cptr + 64) (s1.coreMap g1) 0).addStands grid g1)

/-! ### The turns of time-sliced functions (R320) -/

/-- Whether a function holds a launch that has not ended. -/
def State.hasLaunch (s : State) (v : Nat) : Bool := s.grids.any (fun p => p.2.vf = v && p.2.state ≠ .ended)

/-- The functions of a partition that take part in its turns, ascending. -/
def State.turnTakers (s : State) (part : Nat) : List Nat :=
  (List.range 1024).filter (fun v => s.vfEnabled v && s.vfMode v = 1 && s.vfPart v = part && s.hasLaunch v)

/-- CUR of a partition, when CURV says it is valid (R316). -/
def State.curOf (s : State) (part : Nat) : Option Nat :=
  if s.field (pctlAt part) 42 1 = 1 then some (s.field (pctlAt part) 32 10) else none

/-- Name the resident function of a partition. -/
def State.setCur (s : State) (part v : Nat) : State := (s.setField (pctlAt part) 32 10 v).setField (pctlAt part) 42 1 1

/-- Whether a slice switch of a partition is in progress. -/
def State.switching (s : State) (part : Nat) : Bool := s.field (pctlAt part) 1 1 = 1

/-- Whether stands of a function may be placed now: always for a fixed one, in its turn for a time-sliced one (R320). -/
def State.mayPlace (s : State) (v : Nat) : Bool :=
  s.vfMode v = 0 || (s.curOf (s.vfPart v) = some v && !s.switching (s.vfPart v))

/-! ### STAND_PLACE (R301, R302) -/

/-- The gang of a stand number. -/
def Grid.gangNum (g : Grid) (num : Nat) : Nat := num / g.gang

/-- A stand waits for a place: it has not started, or it is saved. -/
def Stand.pendingPlace (st : Stand) : Bool := !st.exited && !st.chosen && (!st.started || st.saved.isSome)

/-- Effective priority of a launch's stand: 8 while its gang's patience has run out and some member has not started (R302). -/
def Grid.effPri (g : Grid) (num : Nat) : Nat := if 1 < g.gang && g.expired.contains (g.gangNum num) then 8 else g.pri

/-- The order in which the distributor chooses: smaller first (R302). -/
def Grid.placeKey (g : Grid) (k : Nat) : Nat :=
  let partly := 1 < g.gang && (g.firstStart.get? (g.gangNum (k % 8192))).isSome
  ((8 - g.effPri (k % 8192)) * 2 + (if partly then 0 else 1)) * 2 ^ 64 + k

/-- The pending stands of a partition's live launches, with their launches. -/
def State.waitingStands (s : State) (part : Nat) : List (Nat × Grid) :=
  s.stands.filterMap (fun p => match s.grids.get? p.2.grid with
    | some g => if !isHandler p.1 && p.2.pendingPlace && p.2.frozen.isNone && g.fail.isNone && g.state ≠ .ended
        && s.vfPart g.vf = part && s.mayPlace g.vf then some (p.1, g) else none
    | none => none)

/-- The stands that pre-emption for a gang may take on a site: resident, not already leaving, of a lower priority; lowest
priority first, then most recently started (R302). -/
def State.victims (s : State) (core part pri : Nat) : List Nat :=
  let all := s.stands.filterMap (fun p => match s.grids.get? p.2.grid with
    | some g => if !isHandler p.1 && p.2.core = core && p.2.started && !p.2.exited && p.2.saved.isNone && !p.2.savePending
        && p.2.frozen.isNone && s.vfPart p.2.vf = part && g.pri < pri then some (p.1, g.pri, p.2.order) else none
    | none => none)
  let keys := sortNat (all.map (fun x => x.2.1 * 2 ^ 64 + (2 ^ 64 - 1 - x.2.2)))
  keys.flatMap (fun k => (all.filter (fun x => x.2.1 * 2 ^ 64 + (2 ^ 64 - 1 - x.2.2) = k)).map Prod.fst)

/-- The first stands of a list without which a stand has room, beside those already leaving its site. -/
def State.enough (s : State) (k : Nat) (gone : List Nat) : List Nat → List Nat
  | [] => []
  | x :: xs => if (s.without gone).hasRoom k then [] else x :: s.enough k (gone ++ [x]) xs

/-- Stands of a site that are leaving it. -/
def State.leaving (s : State) (core : Nat) : List Nat :=
  s.stands.filterMap (fun p => if p.2.core = core && p.2.savePending then some p.1 else none)

/-- Mark stands to be saved (R302, R309). -/
def State.callSave (s : State) (ks : List Nat) : State := ks.foldl (fun s k => s.updStand k (fun st => { st with savePending := true })) s

/-- Pre-empt for the members of expired gangs that have no room (R302). -/
def State.preemptFor (s : State) (part : Nat) : State :=
  (s.waitingStands part).foldl (fun s p =>
    if p.2.effPri (p.1 % 8192) ≠ 8 || s.hasRoom p.1 then s
    else match s.stands.get? p.1 with
      | none => s
      | some st => s.callSave (s.enough p.1 (s.leaving st.core) (s.victims st.core part p.2.pri))) s

/-- A crew claims the matrix state of its quadrant: no configuration, no valid block and no poison; what macros and accumulators
hold stays, with its labels (R242, R243, R253, R417). -/
def Matrix.claim (k : Nat) (m : Matrix) : Matrix := { m.unpoisoned with owner := some k, cfg := none, blocks := [], queue := [] }

/-- Reserve a stand's room (R302). -/
def State.reserve (s : State) (k : Nat) : State :=
  match s.stands.get? k with
  | none => s
  | some st =>
    let s1 := s.updStand k (fun st => { s.inMode st with chosen := true, owed := if st.saved.isSome then st.owed else st.quadsUsed })
    if !s.claims k then s1
    else (List.range 4).foldl (fun s q => s.updQuad (4 * st.core + q) (fun x => { x with matrix := x.matrix.claim k })) s1

/-- The saved stands of a function take their room back, in the distributor's order, the handler stand first (R310, R320). -/
def State.recall (s : State) (v : Nat) : State :=
  let ks := s.stands.filterMap (fun p => if p.2.vf = v && p.2.saved.isSome && !p.2.exited && !p.2.chosen then some p.1 else none)
  let key (k : Nat) : Nat := match s.gridAt k with
    | some g => g.placeKey k + 1
    | none => 0
  let order := (sortNat (ks.map key)).flatMap (fun x => ks.filter (fun k => key k = x))
  order.foldl (fun s k => if s.hasRoom k then s.reserve k else s) s

/-- The function whose turn comes after those below `from_`: the next taker in ascending order, or the first again (R320). -/
def State.nextTaker (s : State) (part from_ : Nat) : Option Nat :=
  match (s.turnTakers part).find? (fun v => from_ ≤ v) with
  | some v => some v
  | none => (s.turnTakers part).head?

/-- A partition in which no time-sliced function is resident takes the next that takes part, whose saved stands, a handler
stand among them, take their room back (R310, R320, R397). -/
def State.beginTurns (s : State) (part : Nat) : State :=
  match s.curOf part with
  | some _ => s
  | none => match s.nextTaker part (s.field (pctlAt part) 32 10) with
    | some v => (s.setCur part v).recall v
    | none => s

/-- STAND_PLACE (R301, R302): one stand at a time in a partition. -/
def execStandPlace (part : Nat) (s : State) : Host.Outcome State Fault Refusal :=
  let s0 := (s.beginTurns part).preemptFor part
  .next (if s0.stands.any (fun p => p.2.chosen && !p.2.exited && s0.vfPart p.2.vf = part) then s0
    else match leastBy (fun p => p.2.placeKey p.1) ((s0.waitingStands part).filter (fun p => s0.hasRoom p.1)) with
      | none => s0
      | some p => s0.reserve p.1)

/-! ### STAND_START (R303) -/

/-- A barrier at stand start: the declared stages, their threads, nothing arrived (R234). -/
def Stand.freshBarrier (st : Stand) (crew : Option Nat) : Barrier :=
  let count (g : Stage) : Nat := match crew with
    | none => g.threads
    | some q => if g.com then (if g.cqd = q then g.threads else 0) else ((List.range g.threads).filter (fun t => t / 32 % 4 = q)).length
  { smask := BitVec.ofNat 8 (2 ^ st.stages.length - 1), exp := (st.stages.map count).sum, arr := 0, ph := false, link := none
    arrivedBits := [] }

/-- Every barrier at stand start. -/
def Stand.freshBarriers (st : Stand) : Table Barrier :=
  (List.range 80).map (fun b => (b, st.freshBarrier (if b < 16 then none else some (b / 16 - 1))))

/-- Pending threads at stand start: every %tid of every stage (R27). -/
def Stand.freshPending (st : Stand) : List (Nat × Nat) :=
  (st.stages.zip (List.range 8)).flatMap (fun p => (List.range p.1.threads).map (fun t => (p.2, t)))

/-- A declared queue's descriptor: capacity and entry size, HEAD and TAIL zero (R229). -/
def Stage.descriptor (g : Stage) : List Byte := leBytes 64 (g.qcap + g.qesz * 2 ^ 16)

/-- The scratchpad queues that the launch declares (R229, R303). -/
def Stand.withQueues (st : Stand) : Stand :=
  (st.stages.filter (fun g => g.qloc = 1)).foldl (fun st g => { st with sp := setBytes st.sp g.qptr.toNat g.descriptor }) st

/-- The compartment of a stand among those its launch touches (R42). -/
def Grid.compartment (g : Grid) (core : Nat) : Nat := (g.clusters.findIdx? (· = clusterOf core)).getD 0

/-- The vault queues of a compartment, initialised when its first stand starts (R229, R303). -/
def State.startVaultQueues (s : State) (k : Nat) : State :=
  match s.stands.get? k, s.gridAt k with
  | some st, some g =>
    let i := g.compartment st.core
    if g.vqDone.contains i then s
    else
      let s1 := { s with grids := s.grids.modify st.grid (fun g => { g with vqDone := g.vqDone ++ [i] }) }
      (st.stages.filter (fun x => x.qloc = 2)).foldl (fun s x =>
        match s.distNat st.vf (x.qptr.toNat + 8 * i) 8 with
        | none => s
        | some p => if s.vaultQueueOk st.vf p x.queueBytes (clusterOf st.core) then s.distWrite st.vf p x.descriptor g.carried else s) s1
  | _, _ => s

/-- The state of a stand at its start (R67, R234, R303, R367, R371). -/
def Stand.begin (st : Stand) (race : Bool) (t0 : Double) (order : Nat) : Stand :=
  let st1 := st.withQueues
  { st1 with started := true, chosen := false, raceCheck := race, barriers := st.freshBarriers, pending := st.freshPending
             t0 := t0, order := order }

/-- A launch is Placed once every stand has started (R297). -/
def State.settlePlaced (s : State) (grid : Nat) : State :=
  if s.stands.all (fun p => p.2.grid ≠ grid || isHandler p.1 || p.2.started || p.2.exited) then
    { s with grids := s.grids.modify grid (fun g => if g.state = .placing then { g with state := .placed } else g) }
  else s

/-- The patience clock of a gang starts with its first member (R302). -/
def Grid.noteStart (g : Grid) (num at_ : Nat) : Grid :=
  match g.firstStart.get? (g.gangNum num) with
  | some _ => g
  | none => { g with firstStart := g.firstStart.insert (g.gangNum num) at_ }

/-- The entry and output of a stage's queue as the balancer sees it: entries and capacity; none for a missing queue (R304). -/
def State.queueState (s : State) (k : Nat) (st : Stand) (g : Stage) : Option (Nat × Nat) :=
  let parse (n : Nat) : Nat × Nat := ((bits n 64 32 + 2 ^ 32 - bits n 32 32) % 2 ^ 32, bits n 0 16)
  match g.qloc with
  | 1 => some (parse (leNat (s.bytesOf (s.keyOf st.vf) (.sp k g.qptr.toNat) 12)))
  | 2 => match s.gridAt k with
    | none => none
    | some gr => match s.distNat st.vf (g.qptr.toNat + 8 * gr.compartment st.core) 8 with
      | none => none
      | some p => (s.distNat st.vf p 12).map parse
  | _ => none

/-- The class of a stage: 0 Ready, 1 Starved, 2 Blocked (R304). -/
def State.stageClass (s : State) (k : Nat) (st : Stand) (i : Nat) : Nat :=
  match st.stages[i]? with
  | none => 0
  | some g =>
    let input := if i = 0 then none else match st.stages[i - 1]? with
      | some p => s.queueState k st p
      | none => none
    let starved : Bool := match input with
      | some (n, _) => n = 0
      | none => false
    let full : Bool := match s.queueState k st g with
      | some (n, cap) => cap ≤ n
      | none => false
    if g.com then 0 else if starved then classStarved else if full then 2 else 0

/-- Class every stage of a stand, with its issue weight (R304). -/
def State.classifyStand (s : State) (k : Nat) : State :=
  match s.stands.get? k with
  | none => s
  | some st =>
    let cs := (List.range st.stages.length).map (fun i => (i, s.stageClass k st i))
    let weight (i : Nat) : Nat := match st.stages[i]? with
      | some g => g.weight
      | none => 1
    s.updStand k (fun st => { st with classes := cs, weights := cs.map (fun p => (p.1, if p.2 = 0 then weight p.1 else 1)) })

/-- The members of a gang: its stand keys that have a stand (R48). -/
def State.members (s : State) (grid : Nat) (g : Grid) (i : Nat) : List (Nat × Stand) :=
  s.stands.filter (fun p => p.2.grid = grid && !isHandler p.1 && g.gangNum p.2.num = i)

/-- A gang whose members have all started has its own priority again (R302). -/
def State.settleGang (s : State) (grid num : Nat) : State :=
  match s.grids.get? grid with
  | none => s
  | some g =>
    if (s.members grid g (g.gangNum num)).all (fun p => p.2.started) then
      { s with grids := s.grids.modify grid (fun g => { g with expired := g.expired.filter (· != g.gangNum num) }) }
    else s

/-- STAND_START (R303, R367, R375, R376). What an earlier stand left at the site ends: DESIGN CHOICE (notes/assumptions 52). -/
def execStandStart (stand : Nat) (s : State) : Host.Outcome State Fault Refusal :=
  .next (match s.stands.get? stand with
    | none => s
    | some st =>
      if !st.chosen || st.started || st.exited then s
      else
        let s1 := s.updStand stand (fun st => st.begin (s.raceMode st.vf) (s.clk st.core) s.nextId)
        let s2 := { s1 with nextId := s.nextId + 1, grids := s1.grids.modify st.grid (fun g => g.noteStart st.num s.cycles)
                            remains := s1.remains.filterT (fun _ r => r.core ≠ st.core) }
        let s3 := ((s2.startVaultQueues stand).classifyStand stand).settleGang st.grid st.num
        (s3.settlePlaced st.grid).noteSusp.traceRecord st.vf st.core 0 1 st.num)

/-! ### Gangs whose patience has run out (R302, R440) -/

/-- Whether `n` cycles have passed since a gang's first member started. -/
def State.gangAge (s : State) (g : Grid) (i n : Nat) : Bool :=
  match g.firstStart.get? i with
  | some t => t + n ≤ s.cycles
  | none => false

/-- Since when each pending member of a gang whose patience has run out has had no room (R440). -/
def State.lackOf (s : State) (k : Nat) (g : Grid) : Table Nat :=
  let short := g.expired.flatMap (fun i => (s.members k g i).filter (fun p => p.2.pendingPlace && !s.hasRoom p.1))
  short.foldl (fun t p => t.insert p.2.num (g.lack.getD p.2.num s.cycles)) []

/-- Every launch's members without room are noted anew (R440). -/
def State.noteLack (s : State) : State :=
  if s.grids.all (fun p => p.2.expired.isEmpty && p.2.lack.isEmpty) then s
  else { s with grids := s.grids.mapVals (fun k g => { g with lack := s.lackOf k g }) }

/-- GANG_PATIENCE_EXPIRE (R302). -/
def execGangPatienceExpire (grid gang : Nat) (s : State) : Host.Outcome State Fault Refusal :=
  .next (match s.grids.get? grid with
    | none => s
    | some g =>
      if g.gang < 2 || g.expired.contains gang || g.fail.isSome || !s.gangAge g gang g.patience
        || (s.members grid g gang).all (fun p => p.2.started) then s
      else
        (({ s with grids := s.grids.modify grid (fun g => { g with expired := g.expired ++ [gang] }) }).preemptFor (s.vfPart g.vf)).noteLack)

/-- The stands that hold a site which a stand waits for: the resident stands of its site (R440). -/
def State.inWay (s : State) (k : Nat) : List Nat :=
  match s.stands.get? k with
  | none => []
  | some st => s.stands.filterMap (fun p => if p.1 ≠ k && p.2.core = st.core && p.2.holds && s.vfPart p.2.vf = s.vfPart st.vf
      then some p.1 else none)

/-- The pending members of a gang that have no room, and that no pre-emption can give room (R440). -/
def State.roomless (s : State) (grid : Nat) (g : Grid) (i : Nat) : List Nat :=
  (s.members grid g i).filterMap (fun p =>
    if p.2.pendingPlace && !s.hasRoom p.1
      && (s.inWay p.1).all (fun k => isHandler k || (match s.gridAt k with
          | some o => g.pri ≤ o.pri
          | none => false)) then some p.1 else none)

/-- A gang is stuck: its patience has run out, and a pending member, which no pre-emption can give room, has had none for a
further GPAT (R440). -/
def State.stuckGang (s : State) (grid i : Nat) : Bool :=
  match s.grids.get? grid with
  | none => false
  | some g => 1 < g.gang && g.fail.isNone && g.expired.contains i && (s.roomless grid g i).any (fun k =>
      match g.lack.get? (k % 8192) with
      | some t => t + g.patience ≤ s.cycles
      | none => false)

/-- The gangs (grid, number) that hold what a stuck gang waits for; none when something in its way is of no stuck gang. -/
def State.waitsFor (s : State) (x : Nat × Nat) : Option (List (Nat × Nat)) :=
  match s.grids.get? x.1 with
  | none => none
  | some g =>
    let ways := (s.roomless x.1 g x.2).flatMap s.inWay
    let gangs := ways.map (fun k => (gridOf k, match s.gridAt k with
      | some o => o.gangNum (k % 8192)
      | none => 0))
    if !ways.any isHandler && gangs.all (fun y => s.stuckGang y.1 y.2) then some gangs.eraseDups else none

/-- The stuck gangs reachable from some by "waits for a site held by"; `fuel` bounds the search. -/
def State.stuckReach (s : State) : Nat → List (Nat × Nat) → List (Nat × Nat)
  | 0, xs => xs
  | n + 1, xs =>
    let more := (xs.flatMap (fun x => (s.waitsFor x).getD [])).filter (fun y => !xs.contains y)
    if more.isEmpty then xs else s.stuckReach n (xs ++ more.eraseDups)

/-- Every stuck gang of a partition. -/
def State.stuckGangs (s : State) (part : Nat) : List (Nat × Nat) :=
  s.grids.flatMap (fun p => if s.vfPart p.2.vf = part then
    p.2.expired.filterMap (fun i => if s.stuckGang p.1 i then some (p.1, i) else none) else [])

/-- GANG_RELIEF (R440): of the stuck gangs reachable from one whose way stuck gangs alone block, the last submitted is saved. -/
def execGangRelief (part : Nat) (s : State) : Host.Outcome State Fault Refusal :=
  let stuck := s.stuckGangs part
  .next (match stuck.find? (fun x => (s.waitsFor x).isSome) with
    | none => s
    | some x =>
      match leastBy (fun y => 2 ^ 64 - (y.1 * 8192 + y.2)) (s.stuckReach (stuck.length + 1) [x]) with
      | none => s
      | some y => match s.grids.get? y.1 with
        | none => s
        | some g =>
          let ks := (s.members y.1 g y.2).filterMap (fun p => if p.2.started && !p.2.exited && p.2.saved.isNone then some p.1 else none)
          let calm (g : Grid) : Grid := { g with expired := g.expired.filter (· != y.2), firstStart := g.firstStart.erase y.2 }
          ({ s with grids := s.grids.modify y.1 calm }).callSave ks)

end Sys2Proof.Machine
end

