-- ==== Sys2Proof/Machine/Form.lean ====
section
/-!
DEFINITION. The warp former and the stage balancer: the events WARP_FORM (R37, R303, R304) and BALANCER_PASS (R304).
-/

namespace Sys2Proof.Machine

/-- A thread that waits to be formed: its %tid, its target, how long it has waited, and its yard record; a Pending thread has
none (R27, R37). -/
structure Waiter where
  tid : Nat
  target : PC
  age : Nat
  rcd : Option YardRec
deriving DecidableEq, Repr

/-- The quadrant of a Pending thread (R43, R47). -/
def Stage.quadOf (g : Stage) (tid : Nat) : Nat := if g.com then g.cqd else tid / 32 % 4

/-- The threads of a stage of a stand that wait to be formed on a quadrant. The spec names no check of an ENT with bits above
the 56 of an address (R44); they are dropped: DESIGN CHOICE (notes/assumptions 53). -/
def State.waiters (s : State) (st : Stand) (i : Nat) (g : Stage) (q : Nat) : List Waiter :=
  st.pending.filterMap (fun p => if p.1 = i && g.quadOf p.2 = q
      then some ⟨p.2, ⟨g.ent % 2 ^ 56, 0⟩, (s.clk st.core - st.t0).toNat, none⟩ else none)
    ++ st.yard.filterMap (fun r => let t := s.thread r.thread
        if t.stage = i && s.crewOf r.thread = q then some ⟨t.tid, r.target, s.cycles - r.since, some r⟩ else none)

/-- Whether a crew has an Active thread of a stage (R37). -/
def State.crewActive (s : State) (k i quad : Nat) : Bool :=
  (List.range 16).any (fun w => let sl := s.slotAt (16 * quad + w)
    sl.stand = k && sl.stage = i && sl.lanes.any (fun p => (s.thread p.2).status = .active))

/-- The longest wait of a list. -/
def oldest (ws : List Waiter) : Nat := ws.foldl (fun m w => max m w.age) 0

/-- A warp that may be formed: stand, stage, target and its waiting threads. -/
structure Forming where
  stand : Nat
  stage : Nat
  target : PC
  ws : List Waiter

/-- The targets that qualify on a quadrant, in order of stand and stage (R37, R304): the stage is Ready, a slot holds its
allocation, and 32 threads wait, or one has waited 256 cycles, or the crew has no Active thread of the stage. -/
def State.forming (s : State) (quad : Nat) : List Forming :=
  s.stands.flatMap (fun p =>
    let st := p.2
    if isHandler p.1 || !st.running || st.core ≠ quad / 4 then []
    else (st.stages.zip (List.range 8)).flatMap (fun x =>
      if st.classes.getD x.2 0 ≠ 0 || !s.quadRoom quad p.1 (32 * x.1.quota) then []
      else
        let ws := s.waiters st x.2 x.1 (quad % 4)
        ((ws.map (·.target)).eraseDups.map (fun t => (⟨p.1, x.2, t, ws.filter (fun w => w.target = t)⟩ : Forming))).filter
          (fun f => 32 ≤ f.ws.length || 256 ≤ oldest f.ws || !s.crewActive p.1 x.2 quad)))

/-- The waiting thread of a %tid. -/
def Forming.named (f : Forming) (t : Nat) : Option Waiter := f.ws.find? (fun w => w.tid = t)

/-- The at most 32 threads of a new warp, in ascending %tid. -/
def Forming.chosen (f : Forming) : List Waiter := ((sortNat (f.ws.map (·.tid))).take 32).filterMap f.named

/-- The registers of a thread at its start: V0:V1 the parameter pointer, V2:V3 the completion area (R303). -/
def Grid.startRegs (g : Grid) : Table Word :=
  (List.range 4).foldl (fun m i => m.put 0#32 i (BitVec.ofNat 32 (bits g.rcd.toNat (64 + 192 * (i / 2) + 32 * (i % 2)) 32))) []

/-- A yarded thread back in a slot: registers beyond its live ones hold unspecified values (R35; notes/assumptions 9). -/
def State.unyard (s : State) (r : YardRec) (q lane : Nat) : State :=
  s.updThread r.thread (fun t =>
    { t with
        status := .active, pc := r.target
        regs := (List.range (q - r.live)).foldl (fun m i => m.put 0#32 (r.live + i) (s.free (256 * lane + i))) t.regs
        poison := t.poison.filter (fun x => x < r.live) })

/-- One thread takes its lane: a Pending thread becomes real, a yarded one returns. -/
def State.seat (s : State) (f : Forming) (g : Grid) (q : Nat) (lane : Nat) (w : Waiter) : State :=
  match w.rcd with
  | some r => s.unyard r q lane
  | none =>
    let key := 16384 * f.stand + 2048 * f.stage + w.tid
    { s with threads := s.threads.insert key (Thread.start f.stand f.stage w.tid f.target g.startRegs g.carried) }

/-- The label of register `i` of a new warp: the union of what the records carry for it and of new threads' carried label; a
record that does not hold the register leaves an unspecified value there, with the register's previous label and the thread's
carried label (R37, R303, R323). -/
def State.formedLabel (s : State) (old : Slot) (g : Grid) (ws : List Waiter) (i : Nat) : Label :=
  Label.union (ws.map (fun w => match w.rcd with
    | none => g.carried
    | some r => match r.labels.get? i with
      | some l => l
      | none => old.regLabel i ||| (s.thread r.thread).carried))

/-- The label of predicate `i` of a new warp. R37 states the labels of the registers only; those of the predicates are joined in
the same way: DESIGN CHOICE (notes/assumptions 53). -/
def formedPred (g : Grid) (ws : List Waiter) (i : Nat) : Label :=
  Label.union (ws.map (fun w => match w.rcd with
    | none => g.carried
    | some r => r.labels.getD (256 + i) 0))

/-- The slot of a new warp. -/
def State.formedSlot (s : State) (old : Slot) (f : Forming) (g : Grid) (q : Nat) (ws : List Waiter) (lanes : Table Nat) : Slot :=
  let base := { Slot.empty with stand := f.stand, stage := f.stage, lanes := lanes, gens := old.gens, lastIssue := old.lastIssue }
  if ws.all (fun w => w.rcd.isNone) then { base with fill := g.carried }
  else { base with
    fill := Label.union (ws.map (fun w => match w.rcd with
      | none => g.carried
      | some r => (s.thread r.thread).carried))
    regLabels := (List.range q).map (fun i => (i, s.formedLabel old g ws i))
    predLabels := (List.range 7).map (fun i => (i, formedPred g ws i)) }

/-- Take the formed threads out of the pending record and the yard, and settle what was owed (R27, R302). -/
def Stand.formed (st : Stand) (stage quad : Nat) (ws : List Waiter) : Stand :=
  let gone := ws.filterMap (fun w => w.rcd.map (·.thread))
  let born := ws.filterMap (fun w => if w.rcd.isNone then some (stage, w.tid) else none)
  { st with pending := st.pending.filter (fun p => !born.contains p), yard := st.yard.filter (fun r => !gone.contains r.thread)
            owed := st.owed.filter (· != quad) }

/-- Build one warp in a slot. The cycle in which the former writes the slot counts under reason 13 (R364). -/
def State.formWarp (s : State) (quad sk : Nat) (f : Forming) : State :=
  match s.gridAt f.stand, s.stageOf f.stand f.stage with
  | some g, some x =>
    let ws := f.chosen
    let seats := ws.zip (List.range 32)
    let lanes := seats.map (fun p => (p.2, match p.1.rcd with
      | some r => r.thread
      | none => 16384 * f.stand + 2048 * f.stage + p.1.tid))
    let sl := s.formedSlot (s.slotAt sk) f g x.quota ws lanes
    let s1 := seats.foldl (fun s p => s.seat f g x.quota p.2 p.1) s
    let s2 := { s1 with slots := s1.slots.insert sk sl }
    let s3 := s2.updStand f.stand (fun st => st.formed f.stage (quad % 4) ws)
    if s3.counting (s3.vfOf f.stand) (quad / 4) then s3.countStall sk 13 else s3
  | _, _ => s

/-- Of the targets that qualify, those whose turn it is in their stand: a stand forms its stages in ascending order (R304). -/
def firstStages (fs : List Forming) : List Forming := fs.filter (fun f => fs.all (fun g => g.stand ≠ f.stand || f.stage ≤ g.stage))

/-- WARP_FORM (R37, R304): of the targets that qualify, in each stand those of its first stage that has one, the one whose
oldest thread has waited longest. -/
def execWarpForm (quad : Nat) (s : State) : Host.Outcome State Fault Refusal :=
  .next (match leastBy (fun f => 2 ^ 64 - oldest f.ws) (firstStages (s.forming quad)), s.openSlots quad with
    | some f, sk :: _ => s.formWarp quad sk f
    | _, _ => s)

/-- BALANCER_PASS (R304): every stage of every stand on the core is classed and weighted. -/
def execBalancerPass (core : Nat) (s : State) : Host.Outcome State Fault Refusal :=
  let ks := s.stands.filterMap (fun p => if p.2.core = core && p.2.running && !isHandler p.1 then some p.1 else none)
  .next ((ks.foldl State.classifyStand s).updCore core (fun c => { c with balanced := s.cycles / 256 }))

end Sys2Proof.Machine
end

