-- ==== Sys2Proof/Machine/Teardown.lean ====
section
/-!
DEFINITION. The teardown of a virtual function (R333, R436, R437) and what resets with it (R438): shared by VF_TEARDOWN,
PARTITION_DISABLE, SAVE_KILL, and by the failures that end a function.
-/

namespace Sys2Proof.Machine

/-! ### Egress (R437, R438) -/

/-- Bursts that satisfy a test. -/
def State.burstsOf (s : State) (p : Burst → Bool) : List (Nat × Burst) := s.bursts.filter (fun b => p b.2)

/-- The reset notice of one destination entry of a function: a header with receive tag 0x3F and the count as its length (R437). -/
def State.resetNotice (s : State) (v dst n : Nat) : State :=
  let e := s.destEntry v dst
  if n = 0 || !bit e 7 || (s.servedBy (bits e 0 7) v).isNone then s
  else { s with outputs := s.outputs ++
    [.burst (bits e 0 7) (BitVec.ofNat 32 (bits e 32 32)) (BitVec.ofNat 16 (bits e 64 16)) 0x3F (min 0xFFFF n) []] }

/-- Stop egress: the bursts that satisfy a test leave their ports, and their destinations' peers learn the counts; answers how
many had not begun and how many were unacknowledged (R436, R437). -/
def State.stopEgress (s : State) (v : Nat) (p : Burst → Bool) : Nat × Nat × State :=
  let bs := s.burstsOf (fun b => b.vf = v && p b)
  let gone := bs.map Prod.fst
  let s1 := (sortNat (bs.map (fun b => b.2.dst))).eraseDups.foldl
    (fun s d => s.resetNotice v d (bs.filter (fun b => b.2.dst = d)).length) s
  ((bs.filter (fun b => !b.2.sent)).length, (bs.filter (fun b => b.2.sent)).length,
    { s1 with
        bursts := s1.bursts.filterT (fun k _ => !gone.contains k)
        portQueues := (s1.portQueues.mapVals (fun _ q => q.filter (fun k => !gone.contains k))).filterT (fun _ q => !q.isEmpty) })

/-! ### What a function leaves behind (R333, R438) -/

/-- The registers that hold a function's own running state, and TDREP: they take their Reset values when EN is next set (R437,
R438). -/
def runningRegs (v : Nat) : List Nat :=
  [ctxAt v 0x48, ctxAt v 0x50, ctxAt v 0x80, ctxAt v 0x90] ++ (List.range 19).map (fun i => supAt v (0x100 + i))

/-- Registers take their Reset values. -/
def State.resetRegs (s : State) (rs : List Nat) : State := rs.foldl (fun s r => s.setReg r (mmioReset r)) s

/-- The cached vault lines of a key slot (R75). -/
def State.slotLines (s : State) (k : Nat) : List Nat :=
  (s.lines.filterMap (fun p => if isVault (64 * (p.1 / 512)) && s.vaultMark (p.1 / 512) = .key k (s.epoch k) then some (p.1 / 512)
    else none)).eraseDups

/-- A quadrant without a function: matrix state that its stands claim is discarded, and the records of a stop that name its
stands (R333). -/
def Quad.withoutVf (owns : Nat → Bool) (q : Quad) : Quad :=
  { q with
      matrix := (match q.matrix.owner with
        | some k => if owns k then Matrix.empty else q.matrix
        | none => q.matrix)
      stopped := q.stopped.map (fun st => { st with recs := st.recs.filter (fun r => !owns r.stand) }) }

/-- A core without a function: TLB entries, open records and waiting ones, and its trace sequence are discarded (R333, R405). -/
def Core.withoutVf (v : Nat) (c : Core) : Core :=
  { c with tlb := c.tlb.filter (fun e => e.vf ≠ v), open4 := c.open4.filter (fun r => r.vf ≠ v),
           waiting := c.waiting.filter (fun r => r.vf ≠ v), seqs := c.seqs.erase v }

/-- Faults that wait for a place on a core take the places that are free (R395). -/
def State.takeIn (s : State) (core : Nat) : State :=
  match (s.coreAt core).waiting with
  | [] => s
  | ws => ws.foldl (fun s r => s.joinTrap core { r with opened := s.clk core }) (s.updCore core (fun c => { c with waiting := [] }))

/-- The register labels of a freed slot are discarded (R333). -/
def Slot.withoutLabels (sl : Slot) : Slot := if sl.lanes.isEmpty then { sl with fill := 0, regLabels := [], predLabels := [] } else sl

/-- The claims of a function on counter banks and trace units end (R443). -/
def State.endClaims (s : State) (v : Nat) : State := (s.setField (supAt v 0x1C1) 0 1 0).setField (supAt v 0x1C3) 0 1 0

/-- The partition that a torn-down function held the turn of has no resident function (R316, R320). -/
def State.endTurn (s : State) (v : Nat) : State :=
  let p := s.vfPart v
  if s.curOf p = some v then (s.setField (pctlAt p) 42 1 0).setField (pctlAt p) 1 1 0 else s

/-- TEAR DOWN a function without a save (R333, R436): its stands, grids, commands, releases and records go; performed accesses
and written records stand; its egress stops at a burst boundary and is reported; its key slot is destroyed; EN falls and DONE
rises. Every step of this model ends at an instruction boundary. -/
def State.tearDown (s : State) (v : Nat) : State :=
  if !s.vfEnabled v then s
  else
    let mine := s.stands.filterMap (fun p => if p.2.vf = v && p.1 ≠ mgmtStand then some p.1 else none)
    let slots := s.slots.filterMap (fun p => if mine.contains p.2.stand && !p.2.lanes.isEmpty then some p.1 else none)
    let s1 := mine.foldl State.releaseStand s
    let s2 := slots.foldl (fun s k => s.updSlot k Slot.withoutLabels) s1
    let s3 := { s2 with
      stands := s2.stands.filterT (fun k _ => !mine.contains k)
      grids := s2.grids.filterT (fun _ g => g.vf ≠ v)
      quads := s2.quads.mapVals (fun _ q => Quad.withoutVf (fun k => mine.contains k) q)
      cores := s2.cores.mapVals (fun _ c => Core.withoutVf v c)
      commands := s2.commands.filterT (fun _ c => c.vf ≠ v)
      gate := s2.gate.filter (fun r => r.vf ≠ v) }
    let e := s3.stopEgress v (fun _ => true)
    let key := s.vfKey v
    let s4 := (e.2.2.slotLines key).foldl discardLine e.2.2
    let s5 := (s4.cores.map Prod.fst).foldl State.takeIn
      { s4 with keySlots := s4.keySlots.erase key, functions := s4.functions.erase v }
    let s6 := (((s5.endClaims v).setField (supAt v 0x101) 0 1 0).setField (ctxAt v 0x80) 0 2 0).endTurn v
    let s7 := (s6.setField (ctxAt v 0x90) 0 16 (min 0xFFFF e.1)).setField (ctxAt v 0x90) 16 16 (min 0xFFFF e.2.1)
    (s7.setField (ctxAt v 0) 0 1 0).setField (ctxAt v 0) 32 1 1

/-- Every function of a partition is torn down, each on its own (R316, R436). -/
def State.tearPartition (s : State) (p : Nat) : State :=
  (List.range 1024).foldl (fun s v => if s.vfEnabled v && s.vfPart v = p then s.tearDown v else s) s

end Sys2Proof.Machine
end

