-- ==== Sys2Proof/Machine/Traps.lean ====
section
/-!
DEFINITION. Trap records and their queues (R393 to R395, R401, R403), the resolution registers (R400, R403), %pval and HPVAL
(R399, R404), %hfwd (R401), the handler stand (R397) and migration replay (R334, R442).
-/

namespace Sys2Proof.Machine

/-! ### TRAP_RECORD_CLOSE (R393 to R395, R401, R403) -/

/-- The bytes of a trap record with its index (R394). -/
def State.trapBytes (s : State) (core : Nat) (r : TrapRec) (n : Nat) : List Byte :=
  let num := match s.stands.get? r.stand with
    | some st => if isHandler r.stand then (s.free 50).toNat % 8192 else st.num
    | none => r.stand % 8192
  leBytes 64 (r.code.toNat + (if r.dfr then 2 ^ 8 else 0) + (if r.hdl then 2 ^ 9 else 0) + r.info.toNat * 2 ^ 16
    + r.grid % 2 ^ 32 * 2 ^ 32 + num * 2 ^ 64 + r.stage % 8 * 2 ^ 77 + siteX core * 2 ^ 80 + siteY core * 2 ^ 88
    + n % 2 ^ 32 * 2 ^ 96 + r.slots.toNat * 2 ^ 128 + r.page % 2 ^ 64 * 2 ^ 192 + r.clk.toNat * 2 ^ 256
    + min 0xFFFFFFFF r.nl * 2 ^ 320 + r.vf * 2 ^ 352 + r.org * 2 ^ 362)

/-- A 32-bit message-signalled store to a PA: into memory, or out of the device (R401, R403). -/
def State.signal (s : State) (pa : Nat) (w : Word) : State :=
  if s.isDram pa || isVault pa then s.deviceStore 0 pa (leBytes 4 w.toNat) else { s with outputs := s.outputs ++ [.interrupt pa w] }

/-- The sub-warps that a record names, with their slots. -/
def TrapRec.names (r : TrapRec) (f : Found) : Bool := r.parks.any (fun p => p.1 = f.slot && p.2.1 = f.sub.num && p.2.2 = f.sub.gen.toNat)

/-- The parked sub-warps that a record names, in place or saved. -/
def State.namedBy (s : State) (r : TrapRec) : List Found :=
  (r.parks.map Prod.fst).eraseDups.flatMap (fun k => (s.parkedAt k).filter r.names)

/-- A KILL that waits for a record's index, and whose failure stands, obtains it, or 0 when none is written (R400, R401). -/
def State.settleKill (s : State) (r : TrapRec) (n : Option Nat) : State :=
  match r.kill with
  | none => s
  | some a => { s with grids := s.grids.modify r.grid (fun g => { g with
      fail := g.fail.map (fun f => if f.due && f.arrival = a then { f with rcd := n, due := false } else f) }) }

/-- Write a record: the named threads' store queues drain, the record is written, HEAD rises, and the hypervisor queue's event
is stored (R393, R403). -/
def State.writeTrap (s : State) (core : Nat) (r : TrapRec) (n header entry : Nat) : State :=
  let subs := s.namedBy r
  let k := if r.hyp then 0 else s.keyOf r.vf
  let s1 := (subs.flatMap (fun f => f.sub.lanes.map (·.thread))).foldl State.drainQ s
  let s2 := (s1.deviceStore k entry (s.trapBytes core r n)).deviceStore k header (leBytes 4 ((n + 1) % 2 ^ 32))
  let s3 := subs.foldl (fun s f => s.updSub f (fun p => some { p with seq := some n })) s2
  let ev := s.ctxAddr r.vf 0x68
  (if r.hyp && ev ≠ 0 then s3.signal ev (BitVec.ofNat 32 (n + 1)) else s3).settleKill r (some n)

/-- A record that its queue does not serve: the stand fails with its code and REC 0, or the function is torn down (R401, R403). -/
def State.failTrap (s : State) (r : TrapRec) : State :=
  if r.hyp then s.tearDown r.vf else (s.settleKill r none).failStandAt r.stand r.code none false (r.arrival + 1)

/-- Whether a record is due: 64 cycles have passed, or its stand is about to be saved (R395, R405). -/
def State.trapDue (s : State) (core : Nat) (r : TrapRec) : Bool :=
  r.closes (s.clk core) || (match s.stands.get? r.stand with
    | some st => st.savePending
    | none => false)

/-- TRAP_RECORD_CLOSE (R395): the oldest record of a core that is due is written, unless its queue is full. Faults that wait
take the places that are free. -/
def execTrapRecordClose (core : Nat) (s : State) : Host.Outcome State Fault Refusal :=
  .next (match (s.coreAt core).open4.find? (s.trapDue core) with
    | none => s.takeIn core
    | some r =>
      let gone (s : State) : State := (s.updCore core (fun c => { c with open4 := c.open4.erase r })).takeIn core
      match s.queueFor r with
      | .full => s
      | .fails => gone (s.failTrap r)
      | .takes n h e => gone (s.writeTrap core r n h e))

/-! ### %pres and HRES (R400, R403) -/

/-- The function that the register write in progress belongs to, if its agent may write there: its supervisor page, or its
context block. -/
def State.wrVf (s : State) : Option Nat :=
  let pa := s.wr.pa
  if !s.wrAllowed then none
  else if 0x080B00000000 ≤ pa && pa < 0x080B04000000 then some ((pa - 0x080B00000000) / 0x10000)
  else if 0x080600000000 ≤ pa && pa < 0x080600040000 then some ((pa - 0x080600000000) / 0x100)
  else none

/-- Whether the write in progress is to a context block. -/
def State.wrCtx (s : State) : Bool := s.wr.pa < 0x080B00000000

/-- The sub-warp that the write in progress resolves: the function's own, and a handler stand's only through HRES (R400, R403). -/
def State.wrSub (s : State) : Option Found :=
  match s.wrVf, s.findSub (s.wr.value.setWidth 32) with
  | some v, some f => if s.vfOf f.stand = v && (s.wrCtx || !isHandler f.stand) then some f else none
  | _, _ => none

/-- PRES_RETRY (R400). -/
def execPresRetry (s : State) : Host.Outcome State Fault Refusal :=
  .next (match s.wrSub with
    | some f => s.resumeSub f false
    | none => s)

/-- PRES_SKIP (R400). -/
def execPresSkip (s : State) : Host.Outcome State Fault Refusal :=
  .next (match s.wrSub with
    | some f => s.resumeSub f true
    | none => s)

/-- The arrival under which a sub-warp's fault fails a grid (R400). -/
def Parked.killAt (p : Parked) : Nat := p.arrival + 1

/-- Mark the record of a sub-warp that is still to be written, so that its index gives the failure's REC (R400). -/
def State.killRecord (s : State) (f : Found) : State :=
  let mark (r : TrapRec) : TrapRec := if r.names f then { r with kill := earlier r.kill (some f.sub.killAt) } else r
  { s with
      cores := s.cores.mapVals (fun _ c => { c with open4 := c.open4.map mark, waiting := c.waiting.map mark })
      quads := s.quads.mapVals (fun _ q => { q with stopped := q.stopped.map (fun st => { st with recs := st.recs.map mark }) }) }

/-- Whether a sub-warp's record is still to be written. -/
def State.recordOpen (s : State) (f : Found) : Bool :=
  s.cores.any (fun p => p.2.open4.any (·.names f) || p.2.waiting.any (·.names f))
    || s.quads.any (fun p => match p.2.stopped with
        | some st => st.recs.any (·.names f)
        | none => false)

/-- PRES_KILL (R400): the stand fails with the sub-warp's code and its record's index, now or when it is written. -/
def execPresKill (s : State) : Host.Outcome State Fault Refusal :=
  .next (match s.wrSub with
    | none => s
    | some f =>
      match f.sub.seq with
      | some n => s.failStandAt f.stand f.sub.code (some n) false f.sub.killAt
      | none => if s.recordOpen f then (s.killRecord f).failStandAt f.stand f.sub.code none true f.sub.killAt
        else s.failStandAt f.stand f.sub.code none false f.sub.killAt)

/-! ### %pval and HPVAL (R399, R404) -/

/-- Write the selected register of a parked lane: its poison goes, and the register's label rises (R399). -/
def State.writePval (s : State) (v : Nat) (x : Sel) : State :=
  match s.selLane v x with
  | none => s
  | some (f, l) =>
    let val : Word := s.wr.value.setWidth 32
    if bit x.reg 8 then
      let p := bits x.reg 0 3
      if p = 7 then s
      else (s.updThread l.thread (fun t => t.setPred p (val.getLsbD 0))).updFound f (fun sl => sl.setPredLabel p (sl.predLabel p ||| s.wr.label))
    else
      let r := bits x.reg 0 8
      (s.updThread l.thread (fun t => t.setReg r val)).updFound f (fun sl => sl.setRegLabel r (sl.regLabel r ||| s.wr.label))

/-- PVAL_WRITE (R399): a handler thread uses its own selection, a host core that of the supervisor page. -/
def execPvalWrite (s : State) : Host.Outcome State Fault Refusal :=
  .next (match s.wrVf with
    | none => s
    | some v => match s.wr.agent with
      | .thread k => s.writePval v (s.thread k).sel
      | _ => s.writePval v (s.pageSel v))

/-- HPVAL_WRITE (R404). -/
def execHpvalWrite (s : State) : Host.Outcome State Fault Refusal :=
  .next (match s.wrVf with
    | none => s
    | some v => s.writePval v (s.hypSel v))

/-- FORWARD_EVENT (R401): the written word is stored to HFWD as an interrupt; 0 drops it. -/
def execForwardEvent (s : State) : Host.Outcome State Fault Refusal :=
  .next (match s.wrVf with
    | none => s
    | some v => if s.ctxAddr v 0x78 = 0 then s else s.signal (s.ctxAddr v 0x78) (s.wr.value.setWidth 32))

/-! ### The handler stand (R397) -/

/-- The writable fields of %hctl. -/
def hctlMask : Double := 0x3FFFFF#64

/-- The one stage of a handler stand: 32 threads on one quadrant. -/
def handlerStage (ent quota quad : Nat) : Stage := ⟨ent, 32, quota, true, quad, 1, 0, 0, 0, 0⟩

/-- The handler stand of a function, whole and started; the 4 KiB are its program area (R303, R397; notes/assumptions 26). -/
def State.handlerStand (s : State) (v core quota quad : Nat) (save : Bool) : Stand where
  grid := 0
  num := 0
  core := core
  vf := v
  stages := [handlerStage (s.reg (supAt v 0x102)).toNat quota quad]
  started := true
  exited := false
  triggered := false
  areaA := 4096
  queueKiB := 0
  dcKiB := 0
  yardKiB := 0
  fill := s.vfLabel v
  sp := []
  sptags := []
  splabels := []
  absent := []
  bad := []
  raceCheck := false
  shadow := []
  gen := 0
  barriers := []
  rmode := []
  pending := []
  yard := []
  dcBuf := []
  wps := []
  totals := []
  iss := 0
  sat := false
  t0 := s.clk core
  susp := false
  weights := []
  classes := []
  circuits := []
  frozen := none
  saved := none
  savePending := save
  chosen := false
  owed := []
  ops := []
  order := s.nextId

/-- Seat the 32 threads of a handler stand: V0:V1 the queue's header IPA, carried label the function's origin (R397). -/
def State.seatHandler (s : State) (v sk : Nat) : State :=
  let ent := (s.reg (supAt v 0x102)).toNat
  let base := s.field (supAt v 0x100) 12 40 * 4096
  let regs : Table Word := Table.put (Table.put [] 0#32 0 (BitVec.ofNat 32 base)) 0#32 1 (BitVec.ofNat 32 (base / 2 ^ 32))
  let s1 := (List.range 32).foldl (fun s i =>
    { s with threads := s.threads.insert (16384 * v + i) (Thread.start v 0 i ⟨ent, 0⟩ regs (s.vfLabel v)) }) s
  let old := s.slotAt sk
  { s1 with slots := s1.slots.insert sk { Slot.empty with
      stand := v, lanes := (List.range 32).map (fun i => (i, 16384 * v + i)), fill := s.vfLabel v, gens := old.gens
      lastIssue := old.lastIssue } }

/-- Whether a handler stand has room: a working site and its quadrant in the partition, a slot, registers, 4 KiB (R397). -/
def State.handlerRoom (s : State) (v core quota quad : Nat) : Bool :=
  let st := s.handlerStand v core quota quad false
  s.siteState core = 0 && s.quadOwner core quad = s.vfPart v && st.kib ≤ s.kibFree core (s.vfPart v)
    && s.quadRoom (4 * core + quad) v (32 * quota)

/-- HANDLER_CREATE (R397). A handler stand made while its function is off its turn is saved at once (R320; notes/assumptions 26). -/
def execHandlerCreate (s : State) : Host.Outcome State Fault Refusal :=
  .next (match s.wrVf with
    | none => s
    | some v =>
      let s1 := s.setReg (supAt v 0x101) (s.wr.value &&& hctlMask)
      let n := s.wr.value.toNat
      let core := 80 * bits n 8 7 + bits n 1 7
      let quad := bits n 15 2
      let quota := 8 * (bits n 17 5 + 1)
      if !s.vfEnabled v || 80 ≤ bits n 1 7 || 96 ≤ bits n 8 7 || !s.handlerRoom v core quota quad then
        (s1.setField (supAt v 0x101) 0 1 0).setField (supAt v 0x101) 22 1 1
      else match s.openSlots (4 * core + quad) with
        | [] => (s1.setField (supAt v 0x101) 0 1 0).setField (supAt v 0x101) 22 1 1
        | sk :: _ =>
          let st := s1.handlerStand v core quota quad (!s.mayPlace v)
          let s2 := { s1 with stands := s1.stands.insert v { st with barriers := st.freshBarriers }, nextId := s1.nextId + 1 }
          ((s2.seatHandler v sk).updFunction v (fun f => { f with handler := true })).noteSusp)

/-- HANDLER_TEARDOWN (R397): no save; parked sub-warps of other stands stay parked. -/
def execHandlerTeardown (s : State) : Host.Outcome State Fault Refusal :=
  .next (match s.wrVf with
    | none => s
    | some v => (s.dropHandler v).setReg (supAt v 0x101) (s.wr.value &&& hctlMask))

/-! ### MIGRATION_REPLAY (R334, R442) -/

/-- Every parked sub-warp of a function, in place or saved. -/
def State.allParked (s : State) (v : Nat) : List Found :=
  (s.slots.flatMap (fun e => if s.vfOf e.2.stand = v then e.2.parked.map (fun p => (⟨e.1, e.2.stand, false, p⟩ : Found)) else []))
    ++ s.stands.flatMap (fun e => if e.2.vf = v then (match e.2.saved with
        | some sv => sv.slots.flatMap (fun x => x.2.parked.map (fun p => (⟨x.1, e.1, true, p⟩ : Found)))
        | none => []) else [])

/-- Whether a sub-warp is parked on a page under migration. -/
def Parked.onPage (p : Parked) (page : Nat) : Bool :=
  p.code = 0x0B#8 && !p.dfr && p.mark.isNone && p.lanes.any (fun l => l.ipa / 0x10000 * 0x10000 = page)

/-- Forget the translations of a frame in every TLB of a function (R64, R334). -/
def State.dropFrame (s : State) (v page : Nat) : State :=
  { s with cores := s.cores.mapVals (fun _ c => { c with tlb := c.tlb.filter (fun e => !(e.vf = v && e.ipn = page / 0x10000)) }) }

/-- MIGRATION_REPLAY (R442): a pending ID's page is translated afresh, and every lane parked on it retries. -/
def execMigrationReplay (s : State) : Host.Outcome State Fault Refusal :=
  .next (match s.wrVf with
    | none => s
    | some v =>
      let id := bits s.wr.value.toNat 0 16
      match (s.functions.getD v Function.empty).migIds.find? (fun m => m.written.map Prod.fst = some id) with
      | none => s.logStim
      | some m =>
        let s1 := (s.dropFrame v m.page).updFunction v (fun f => { f with migIds := f.migIds.filter (fun x => x.page ≠ m.page) })
        ((s1.allParked v).filter (fun f => f.sub.onPage m.page)).foldl (fun s f => s.resumeSub f false) s1)

end Sys2Proof.Machine
end

