-- ==== Sys2Proof/Machine/Slice.lean ====
section
/-!
DEFINITION. The turns of time-sliced functions (R320), the context engine's save and restore (R308 to R310, R433, R435) and
the replay or end of a frozen one (R434). What a restore puts back stands in Stand.saved; the bytes that a save writes are free
(notes/assumptions 23).
-/

namespace Sys2Proof.Machine

/-! ### Turns (R320) -/

/-- A turn starts with the first issue after restore and lasts SLEN × 10 µs, 15,000 cycles each; a later write of SLEN does not
change it (R320, R441). -/
def State.noteIssue (s : State) (stand : Nat) : State :=
  let v := s.vfOf stand
  if 1024 ≤ v || s.vfMode v = 0 || s.switching (s.vfPart v) || (s.functions.getD v Function.empty).inTurn then s
  else s.updFunction v (fun f => { f with inTurn := true, turnEnd := s.cycles + 15000 * s.field (pctlAt (s.vfPart v)) 16 16 })

/-- The stands of a function that hold room, the handler stand included. -/
def State.residents (s : State) (v : Nat) : List Nat :=
  s.stands.filterMap (fun p => if p.2.vf = v && p.2.holds then some p.1 else none)

/-- A slice switch goes on: once every stand of the outgoing function is saved the next function's stands are recalled, and the
switch ends when they are back (R320, R433). -/
def State.settleSwitch (s : State) (part : Nat) : State :=
  match s.curOf part with
  | none => s
  | some v =>
    if !s.switching part then s
    else if (s.functions.getD v Function.empty).inTurn then
      let s1 := s.callSave ((s.residents v).filter (fun k => match s.stands.get? k with
        | some st => st.started && st.saved.isNone
        | none => false))
      if !(s1.residents v).isEmpty then s1
      else match s1.nextTaker part (v + 1) with
        | none => (s1.updFunction v (fun f => { f with inTurn := false })).setField (pctlAt part) 1 1 0
        | some w =>
          let s2 := ((s1.updFunction v (fun f => { f with inTurn := false })).updFunction w (fun f => { f with inTurn := false })).setCur part w
          let s3 := s2.recall w
          if s3.stands.any (fun p => p.2.vf = w && p.2.chosen) then s3 else s3.setField (pctlAt part) 1 1 0
    else if s.stands.any (fun p => p.2.vf = v && p.2.chosen) then s
    else s.setField (pctlAt part) 1 1 0

/-- Whether the resident function's turn is over: its time has passed, or it no longer takes part (R320). -/
def State.turnOver (s : State) (part v : Nat) : Bool :=
  let f := s.functions.getD v Function.empty
  (f.inTurn && f.turnEnd ≤ s.cycles) || !(s.turnTakers part).contains v

/-- SLICE_END (R320): a turn that is over ends when another function waits, and otherwise goes on without a save. -/
def execSliceEnd (part : Nat) (s : State) : Host.Outcome State Fault Refusal :=
  .next (if s.switching part then s.settleSwitch part
    else match s.curOf part with
      | none => s
      | some v =>
        if !s.turnOver part v then s
        else match s.nextTaker part (v + 1) with
          | none => s
          | some w =>
            if w = v then s.updFunction v (fun f => { f with inTurn := false })
            else ((s.updFunction v (fun f => { f with inTurn := true })).setField (pctlAt part) 1 1 1).settleSwitch part)

/-! ### The save area (R309, R317, R433) -/

/-- The site's place among its partition's sites, ascending (R317). -/
def State.siteIndex (s : State) (part core : Nat) : Nat := ((List.range core).filter (fun c => (List.range 4).any (fun q => s.quadOwner c q = part))).length

/-- The IPAs of the pages of a stand's save area: 4 MiB for its site. -/
def State.savePages (s : State) (st : Stand) : List Nat :=
  let base := s.ctxAddr st.vf 0x30 + 0x400000 * s.siteIndex (s.vfPart st.vf) st.core
  (List.range 64).map (fun i => base + 0x10000 * i)

/-- The physical address of a save-area page, when stage two lets the context engine use it. -/
def State.savePage (s : State) (v ipa : Nat) (write : Bool) : Option Nat :=
  match s.stage2 v ipa with
  | .ok (pa, leaf) =>
    if bit leaf (if write then 3 else 2) && !(write && bit leaf 10) && !bit leaf 8 && s.exists? pa && !isDevice pa then some pa else none
  | .error _ => none

/-- The pages of its save area that a save or restore of a stand still has to pass, from the one a freeze left it at, with their
numbers (R433, R434). -/
def State.saveTodo (s : State) (st : Stand) : List (Nat × Nat) :=
  ((s.savePages st).zip (List.range 64)).drop (match st.frozen with
    | some f => f.page
    | none => 0)

/-- The first page that faults, with its number. -/
def State.saveFault (s : State) (st : Stand) (write : Bool) : Option (Nat × Nat) :=
  (s.saveTodo st).find? (fun p => (s.savePage st.vf p.1 write).isNone)

/-- The physical pages of a stand's save area that are passed before a fault. -/
def State.saveFrames (s : State) (st : Stand) (write : Bool) : List Nat :=
  ((s.saveTodo st).map (fun p => s.savePage st.vf p.1 write)).takeWhile Option.isSome |>.filterMap id

/-- A sector is one of a page's. -/
def sectorIn (x frame : Nat) : Bool := frame ≤ 32 * x && 32 * x < frame + 0x10000

/-- A sector of the save area that is read is marked bad (R448, R460). -/
def State.saveBad (s : State) (st : Stand) : Bool :=
  s.badSectors.any (fun x => (s.saveFrames st false).any (sectorIn x))

/-- A save writes the pages before a fault; what it writes has no architectural layout: free bytes (R309, R433;
notes/assumptions 23). -/
def State.saveWrite (s : State) (v : Nat) (frames : List Nat) : State :=
  let s1 := (frames.zip (List.range 64)).foldl (fun s p =>
    s.deviceStore (s.keyOf v) p.1 ((Config.saveImage (64 * s.tick + p.2)).take 0x10000)) s
  { s1 with badSectors := s1.badSectors.filter (fun x => !frames.any (sectorIn x)) }

/-- FRZ falls once nothing of a function is frozen (R434). -/
def State.settleFrz (s : State) (v : Nat) : State := if s.frozenAny v then s else s.setField (ctxAt v 0x80) 0 2 0

/-- Freeze a stand at a page: one SAVE record to the hypervisor queue, SVSTS; without a queue the function is torn down (R433). -/
def State.freeze (s : State) (k : Nat) (st : Stand) (restore : Bool) (ipa page : Nat) : State :=
  let v := st.vf
  if s.field (ctxAt v 0x60) 0 1 = 0 then s.tearDown v
  else
    let now := s.clk st.core
    let r : TrapRec := { code := 0x19, dfr := false, info := (s.free 51).setWidth 16, page := ipa, grid := st.grid, stand := k
                         stage := (s.free 52).toNat % 8, hyp := true, hdl := isHandler k, vf := v, org := s.vfOrigin v, clk := now
                         opened := now, nl := 0, slots := 0, parks := [], kill := none, arrival := s.tick }
    let s1 := (s.updStand k (fun st => { st with frozen := some ⟨restore, ipa, page, false⟩ })).joinTrap st.core r
    let n := min 0xFFFF (s.field (ctxAt v 0x80) 16 16 + 1)
    s1.setReg (ctxAt v 0x80) (BitVec.ofNat 64 (1 + (if restore then 2 else 0) + n * 2 ^ 16))

/-! ### CONTEXT_SAVE (R309) -/

/-- Rows not yet accepted leave the engine's queues of a stand's quadrants, to continue after restore (R266). -/
def State.interruptAll (s : State) (k quad : Nat) : Nat → State
  | 0 => s
  | n + 1 => match (s.quadAt quad).matrix.queue.find? (fun o => o.accepted < o.last) with
    | some o => if o.stand = k then (s.interruptOp quad o).interruptAll k quad n else s
    | none => s

/-- Scratchpad receive posts that no burst has filled are withdrawn: their lines become present and their tokens complete with
CODE 0x07 (R290). -/
def State.withdrawPosts (s : State) (k : Nat) : State :=
  (s.commands.filter (fun p => p.2.stand = k && p.2.kind = .recv && p.2.scratch && p.2.got.isNone)).foldl (fun s p =>
    let s1 := p.2.lines.foldl (fun s ln => s.setPresence ln true) s
    { (s1.tokensDown p.2.threads p.2.tok 0x07 0 p.2.label) with commands := s1.commands.erase p.1 }) s

/-- A release still at the gate for a stand's thread. -/
def State.releasing (s : State) (k : Nat) : Bool := s.gate.any (fun r => r.threads.any (fun t => t / 16384 = k))

/-- What a save still waits for: rows in the engine, stores, commands other than vault posts, bursts that have not left their
port, releases at the gate, and records that name the stand (R290, R309, R405). -/
def State.saveWaits (s : State) (k : Nat) (st : Stand) : Bool :=
  (List.range 4).any (fun q => (s.quadAt (4 * st.core + q)).matrix.queue.any (fun o => o.stand = k))
    || s.threads.any (fun p => p.2.stand = k && !p.2.storeQ.isEmpty)
    || s.commands.any (fun p => p.2.stand = k && !(p.2.kind = .recv && p.2.got.isNone))
    || s.bursts.any (fun p => !p.2.sent && p.2.threads.any (fun t => t / 16384 = k))
    || s.releasing k
    || (s.coreAt st.core).open4.any (fun r => r.stand = k) || (s.coreAt st.core).waiting.any (fun r => r.stand = k)

/-- What the context engine takes from the core: no pair of a saved stand is ready (R305, R309, R435). -/
def State.contextOf (s : State) (k : Nat) (st : Stand) : SavedState where
  slots := s.slots.filterT (fun _ sl => sl.stand = k && !sl.lanes.isEmpty)
  matrix := ((List.range 4).filter (fun q => (s.quadAt (4 * st.core + q)).matrix.owner = some k)).map (fun q =>
    (q, (s.quadAt (4 * st.core + q)).matrix))
  vtimes := (List.range 4).map (fun q => (q, ((s.quadAt (4 * st.core + q)).vtimes.filterT (fun x _ => x / 8 = k)).mapVals
    (fun _ x => { x with ready := false })))

/-- A stand leaves its site: its slots, claims and issue shares are free, and its poison leaves with it (R309, R417). -/
def State.leaveSite (s : State) (k : Nat) : State :=
  let s1 := s.freeSlots k
  { s1 with quads := s1.quads.mapVals (fun _ q => { q with
      matrix := if q.matrix.owner = some k then { q.matrix.unpoisoned with owner := none } else q.matrix
      vtimes := q.vtimes.filterT (fun x _ => x / 8 ≠ k) }) }

/-- A stand that is frozen and has not been told to go on (R433, R434). -/
def Stand.stuckFrozen (st : Stand) : Bool :=
  match st.frozen with
  | some f => !f.replay
  | none => false

/-- A quadrant of a stand's crews is stopped: its save is deferred until the resume (R378). -/
def State.saveDeferred (s : State) (st : Stand) : Bool :=
  st.quadsUsed.any (fun q => (s.quadAt (4 * st.core + q)).stopped.isSome)

/-- The counters of a stand's slots fold into its totals, since the save's slots are left (R365). -/
def State.foldSlots (s : State) (k : Nat) : State :=
  (s.slots.filterMap (fun p => if p.2.stand = k && !p.2.lanes.isEmpty then some p.1 else none)).foldl State.foldSlot s

/-- CONTEXT_SAVE (R309, R433, R434): one stand that is called to leave. Each step stops its engine rows, drains its stores and
withdraws its posts; the area is written, up to a page that faults, once nothing of R290 and R309 is left. -/
def execContextSave (stand : Nat) (s : State) : Host.Outcome State Fault Refusal :=
  .next (match s.stands.get? stand with
    | none => s
    | some st =>
      if !st.savePending || !st.started || st.exited || st.saved.isSome || st.stuckFrozen || s.saveDeferred st then s
      else
        let s1 := (List.range 4).foldl (fun s q => s.interruptAll stand (4 * st.core + q) 64) s
        let s2 := (s1.threads.filterMap (fun p => if p.2.stand = stand then some p.1 else none)).foldl State.drainQ s1
        let s3 := s2.withdrawPosts stand
        match s3.stands.get? stand with
        | none => s3
        | some st1 =>
          if st1.exited || s3.saveWaits stand st1 then s3
          else
            let s4 := s3.saveWrite st1.vf (s3.saveFrames st1 true)
            match s3.saveFault st1 true with
            | some p => s4.freeze stand st1 false p.1 p.2
            | none =>
              let s5 := s4.foldSlots stand
              let ctx := s5.contextOf stand st1
              (((s5.leaveSite stand).updStand stand (fun st => { st with saved := some ctx, savePending := false, frozen := none })).settleFrz
                st1.vf).settleSwitch (s.vfPart st.vf))

/-! ### CONTEXT_RESTORE (R310, R435) -/

/-- A slot comes back, with the generations that its numbers have reached since (R392). -/
def State.returnSlot (s : State) (sk : Nat) (sl : Slot) : State :=
  let now := s.slotAt sk
  { s with slots := s.slots.insert sk { sl with gens := if now.gens.isEmpty then sl.gens else now.gens, lastIssue := now.lastIssue } }

/-- The sub-warps of a slot that were resolved while their stand was saved run now (R184). -/
def State.applyMarks (s : State) (sk : Nat) (sl : Slot) : State :=
  let s1 := sl.parked.foldl (fun s p => match p.mark with
    | some skip => s.resumeLanes p skip
    | none => s) s
  s1.updSlot sk (fun sl => { sl with parked := sl.parked.filter (fun p => p.mark.isNone) })

/-- A thread that watches a word reads it again after restore (R233). -/
def Thread.watchAgain (t : Thread) : Thread :=
  match t.wait with
  | .word _ _ => t.wake
  | .spWord _ _ => t.wake
  | _ => t

/-- Put a saved context back on its site (R310). -/
def State.putBack (s : State) (k : Nat) (st : Stand) (sv : SavedState) : State :=
  let s1 := sv.slots.foldl (fun s p => s.returnSlot p.1 p.2) s
  let s2 := sv.matrix.foldl (fun s p => s.updQuad (4 * st.core + p.1) (fun q => { q with matrix := p.2 })) s1
  let s3 := sv.vtimes.foldl (fun s p => s.updQuad (4 * st.core + p.1) (fun q => { q with
    vtimes := p.2.foldl (fun t x => t.insert x.1 x.2) q.vtimes })) s2
  let s4 := s3.updStand k (fun st => { st with saved := none, chosen := false, frozen := none })
  let s5 := sv.slots.foldl (fun s p => s.applyMarks p.1 p.2) s4
  s5.mapStand k (fun _ t => t.watchAgain)

/-- CONTEXT_RESTORE (R310, R433, R434, R448): a saved stand whose room is reserved returns to its site and slots. -/
def execContextRestore (stand : Nat) (s : State) : Host.Outcome State Fault Refusal :=
  .next (match s.stands.get? stand with
    | none => s
    | some st => match st.saved with
      | none => s
      | some sv =>
        if !st.chosen || st.exited || st.stuckFrozen then s
        else if s.saveBad st then s.failStand stand 0xE0 none false
        else match s.saveFault st false with
          | some p => s.freeze stand st true p.1 p.2
          | none =>
            let s1 := s.putBack stand st sv
            let s2 := { s1 with grids := s1.grids.modify st.grid (fun g => g.noteStart st.num s.cycles) }
            ((s2.settlePlaced st.grid).settleFrz st.vf).settleSwitch (s.vfPart st.vf))

/-! ### SVCMD (R434) -/

/-- The function whose SVCMD the write in progress is to, when something of it is frozen. -/
def State.frozenVf (s : State) : Option Nat :=
  match s.wrVf with
  | some v => if s.frozenAny v then some v else none
  | none => none

/-- SAVE_REPLAY (R434): the cores that hold a frozen stand forget the function's translations, and every frozen save or restore
goes on at the page that faulted; FRZ falls when they complete. -/
def execSaveReplay (s : State) : Host.Outcome State Fault Refusal :=
  .next (match s.frozenVf with
    | none => s.logStim
    | some v =>
      let cores := s.stands.filterMap (fun p => if p.2.vf = v && p.2.frozen.isSome then some p.2.core else none)
      let s1 := cores.foldl (fun s c => s.updCore c (fun x => { x with tlb := x.tlb.filter (fun e => e.vf ≠ v) })) s
      { s1 with stands := s1.stands.mapVals (fun _ (st : Stand) =>
          if st.vf = v then { st with frozen := st.frozen.map (fun f => { f with replay := true }) } else st) })

/-- SAVE_KILL (R434): the function is torn down. -/
def execSaveKill (s : State) : Host.Outcome State Fault Refusal :=
  .next (match s.frozenVf with
    | none => s.logStim
    | some v => s.tearDown v)

end Sys2Proof.Machine
end

