-- ==== Sys2Proof/Machine/Manage.lean ====
section
/-!
DEFINITION. The management domain: CRRD and CRWR (R384), the fatal stop (R451), bring-up and restarts (R379, R380, R459), the
measurement log and the management port (R381, R382), %mstate and HALT's events (R383), feature negotiation (R385), light
(R386) and the core map (R387, R388).
-/

namespace Sys2Proof.Machine

/-! ### The management core at work -/

/-- STATE of %mstate (R383). -/
def State.bringUp (s : State) : Nat := s.mgmt.mstate.toNat % 16

/-- Set STATE. -/
def State.setBringUp (s : State) (n : Nat) : State := { s with mgmt := { s.mgmt with mstate := putField s.mgmt.mstate 0 4 n } }

/-- A ring access found no node or register (R384). -/
def State.setRerr (s : State) : State := { s with mgmt := { s.mgmt with mstate := putField s.mgmt.mstate 4 1 1 } }

/-- An enabled event ends HALT (R383). -/
def State.wakeMgmt (s : State) (src : WakeSource) : State :=
  let i := match src with
    | .port => 0
    | .ring => 1
    | .timer => 2
  if bit s.mgmt.mwake.toNat i then { s with mgmt := { s.mgmt with halted := false } } else s

/-- WAKE_EVENT (R383). -/
def execWakeEvent (source : WakeSource) (s : State) : Host.Outcome State Fault Refusal := .next (s.wakeMgmt source)

/-- A measurement entry; a digest is the 384-bit number that its bytes spell, first byte highest (R382; notes/assumptions 32). -/
def Measure.of (kind : Byte) (data : List Byte) : Measure := ⟨kind, BitVec.ofNat 384 (beNat (sha384 data))⟩

/-- The measurement entries gain one (R382). -/
def State.measure (s : State) (kind : Byte) (data : List Byte) : State := { s with measures := s.measures ++ [Measure.of kind data] }

/-! ### The fatal stop (R451) -/

/-- Dirty lines are discarded without write-back, and every cached copy with them (R451). -/
def State.dropCaches (s : State) : State :=
  let s1 := (s.backing.map Prod.fst).foldl discardLine s
  { s1 with lines := [], l1 := [], reservations := [] }

/-- FATAL STOP (R451): every partition is disabled and every function torn down, the host cores are held in reset, dirty lines
are discarded, and the device is in SAFE. -/
def State.fatalStop (s : State) : State :=
  let s1 := (List.range 48).foldl (fun s p => (s.tearPartition p).setField (pctlAt p) 0 1 0) s
  let s2 := s1.dropCaches
  { (s2.setBringUp 15) with hostHeld := true }

/-! ### The core map (R387, R388) -/

/-- Publish a new core map: its generation rises, and the hypervisor receives the map event (R388). -/
def State.publish (s : State) : State := { s with mapGen := s.mapGen + 1, outputs := s.outputs ++ [.mapEvent (s.mapGen + 1)] }

/-- The holes of the wafer. -/
def State.holes (s : State) : List Nat := s.sites.filterMap (fun p => if p.2 = 2 then some p.1 else none)

/-- Two sites lie within one site of each other, diagonals included (R278). -/
def siteNear (a b : Nat) : Bool := siteX a ≤ siteX b + 1 && siteX b ≤ siteX a + 1 && siteY a ≤ siteY b + 1 && siteY b ≤ siteY a + 1

/-- The hole rules: no cluster holds more than two, and no two lie within one site of each other (R17, R278, R451). -/
def State.holesOk (s : State) : Bool :=
  let hs := s.holes
  hs.all (fun a => hs.all (fun b => a = b || !siteNear a b) && (hs.filter (fun b => clusterOf a = clusterOf b)).length ≤ 2)

/-- A host core or optical port at a hole is out of service (R23). -/
def agentsAt (site : Nat) : List Nat :=
  (List.range 48).flatMap (fun f => (List.range 2).flatMap (fun k =>
    let x := 10 * (f % 8) + 2 + 5 * k
    let y := 16 * (f / 8)
    (if site = 80 * (y + 7) + x then [2 * f + k] else []) ++ (if site = 80 * (y + 8) + x then [96 + 2 * f + k] else [])))

/-- Set a site's state, with the agents that a hole takes out of service. -/
def State.setSite (s : State) (site st : Nat) : State :=
  let out := if st = 2 then (agentsAt site).filter (fun a => !s.agentsOut.contains a) else []
  { s with sites := s.sites.put 0 site st, agentsOut := s.agentsOut ++ out }

/-- Retire a site to a worse state; a hole that breaks the rules stops the device, recorded as KIND 0x12 (R451). -/
def State.retire (s : State) (site st : Nat) : State :=
  let s1 := s.setSite site (max st (s.siteState site))
  if s1.holesOk then s1.publish else (s.logError 0x12 2 0x3FF 0 site 1 0).fatalStop

/-- A site inside the rectangle of a launch that is Placing, or has been, is not retested until that grid ends (R440). -/
def State.placingOver (s : State) (site : Nat) : Bool :=
  s.grids.any (fun p => (p.2.state = .placing || p.2.state = .placed) && p.2.x0 ≤ siteX site && siteX site < p.2.x0 + p.2.width
    && p.2.y0 ≤ siteY site && siteY site < p.2.y0 + p.2.height)

/-- A retest of a site must wait: the site holds a stand, or a launch over it has not ended (R388, R440). -/
def State.retestWaits (s : State) (site : Nat) : Bool :=
  s.placingOver site || s.stands.any (fun p => p.2.core = site && !p.2.exited)

/-- RETEST (R16, R388, R440): a site is tested, retired if its core or its router fails, and the map is published; a retest that
must wait does so. -/
def execRetest (site : Nat) (coreOk routerOk : Bool) (s : State) : Host.Outcome State Fault Refusal :=
  let s1 := { s with retests := s.retests.filter (· ≠ (site, coreOk, routerOk)) }
  .next (if 7680 ≤ site then s
    else if s.retestWaits site then { s1 with retests := s1.retests ++ [(site, coreOk, routerOk)] }
    else if coreOk && routerOk then s1.publish
    else s1.retire site (if routerOk then 1 else 2))

/-! ### Guarantees of the optical ports (R457) -/

/-- After a change of a port's lanes or promise, the lapse or the restoration is recorded (R457). -/
def State.settleGuarantee (before : State) (port : Nat) (s : State) : State :=
  let log (kind : Nat) : State := s.logError kind 3 0x3FF 0 (64 + port) 1 (s.trainedLanes port)
  if 96 ≤ port then s
  else if s.lapsed port && !before.lapsed port then log 0x50
  else if !s.lapsed port && before.lapsed port then log 0x52
  else s

/-- The port of a ring node; 96 for a node that is none. -/
def portOfNode (node : Nat) : Nat := if 64 ≤ node && node < 160 then node - 64 else 96

/-! ### CRRD, CRWR (R384) -/

/-- Node and index of a ring address word; none when its high bits are not zero, nothing is there, or the node has no power: in
SAFE the compute power is off (R379, R384). -/
def State.ringTarget (s : State) (w : Nat) : Option (Nat × Nat) :=
  let node := bits w 10 10
  let idx := bits w 0 10
  if bits w 20 12 = 0 && ringExists node idx && s.bringUp ≠ 15 then some (node, idx) else none

/-- Whether an index of a node is a wavelength control. -/
def isWlc (node idx : Nat) : Bool := idx < (if 64 ≤ node && node < 160 then 11 else 36)

/-- A ring register as software reads it: TRAIN reads 0 (R12, R386). -/
def State.ringRead (s : State) (node idx : Nat) : Nat :=
  if isWlc node idx then (putField (s.ringReg node idx) 3 1 0).toNat else (s.ringReg node idx).toNat

/-- The encoding and quota faults of CRRD and CRWR: off the management core they are illegal (R384). -/
def illRing (f : SFmt) (s : State) : Option Flt :=
  illegal (s.onMgmt && f.bare true true false false && aligned f.rd 2) ((Src.v f.ra 1).beyond s.quota || (Src.v f.rd 2).beyond s.quota)

/-- CRRD (R384). -/
def execCrrd (f : SFmt) (s : State) : Host.Outcome State Fault Refusal :=
  let a := Src.v f.ra 1
  let d := Dst.v f.rd 2
  .next (s.issue f.gn f.gp (illRing f s) (fun ex =>
    s.eachLane ex (State.raiseOnly f.gp [a]) (fun s goods =>
      let ls := goods.map Prod.fst
      let s1 := s.drainLanes ls
      let target (l : Nat) : Option (Nat × Nat) := s.ringTarget ((s.lane l).reg f.ra).toNat
      let value (l : Nat) : Nat := match target l with
        | some x => s1.ringRead x.1 x.2
        | none => 0
      let s2 := if ls.any (fun l => (target l).isNone) then s1.setRerr else s1
      s2.commit ls [d] (s.labelL f.gp.toNat ls (s.curSlot.srcLabel [a]) 0) (ls.map (fun l => (l, [Out.val (value l)]))))))

/-- CRWR (R384): the write is the next step. -/
def execCrwr (f : SFmt) (s : State) : Host.Outcome State Fault Refusal :=
  let a := Src.v f.ra 1
  let d := Src.v f.rd 2
  .next (s.issue f.gn f.gp (illRing f s) (fun ex =>
    s.eachLane ex (State.raiseOnly f.gp [a, d]) (fun s goods =>
      let ls := goods.map Prod.fst
      ls.foldl (fun s l => match s.ringTarget ((s.lane l).reg f.ra).toNat with
        | some x => s.postWrite ⟨ringRegAt x.1 x.2, BitVec.ofNat 64 ((s.lane l).regNat f.rd 2), .mgmt, 0⟩
        | none => s.setRerr) (s.drainLanes ls))))

/-! ### Light (R386) -/

/-- A write to a wavelength control: LEN rising starts the ring search, LEN falling puts the light out, and TRAIN on a locked
ring starts eye training, which is pending while bit 3 is stored (R386). -/
def State.writeWlc (s : State) (node idx : Nat) (v : Nat) : State :=
  let old := s.ringReg node idx
  let on := bit old.toNat 0
  let new : Double :=
    if !bit v 0 then 0#64
    else if !on then 1#64
    else if bit v 3 && bit old.toNat 1 then putField (putField (putField old 3 1 1) 4 1 0) 5 1 0
    else old
  State.settleGuarantee s (portOfNode node) (s.setRing node idx new)

/-- RING_SEARCH (R386): a search in progress ends in LOCK with its heater code, or in LFAIL. -/
def execRingSearch (node index : Nat) (locked : Bool) (heat : Byte) (s : State) : Host.Outcome State Fault Refusal :=
  let r := s.ringReg node index
  .next (if !ringExists node index || !isWlc node index || bits r.toNat 0 3 ≠ 1 then s
    else if locked then (s.setRing node index (putField (putField r 1 1 1) 8 8 heat.toNat)).wakeMgmt .ring
    else (s.setRing node index (putField r 2 1 1)).wakeMgmt .ring)

/-- EYE_TRAINING (R386): training in progress ends in TDONE at EYEH ≥ 40 and EYEW ≥ 32, and else in TFAIL. -/
def execEyeTraining (node index : Nat) (eyeh eyew : Byte) (s : State) : Host.Outcome State Fault Refusal :=
  let r := s.ringReg node index
  let pass : Bool := 40 ≤ eyeh.toNat && 32 ≤ eyew.toNat
  .next (if !ringExists node index || !isWlc node index || !bit r.toNat 3 || !bit r.toNat 1 then s
    else
      let r1 := putField (putField (putField r 3 1 0) 16 8 eyeh.toNat) 24 8 eyew.toNat
      let s1 := s.setRing node index (putField r1 (if pass then 4 else 5) 1 1)
      (State.settleGuarantee s (portOfNode node) s1).wakeMgmt .ring)

/-- Whether a map names distinct wavelengths below a bound. -/
def mapOk (xs : List Nat) (top : Nat) : Bool := xs.all (fun x => x ≤ top) && xs.eraseDups.length = xs.length

/-- LMAP_WRITE (R386): lanes 0 to 8 on distinct wavelengths 0 to 10; otherwise ignored, with RERR. -/
def execLmapWrite (s : State) : Host.Outcome State Fault Refusal :=
  let node := (s.wr.pa - 2 ^ 53) / 1024
  let v := s.wr.value.toNat
  .next (if !ringExists node 16 || s.wr.agent ≠ .mgmt then s
    else if !mapOk ((List.range 9).map (fun i => bits v (4 * i) 4)) 10 then s.setRerr
    else State.settleGuarantee s (portOfNode node) (s.setRing node 16 (BitVec.ofNat 64 (v % 2 ^ 36))))

/-- The 192 bits of a field's FMAP. -/
def State.fmap (s : State) (node : Nat) : Nat :=
  (s.ringReg node 48).toNat + (s.ringReg node 49).toNat * 2 ^ 64 + (s.ringReg node 50).toNat * 2 ^ 128

/-- The wavelengths that a map of 192 bits names. -/
def fmapList (m : Nat) : List Nat := (List.range 32).map (fun c => bits m (6 * c) 6)

/-- Store a field's FMAP. -/
def State.setFmap (s : State) (node m : Nat) : State :=
  ((s.setRing node 48 (BitVec.ofNat 64 m)).setRing node 49 (BitVec.ofNat 64 (m / 2 ^ 64))).setRing node 50 (BitVec.ofNat 64 (m / 2 ^ 128))

/-- FMAP_WRITE (R386): the 32 channels on distinct wavelengths 0 to 35; a write that would leave the map otherwise is ignored,
with RERR. -/
def execFmapWrite (s : State) : Host.Outcome State Fault Refusal :=
  let node := (s.wr.pa - 2 ^ 53) / 1024
  let idx := (s.wr.pa - 2 ^ 53) % 1024
  let s1 := s.setRing node idx s.wr.value
  .next (if 48 ≤ node || idx < 48 || 51 ≤ idx || s.wr.agent ≠ .mgmt then s
    else if mapOk (fmapList (s1.fmap node)) 35 then s1 else s.setRerr)

/-! ### %mstate and features (R383, R385) -/

/-- Bafin measures the firmware of the host cores and releases them (R379). The ring register by which it does so has no name:
the model places the release at a host core's first access in STATE 5, and no later than the end of that state
(notes/assumptions 31). -/
def State.releaseHosts (s : State) : State := if s.hostHeld then { (s.measure 3 Config.hostFirmware) with hostHeld := false } else s

/-- What Bafin has done by the end of a state: the core map of LOGIC, the release of HOST, and the measurement of the components
that it has loaded (R379, R382; notes/assumptions 31). -/
def State.endStep (s : State) (n : Nat) : State :=
  let s1 := { s with measures := s.measures ++ (Config.components s.tick).map (Measure.of 1) }
  if s.bringUp = 2 && 3 ≤ n then s1.publish
  else if s.bringUp = 5 && n = 6 then s1.releaseHosts
  else s1

/-- MSTATE_WRITE (R383): RERR clears by a 1; STATE takes a listed value, and 15 performs the fatal stop. SAFE is left by a
firmware load only (R451). -/
def execMstateWrite (s : State) : Host.Outcome State Fault Refusal :=
  let v := s.wr.value.toNat
  let n := bits v 0 4
  let s1 := if bit v 4 then { s with mgmt := { s.mgmt with mstate := putField s.mgmt.mstate 4 1 0 } } else s
  .next (if n = 15 then s1.fatalStop
    else if 7 ≤ n || s.bringUp = 15 then s1
    else (s1.endStep n).setBringUp n)

/-- FEATURE_CONFIRM (R385): GO confirms FACC, or sets ERR when a bit is not offered; a second GO is ignored. -/
def execFeatureConfirm (s : State) : Host.Outcome State Fault Refusal :=
  .next (if !s.wrAllowed || s.field (featAt 0x40) 1 1 = 1 then s.logStim
    else
      let bad := (List.range 4).any (fun i =>
        ((s.reg (featAt (0x20 + 8 * i))).toNat &&& (2 ^ 64 - 1 - (s.reg (featAt (8 * i))).toNat)) ≠ 0)
      s.setReg (featAt 0x40) (if bad then 4#64 else 2#64))

/-! ### Power-on and restarts (R379, R380, R459) -/

/-- The management core's thread at its start. -/
def State.startMgmt (s : State) : State :=
  { s with
      threads := s.threads.insert mgmtThread (Thread.start mgmtStand 0 0 ⟨0, 0⟩ [] 0)
      slots := s.slots.insert mgmtSlot { Slot.empty with stand := mgmtStand, lanes := [(0, mgmtThread)] } }

/-- The machine at ROM: what a power-on or a restart leaves, but for what the outside sent and received (R379). -/
def State.atRom (s : State) : State :=
  { State.reset with tick := s.tick, cycles := s.cycles, nextId := s.nextId, inputs := s.inputs, outputs := s.outputs, stim := s.stim }

/-- ROM: the image is hashed into entry 0; an image that does not verify does not run, and the device is in SAFE (R379, R380). -/
def State.rom (s : State) (image : List Byte) : State :=
  let s1 := { s with flash := image, measures := [] }
  let s2 := s1.measure 0 image
  if Config.vendorVerify image then s2 else (s2.updThread mgmtThread (fun t => { t with status := .parked })).setBringUp 15

/-- The sites that do not work, as the self-test of R16 and R379 finds them: with its router a site is router-only, without it
a hole. -/
def State.withFound (s : State) (found : List (Nat × Bool)) : State :=
  found.foldl (fun s p => if p.1 < 7680 then s.setSite p.1 (if p.2 then 1 else 2) else s) s

/-- POWER_ON (R379): `found` names the sites that do not work, and `image` is what the management flash holds. -/
def execPowerOn (found : List (Nat × Bool)) (image : List Byte) (s : State) : Host.Outcome State Fault Refusal :=
  .next ((s.atRom.withFound found).rom image)

/-- A restart at ROM (R381, R388): every function is torn down; memory, the wafer's known defects and the epochs of key slots
outlast it (notes/assumptions 31). -/
def State.restart (s : State) (image : List Byte) : State :=
  let s1 := ((List.range 48).foldl (fun s p => s.tearPartition p) s).dropCaches
  let s2 : State := { s1.atRom with
    mem := s1.mem, vtags := s1.vtags, vlabels := s1.vlabels, vmeta := s1.vmeta, badSectors := s1.badSectors
    keyEpoch := s1.keyEpoch, sites := s1.sites, mapGen := s1.mapGen, retired := s1.retired, agentsOut := s1.agentsOut
    rowSpares := s1.rowSpares }
  s2.rom image

/-- WATCHDOG_RESTART (R459, R473): the image, which the boot ROM reads from the flash as at power-on (R379), is verified again,
a KIND 0 entry and a KIND 0x70 record are written, and what waited for the restart goes on; an image that does not verify stops
the device. -/
def execWatchdogRestart (image : List Byte) (s : State) : Host.Outcome State Fault Refusal :=
  .next (if !Config.vendorVerify image then s.fatalStop
    else
      let s1 := s.startMgmt
      let s2 := { s1 with
        flash := image
        mgmt := { s1.mgmt with rmode := 1, mwake := 0, mtimer := 0, halted := false, held := [] }
        inputs := s1.mgmt.held ++ s1.inputs }
      (s2.measure 0 image).logError 0x70 3 0x3FF 0 s.noLoc 1 0)

/-! ### The management port (R381, R382) -/

/-- The port answers in SAFE, and otherwise while the management core serves. -/
def State.portServes (s : State) : Bool := s.bringUp = 15 || !s.mgmtDown

/-- Send a reply. -/
def State.reply (s : State) (bs : List Byte) : State := { s with outputs := s.outputs ++ [.reply bs] }

/-- The request code of a datagram: its first byte; an empty one has none (R381). -/
def State.code (s : State) : Option Nat := s.stim.datagram.head?.map BitVec.toNat

/-- A datagram arrives: an enabled port event ends HALT, and the request is served or not (R383). -/
def State.serve (s : State) (when_ : Bool) (f : State → State) : Host.Outcome State Fault Refusal :=
  let s1 := s.wakeMgmt .port
  .next (if s.portServes && when_ then f s1 else s1)

/-- STATUS (R381, R388, R445): %mstate, the latest core map if there is one, and the last records of severity 2. -/
def execStatus (s : State) : Host.Outcome State Fault Refusal :=
  s.serve (s.code = some 1) (fun s => s.reply (leBytes 8 s.mgmt.mstate.toNat
    ++ (if s.mapGen = 0 then [] else (List.range 2144).map s.mapByte) ++ s.fatals.flatten))

/-- The bytes of measurement entries from an index (R382). -/
def State.logBytes (s : State) (from_ : Nat) : List Byte :=
  ((s.measures.zip (List.range s.measures.length)).drop from_).flatMap (fun p =>
    leBytes 64 (p.2 + p.1.kind.toNat * 2 ^ 32 + p.1.dig.toNat * 2 ^ 64))

/-- LOG (R381): the measurement entries from the index in bytes 1 to 4. -/
def execLog (s : State) : Host.Outcome State Fault Refusal :=
  s.serve (s.code = some 2 && 1 ≤ s.bringUp) (fun s => s.reply (s.logBytes (leNat ((s.stim.datagram.drop 1).take 4))))

/-- The 15 bytes that begin a report. -/
def reportTitle : List Byte :=
  [0x42#8, 0x61#8, 0x66#8, 0x69#8, 0x6E#8, 0x20#8, 0x72#8, 0x65#8, 0x70#8, 0x6F#8, 0x72#8, 0x74#8, 0x20#8, 0x76#8, 0x31#8]

/-- REPORT (R382): the title, the nonce, every entry, and both signatures over them. -/
def execReport (s : State) : Host.Outcome State Fault Refusal :=
  s.serve (s.code = some 3 && 1 ≤ s.bringUp) (fun s =>
    let m := reportTitle ++ (s.stim.datagram.drop 1).take 32 ++ s.logBytes 0
    s.reply (m ++ Config.ed25519Sign m ++ Config.mldsaSign m))

/-- FWLOAD (R381, R388): byte 1 says whether this is the last chunk, bytes 2 to 5 its place in the flash, and the chunk follows;
the last one restarts the device at ROM (notes/assumptions 31). -/
def execFwload (s : State) : Host.Outcome State Fault Refusal :=
  s.serve (s.code = some 4 && (s.bringUp = 15 || s.bringUp = 6)) (fun s =>
    let d := s.stim.datagram
    let at_ := leNat ((d.drop 2).take 4)
    let chunk := d.drop 6
    let kept := s.flash.take at_ ++ List.replicate (at_ - s.flash.length) 0#8
    let image := kept ++ chunk ++ s.flash.drop (at_ + chunk.length)
    if (d.getD 1 0#8).toNat = 0 then { s with flash := image } else s.restart image)

/-- STREAM (R330, R381): the queued data of the stream that byte 1 names. -/
def execStream (s : State) : Host.Outcome State Fault Refusal :=
  s.serve (s.code = some 5 && s.bringUp = 6) (fun s =>
    let n := (s.stim.datagram.getD 1 0#8).toNat
    { (s.reply (s.streams.getD n [])) with streams := s.streams.erase n })

/-- A datagram whose code is none of R381. -/
def State.unknownCode (s : State) : Bool := !([1, 2, 3, 4, 5].map some).contains s.code

/-- UNKNOWN_REQUEST (R381): answered with code 0 and logged; the entry names no register (notes/assumptions 27). -/
def execUnknownRequest (s : State) : Host.Outcome State Fault Refusal :=
  s.serve s.unknownCode (fun s => (s.reply [0#8]).logIgnored 0 false .mgmt)

end Sys2Proof.Machine
end

