-- ==== Sys2Proof/Machine/Keccak.lean ====
section
/-!
DEFINITION. The extendable-output functions SHAKE128 and SHAKE256 (FIPS 202), which ML-DSA uses (R327). A state is 25 lanes of 64
bits, lane (x, y) at index x + 5 * y.
-/

namespace Sys2Proof.Machine

/-- Rotate a 64-bit lane to the left. -/
def lane64Rot (x n : Nat) : Nat := (x <<< n ||| x >>> (64 - n)) % 2 ^ 64

/-- A lane of a state. -/
def keccakLane (a : List Nat) (x y : Nat) : Nat := a.getD (x % 5 + 5 * (y % 5)) 0

/-- The lanes of a state from its lanes' places. -/
def keccakOf (f : Nat → Nat → Nat) : List Nat := (List.range 25).map (fun i => f (i % 5) (i / 5))

/-- The rotation of each lane, by index. -/
def keccakRho : List Nat := [0, 1, 62, 28, 27, 36, 44, 6, 55, 20, 3, 10, 43, 25, 39, 41, 45, 15, 21, 8, 18, 2, 61, 56, 14]

/-- The round constants. -/
def keccakRc : List Nat :=
  [0x0000000000000001, 0x0000000000008082, 0x800000000000808A, 0x8000000080008000, 0x000000000000808B, 0x0000000080000001,
   0x8000000080008081, 0x8000000000008009, 0x000000000000008A, 0x0000000000000088, 0x0000000080008009, 0x000000008000000A,
   0x000000008000808B, 0x800000000000008B, 0x8000000000008089, 0x8000000000008003, 0x8000000000008002, 0x8000000000000080,
   0x000000000000800A, 0x800000008000000A, 0x8000000080008081, 0x8000000000008080, 0x0000000080000001, 0x8000000080008008]

/-- The column parities spread to their neighbours. -/
def keccakTheta (a : List Nat) : List Nat :=
  let c := (List.range 5).map (fun x => (List.range 5).foldl (fun n y => n ^^^ keccakLane a x y) 0)
  let d := (List.range 5).map (fun x => c.getD ((x + 4) % 5) 0 ^^^ lane64Rot (c.getD ((x + 1) % 5) 0) 1)
  keccakOf (fun x y => keccakLane a x y ^^^ d.getD x 0)

/-- The lanes turn and change places. -/
def keccakRhoPi (a : List Nat) : List Nat :=
  keccakOf (fun x y => lane64Rot (keccakLane a (x + 3 * y) x) (keccakLane keccakRho (x + 3 * y) x))

/-- The rows combine, and the first lane takes the round constant. -/
def keccakChi (a : List Nat) (rc : Nat) : List Nat :=
  keccakOf (fun x y =>
    let z := keccakLane a (x + 2) y
    keccakLane a x y ^^^ (z ^^^ (z &&& keccakLane a (x + 1) y)) ^^^ (if x + y = 0 then rc else 0))

/-- The permutation of 24 rounds. -/
def keccakF (a : List Nat) : List Nat := keccakRc.foldl (fun a rc => keccakChi (keccakRhoPi (keccakTheta a)) rc) a

/-- The lanes of a block of `rate` bytes. -/
def keccakBlock (rate : Nat) (bs : List Byte) : List Nat := (List.range 25).map (fun i =>
  if 8 * i < rate then leNat ((bs.drop (8 * i)).take 8) else 0)

/-- Absorb a padded message; `fuel` counts its blocks. -/
def keccakAbsorb (rate : Nat) : Nat → List Byte → List Nat → List Nat
  | 0, _, a => a
  | n + 1, bs, a => keccakAbsorb rate n (bs.drop rate) (keccakF (List.zipWith (· ^^^ ·) a (keccakBlock rate bs)))

/-- Blocks of output, as many as `fuel` says. -/
def keccakSqueeze (rate : Nat) : Nat → List Nat → List Byte
  | 0, _ => []
  | n + 1, a => (a.flatMap (leBytes 8)).take rate ++ (if n = 0 then [] else keccakSqueeze rate n (keccakF a))

/-- A message with the suffix and padding of SHAKE. -/
def shakePad (rate : Nat) (m : List Byte) : List Byte :=
  let gap := rate - m.length % rate
  m ++ (if gap = 1 then [0x9F#8] else [0x1F#8] ++ List.replicate (gap - 2) 0#8 ++ [0x80#8])

/-- SHAKE with a rate: `n` bytes of output. -/
def shake (rate : Nat) (m : List Byte) (n : Nat) : List Byte :=
  let p := shakePad rate m
  (keccakSqueeze rate (n / rate + 1) (keccakAbsorb rate (p.length / rate) p (List.replicate 25 0))).take n

/-- SHAKE128. -/
def shake128 (m : List Byte) (n : Nat) : List Byte := shake 168 m n

/-- SHAKE256. -/
def shake256 (m : List Byte) (n : Nat) : List Byte := shake 136 m n

end Sys2Proof.Machine
end

