-- ==== Sys2Proof/Machine/MlDsa.lean ====
section
/-!
DEFINITION. The verification of an ML-DSA-65 signature (FIPS 204, pure, empty context; R327). A polynomial is the list of its 256
coefficients, from 0 to q - 1.
-/

namespace Sys2Proof.Machine

/-- The modulus q. -/
def dsaQ : Nat := 8380417

/-- γ₂ of ML-DSA-65, (q - 1) / 32. -/
def dsaGamma2 : Nat := 261888

/-- The eight bits of a number in reverse. -/
def bitRev8 (n : Nat) : Nat := (List.range 8).foldl (fun r i => 2 * r + n / 2 ^ i % 2) 0

/-- A power of ζ = 1753. -/
def dsaZeta (e : Nat) : Nat := (List.range 9).foldl (fun r i =>
  let s := r * r % dsaQ
  if e / 2 ^ (8 - i) % 2 = 1 then s * 1753 % dsaQ else s) 1

/-- The sum of two polynomials. -/
def polyAdd (a b : List Nat) : List Nat := List.zipWith (fun x y => (x + y) % dsaQ) a b

/-- The difference of two polynomials. -/
def polySub (a b : List Nat) : List Nat := List.zipWith (fun x y => (x + dsaQ - y) % dsaQ) a b

/-- The product of two transformed polynomials. -/
def polyMul (a b : List Nat) : List Nat := List.zipWith (fun x y => x * y % dsaQ) a b

/-- A polynomial times a number. -/
def polyScale (c : Nat) (a : List Nat) : List Nat := a.map (fun x => c * x % dsaQ)

/-- The number-theoretic transform of a piece of length 2^n, at node `k` of the tree of zetas. -/
def dsaNtt : Nat → Nat → List Nat → List Nat
  | 0, _, a => a
  | n + 1, k, a =>
    let lo := a.take (2 ^ n)
    let hi := polyScale (dsaZeta (bitRev8 k)) (a.drop (2 ^ n))
    dsaNtt n (2 * k) (polyAdd lo hi) ++ dsaNtt n (2 * k + 1) (polySub lo hi)

/-- The zero polynomial. -/
def polyZero : List Nat := List.replicate 256 0

/-- The inverse of a piece's transform, times its length. -/
def dsaUnNtt : Nat → Nat → List Nat → List Nat
  | 0, _, a => a
  | n + 1, k, a =>
    let lo := dsaUnNtt n (2 * k) (a.take (2 ^ n))
    let hi := dsaUnNtt n (2 * k + 1) (a.drop (2 ^ n))
    polyAdd lo hi ++ polyScale (dsaZeta (512 - bitRev8 k)) (polySub lo hi)

/-- The transform of a polynomial. -/
def nttOf (a : List Nat) : List Nat := dsaNtt 8 1 a

/-- The polynomial of a transform; 8347681 is the inverse of 256. -/
def unNtt (a : List Nat) : List Nat := if a.all (· = 0) then polyZero else polyScale 8347681 (dsaUnNtt 8 1 a)

/-- The coefficients that three-byte candidates give, by rejection; `fuel` counts the candidates. -/
def rejTake : Nat → List Byte → List Nat
  | 0, _ => []
  | n + 1, bs =>
    let z := leNat (bs.take 3) % 2 ^ 23
    (if z < dsaQ then [z] else []) ++ rejTake n (bs.drop 3)

/-- An entry of the matrix of a seed (ExpandA): the first 256 of 280 candidates, or of 1,024 where those do not suffice. -/
def dsaMatrix (seed : List Byte) (r s : Nat) : List Nat :=
  let m := seed ++ [BitVec.ofNat 8 s, BitVec.ofNat 8 r]
  let a := (rejTake 280 (shake128 m 840)).take 256
  if a.length = 256 then a else (rejTake 1024 (shake128 m 3072)).take 256

/-- The places and signs of the challenge (SampleInBall): `i` is the place that comes next, `fuel` counts the bytes tried. -/
def ballFrom (signs : Nat) : Nat → Nat → List Byte → List Nat → List Nat
  | 0, _, _, c => c
  | n + 1, i, bs, c =>
    match bs with
    | [] => c
    | b :: bs =>
      if 256 ≤ i then c
      else if i < b.toNat then ballFrom signs n i bs c
      else
        let v := if signs / 2 ^ (i - 207) % 2 = 1 then dsaQ - 1 else 1
        ballFrom signs n (i + 1) bs ((c.set i (c.getD b.toNat 0)).set b.toNat v)

/-- The challenge polynomial of a hash: 49 coefficients of 1 and -1. -/
def sampleInBall (seed : List Byte) : List Nat :=
  let bs := shake256 seed 1024
  ballFrom (leNat (bs.take 8)) 1016 207 (bs.drop 8) (List.replicate 256 0)

/-- Fields of `w` bits of bytes, `n` of them. -/
def bitFields (w n : Nat) (bs : List Byte) : List Nat :=
  let x := leNat bs
  (List.range n).map (fun i => x / 2 ^ (w * i) % 2 ^ w)

/-- The absolute value of a coefficient taken in the middle range. -/
def coefAbs (x : Nat) : Nat := min x (dsaQ - x)

/-- Decompose a coefficient: its high bits, and whether its low part is positive. -/
def dsaDecompose (r : Nat) : Nat × Bool :=
  let m := r % (2 * dsaGamma2)
  let low : Bool := m ≤ dsaGamma2
  let hi := if low then r - m else r - m + 2 * dsaGamma2
  if hi = dsaQ - 1 then (0, false) else (hi / (2 * dsaGamma2), low && decide (0 < m))

/-- The high bits that a hint corrects (UseHint). -/
def dsaUseHint (h : Bool) (r : Nat) : Nat :=
  let d := dsaDecompose r
  if !h then d.1 else if d.2 then (d.1 + 1) % 16 else (d.1 + 15) % 16

/-- The hint places of each polynomial (HintBitUnpack): `at_` is the place in the list reached; none when it is malformed. -/
def hintsFrom (y : List Nat) : Nat → Nat → List Nat → Option (List (List Nat))
  | _, at_, [] => if (y.drop at_).all (· = 0) then some [] else none
  | last, at_, e :: es =>
    let mine := (y.drop at_).take (e - at_)
    if e < at_ || last < e || (mine.zip mine.tail).any (fun p => p.2 ≤ p.1) then none
    else (hintsFrom y last e es).map (fun r => mine :: r)

/-- The hints of a signature: 55 places and 6 ends. -/
def dsaHints (bs : List Byte) : Option (List (List Nat)) :=
  let y := bs.map BitVec.toNat
  hintsFrom (y.take 55) 55 0 (y.drop 55)

/-- The bytes of a vector of high bits (w1Encode): two coefficients a byte. -/
def w1Bytes (w : List Nat) : List Byte := (List.range 128).map (fun i => BitVec.ofNat 8 (w.getD (2 * i) 0 + 16 * w.getD (2 * i + 1) 0))

/-- The transform of a product of a transformed factor with a polynomial: zero when the polynomial is. -/
def timesNtt (a b : List Nat) : List Nat := if b.all (· = 0) then polyZero else polyMul a (nttOf b)

/-- A row of what the signature commits to, before its hints: A·z - c·t₁·2^13. -/
def dsaRow (seed : List Byte) (zs : List (List Nat)) (c t1 : List Nat) (r : Nat) : List Nat :=
  let az := (zs.zip (List.range 5)).foldl (fun a p => polyAdd a (timesNtt (dsaMatrix seed r p.2) p.1)) polyZero
  unNtt (polySub az (timesNtt c (polyScale (2 ^ 13) t1)))

/-- The vector that a signature commits to, encoded: its responses `zs`, challenge `c` and hints under a public key. -/
def dsaW1 (key : List Byte) (zs : List (List Nat)) (c : List Nat) (hints : List (List Nat)) : List Byte :=
  (hints.zip (List.range 6)).flatMap (fun p =>
    let row := dsaRow (key.take 32) zs c (bitFields 10 256 ((key.drop (32 + 320 * p.2)).take 320)) p.2
    w1Bytes ((row.zip (List.range 256)).map (fun x => dsaUseHint (p.1.contains x.2) x.1)))

/-- The responses z of a signature. -/
def dsaResponses (sig : List Byte) : List (List Nat) := (List.range 5).map (fun i =>
  (bitFields 20 256 ((sig.drop (48 + 640 * i)).take 640)).map (fun x => (2 ^ 19 + dsaQ - x) % dsaQ))

/-- A signature of 3,309 bytes over a message verifies under a public key of 1,952 bytes. -/
def mldsaVerify (key m sig : List Byte) : Bool :=
  match dsaHints (sig.drop 3248) with
  | none => false
  | some hints =>
    let mu := shake256 (shake256 key 64 ++ [0#8, 0#8] ++ m) 64
    let zs := dsaResponses sig
    let w1 := dsaW1 key zs (nttOf (sampleInBall (sig.take 48))) hints
    key.length = 1952 && sig.length = 3309
      && zs.all (fun z => z.all (fun x => coefAbs x < 2 ^ 19 - 196))
      && decide (shake256 (mu ++ w1) 48 = sig.take 48)

end Sys2Proof.Machine
end

