-- ==== Sys2Proof/Machine/Gate.lean ====
section
/-!
DEFINITION. Release policies and the release gate (R326 to R331, R458).
-/

namespace Sys2Proof.Machine

/-! ### Policies (R326 to R328) -/

/-- `n` bytes at an offset of a byte list, as a number. -/
def natAt (bs : List Byte) (off n : Nat) : Nat := leNat ((bs.drop off).take n)

/-- OSET of a body. -/
def polOset (b : List Byte) : Nat := natAt b 16 8
/-- MAXLEN. -/
def polMaxlen (b : List Byte) : Nat := natAt b 24 4
/-- BUDGET. -/
def polBudget (b : List Byte) : Nat := natAt b 28 8
/-- MAXREL. -/
def polMaxrel (b : List Byte) : Nat := natAt b 36 4
/-- NDST. -/
def polNdst (b : List Byte) : Nat := natAt b 40 1
/-- Destination entry `i`. -/
def polDest (b : List Byte) (i : Nat) : Nat := natAt b (64 + 16 * i) 16
/-- Every destination entry. -/
def polDests (b : List Byte) : List Nat := (List.range (polNdst b)).map (polDest b)

/-- A destination entry holds no reserved value (R326). -/
def destOk (e : Nat) : Bool := bits e 0 2 ≠ 3 && bits e 2 6 = 0 && bits e 14 2 = 0 && bits e 24 40 = 0 && bits e 80 48 = 0

/-- A body is well formed (R326, R328). -/
def policyOk (b : List Byte) : Bool :=
  natAt b 0 4 = 1 && natAt b 4 4 = 64 + 16 * polNdst b && 1 ≤ polNdst b && polNdst b ≤ 16 && polOset b ≠ 0
    && 4 ≤ polMaxlen b && polMaxlen b ≤ 65536 && natAt b 41 23 = 0 && (polDests b).all destOk

/-- The origins of a set, ascending. -/
def originsOf (set : Nat) : List Nat := (List.range 64).filter (bit set)

/-- The bytes that both signatures cover begin with these (R327). -/
def policyTitle : List Byte :=
  [0x4F#8, 0x63#8, 0x6F#8, 0x73#8, 0x74#8, 0x20#8, 0x70#8, 0x6F#8, 0x6C#8, 0x69#8, 0x63#8, 0x79#8, 0x20#8, 0x76#8, 0x31#8]

/-- The fault of one origin's signatures: 3 no keys, 2 a signature that does not verify (R327, R328). -/
def State.originFault (s : State) (body sigs : List Byte) (o : Nat) : Option Nat :=
  match s.originKeys.get? o with
  | none => some 3
  | some ks =>
    let m := policyTitle ++ body
    if ed25519Verify (ks.take 32) m (sigs.take 64) && mldsaVerify (ks.drop 32) m (sigs.drop 64) then none else some 2

/-- The first origin at fault, with its reason. -/
def State.signFault (s : State) (blob body : List Byte) (blen : Nat) : Option (Nat × Nat) :=
  let os := originsOf (polOset body)
  (os.zip (List.range os.length)).findSome? (fun p =>
    (s.originFault body ((blob.drop (blen + 3373 * p.2)).take 3373) p.1).map (fun r => (r, p.1)))

/-- Set GSTS: RES, ORG, HND (R328). -/
def State.gateStatus (s : State) (res org hnd : Nat) : State :=
  s.setReg (gateAt 0x10) (BitVec.ofNat 64 (res * 2 ^ 8 + org * 2 ^ 16 + hnd * 2 ^ 32))

/-- A command's input: bytes at GBLOB, as the management core reads them. -/
def State.blob (s : State) (n : Nat) : List Byte := s.bytesOf 0 (.pa (s.field (gateAt 8) 6 46 * 64)) n

/-- Remove an installed policy; its slot's generation advances at the next use (R328). -/
def State.dropPolicy (s : State) (slot : Nat) : State :=
  { s with policies := s.policies.erase slot, policyGens := s.policyGens.insert slot ((s.policyGens.getD slot 0 + 1) % 64) }

/-- The installed policy that a handle names (R328). -/
def State.policy (s : State) (h : Nat) : Option Policy :=
  match s.policies.get? (h % 1024) with
  | some p => if p.gen = h / 1024 % 64 then some p else none
  | none => none

/-- Whether the command in progress may run: its agent may write, and the management core serves (R312, R459). -/
def State.gateRuns (s : State) : Bool := s.wrAllowed && !s.mgmtDown

/-- A command that does not run: written while BUSY, it is ignored and logged; out of reach of its agent, it never was (R312,
R328). -/
def State.turnedAway (s : State) : State := if s.wrAllowed then s.logStim else s

/-- POLICY_INSTALL (R326 to R328). -/
def execPolicyInstall (s : State) : Host.Outcome State Fault Refusal :=
  .next (if !s.gateRuns then s.turnedAway
    else
      let head := s.blob 64
      let blen := 64 + 16 * polNdst head
      let blob := s.blob (blen + 3373 * 64)
      let body := blob.take blen
      if !policyOk body then s.gateStatus 1 0 0
      else match s.signFault blob body blen with
        | some (r, o) => s.gateStatus r o 0
        | none => match (List.range 1024).find? (fun k => (s.policies.get? k).isNone) with
          | none => s.gateStatus 4 0 0
          | some k =>
            let gen := s.policyGens.getD k 0
            let s1 := { s with policies := s.policies.insert k ⟨gen, body, polBudget body, polMaxrel body⟩ }
            s1.gateStatus 0 0 (k + 1024 * gen))

/-- POLICY_REMOVE (R328). -/
def execPolicyRemove (s : State) : Host.Outcome State Fault Refusal :=
  let h := bits s.wr.value.toNat 2 16
  .next (if !s.gateRuns then s.turnedAway
    else match s.policy h with
      | some _ => (s.dropPolicy (h % 1024)).gateStatus 0 0 0
      | none => s.gateStatus 5 0 0)

/-- KEY_REGISTER (R328): the keys are stored and measured, and every policy that names the origin is removed. -/
def execKeyRegister (s : State) : Host.Outcome State Fault Refusal :=
  let o := bits s.wr.value.toNat 2 6
  .next (if !s.gateRuns then s.turnedAway
    else
      let ks := s.blob 1984
      let s1 := ({ s with originKeys := s.originKeys.insert o ks }).measure 2 (BitVec.ofNat 8 o :: ks)
      let gone := s.policies.filterMap (fun p => if bit (polOset p.2.body) o then some p.1 else none)
      (gone.foldl State.dropPolicy s1).gateStatus 0 0 0)

/-- POLICY_CHECK_FAIL (R458): the policy is removed, and KIND 0x60 names its handle. -/
def execPolicyCheckFail (handle : BitVec 16) (s : State) : Host.Outcome State Fault Refusal :=
  .next (match s.policy handle.toNat with
    | some _ => (s.dropPolicy (handle.toNat % 1024)).logError 0x60 3 0x3FF 0 s.noLoc 1 handle.toNat
    | none => s)

/-! ### The release gate (R329 to R331) -/

/-- KIND of a release's entry. -/
def Release.kind (r : Release) : Nat := bits r.entry.toNat 0 2
/-- ARG of a release's entry. -/
def Release.arg (r : Release) : Nat := bits r.entry.toNat 8 8
/-- The recipient origin of KIND 2. -/
def Release.rcp (r : Release) : Nat := r.arg % 64
/-- The circuit by which a KIND 0 release leaves, if its destination entry is valid (R285, R315). -/
def State.relCircuit (s : State) (r : Release) : Option Nat :=
  if bit r.dest.toNat 7 then s.servedBy (bits r.dest.toNat 0 7) r.vf else none

/-- The reserved bits of a release-table entry are zero (R329, R430). -/
def Release.entryOk (r : Release) : Bool := bits r.entry.toNat 3 5 = 0 && bits r.entry.toNat 16 48 = 0

/-- A release's target matches a destination of its policy (R330, R430). -/
def State.relTarget (s : State) (r : Release) (body : List Byte) : Bool :=
  bit r.entry.toNat 2 && r.entryOk && bits r.dstWord.toNat 14 18 = 0 && (match r.kind with
    | 0 => bits r.dstWord.toNat 8 6 ≠ 0x3F && (s.relCircuit r).isSome
        && (polDests body).any (fun d => bits d 0 2 = 0 && bits d 64 16 = bits r.dest.toNat 64 16)
    | 1 => (polDests body).any (fun d => bits d 0 2 = 1 && bits d 16 8 = r.arg)
    | 2 => (polDests body).any (fun d => bits d 0 2 = 2 && bits d 8 6 = r.rcp)
    | _ => false)

/-- The label of a release's destination granules. -/
def State.relLabel (s : State) (r : Release) : Label :=
  Label.union (r.spans.map (fun p => s.labelSpan (s.keyOf r.vf) (s.ownLabel r.vf) p.loc p.len))

/-- The first check of R330 that fails: its RES. -/
def State.relRefusal (s : State) (r : Release) : Option Nat :=
  match s.policy r.handle.toNat with
  | none => some 2
  | some p =>
    let b := p.body
    let n := r.data.length
    if !bit (polOset b) (s.vfOrigin r.vf) then some 3
    else if !Label.subset r.label (BitVec.ofNat 64 (polOset b)) then some 4
    else if !s.relTarget r b then some 5
    else if polMaxlen b < n then some 6
    else if polBudget b ≠ 0 && p.bytesLeft < n then some 7
    else if polMaxrel b ≠ 0 && p.relsLeft < 1 then some 8
    else if r.kind = 2 && !Label.subset (s.relLabel r) (Label.origin r.rcp) then some 9
    else none

/-- A policy after an accepted release: each counter whose limit applies falls (R330). -/
def Policy.spend (p : Policy) (n : Nat) : Policy :=
  { p with bytesLeft := if polBudget p.body = 0 then p.bytesLeft else p.bytesLeft - n
           relsLeft := if polMaxrel p.body = 0 then p.relsLeft else p.relsLeft - 1 }

/-- Whether the gate's log ring is full (R331). -/
def State.gateLogFull (s : State) : Bool :=
  2 ^ s.field (gateAt 0x20) 0 5 ≤ (s.field (gateAt 0x28) 0 32 + 2 ^ 32 - s.field (gateAt 0x30) 0 32) % 2 ^ 32

/-- Write the log record of a release; the counters of a handle that names no policy are free (R331). -/
def State.gateLog (s : State) (r : Release) (res : Nat) : State :=
  let seq := s.field (gateAt 0x28) 0 32
  let size := 2 ^ s.field (gateAt 0x20) 0 5
  let left : Nat × Nat := match s.policy r.handle.toNat with
    | some p => (if polBudget p.body = 0 then 2 ^ 64 - 1 else p.bytesLeft, if polMaxrel p.body = 0 then 2 ^ 32 - 1 else p.relsLeft)
    | none => ((s.free 53).toNat + (s.free 54).toNat * 2 ^ 32, (s.free 55).toNat)
  let dig := if res < 2 then beNat ((sha384 r.data).take 16) else 0
  let rcd := seq + r.vf * 2 ^ 32 + s.vfOrigin r.vf * 2 ^ 42 + r.handle.toNat * 2 ^ 48 + r.label.toNat * 2 ^ 64 + r.data.length * 2 ^ 128
    + r.dstWord.toNat * 2 ^ 160 + res * 2 ^ 192 + (if r.kind = 2 then r.rcp else 0) * 2 ^ 200 + left.1 * 2 ^ 256 + left.2 * 2 ^ 320
    + dig * 2 ^ 384
  (s.deviceStore 0 ((s.reg (gateAt 0x18)).toNat % 2 ^ 52 + 64 * (seq % size)) (leBytes 64 rcd)).setReg (gateAt 0x28)
    (BitVec.ofNat 64 ((seq + 1) % 2 ^ 32))

/-- The data of an accepted release goes out (R330). -/
def State.emit (s : State) (r : Release) (info : BitVec 16) : State :=
  match r.kind with
  | 0 => match s.relCircuit r with
    | some c => s.queueBurst ⟨r.vf, bits r.dest.toNat 0 7, r.arg, BitVec.ofNat 32 (bits r.dest.toNat 32 32),
        BitVec.ofNat 16 (bits r.dest.toNat 64 16), BitVec.ofNat 6 (bits r.dstWord.toNat 8 6), r.data, r.threads, r.tok, r.label, false, c,
        info⟩
    | none => s
  | 1 => { (s.tokensDown r.threads r.tok 0 info r.label) with streams := s.streams.insert r.arg (s.streams.getD r.arg [] ++ r.data) }
  | _ =>
    let th := r.threads.headD noThread
    (s.writeSpans (th / 16384) th r.spans r.data (Label.origin r.rcp)).tokensDown r.threads r.tok 0 info r.label

/-- GATE_RELEASE (R330, R331): the oldest release is checked, logged and emitted, re-labelled or refused. A full log ring holds
it, and a KIND 1 release waits while the management core is down (R459). -/
def execGateRelease (s : State) : Host.Outcome State Fault Refusal :=
  .next (match s.gate with
    | [] => s
    | r :: rs =>
      if s.gateLogFull || (r.kind = 1 && s.mgmtDown) then s
      else
        let s0 := { s with gate := rs }
        let seq : BitVec 16 := BitVec.ofNat 16 (s.field (gateAt 0x28) 0 32)
        match s0.relRefusal r with
        | some res => (s0.gateLog r res).tokensDown r.threads r.tok 0x02 seq r.label
        | none =>
          let s1 := { s0 with policies := s0.policies.modify (r.handle.toNat % 1024) (fun p => p.spend r.data.length) }
          (s1.gateLog r (if r.kind = 2 then 1 else 0)).emit r seq)

end Sys2Proof.Machine
end

