-- ==== Sys2Proof/Machine/Devices.lean ====
section
/-!
DEFINITION. Writes to device registers (R312 to R318, R367, R373, R385, R386, R396, R397, R403, R404, R434, R445, R457), and the
events of partitions, functions, circuits and frames (R316, R318, R325, R332, R333, R438).
-/

namespace Sys2Proof.Machine

/-! ### Resident state (R312) -/

/-- An enabled function's stand holds room on a site. -/
def State.siteBusy (s : State) (site : Nat) : Bool := s.stands.any (fun p => p.2.core = site && p.2.holds && s.vfEnabled p.2.vf)

/-- A quadrant holds resident state of an enabled function: one of its warp slots, a crew's claim, or a stand placed there. -/
def State.quadBusy (s : State) (site q : Nat) : Bool :=
  s.stands.any (fun p => p.2.core = site && p.2.holds && s.vfEnabled p.2.vf && p.2.quadsUsed.contains q)
    || (match (s.quadAt (4 * site + q)).matrix.owner with
        | some _ => true
        | none => false)

/-- A vault MiB holds resident state of an enabled function: a line under its slot and the slot's current epoch. -/
def State.vaultBusy (s : State) (c i : Nat) : Bool :=
  let base := 0x40000000000 + c * 0x4000000 + i * 0x100000
  let live (k e : Nat) : Bool := e = s.epoch k && (List.range 1024).any (fun v => s.vfEnabled v && s.vfKey v = k)
  s.vmeta.any (fun p => base ≤ 64 * p.1 && 64 * p.1 < base + 0x100000 && (match p.2 with
    | .key k e => live k e
    | _ => false))

/-- A circuit carries bursts of an enabled function. -/
def State.circuitBusy (s : State) (port i : Nat) : Bool :=
  s.bursts.any (fun b => b.2.port = port && b.2.circuit = i && s.vfEnabled b.2.vf)

/-- A port carries bursts, or a valid circuit, of an enabled function. -/
def State.portBusy (s : State) (port : Nat) : Bool :=
  (List.range 16).any (fun i => s.circuitBusy port i
    || (s.field (circuitAt port i) 10 1 = 1 && s.vfEnabled (s.field (circuitAt port i) 0 10)))

/-- Whether a write to an ownership register changes the owner of something busy (R312). -/
def State.ownerBlocked (s : State) (pa v : Nat) : Bool :=
  if pa < 0x080100010000 then
    let site := (pa - 0x080100000000) / 8
    let next (q : Nat) : Nat := bits v (8 * q) 8
    (List.range 4).any (fun q => next q ≠ s.quadOwner site q && s.quadBusy site q)
      || (s.siteBusy site && (List.range 32).any (fun b => next (s.field (sbankAt site) (2 * b) 2) ≠ s.bankOwner site b))
  else if pa < 0x080200000000 then
    let site := (pa - 0x080100010000) / 8
    s.siteBusy site && (List.range 32).any (fun b => s.quadOwner site (bits v (2 * b) 2) ≠ s.bankOwner site b)
  else
    let c := (pa - 0x080200000000) / 0x80
    let r := pa % 0x80 / 8
    r < 8 && (List.range 8).any (fun j => bits v (8 * j) 8 ≠ s.vaultOwner c (8 * r + j) && s.vaultBusy c (8 * r + j))

/-! ### Register maps -/

/-- Keep the bits of a mask from a new value and the rest from the old one. -/
def mergeMask (old new mask : Double) : Double := (old &&& ~~~mask) ||| (new &&& mask)

/-- The writable bits of a register of a context block, when EN is 0 or for the registers that EN does not guard (R317, R403,
R404). -/
def ctxMask (off : Nat) : Double :=
  if 0x08 ≤ off && off ≤ 0x40 then 0xFFFFFFFFFFFFF#64
  else if off = 0x50 then 0xFFFFFFFF#64
  else if off = 0x60 then 0xFFFFFFFFFF01F#64
  else if off = 0x68 || off = 0x78 then 0xFFFFFFFFFFFFF#64
  else if off = 0x98 then 0x1FF1FFFFFFFFF#64
  else 0#64

/-- Whether EN = 1 guards a register of a context block (R318, R438, R441). -/
def ctxGuarded (off : Nat) : Bool := (0x08 ≤ off && off ≤ 0x40) || off = 0x60 || off = 0x68 || off = 0x78

/-- The write in progress is logged, if it carries what a map ignores (R312, R316, R318). -/
def State.logIf (s : State) (c : Bool) : State := if c then s.logStim else s

/-- The fields of VCTL other than EN and DONE. -/
def vctlMask : Double := 0xFFFF3F06#64

/-- Write VCTL but for EN: the other fields while EN = 0, and DONE clears by a 1; a change of a field while EN = 1 is ignored and
logged (R318, R441). -/
def State.writeVctl (s : State) (v : Nat) (x : Double) : State :=
  let r := s.reg (ctxAt v 0)
  let r1 := if s.vfEnabled v then r else mergeMask r x vctlMask
  (s.logIf (s.vfEnabled v && (r &&& vctlMask) != (x &&& vctlMask))).setReg (ctxAt v 0) (if x.getLsbD 32 then putField r1 32 1 0 else r1)

/-- Write PCTL but for EN: SLEN, unless it would fall below 50, which is logged (R316). -/
def State.writePctl (s : State) (p : Nat) (x : Double) : State :=
  if bits x.toNat 16 16 < 50 then s.logStim else s.setField (pctlAt p) 16 16 (bits x.toNat 16 16)

/-- A supervisor register without behaviour of its own (R367, R396, R397). A change of BASE or SZ of %tqb while EN = 1 is ignored
and logged (R441). -/
def State.writeSup (s : State) (v n : Nat) (x : Double) : State :=
  let pa := supAt v n
  let old := s.reg pa
  let put (mask : Double) : State := s.setReg pa (mergeMask old x mask)
  match n with
  | 0x100 =>
    let fields : Double := 0xFFFFFFFFFF01E#64
    if old.getLsbD 0 then (s.logIf ((old &&& fields) != (x &&& fields))).setReg pa (mergeMask old x 1#64)
    else put 0xFFFFFFFFFF01F#64
  | 0x101 => if old.getLsbD 0 then s else put 0x3FFFFE#64
  | 0x102 => put 0xFFFFFFFFFFFFFFFF#64
  | 0x103 => put 0xFFFFFFFF#64
  | 0x106 => put 0x1F#64
  | 0x10F => put 0x1FF#64
  | 0x1C0 => if s.withheld 0 then s else put 1#64
  | 0x1C1 => (put 0xFFFFFFFFFF00F#64).noteSusp
  | 0x1C3 => put 0xFFFFFFFFFF00F#64
  | _ => s

/-- A register of the gate, the features, the error block or a host core's origin. -/
def State.writeOther (s : State) (pa : Nat) (x : Double) : State :=
  let put (mask : Double) : State := s.setReg pa (mergeMask (s.reg pa) x mask)
  if 0x080700000000 ≤ pa && pa < 0x080700000000 + 8 * 96 then put 0x7F#64
  else if pa = gateAt 0x08 then put 0xFFFFFFFFFFFC0#64
  else if pa = gateAt 0x18 then put 0xFFFFFFFFFFFFF#64
  else if pa = gateAt 0x20 then put 0x1F#64
  else if pa = gateAt 0x30 then put 0xFFFFFFFF#64
  else if featAt 0x20 ≤ pa && pa < featAt 0x40 then (if s.field (featAt 0x40) 1 1 = 1 then s else put 0xFFFFFFFFFFFFFFFF#64)
  else if pa = errAt 0 then put 0xFFFFFFFFFF01F#64
  else if pa = errAt 0x10 then put 0xFFFFFFFF#64
  else if pa = errAt 0x18 then put 0xFFFFFFFFFFFFF#64
  else s

/-- A register of an optical port: its owner, its promise, a circuit or an ingress label (R315, R457). -/
def State.writePort (s : State) (pa : Nat) (x : Double) : State :=
  let n := (pa - 0x080400000000) / 0x200
  let off := pa % 0x200
  if 96 ≤ n then s
  else if off = 0 then
    if bits x.toNat 0 8 ≠ s.field pa 0 8 && s.portBusy n then s.logStim else s.setReg pa (x &&& 0xFF#64)
  else if off = 8 then State.settleGuarantee s n (s.setReg pa (x &&& 0xF#64))
  else if off < 0x100 then s
  else
    let i := (off - 0x100) / 16
    if off % 16 = 8 then s.setReg pa x
    else if bits x.toNat 0 10 ≠ s.field pa 0 10 && s.circuitBusy n i then s.logStim
    else s.setReg pa (x &&& 0xFFFF07FF#64)

/-- A register of a context block without behaviour of its own; a rising MIGT makes room in the migration ring (R442). -/
def State.writeCtx (s : State) (v off : Nat) (x : Double) : State :=
  if off = 0 then s.writeVctl v x
  else if ctxGuarded off && s.vfEnabled v then s.logStim
  else
    let s1 := s.setReg (ctxAt v off) (mergeMask (s.reg (ctxAt v off)) x (ctxMask off))
    if off = 0x50 then s1.settleMig v else s1

/-- An ownership register, or a table without enforcement beyond its value: SOWN, SBANK, VOWN, FSLOT, CHW (R313, R314). -/
def State.writeOwner (s : State) (pa : Nat) (x : Double) : State :=
  if pa < 0x080300000000 then
    let known := (pa < 0x080100010000 && (pa - 0x080100000000) / 8 < 7680)
      || (0x080100010000 ≤ pa && pa < 0x080200000000 && (pa - 0x080100010000) / 8 < 7680)
      || (0x080200000000 ≤ pa && (pa - 0x080200000000) / 0x80 < 384)
    if !known then s
    else if s.ownerBlocked pa x.toNat then s.logStim
    else s.setReg pa (if pa < 0x080100010000 then x &&& 0xFFFFFFFF#64 else x)
  else if pa < 0x080300000040 then s.setReg pa x
  else s

/-- REGISTER_WRITE (R312): a register without behaviour of its own takes its writable fields; the access must be allowed. -/
def execRegisterWrite (s : State) : Host.Outcome State Fault Refusal :=
  let pa := s.wr.pa
  let x := s.wr.value
  .next (if !s.wrAllowed then s
    else if 2 ^ 53 ≤ pa then
      let node := (pa - 2 ^ 53) / 1024
      let idx := (pa - 2 ^ 53) % 1024
      if s.wr.agent = .mgmt && ringExists node idx && isWlc node idx then s.writeWlc node idx x.toNat else s
    else if 0x080B00000000 ≤ pa then
      if pa < 0x080B04000000 && pa % 0x10000 < 0x800 then s.writeSup ((pa - 0x080B00000000) / 0x10000) (0x100 + pa % 0x10000 / 8) x else s
    else if 0x080900000000 ≤ pa && pa < 0x080A00000000 then
      if s.isQdbg then s.writeQdbg else s.writeHclm
    else if 0x080700000000 ≤ pa then s.writeOther pa x
    else if 0x080600000000 ≤ pa then
      if pa < 0x080600040000 then s.writeCtx ((pa - 0x080600000000) / 0x100) (pa % 0x100) x else s
    else if 0x080500000000 ≤ pa then
      if pa < 0x080500000C00 && pa % 0x40 = 0 then s.writePctl ((pa - 0x080500000000) / 0x40) x else s
    else if 0x080400000000 ≤ pa then s.writePort pa x
    else if 0x080100000000 ≤ pa then s.writeOwner pa x
    else s.logStim)

/-! ### Partitions (R316) -/

/-- A partition has a flume unit in every cluster's frame and a DRAM slot (R316). -/
def State.partFit (s : State) (p : Nat) : Bool :=
  let owns (pa : Nat) : Bool := (List.range 8).any (fun j => s.field pa (8 * j) 8 = p)
  (List.range 384).all (fun c => (List.range 8).any (fun i => owns (vownAt c (i + 8)))) && (List.range 8).any (fun i => owns (chwAt i))

/-- The partition whose PCTL the write in progress is to. -/
def State.wrPart (s : State) : Option Nat :=
  let p := (s.wr.pa - 0x080500000000) / 0x40
  if s.wrAllowed && 0x080500000000 ≤ s.wr.pa && p < 48 then some p else none

/-- PARTITION_ENABLE (R316). -/
def execPartitionEnable (s : State) : Host.Outcome State Fault Refusal :=
  .next (match s.wrPart with
    | none => s
    | some p => if s.partFit p then (s.writePctl p s.wr.value).setField (pctlAt p) 0 1 1 else s.logStim)

/-- PARTITION_DISABLE (R316, R333): every function of the partition is torn down. -/
def execPartitionDisable (s : State) : Host.Outcome State Fault Refusal :=
  .next (match s.wrPart with
    | none => s
    | some p => ((s.writePctl p s.wr.value).tearPartition p).setField (pctlAt p) 0 1 0)

/-! ### Functions (R318, R332, R333) -/

/-- A write that sets EN is refused: the partition, the key slot, or another function of the partition stands against it
(R318, R455). -/
def State.enableBlocked (s : State) (v : Nat) : Bool :=
  let others (p : Nat → Bool) : Bool := (List.range 1024).any (fun w => w ≠ v && s.vfEnabled w && p w)
  let same (w : Nat) : Bool := s.vfPart w = s.vfPart v
  48 ≤ s.vfPart v || !s.partEnabled (s.vfPart v) || s.vfKey v = 0 || s.keyDead.contains (s.vfKey v)
    || others (fun w => s.vfKey w = s.vfKey v)
    || (s.vfMode v = 0 && others same) || (s.vfMode v = 1 && others (fun w => same w && s.vfMode w = 0))

/-- The sweep before a slot's epoch returns to 0: its lines become zero bytes that match no slot; tags and labels stay (R74). -/
def State.sweep (s : State) (k : Nat) : State :=
  let mine (m : VaultMark) : Bool := match m with
    | .key x _ => x = k
    | _ => false
  let gone := s.vmeta.filterMap (fun p => if mine p.2 then some p.1 else none)
  { s with
      mem := s.mem.filterT (fun a _ => !(isVault a && mine (s.vaultMark (a / 64))))
      vmeta := gone.foldl (fun m line => m.put (.key 0 0) line .dead) s.vmeta }

/-- Fill a key slot afresh and advance its epoch, after a sweep when it returns to 0 (R74, R332). -/
def State.fillKey (s : State) (k : Nat) : State :=
  let e := (s.epoch k + 1) % 64
  let s1 := if e = 0 then s.sweep k else s
  { s1 with keySlots := s1.keySlots.insert k (Config.randomKey s.tick), keyEpoch := s1.keyEpoch.put 0 k e }

/-- The function whose VCTL the write in progress is to. -/
def State.wrVctl (s : State) : Option Nat := if s.wrCtx then s.wrVf else none

/-- VF_ENABLE (R318, R332, R437, R438); held while the management core is down (R459). -/
def execVfEnable (s : State) : Host.Outcome State Fault Refusal :=
  .next (match s.wrVctl with
    | none => s
    | some v =>
      if s.mgmtDown then { s with mgmt := { s.mgmt with held := s.mgmt.held ++ [⟨.vfEnable, s.stim⟩] } }
      else
        let s1 := s.writeVctl v s.wr.value
        if s1.enableBlocked v then s.logStim
        else
          let s2 := (s1.resetRegs (runningRegs v)).fillKey (s1.vfKey v)
          ({ s2 with functions := s2.functions.insert v Function.empty }).setField (ctxAt v 0) 0 1 1)

/-- VF_TEARDOWN (R333). -/
def execVfTeardown (s : State) : Host.Outcome State Fault Refusal :=
  .next (match s.wrVctl with
    | none => s
    | some v => (s.writeVctl v s.wr.value).tearDown v)

/-! ### CIRCUIT_DISABLE (R438) -/

/-- CIRCUIT_DISABLE (R438): egress of the circuit stops at the burst boundary, its bursts complete with CODE 0x06, and reset
notices are sent. A write that would also change the function of a circuit that carries bursts is ignored and logged (R312). -/
def execCircuitDisable (s : State) : Host.Outcome State Fault Refusal :=
  let pa := s.wr.pa
  let n := (pa - 0x080400000000) / 0x200
  let i := (pa % 0x200 - 0x100) / 16
  .next (if !s.wrAllowed || 96 ≤ n then s
    else if bits s.wr.value.toNat 0 10 ≠ s.field pa 0 10 && s.circuitBusy n i then s.logStim
    else
      let v := s.field pa 0 10
      let mine (b : Burst) : Bool := b.port = n && b.circuit = i
      let s1 := (s.burstsOf (fun b => b.vf = v && mine b)).foldl (fun s b => s.tokensDown b.2.threads b.2.tok 0x06 0 b.2.label) s
      (s1.stopEgress v mine).2.2.writePort pa s.wr.value)

/-! ### FRAME_ZERO (R325) -/

/-- FRAME_ZERO (R325): every byte and tag of a frame is 0, its granules take one label, vault lines take the zero mark, bad
marks clear (R448), and no copy is left. -/
def execFrameZero (s : State) : Host.Outcome State Fault Refusal :=
  let v := s.wr.value.toNat
  let f := bits v 0 36
  let base := f * 0x10000
  let lab : Label := if bit v 42 then 0 else Label.origin (bits v 36 6)
  let inFrame (a : Nat) : Bool := a / 0x10000 = f
  .next (if !s.wrAllowed then s
    else if !(s.isDram base || isVault base) then s.logStim
    else
      let tagBase := 0x1F800000000 + base / 64
      let mem1 := s.mem.filterT (fun a _ => !inFrame a && !(!isVault base && tagBase ≤ a && a < tagBase + 1024))
      let s1 : State := { s with
        mem := mem1
        vtags := s.vtags.filterT (fun k _ => !inFrame (32 * k))
        lines := s.lines.filterT (fun k _ => !inFrame (64 * (k / 512)))
        l1 := s.l1.filter (fun k => !inFrame (64 * (k / 8192)))
        reservations := s.reservations.filterT (fun _ line => !inFrame (64 * line))
        backing := s.backing.filterT (fun k _ => !inFrame (64 * k))
        badSectors := s.badSectors.filter (fun k => !inFrame (32 * k))
        threads := s.threads.mapVals (fun _ t => match t.wait with
          | .word line _ => if inFrame (64 * line) then t.wake else t
          | _ => t) }
      if isVault base then
        { s1 with
            vmeta := (List.range 1024).foldl (fun m i => m.put (.key 0 0) (base / 64 + i) .zero) s1.vmeta
            vlabels := (List.range 16).foldl (fun m i => m.put 0#64 (base / 4096 + i) lab) s1.vlabels }
      else s1.setLabelAt base lab)

end Sys2Proof.Machine
end

