-- ==== Sys2Proof/Machine/Failure.lean ====
section
/-!
DEFINITION. Soft errors and scrubbing (R446 to R449), the mesh (R450), coherence timeouts and flume messages (R86, R87, R98,
R452), the flume's light (R453, R454), DRAM retirement (R456) and the optical ports' guarantees (R457).
-/

namespace Sys2Proof.Machine

/-! ### Flume messages (R87, R98) -/

/-- A line of memory. -/
def State.isLine (s : State) (line : Nat) : Bool := s.isDram (64 * line) || isVault (64 * line)

/-- FLUME_RDS (R87). -/
def execFlumeRds (cluster line : Nat) (s : State) : Host.Outcome State Fault Refusal :=
  .next (if !isAgent cluster || !s.isLine line || (s.moesi cluster line).isSome then s else flumeRdS s cluster line)

/-- FLUME_RDX (R87): the requester takes the line to write it. -/
def execFlumeRdx (cluster line : Nat) (s : State) : Host.Outcome State Fault Refusal :=
  .next (if !isAgent cluster || !s.isLine line then s else flumeRdX (s.keepBacking line) cluster line)

/-- FLUME_UPG (R87): a holder of the line takes it to write it. -/
def execFlumeUpg (cluster line : Nat) (s : State) : Host.Outcome State Fault Refusal :=
  .next (match s.moesi cluster line with
    | some .s => flumeUpg (s.keepBacking line) cluster line
    | some .o => flumeUpg (s.keepBacking line) cluster line
    | _ => s)

/-- FLUME_WB (R87). -/
def execFlumeWb (cluster line : Nat) (s : State) : Host.Outcome State Fault Refusal := .next (flumeWb s cluster line)

/-- FLUME_WST (R98, R284): the oldest window store on a cluster's channel completes its lap. -/
def execFlumeWst (cluster : Nat) (s : State) : Host.Outcome State Fault Refusal := .next (s.lapOne cluster)

/-- The key of a request in the timeout table. -/
def timeoutKey (r : Requester) (tag : Nat) : Nat :=
  match r with
  | .stand k => 2 * (k * 2 ^ 32 + tag % 2 ^ 32)
  | .host h => 2 * (h * 2 ^ 32 + tag % 2 ^ 32) + 1

/-- COHERENCE_TIMEOUT (R452): a first timeout sends the request again; a second fails the stand, or faults the host core, and is
recorded with the line's home cluster (R59). -/
def execCoherenceTimeout (requester : Requester) (tag home : Nat) (s : State) : Host.Outcome State Fault Refusal :=
  let k := timeoutKey requester tag
  .next (if 384 ≤ home then s else match s.timeouts.get? k with
    | none => { s with timeouts := s.timeouts.insert k 1 }
    | some _ =>
      let s1 := { s with timeouts := s.timeouts.erase k }
      let s2 := match requester with
        | .stand st => s1.failStand st 0xE0 none false
        | .host h => { s1 with outputs := s1.outputs ++ [Output.hostData h none] }
      s2.logError 0x40 1 (match requester with
        | .stand st => min 0x3FF (s.vfOf st)
        | .host _ => 0x3FF) 0 s.noLoc 1 home)

/-! ### Uncorrectable errors (R448) -/

/-- Mark a sector bad. -/
def State.markBad (s : State) (l : Loc) : State :=
  match l with
  | .pa a => if s.badOf l then s else { s with badSectors := insertNat (a / 32) s.badSectors }
  | .sp k o => if s.badOf l then s else s.updStand k (fun st => { st with bad := insertNat (o / 32) st.bad })

/-- Record a contained error: KIND of the store's row in R447, with the function, address and site (R446). -/
def State.logContained (s : State) (kind vf pa loc : Nat) : State := s.logError kind 1 (if vf < 1024 then vf else 0x3FF) pa loc 1 ((s.free 56).toNat)

/-- The site of a slot, quadrant or stand key. -/
def State.siteOfStand (s : State) (k : Nat) : Nat :=
  match s.stands.get? k with
  | some st => st.core
  | none => s.noLoc

/-- The site where an address of memory answers: the entry site of its DRAM channel (R21, R58), or the vault port of its line
(R59). -/
def State.siteOfPa (s : State) (pa : Nat) : Nat :=
  if isVault pa then s.vaultPort (homeOf (pa / 64)) ((pa - 0x40000000000) % 0x4000000 / 64) else s.entrySite (channelOf pa)

/-- The bank and row of a scratchpad offset, among the banks that a partition owns on a core (R67). -/
def State.spPlace (s : State) (core part off : Nat) : Nat × Nat :=
  let bs := s.banks core part
  (bs.getD (off / 64 % bs.length) 0, off / 64 / bs.length)

/-- The scratchpad lines, by stand and offset, that lie in a bank and row of a core (R67). -/
def State.spLines (s : State) (core bank row : Nat) : List (Nat × Nat) :=
  s.stands.filterMap (fun p =>
    let bs := s.banks core (s.vfPart p.2.vf)
    match bs.findIdx? (· = bank) with
    | some i =>
      let off := 64 * (row * bs.length + i)
      if p.2.core = core && p.2.holds && off < 1024 * p.2.kib then some (p.1, off) else none
    | none => none)

/-- An error in a cached line: a dirty line is written back with its bad sectors marked, a clean copy is dropped (R448). -/
def State.writeBackBad (s : State) (agent line : Nat) (bad : List (Fin 2)) : State :=
  match s.moesi agent line with
  | some .m => bad.foldl (fun s i => s.markBad (.pa (64 * line + 32 * i.val))) (flumeWb s agent line)
  | some .o => bad.foldl (fun s i => s.markBad (.pa (64 * line + 32 * i.val))) (flumeWb s agent line)
  | _ => s.setMoesi agent line none

/-- A DRAM channel fails: in process at once when nothing is, with WTOP and KIND 0x30; otherwise it waits (R456, R460). -/
def State.channelFailing (s : State) (ch : Nat) : State :=
  if s.retired.contains ch || s.failing.contains ch || (s.field (errAt 0x20) 10 2 ≠ 0 && s.field (errAt 0x20) 0 10 = ch) then s
  else if s.field (errAt 0x20) 10 2 ≠ 0 then { s with failing := s.failing ++ [ch] }
  else
    let top := dramTop - withdrawn (s.retired.length + 1)
    (s.setReg (errAt 0x20) (BitVec.ofNat 64 (ch + 2 ^ 10 + bits top 16 36 * 2 ^ 16))).logError 0x30 3 0x3FF 0 s.noLoc 1 ch

/-- A channel that fails outright before its relocation has all its sectors marked bad, and is retired like any other (R456). -/
def State.channelLost (s : State) (ch : Nat) : State :=
  let relocating := s.field (errAt 0x20) 10 2 = 2 && s.field (errAt 0x20) 0 10 = ch
  if 1024 ≤ ch || s.retired.contains ch || relocating then s
  else State.channelFailing { s with
    badSectors := (List.range (2 ^ 36)).filter (fun x => channelOf (32 * x) = ch || s.badSectors.contains x)
      ++ s.badSectors.filter (2 ^ 36 ≤ ·) } ch

/-- UNCORRECTABLE_ERROR (R448): the smallest unit that holds the error contains it. -/
def execUncorrectableError (place : ErrorPlace) (s : State) : Host.Outcome State Fault Refusal :=
  .next (match place with
    | .sector pa =>
      if s.isDram pa || isVault pa then (s.markBad (.pa pa)).logContained (if isVault pa then 5 else 6) 0x3FF (pa / 32 * 32) (s.siteOfPa pa) else s
    | .l1Line core line bad =>
      if s.l1.contains (l1Key core line) then (s.writeBackBad (clusterOf core) line bad).logContained 3 0x3FF (64 * line) core else s
    | .l2Line agent line bad =>
      if (s.moesi agent line).isSome then (s.writeBackBad agent line bad).logContained 4 0x3FF (64 * line) s.noLoc else s
    | .spSector k o => (s.markBad (.sp k o)).logContained 2 (s.vfOf k) 0 (s.siteOfStand k)
    | .bankSector core bank sector =>
      let ls := s.spLines core bank (sector / 2)
      (ls.foldl (fun s p => s.markBad (.sp p.1 (p.2 + 32 * (sector % 2)))) s).logContained 2
        (match ls with
          | p :: _ => s.vfOf p.1
          | [] => 0x3FF) 0 core
    | .memLabel pa =>
      if s.isDram pa || isVault pa then
        (s.setLabelAt pa (BitVec.allOnes 64)).logContained (if isVault pa then 7 else 6) 0x3FF (pa / 4096 * 4096) (s.siteOfPa pa)
      else s
    | .spLabel k o => (s.raiseLabel (.sp k o) (BitVec.allOnes 64)).logContained 7 (s.vfOf k) 0 (s.siteOfStand k)
    | .register t =>
      let k := t / 16384
      (s.failStand k 0xE0 none false).logContained 1 (s.vfOf k) 0 (s.siteOfStand k)
    | .matrix q => match (s.quadAt q).matrix.owner with
      | some k => (s.failStand k 0xE0 none false).logContained 8 (s.vfOf k) 0 (q / 4)
      | none => s
    | .regLabel sk r => (s.updSlot sk (fun sl => sl.setRegLabel (r % 256) (BitVec.allOnes 64))).logContained 1
        (s.vfOf (s.slotAt sk).stand) 0 (sk / 64)
    | .keySlot k =>
      let vs := (List.range 1024).filter (fun v => s.vfEnabled v && s.vfKey v = k)
      let s1 := vs.foldl State.tearDown s
      ({ s1 with keyDead := insertNat k s1.keyDead }).logError 0x0A 1 (vs.headD 0x3FF) 0 s.noLoc 1 k
    | .channel c => s.channelLost c)

/-! ### Corrected errors and scrubbing (R446, R449) -/

/-- ERROR_FOLD_EXPIRE (R446, R455): one record with the window's count. -/
def execErrorFoldExpire (fold : Nat) (s : State) : Host.Outcome State Fault Refusal :=
  .next (match s.folds.get? fold with
    | none => s
    | some f => ({ s with folds := s.folds.erase fold }).logError f.kind (if f.kind = 0x0B then 3 else 0) f.vf f.pa f.loc f.cnt f.info.toNat)

/-- DRAM_SCRUB (R449): a corrected sector of the channel (R58) is counted; 256 in one pass declare the channel failing. -/
def execDramScrub (channel sector : Nat) (corrected lastOfPass : Bool) (s : State) : Host.Outcome State Fault Refusal :=
  .next (if 1024 ≤ channel || 2 ^ 41 ≤ 32 * sector || channelOf (32 * sector) ≠ channel then s
    else
      let n := s.channelErrors.getD channel 0 + (if corrected then 1 else 0)
      let s1 := if corrected then s.foldError 6 (32 * sector) (s.entrySite channel) ((s.free 56).toNat) else s
      let s2 := { s1 with channelErrors := s1.channelErrors.put 0 channel (if lastOfPass then 0 else n) }
      if corrected && n = 256 then s2.channelFailing channel else s2)

/-- What a vault row remembers: bit 0, an error corrected in this pass; bit 1, one in the pass before. -/
def rowKey (cluster line : Nat) : Nat := cluster * 2 ^ 14 + line / 64

/-- The spare rows that a vault has left of its 64 (R449). -/
def State.sparesLeft (s : State) (cluster : Nat) : Nat := 64 - s.rowSpares.getD cluster 0

/-- A row that corrected errors in two passes running is copied to a spare row and remapped, which no program observes (R449). -/
def State.remapRow (s : State) (cluster row : Nat) : State :=
  if s.sparesLeft cluster = 0 then s
  else
    let s1 := { s with rowSpares := s.rowSpares.insert cluster (s.rowSpares.getD cluster 0 + 1), rowErrors := s.rowErrors.erase row }
    s1.foldError 0x0C 0 s.noLoc (s1.sparesLeft cluster)

/-- VAULT_SCRUB (R449): `line` is the line's number in its vault. -/
def execVaultScrub (cluster line : Nat) (corrected lastOfPass : Bool) (s : State) : Host.Outcome State Fault Refusal :=
  .next (if 384 ≤ cluster || 2 ^ 20 ≤ line then s
    else
      let row := rowKey cluster line
      let old := s.rowErrors.getD row 0
      let s1 := if corrected then
          { (s.foldError 5 (0x40000000000 + cluster * 0x4000000 + 64 * line) (s.vaultPort cluster line) ((s.free 56).toNat)) with
              rowErrors := s.rowErrors.put 0 row (old ||| 1) }
        else s
      let s2 := if corrected && bit old 1 then s1.remapRow cluster row else s1
      if lastOfPass then
        { s2 with rowErrors := (s2.rowErrors.mapVals (fun k x => if k / 2 ^ 14 = cluster then (x % 2) * 2 else x)).filterT (fun _ x => x ≠ 0) }
      else s2)

/-- SCRATCHPAD_SCRUB (R449): corrected data is written back, and counted. -/
def execScratchpadScrub (core bank line : Nat) (corrected : Bool) (s : State) : Host.Outcome State Fault Refusal :=
  .next (if 7680 ≤ core || 32 ≤ bank || 512 ≤ line || !corrected then s else s.foldError 2 0 core ((s.free 56).toNat))

/-! ### DRAM retirement (R456) -/

/-- CHANNEL_ACK (R456, R460): ACK stays set until the relocation that begins has ended, and the range from WTOP is withdrawn
(notes/assumptions 49). -/
def execChannelAck (s : State) : Host.Outcome State Fault Refusal :=
  .next (if !s.wrAllowed then s
    else if s.field (errAt 0x20) 10 2 ≠ 1 then s.logStim
    else (s.setField (errAt 0x20) 10 2 2).setField (errAt 0x20) 12 1 1)

/-- RELOCATION_COMPLETE (R456): the map marks the channel, and a channel that waited comes into process. -/
def execRelocationComplete (s : State) : Host.Outcome State Fault Refusal :=
  .next (if s.field (errAt 0x20) 10 2 ≠ 2 then s
    else
      let ch := s.field (errAt 0x20) 0 10
      let s1 := ({ s with retired := insertNat ch s.retired }).setField (errAt 0x20) 10 3 0
      let s2 := s1.publish.logError 0x31 3 0x3FF 0 s.noLoc 1 ch
      match s2.failing with
      | [] => s2
      | c :: cs => ({ s2 with failing := cs }).channelFailing c)

/-! ### The mesh (R450) -/

/-- The number of a mesh port: N, E, S, W. -/
def portDir (p : MeshPort) : Nat :=
  match p with
  | .north => 0
  | .east => 1
  | .south => 2
  | .west => 3

/-- LINK_RETRY (R446, R450). -/
def execLinkRetry (site : Nat) (port : MeshPort) (s : State) : Host.Outcome State Fault Refusal :=
  let k := 4 * site + portDir port
  .next (if 7680 ≤ site then s
    else
      let s1 := { s with linkRetries := s.linkRetries.put 0 k (s.linkRetries.getD k 0 + 1) }
      s1.foldError 0x10 0 site (portDir port))

/-- A grid has a stand on one of two sites, or a circuit over the link between them. -/
def State.gridOver (s : State) (k : Nat) (g : Grid) (a b : Nat) : Bool :=
  s.stands.any (fun p => p.2.grid = k && !isHandler p.1 && !p.2.exited && (p.2.core = a || p.2.core = b))
    || ((g.state = .placing || g.state = .placed) && (s.gridLinks g).any (fun l => l = (a, b) || l = (b, a)))

/-- LINK_DOWN (R450): the grids on both endpoints or over the link fail; routers that fail their test are retired; the new map is
published. The test of a site that a retest is due on is that retest (R460). -/
def execLinkDown (site : Nat) (port : MeshPort) (okHere okThere : Bool) (s : State) : Host.Outcome State Fault Refusal :=
  .next (match hopFrom site (portDir port) with
    | none => s
    | some other =>
      if s.linkRetries.getD (4 * site + portDir port) 0 < 16 || 7680 ≤ site then s
      else
        let hit := s.grids.filterMap (fun p => if p.2.state ≠ .ended && s.gridOver p.1 p.2 site other then some p.1 else none)
        let s1 := hit.foldl (fun s k => s.failGrid k ⟨0xE0, none, false, 0⟩) s
        let s2 := { s1 with linkRetries := s1.linkRetries.erase (4 * site + portDir port) }
        let good (ok : Bool) (x : Nat) : Bool := ok || s2.retests.any (fun r => r.1 = x)
        let here := good okHere site
        let there := good okThere other
        let s3 := s2.logError 0x11 1 0x3FF 0 site 1 (if here then s2.siteState site else 2)
        let s4 := if here then s3 else s3.retire site 2
        let s5 := if there then s4 else (s4.logError 0x11 1 0x3FF 0 other 1 2).retire other 2
        if here && there then s5.publish else s5)

/-! ### The flume's light (R453, R454) -/

/-- A spare is free when the map does not name it and it has not failed. -/
def State.spareFree (s : State) (w wl : Nat) : Bool :=
  !(fmapList (s.fmap w)).contains wl && bits (s.ringReg w wl).toNat 5 1 = 0 && bits (s.ringReg w wl).toNat 2 1 = 0

/-- Bring a wavelength to LOCK and TDONE at the transmitter and every landing of its waveguide (R453). -/
def State.light (s : State) (w wl : Nat) : State :=
  let on (r : Double) : Double := putField (putField (putField r 0 1 1) 1 1 1) 4 1 1
  (w :: (List.range 12).map (fun g => 256 + 12 * w + g)).foldl (fun s n => s.setRing n wl (on (s.ringReg n wl))) s

/-- Replace a wavelength in a map. -/
def remap (m old new : Nat) : Nat :=
  ((List.range 32).zip (fmapList m)).foldl (fun n p => n + (if p.2 = old then new else p.2) * 2 ^ (6 * p.1)) 0

/-- MARGIN_ALARM (R453): a heater code of 248 or more, or of 7 or less, moves the wavelength to the lowest free spare at a frame
boundary; with no spare left it runs on. A stopped device ignores it (R460). -/
def execMarginAlarm (waveguide wavelength : Nat) (heater : Byte) (s : State) : Host.Outcome State Fault Refusal :=
  .next (if s.bringUp = 15 || 48 ≤ waveguide || !(fmapList (s.fmap waveguide)).contains wavelength || (7 < heater.toNat && heater.toNat < 248) then s
    else match (List.range 36).find? (s.spareFree waveguide) with
      | none => s.logError 0x22 3 0x3FF 0 waveguide 1 waveguide
      | some new =>
        let s1 := s.light waveguide new
        let s2 := s1.setRing waveguide wavelength (putField (putField (s1.ringReg waveguide wavelength) 4 1 0) 5 1 1)
        (s2.setFmap waveguide (remap (s2.fmap waveguide) wavelength new)).foldError 0x20 0 waveguide (wavelength + new * 2 ^ 6))

/-- LOCK_LOST (R454): a fatal stop. -/
def execLockLost (node wavelength : Nat) (s : State) : Host.Outcome State Fault Refusal :=
  .next ((s.logError 0x21 2 0x3FF 0 node 1 wavelength).fatalStop)

/-! ### Optical guarantees (R457) -/

/-- A wavelength of a port has lost its training. -/
def State.untrain (s : State) (port wl : Nat) : State :=
  s.setRing (64 + port) wl (putField (s.ringReg (64 + port) wl) 4 1 0)

/-- A trained wavelength that the lane map does not name. -/
def State.portSpare (s : State) (port : Nat) (want : Nat → Bool) : Option Nat :=
  (List.range 11).find? (fun wl => !((List.range 9).map (s.laneMap port)).contains wl && want wl)

/-- Map a lane onto a wavelength. -/
def State.mapLane (s : State) (port lane wl : Nat) : State := s.setRing (64 + port) 16 (putField (s.ringReg (64 + port) 16) (4 * lane) 4 wl)

/-- GUARANTEE_LAPSE (R457): a data lane fails in service, or the control lane does and moves to a passing spare or takes the port
down, whose commands complete with CODE 0x08. -/
def execGuaranteeLapse (port : Nat) (control : Bool) (lane : Nat) (s : State) : Host.Outcome State Fault Refusal :=
  .next (if 96 ≤ port || (!control && 8 ≤ lane) then s
    else
      let l := if control then 8 else lane
      let s1 := s.untrain port (s.laneMap port l)
      if !control then State.settleGuarantee s port s1
      else match s1.portSpare port (fun wl => s1.trained (64 + port) wl) with
        | some wl => s1.mapLane port 8 wl
        | none =>
          let s2 := s1.logError 0x51 3 0x3FF 0 (64 + port) 1 (s1.trainedLanes port)
          let bs := s2.burstsOf (fun b => b.port = port)
          { (bs.foldl (fun s b => s.endBurst b.1 0x08 (BitVec.ofNat 16 port)) s2) with portQueues := s2.portQueues.erase port })

/-- Retrain one untrained data lane: onto the lowest spare, or on its own wavelength when none is left (R457). -/
def State.retrainLane (s : State) (port lane : Nat) : State :=
  if s.trained (64 + port) (s.laneMap port lane) || s.field (portAt port + 8) 0 4 ≤ s.trainedLanes port then s
  else
    let wl := (s.portSpare port (fun _ => true)).getD (s.laneMap port lane)
    let on : Double := putField (putField (putField (s.ringReg (64 + port) wl) 0 1 1) 1 1 1) 4 1 1
    (s.setRing (64 + port) wl on).mapLane port lane wl

/-- GUARANTEE_RESTORED (R457): retraining brings the lanes back to GLN, and KIND 0x52 is written. -/
def execGuaranteeRestored (port : Nat) (s : State) : Host.Outcome State Fault Refusal :=
  .next (if 96 ≤ port || !s.lapsed port then s
    else State.settleGuarantee s port ((List.range 8).foldl (fun s l => s.retrainLane port l) s))

end Sys2Proof.Machine
end

