-- ==== Sys2Proof/Machine/HostAccess.lean ====
section
/-!
DEFINITION. What a host core does to the device's memory, one access at a time (R12, R79, R88, R295, R312, R321, R322, R404): the
access's physical address, size, mode and bytes come from outside (notes/assumptions 24), and the bytes read, or an access fault,
are an output. And the two ways in which the words that a thread meets are no instruction (R106, R125).
-/

namespace Sys2Proof.Machine

/-- Whether a host core runs: step HOST has released it, and it is in service (R378, R387). -/
def State.hostRuns (s : State) (h : Nat) : Bool := h < 96 && !s.hostHeld && !s.agentsOut.contains h

/-- The host core acts for no origin: HORG.NONE (R321). -/
def State.hostNone (s : State) (h : Nat) : Bool := s.field (horgAt h) 6 1 = 1

/-- The origin label of a host core: {ORG}, or the empty label under NONE (R321, R322). -/
def State.hostLabel (s : State) (h : Nat) : Label := if s.hostNone h then 0#64 else Label.origin (s.field (horgAt h) 0 6)

/-- Whether a host core may read what carries a label (R322). -/
def State.hostMayRead (s : State) (h : Nat) (l : Label) : Bool := l.subset (s.hostLabel h)

/-- Answer a host core's access. -/
def State.answerHost (s : State) (h : Nat) (d : Option (List Byte)) : State :=
  { s with outputs := s.outputs ++ [Output.hostData h d] }

/-- Whether a host core's access to device registers is refused: they are the hypervisor's (R312). -/
def State.hostBarred (s : State) (h pa : Nat) : Bool := hypervisorOnly pa && !s.hostNone h

/-- The core's number in an access of a host core that the host caches; an NC access has none (R75, R88). -/
def hostWho (m : HostMode) (h : Nat) : Option Nat := if m.nc then none else some (8192 + h)

/-- The bytes that an address range spans performs as reads, line by line (R86, R88). -/
def State.hostReads (s : State) (who : Option Nat) (key pa size : Nat) : State :=
  (lineStarts pa size).foldl (fun s a => s.performRead who key (.pa a)) s

/-- The operation of R219 that a host core's AMO is (PRESUMED: the RISC-V A extension, notes/assumptions 45). -/
def hostAmoOp (a : HostAmo) : Nat :=
  match a with
  | .swap => 0
  | .add => 1
  | .min => 2
  | .max => 3
  | .minu => 4
  | .maxu => 5
  | .and => 6
  | .or => 7
  | .xor => 8

/-- An LR, SC or AMO takes an aligned word or double (PRESUMED, notes/assumptions 45). -/
def hostAtomic (pa n : Nat) : Bool := (n = 4 || n = 8) && pa % n = 0

/-- Whether a read is a marked one of R79 that must be aligned. -/
def hostReadAtomic (r : HostRead) : Bool :=
  match r with
  | .plain => false
  | _ => true

/-- What a host core's read leaves beside the bytes it answers: a reservation of the line for LR, the new value for AMO (R79,
R88; notes/assumptions 45). -/
def State.hostAfterRead (s : State) (h pa size : Nat) (mode : HostMode) (old : Nat) (r : HostRead) : State :=
  match r with
  | .plain => s
  | .lr => { s with reservations := s.reservations.insert h (pa / 64) }
  | .amo a x =>
    let new := (atomOp (hostAmoOp a) (if size = 4 then 4 else 8) old (x % 2 ^ (8 * size))).getD old
    s.perform (hostWho mode h) mode.key (.pa pa) (leBytes size new) (s.hostLabel h)

/-- Bafin has released the host cores by a host core's first access in STATE 5 or 6 (R379; notes/assumptions 31). -/
def State.hostStarts (s : State) : State := if s.bringUp = 5 || s.bringUp = 6 then s.releaseHosts else s

/-- HOST_LOAD (R79, R88, R322): a load, fetch, page-table walk, LR or AMO of a host core, under the key slot of its own stage
two (R73). It answers the bytes, or an access fault: where nothing answers, where the label does not fit the origin, in a bad
sector (R448), and at the hypervisor's registers outside hypervisor mode (R312). Device registers take plain loads only. -/
def execHostLoad (hart : Nat) (op : HostLoadOp) (size : Nat) (s : State) : Host.Outcome State Fault Refusal :=
  let s := s.hostStarts
  let pa := op.pa
  let mode := op.mode
  let read := op.read
  .next (
    if !s.hostRuns hart || size = 0 then s
    else if !(s.exists? pa && s.exists? (pa + size - 1)) || s.hostBarred hart pa || (hostReadAtomic read && !hostAtomic pa size) then
      s.answerHost hart none
    else if isDevice pa then
      let d := s.deviceRead (.host hart) pa size
      if hostReadAtomic read then s.answerHost hart none
      else (s.noteRead (.host hart) pa size).answerHost hart (if s.hostMayRead hart d.2 then some (leBytes size d.1) else none)
    else
      let l := Loc.pa pa
      if !s.hostMayRead hart (s.labelSpan mode.key (s.hostLabel hart) l size) || s.badSpan l size then s.answerHost hart none
      else
        let old := s.bytesOf mode.key l size
        ((s.hostReads (hostWho mode hart) mode.key pa size).hostAfterRead hart pa size mode (leNat old) read).answerHost hart (some old))

/-- A host core's store to a launch-port page: one aligned 64-byte store to the window submits a launch, and every other
store is dropped and logged (R295). -/
def State.hostLaunch (s : State) (hart pa : Nat) (data : List Byte) : State :=
  let v := (pa - launchAt 0) / 0x10000
  if pa = launchAt v && data.length = 64 && v < 1024 then
    { s with inputs := ⟨.launchSubmit hart v data, .none⟩ :: s.inputs }
  else s.logIgnored pa true (.host hart)

/-- Whether a host core's SC succeeds: its LR reserved the line, which nothing has written since (R79; notes/assumptions 45). -/
def State.hostReserved (s : State) (h pa : Nat) : Bool := s.reservations.get? h = some (pa / 64)

/-- An SC ends its core's reservation, and answers 0, or 1 where it fails and stores nothing (PRESUMED, notes/assumptions 45). -/
def State.answerSc (s : State) (h : Nat) (ok : Bool) : State :=
  { s with reservations := s.reservations.erase h }.answerHost h (some [if ok then 0#8 else 1#8])

/-- HOST_STORE (R79, R88, R322): a store or SC of a host core. The granules rise by {ORG}, or keep their labels under NONE. A
write of part of a bad sector is an access fault (R448). -/
def execHostStore (hart : Nat) (op : HostStoreOp) (data : List Byte) (s : State) : Host.Outcome State Fault Refusal :=
  let s := s.hostStarts
  let pa := op.pa
  let mode := op.mode
  let sc := op.sc
  let n := data.length
  .next (
    if !s.hostRuns hart || n = 0 then s
    else if !(s.exists? pa && s.exists? (pa + n - 1)) || s.hostBarred hart pa || (sc && !hostAtomic pa n) then s.answerHost hart none
    else if isDevice pa then
      if sc then s.answerHost hart none
      else if pa < launchAt 1024 then s.hostLaunch hart pa data
      else s.deviceWrite (.host hart) pa data (s.hostLabel hart)
    else
      let l := Loc.pa pa
      if s.partialBad l n then s.answerHost hart none
      else if !sc then s.perform (hostWho mode hart) mode.key l data (s.hostLabel hart)
      else if s.hostReserved hart pa then
        (s.perform (hostWho mode hart) mode.key l data (s.hostLabel hart)).answerSc hart true
      else s.answerSc hart false)

/-! ### Words that are no instruction -/

/-- UNASSIGNED_OPCODE (R125, R419): the executing lanes of the word's guard take ILL with INFO 0. -/
def execUnassignedOpcode (word : BitVec 64) (s : State) : Host.Outcome State Fault Refusal :=
  .next (s.issue (word.extractLsb' 49 1) (word.extractLsb' 46 3) (some (.plain 0x01 0)) (fun _ => s))

/-- CLAUSE_NOT_WELL_FORMED (R106): every lane of the group takes ILL with INFO 3 at index 0, and nothing of the clause runs. -/
def execClauseNotWellFormed (s : State) : Host.Outcome State Fault Refusal := .next (s.parkAll s.cur.lanes (.plain 0x01 3))

end Sys2Proof.Machine
end

