-- ==== Sys2Proof/Machine/Fetch.lean ====
section
/-!
DEFINITION. Fetching a clause and preparing one of its instructions for issue: header and body (R104, R105), the rules of a
well-formed clause (R106), program counters (R107), the clause wait (R108, R270), and faults on fetch (R149, R389, R448).
-/

namespace Sys2Proof.Machine

/-! ### Clauses -/

/-- An instruction as it lies in a clause: its offset from the header, whether it is a pair word, and its bytes (R104). -/
structure Placed where
  off : Nat
  pair : Bool
  bytes : List Byte
deriving DecidableEq, Repr

/-- Its opcode field; a pair word has none that counts. -/
def Placed.op (x : Placed) : Nat := leNat (x.bytes.take 8) / 2 ^ 54 % 1024

/-- The body of a clause cut at its instructions: `n` more from index `i` at an offset (R104). -/
def placedFrom (mask : Nat) : Nat → Nat → Nat → List Byte → List Placed
  | 0, _, _, _ => []
  | n + 1, i, off, bs =>
    let k := if bit mask i then 12 else 8
    ⟨off, bit mask i, bs.take k⟩ :: placedFrom mask n (i + 1) (off + k) (bs.drop k)

/-- Pair words of a header among its CNT + 1 instructions. -/
def headerPairs (h : Header) : Nat := popCount 16 (h.pair.toNat % 2 ^ (h.cnt.toNat + 1))

/-- The length of a clause's body in parcels, by CNT and PAIR (R104). -/
def bodyParcels (h : Header) : Nat := 2 * (h.cnt.toNat + 1) + headerPairs h

/-- The address of the clause after one at `a` (R104). -/
def nextClause (a : Nat) (h : Header) : Nat := (a + 8 + 4 * bodyParcels h + 7) / 8 * 8

/-- The engine class of an opcode: 0 GEN, 1 MTX, 2 ASY, 3 SYS; an unassigned opcode has none (R124, R125). -/
def engineClass (op : Nat) : Option Nat :=
  if op < 0x00E then some 0
  else if op < 0x018 then some 3
  else if op < 0x040 then none
  else if op < 0x070 then some 0
  else if op < 0x080 then none
  else if op < 0x0A4 then some 0
  else if op < 0x0C0 then none
  else if op < 0x0C8 then some 0
  else if op < 0x100 then none
  else if op < 0x11C then some 0
  else if op < 0x140 then none
  else if op < 0x14D then some 1
  else if op < 0x180 then none
  else if op < 0x18B then some 2
  else if op < 0x1C0 then none
  else if op < 0x1C6 then some 3
  else if op < 0x380 then none
  else if op < 0x3C0 then some 3
  else none

/-- The control transfers: BRA, CALL, RGRP, BRX, CALLX, RET, EXIT, TRAP, IRET, HALT (R106, R124). -/
def isTransfer (op : Nat) : Bool := [0x001, 0x002, 0x003, 0x004, 0x005, 0x006, 0x007, 0x00E, 0x00F, 0x017].contains op

/-- Whether an instruction is a control transfer. -/
def Placed.transfer (x : Placed) : Bool := !x.pair && isTransfer x.op

/-- Whether an instruction may stand in a clause of class `cls` (R106, R125). -/
def Placed.fits (cls : Nat) (x : Placed) : Bool :=
  if x.pair then cls = 0 else x.op ≠ 0x3FF && (match engineClass x.op with
    | some c => c = cls
    | none => true)

/-- The conditions on a header alone (R106). -/
def headerOk (h : Header) : Bool :=
  h.hop.toNat = 0x3FF && h.rsv = 0 && h.pair.toNat / 2 ^ (h.cnt.toNat + 1) = 0 && h.len.toNat = bodyParcels h

/-- The conditions on a body (R106). -/
def bodyOk (h : Header) (xs : List Placed) : Bool :=
  xs.all (Placed.fits h.cls.toNat) && !(xs.dropLast.any Placed.transfer)
    && ((h.ct = 1#1) == (match xs.getLast? with
      | some x => x.transfer
      | none => false))

/-! ### Fetching (R149, R389) -/

/-- Why a fetch failed: a fault, or a bad sector (R448). -/
inductive FetchErr where
  | flt (f : Flt)
  | bad
deriving DecidableEq, Repr

/-- Bytes of code inside one 64 KiB page; a vault line of another slot or epoch counts a key mismatch (R74). -/
def State.fetchPart (s : State) (w : Who) (va n : Nat) : Except FetchErr (List Byte) × State :=
  let r := s.fetchAt w va
  match r.1 with
  | .error f => (.error (.flt f), r.2)
  | .ok pa =>
    let k := r.2.keyOf w.vf
    if r.2.badSpan (.pa pa) n then (.error .bad, r.2)
    else (.ok (r.2.bytesOf k (.pa pa) n), (lineStarts pa n).foldl (fun s a => s.noteMismatch k a) r.2)

/-- Bytes of code; they may cross into a second page. -/
def State.fetchBytes (s : State) (w : Who) (va n : Nat) : Except FetchErr (List Byte) × State :=
  let room := 0x10000 - va % 0x10000
  if n ≤ room then s.fetchPart w va n
  else
    let a := s.fetchPart w va room
    match a.1 with
    | .error e => (.error e, a.2)
    | .ok xs =>
      let b := a.2.fetchPart w (va + room) (n - room)
      match b.1 with
      | .error e => (.error e, b.2)
      | .ok ys => (.ok (xs ++ ys), b.2)

/-- A fetched clause: its header and its instructions; `none` stands for a clause whose header alone is not well formed. -/
structure Clause where
  header : Header
  body : Option (List Placed)
deriving DecidableEq, Repr

/-- Fetch the clause at an address. A header that is not well formed, or not 8-byte aligned (R104), has no body. -/
def State.fetchClause (s : State) (w : Who) (va : Nat) : Except FetchErr Clause × State :=
  let a := s.fetchBytes w va 8
  match a.1 with
  | .error e => (.error e, a.2)
  | .ok hb =>
    let h := headerOf (BitVec.ofNat 64 (leNat hb))
    if va % 8 ≠ 0 || !headerOk h then (.ok ⟨h, none⟩, a.2)
    else
      let b := a.2.fetchBytes w (va + 8) (4 * bodyParcels h)
      match b.1 with
      | .error e => (.error e, b.2)
      | .ok bs => (.ok ⟨h, some (placedFrom h.pair.toNat (h.cnt.toNat + 1) 0 8 bs)⟩, b.2)

/-- The instruction at an index of a clause; at index 0 the clause must be well formed (R106, R107, R419). -/
def clauseInstr (c : Clause) (idx : Nat) : Instr × Nat :=
  match c.body with
  | none => (.clauseNotWellFormed, 8)
  | some xs =>
    if idx = 0 && !bodyOk c.header xs then (.clauseNotWellFormed, 8)
    else match xs[idx]? with
      | none => (.clauseNotWellFormed, 8)
      | some x => match decodeBytes x.pair x.bytes with
        | .ok r => (r.1, x.off)
        | .error _ => (.clauseNotWellFormed, 8)

/-! ### Preparing an instruction for issue -/

/-- What comes of a group that is to issue: its instruction runs, it is held for a reason, or the fetch or the clause wait
already decides the step. -/
inductive ToIssue where
  | run (i : Instr) (s : State)
  | held (reason : Nat) (s : State)
  | done (s : State)
deriving DecidableEq, Repr

/-- Whether a thread still counts on a token of the clause's WAIT mask (R108). -/
def Thread.waitsOn (t : Thread) (mask : Nat) : Bool := (List.range 8).any (fun k => bit mask k && (t.sb k).count ≠ 0)

/-- The lowest token of the WAIT mask whose status has CODE 0x01 (R270). -/
def Thread.raisesOn (t : Thread) (mask : Nat) : Option Nat := (List.range 8).find? (fun k => bit mask k && (t.sb k).code = 0x01)

/-- The clause wait is satisfied: lanes whose status has CODE 0x01 raise poison at index 0 (R270). -/
def State.clauseRaise (s : State) (mask : Nat) : Option State :=
  let raising := s.cur.lanes.filterMap (fun l => ((s.lane l).raisesOn mask).map (fun k => (l, k)))
  if raising.isEmpty then none
  else
    let r := raising.foldl (fun (x : List (Nat × Flt) × State) p =>
      let a := x.2.statusRaise p.1 p.2
      (x.1 ++ [(p.1, a.1)], a.2)) ([], s)
    some (r.2.park r.1)

/-- Prepare the PC group `lanes` at `pc` of a slot; a fault of the fetch or of the clause waits for pending epilogue registers as
an instruction does (R265). -/
def State.prepare (s : State) (slotKey : Nat) (lanes : List Nat) (pc : PC) : ToIssue :=
  let c : Cur := { core := slotKey / 64, quad := slotKey / 16 % 4, slot := slotKey % 16, lanes := lanes, hdr := pc.hdr, idx := pc.idx
                   cnt := pc.idx, next := pc.hdr, at_ := pc.hdr + 8 }
  let s0 := { s with cur := c }
  let f := s0.fetchClause (s0.laneWho (lanes.headD 0)) pc.hdr
  let pending := lanes.any (fun l => s0.epiloguePending (s0.laneKey l))
  match f.1 with
  | .error (.flt e) => if pending then .held 8 f.2 else .done (f.2.park (lanes.map (fun l => (l, e))))
  | .error .bad => if pending then .held 8 f.2 else .done (f.2.failStand f.2.curStand 0xE0 none false)
  | .ok cl =>
    let i := clauseInstr cl pc.idx
    let mask := cl.header.wait.toNat
    let c1 : Cur := { core := c.core, quad := c.quad, slot := c.slot, lanes := lanes, hdr := pc.hdr, idx := pc.idx
                      cnt := cl.header.cnt.toNat, next := nextClause pc.hdr cl.header, at_ := pc.hdr + i.2 }
    let s1 := { f.2 with cur := c1 }
    if i.1 ≠ .clauseNotWellFormed && pc.idx = 0 && lanes.any (fun l => (s1.lane l).waitsOn mask) then .held 1 s1
    else if pending then .held 8 s1
    else if i.1 = .clauseNotWellFormed then .run i.1 s1
    else match (if pc.idx = 0 then s1.clauseRaise mask else none) with
      | some s2 => .done s2
      | none => .run i.1 s1

/-! ### A clause of one instruction -/

/-- A clause of one instruction of `nbits` bits (R104, R105). -/
def oneClause (nbits w : Nat) : List Byte :=
  let pair := 64 < nbits
  let op := w / 2 ^ 54 % 1024
  let cls := if pair then 0 else (engineClass op).getD 0
  let ct := if !pair && isTransfer op then 1 else 0
  let h := 0x3FF * 2 ^ 54 + cls * 2 ^ 52 + (if pair then 3 else 2) * 2 ^ 42 + ct * 2 ^ 29 + (if pair then 2 ^ 13 else 0)
  leBytes 8 h ++ leBytes (if pair then 12 else 8) w

end Sys2Proof.Machine
end

