-- ==== Sys2Proof/Machine/Schedule.lean ====
section
/-!
DEFINITION. The parts of the choice of what the machine does next (notes/assumptions 3, 4): PC groups and their order (R30 to R32,
R158), the choice among slots (R305), the device's own steps that are due (R84, R98, R100, R237, R244, R276, R281, R285, R302 to
R310, R388, R395, R440), and what a step adds to the instruction or event it runs.
-/

namespace Sys2Proof.Machine

/-! ### PC groups (R30 to R32) -/

/-- A PC group of a slot: its lanes, ascending, and its passed-over count. -/
structure Group where
  pc : PC
  lanes : List Nat
  passed : Nat
deriving DecidableEq, Repr

/-- The PC groups of a slot (R30). -/
def State.groups (s : State) (sl : Slot) : List Group :=
  let act := sl.lanes.filterMap (fun p => let t := s.thread p.2; if t.status = .active then some (p.1, t.pc) else none)
  (act.map Prod.snd).eraseDups.map (fun pc =>
    ⟨pc, (act.filter (fun a => a.2 = pc)).map Prod.fst, ((sl.passed.find? (fun x => x.1 = pc)).map Prod.snd).getD 0⟩)

/-- Whether a slot's groups may issue at all: its quadrant is not stopped (R374), its stand runs (R309), the management core is
not halted (R170). -/
def State.slotRuns (s : State) (sk : Nat) (sl : Slot) : Bool :=
  (s.quadAt (sk / 16)).stopped.isNone && (match s.stands.get? sl.stand with
    | some st => st.running
    | none => sl.stand = mgmtStand && !s.mgmt.halted)

/-- Whether a group is held: not ready (R30). -/
def State.heldNow (s : State) (sk : Nat) (g : Group) : Bool := s.holds.any (fun h => h.slot = sk && h.pc = g.pc)

/-- Drop the group that YIELD holds, while another group of the slot is ready (R158). Any issue of the slot ends the hold, so
it never lasts 64 issue cycles. -/
def Slot.unyielded (sl : Slot) (gs : List Group) : List Group :=
  match sl.yielded with
  | none => gs
  | some (pc, _) =>
    let rest := gs.filter (fun g => g.pc ≠ pc)
    if rest.isEmpty then gs else rest

/-- The ready groups of a slot (R30, R158). -/
def State.readyGroups (s : State) (sk : Nat) (sl : Slot) : List Group :=
  if s.slotRuns sk sl then sl.unyielded ((s.groups sl).filter (fun g => !s.heldNow sk g)) else []

/-- The place of a group in the order of R31: passed over 64 times first, by count; then by population, count and PC. -/
def Group.rank (g : Group) : Nat :=
  let pc := g.pc.hdr + g.pc.idx
  let late := 2 ^ 16 - min g.passed (2 ^ 16)
  (if 64 ≤ g.passed then late else 2 ^ 30 + (32 - g.lanes.length) * 2 ^ 20 + late) * 2 ^ 64 + pc

/-- The groups of a slot in the order of R31; `fuel` bounds them. -/
def rankGroups : Nat → List Group → List Group
  | 0, _ => []
  | n + 1, gs => match leastBy Group.rank gs with
    | none => []
    | some g => g :: rankGroups n (gs.filter (fun x => x.pc ≠ g.pc))

/-! ### The choice among slots (R305) -/

/-- The (launch, stage) pair of a slot; a launch has at most one stand on a quadrant. -/
def Slot.pairKey (sl : Slot) : Nat := 8 * sl.stand + sl.stage

/-- The slots of a quadrant that have a ready group. -/
def State.readySlots (s : State) (quad : Nat) : List (Nat × Slot) :=
  s.slots.filter (fun p => p.1 / 16 = quad && !(s.readyGroups p.1 p.2).isEmpty)

/-- The quadrants that have a ready slot. -/
def State.readyQuads (s : State) : List Nat :=
  ((s.slots.filter (fun p => !(s.readyGroups p.1 p.2).isEmpty)).map (fun p => p.1 / 16)).eraseDups

/-- The lowest V among pairs that stay ready. -/
def lowestV (vt : Table VTime) (keys : List Nat) : Option Nat :=
  keys.foldl (fun m k => match vt.get? k with
    | some x => if x.ready then some (match m with
        | some y => min x.v y
        | none => x.v) else m
    | none => m) none

/-- The virtual times when `keys` are the ready pairs: a pair that becomes ready sets V := min(max(V, Vmin), Vmin + 8) (R305). -/
def settleV (vt : Table VTime) (keys : List Nat) : Table VTime :=
  let vmin := lowestV vt keys
  let vt1 : Table VTime := vt.mapVals (fun k (x : VTime) => if keys.contains k then x else { x with ready := false })
  keys.foldl (fun (t : Table VTime) k =>
    let x := t.getD k ⟨0, 0, false⟩
    if x.ready then t
    else t.insert k { x with ready := true, v := (match vmin with
      | some m => min (max x.v m) (m + 8 * 840)
      | none => x.v) }) vt1

/-- The issue weight of a stage (R293, R304). -/
def State.weightOf (s : State) (stand stage : Nat) : Nat :=
  match s.stands.get? stand with
  | some st => max 1 (st.weights.getD stage 1)
  | none => 1

/-! ### The second group (R31, R121) -/

/-- The functional pipe of an opcode that a quadrant has once, or the engine of its class; INT has two units (R121). -/
def singlePipe (op : Nat) : Option Nat :=
  if op < 0x00E then some 0
  else if op < 0x018 then some 13
  else if op = 0x04C || op = 0x04D then some 2
  else if op < 0x080 || op = 0x0A2 || op = 0x0A3 then none
  else if op < 0x08D || op = 0x097 || op = 0x098 then some 1
  else if op < 0x097 then some 2
  else if op < 0x09E then some 3
  else if op < 0x0A2 then some 1
  else if op < 0x100 then some 4
  else if op < 0x140 then some 5
  else if op < 0x180 then some 11
  else if op < 0x1C0 then some 12
  else some 13

/-- Whether two instructions may issue in one cycle: single operations that need no common pipe or engine (R31). -/
def issueTogether (a b : Instr) : Bool :=
  match opcodeOf a, opcodeOf b with
  | some x, some y => (match singlePipe x, singlePipe y with
    | some p, some q => p ≠ q
    | _, _ => true)
  | _, _ => false

/-- What an issue settles beside its instruction: the slot, the PC and lanes of the group, whether it is the first of its
cycle, the quadrant's virtual times after it, the ready groups passed over, and the second group. -/
structure Plan where
  slot : Nat
  group : Group
  first : Bool
  vtimes : Table VTime
  passedBy : List PC
  second : Option (Nat × PC × List Nat)
deriving DecidableEq, Repr

/-- The machine's next act. -/
inductive Act where
  | event (i : Instr) (s : State)
  | issue (p : Plan) (i : Instr) (s : State)
  | settle (p : Plan) (s : State)
  | idle (s : State)
deriving DecidableEq, Repr

/-- The instruction that a group would issue, for the test of R31. -/
def State.peek (s : State) (sk : Nat) (g : Group) : Option Instr :=
  match s.prepare sk g.lanes g.pc with
  | .run i _ => some i
  | _ => none

/-- Prepare a planned group, which is ready. -/
def State.tryGroup (s : State) (p : Plan) : Act :=
  match s.prepare p.slot p.group.lanes p.group.pc with
  | .run i s1 => .issue p i s1
  | .held _ s1 => .idle s1
  | .done s1 => .settle p s1

/-- Issue from a chosen slot: its first ready group by R31, the next beside it if both may issue together. -/
def State.planSlot (s : State) (sk : Nat) (sl : Slot) (vt : Table VTime) : Option Plan :=
  match rankGroups 32 (s.readyGroups sk sl) with
  | [] => none
  | g :: gs =>
    let mate := match gs with
      | [] => none
      | h :: _ => match s.peek sk g, s.peek sk h with
        | some a, some b => if issueTogether a b then some h else none
        | _, _ => none
    some ⟨sk, g, true, vt, (gs.map (·.pc)).filter (fun pc => some pc ≠ mate.map (·.pc)), mate.map (fun h => (sk, h.pc, h.lanes))⟩

/-- Choose a slot of a quadrant: of the pairs with a ready slot the lowest V, on a tie the one chosen least recently; of its
ready slots the one that issued least recently (R305). -/
def State.planQuad (s : State) (quad : Nat) : Option Plan :=
  let rs := s.readySlots quad
  let keys := (rs.map (fun p => p.2.pairKey)).eraseDups
  let vt := settleV (s.quadAt quad).vtimes keys
  match leastBy (fun k => (vt.getD k ⟨0, 0, false⟩).v * 2 ^ 64 + (vt.getD k ⟨0, 0, false⟩).last) keys with
  | none => none
  | some k => match leastBy (fun p => p.2.lastIssue) (rs.filter (fun p => p.2.pairKey = k)) with
    | none => none
    | some (sk, sl) =>
      let x := vt.getD k ⟨0, 0, false⟩
      s.planSlot sk sl (vt.insert k { x with v := x.v + 6720 / s.weightOf sl.stand sl.stage, last := s.tick })

/-- The number of quadrants, the management core's among them. -/
def quadCount : Nat := 4 * 7681

/-- Issue from the next quadrant in turn that has a ready slot. -/
def State.tryIssue (s : State) : Option Act :=
  match leastBy (fun q => (q + quadCount - s.turn / 2 % quadCount) % quadCount) s.readyQuads with
  | none => none
  | some q => (s.planQuad q).map s.tryGroup

/-- What is left of the second group of the cycle: those of its lanes that are still at its PC; a thread that has come to the PC
since did not belong to the group (R30, R31). -/
def State.secondGroup (s : State) (x : Nat × PC × List Nat) : Option Group :=
  let here (l : Nat) : Bool := match (s.slotAt x.1).lanes.get? l with
    | some th => (s.thread th).status = .active && (s.thread th).pc = x.2.1
    | none => false
  match x.2.2.filter here with
  | [] => none
  | ls => some ⟨x.2.1, ls, 0⟩

/-- The second group of the cycle could not issue after the first: it was ready and did not issue (R32). -/
def State.missSecond (s : State) (x : Nat × PC × List Nat) : State :=
  s.updSlot x.1 (fun sl =>
    let n := ((sl.passed.find? (fun y => y.1 = x.2.1)).map Prod.snd).getD 0
    { sl with passed := sl.passed.filter (fun y => y.1 ≠ x.2.1) ++ [(x.2.1, n + 1)] })

/-! ### The device's own steps -/

/-- One of the device's own steps that is due, with its kind and its key among those of its kind. -/
structure Own where
  kind : Nat
  key : Nat
  event : Instr


/-- Stores, window laps, commits and linked barriers that are due. -/
def State.memorySteps (s : State) : List Own :=
  (s.threads.filterMap (fun p => match p.2.storeQ with
    | e :: _ => if e.sent then none else some ⟨0, p.1, .storeDrain p.1⟩
    | [] => none))
  ++ ((s.windowMsgs.map (·.cluster)).eraseDups.map (fun c => ⟨1, c, .flumeWst c⟩))
  ++ s.stands.filterMap (fun p => if (s.dcDue p.1).isSome then some ⟨2, p.1, .quantumCommit p.1⟩ else none)
  ++ s.stands.flatMap (fun p => p.2.barriers.filterMap (fun b =>
      if b.2.linkDue || s.linkToggled p.2.vf b.2 then some ⟨3, 16 * p.1 + b.1, .linkedArrival p.1 b.1⟩ else none))
  ++ s.threads.filterMap (fun p => match p.2.wait with
    | .word _ true => some ⟨4, p.1, .waitwReread p.1⟩
    | _ => none)

/-- Engine rows and loads that are due: of the first operation of each queue (R244, R248). -/
def State.matrixSteps (s : State) : List Own :=
  s.quads.flatMap (fun p => match p.2.matrix.queue with
    | [] => []
    | o :: _ => if o.kind = .wload then [⟨5, p.1, .wloadComplete p.1⟩]
      else [⟨6, p.1, .rowAccept p.1⟩, ⟨7, p.1, .rowWrite p.1⟩, ⟨8, p.1, .epilogue p.1⟩])

/-- Copies, receives, messages, bursts and releases that are due; commands turn by their numbers' low bits, so that new ones do
not keep an old one waiting. -/
def State.engineSteps (s : State) : List Own :=
  s.matrixSteps
  ++ s.commands.filterMap (fun p => match p.2.kind, p.2.moves, p.2.got with
    | .copy, [], _ => some ⟨9, p.1 % 4096, .copyComplete p.1⟩
    | .copy, m :: _, _ => if m.far.isSome && !m.dst.isEmpty then none else some ⟨10, p.1 % 4096, .copyLineArrival p.1 []⟩
    | .recv, _, some _ => some ⟨11, p.1 % 4096, .receiveComplete p.1⟩
    | .recv, _, none => none)
  ++ s.stands.flatMap (fun p => p.2.circuits.filterMap (fun c =>
      if c.2.flight.isEmpty then none else some ⟨12, 64 * p.1 + c.1, .messageArrival p.1 c.1⟩))
  ++ s.portQueues.filterMap (fun p => if p.2.isEmpty then none else some ⟨13, p.1, .burstTransmit p.1⟩)
  ++ (if s.gate.isEmpty then [] else [⟨14, 0, .gateRelease⟩])

/-- The partitions of the functions that hold launches or stands. -/
def State.livePartitions (s : State) : List Nat :=
  ((s.grids.map (fun p => s.vfPart p.2.vf)) ++ (s.stands.map (fun p => s.vfPart p.2.vf))).eraseDups

/-- Launches, their ends and their gangs, and placement, that are due. -/
def State.gridSteps (s : State) : List Own :=
  s.grids.filterMap (fun p => if p.2.state = .waiting && p.2.fail.isNone then some ⟨15, p.1, .launchClaim p.1⟩ else none)
  ++ s.grids.filterMap (fun p => if s.gridDone p.1 then some ⟨16, p.1, .gridEnd p.1⟩ else none)
  ++ s.grids.flatMap (fun p => (p.2.firstStart.map Prod.fst).filterMap (fun i =>
      if p.2.expired.contains i then none else some ⟨17, 8192 * p.1 + i, .gangPatienceExpire p.1 i⟩))
  ++ s.livePartitions.flatMap (fun q => [⟨18, q, .standPlace q⟩, ⟨19, q, .gangRelief q⟩, ⟨20, q, .sliceEnd q⟩])

/-- Starts, restores and saves of stands that are due; a frozen one goes on once it has been told to (R303, R309, R310, R434). -/
def State.siteSteps (s : State) : List Own :=
  s.stands.filterMap (fun p =>
    if p.2.stuckFrozen then none
    else if p.2.chosen && !p.2.started then some ⟨21, p.1, .standStart p.1⟩
    else if p.2.chosen && p.2.saved.isSome then some ⟨22, p.1, .contextRestore p.1⟩
    else if p.2.savePending && !s.saveDeferred p.2 then some ⟨23, p.1, .contextSave p.1⟩
    else none)

/-- Warps, balancing, trap records and retests that are due. -/
def State.coreSteps (s : State) : List Own :=
  (s.stands.filter (fun p => p.2.running && !(p.2.pending.isEmpty && p.2.yard.isEmpty))).flatMap (fun p =>
    (List.range 4).map (fun q => ⟨24, 4 * p.2.core + q, .warpForm (4 * p.2.core + q)⟩))
  ++ ((s.stands.filter (fun p => p.2.running)).map (fun p => p.2.core)).eraseDups.filterMap (fun c =>
      if (s.coreAt c).balanced < s.cycles / 256 then some ⟨25, c, .balancerPass c⟩ else none)
  ++ s.cores.filterMap (fun p =>
      if p.2.open4.any (s.trapDue p.1) || !p.2.waiting.isEmpty then some ⟨26, p.1, .trapRecordClose p.1⟩ else none)
  ++ s.retests.filterMap (fun x => if s.retestWaits x.1 then none else some ⟨27, x.1, .retest x.1 x.2.1 x.2.2⟩)

/-- The next of the device's own steps: kinds take turns, and the keys of a kind (R51; notes/assumptions 4). -/
def nextOwn (last : Table Nat) (xs : List Own) : Option Own :=
  match leastBy (fun x => (x.kind + 63 - last.getD 0 0) % 64) xs with
  | none => none
  | some x => leastBy (fun y => (y.key + 2 ^ 64 - 1 - last.getD (x.kind + 1) 0) % 2 ^ 64) (xs.filter (fun y => y.kind = x.kind))

/-- One of the device's own steps, if one is due. -/
def State.tryOwn (s : State) : Option Act :=
  (nextOwn s.auto (s.memorySteps ++ s.engineSteps ++ s.gridSteps ++ s.siteSteps ++ s.coreSteps)).map (fun x =>
    .event x.event { s with
      auto := (s.auto.put 0 0 x.kind).put 0 (x.kind + 1) x.key
      turn := s.turn / 2 * 2
      stim := .none })

/-! ### What a step adds to the instruction or event it runs -/

/-- Every step takes cycles, at least one (R5; notes/assumptions 5), and the next free values; the timer counts them down
(R383). -/
def State.tickOn (s : State) : State :=
  let n := 1 + Config.freeCycles s.tick
  let left := s.mgmt.mtimer.toNat - n
  let s1 := { s with tick := s.tick + 1, cycles := s.cycles + n }
  if s.mgmt.mtimer = 0 then s1
  else
    let s2 := { s1 with mgmt := { s1.mgmt with mtimer := BitVec.ofNat 64 left } }
    if left = 0 then { s2 with inputs := s2.inputs ++ [⟨.wakeEvent .timer, .none⟩] } else s2

/-- After an event. -/
def State.closeEvent (s : State) : State := { s with stim := .none }.tickOn

/-- A slot after a group's issue: passed-over counts, of which only those of ready groups rise (R32), YIELD's hold (R158), when it
issued and how often. `pcs` are the groups that it has now. -/
def Slot.afterIssue (sl : Slot) (p : Plan) (pcs : List PC) (tick : Nat) (count : Bool) : Slot :=
  let kept := sl.passed.filter (fun x => x.1 ≠ p.group.pc && !p.passedBy.contains x.1)
  let up := p.passedBy.map (fun pc => (pc, ((sl.passed.find? (fun x => x.1 = pc)).map Prod.snd).getD 0 + 1))
  let all := if p.first then kept ++ up else sl.passed.filter (fun x => x.1 ≠ p.group.pc)
  { sl with
      passed := all.filter (fun x => pcs.contains x.1)
      yielded := match sl.yielded with
        | some (pc, t) => if t = tick then some (pc, t) else none
        | none => none
      lastIssue := tick
      issued := if p.first && count then min satMax (sl.issued + 1) else sl.issued }

/-- The issue stage's side of an issue: virtual times, counts, the turn, the stall counts of the cycle, the second group. -/
def State.closeIssue (p : Plan) (s : State) : State :=
  let quad := p.slot / 16
  let s1 := if p.first then s.stallCycle quad (some p.slot) else s
  let s2 := s1.updQuad quad (fun q => { q with vtimes := p.vtimes })
  let pcs := (s2.groups (s2.slotAt p.slot)).map (·.pc)
  let s3 := s2.updSlot p.slot (fun sl => sl.afterIssue p pcs s.tick (s.counting (s.vfOf sl.stand) (quad / 4)))
  { s3 with
    second := if p.first then p.second else none
    turn := if p.first then 2 * ((quad + 1) % quadCount) + 1 else s3.turn }.tickOn

/-- After a fetch fault or a raise at a clause wait. -/
def State.closeSettle (p : Plan) (s : State) : State := { s with second := none, turn := 2 * (p.slot / 16) + 1 }.tickOn

/-- After an instruction, `s0` being the state in which it ran. -/
def State.closeInstr (p : Plan) (s0 s : State) : State := (s.noteIssue s0.curStand).closeIssue p

/-- Apply a function to a next state. -/
def onNext (f : State → State) : Host.Outcome State Fault Refusal → Host.Outcome State Fault Refusal
  | .next s => .next (f s)
  | .fault r => .fault r
  | .refused r => .refused r

/-! ### Placing a program (the host's withFetchWord) -/

/-- A clause stands at the management core's program counter, whose thread is the next to issue. -/
def State.placeClause (s : State) (bs : List Byte) : State :=
  let t := s.thread mgmtThread
  let a := t.pc.hdr
  { s with
      inputs := []
      second := none
      holds := []
      turn := 2 * (4 * mgmtCore)
      mem := setBytes s.mem a bs
      badSectors := s.badSectors.filter (fun x => x < a / 32 || (a + 32) / 32 < x)
      threads := s.threads.insert mgmtThread
        { t with stand := mgmtStand, status := .active, pc := ⟨a, 0⟩, wait := .none }
      slots := s.slots.insert mgmtSlot
        { s.slotAt mgmtSlot with stand := mgmtStand, lanes := [(0, mgmtThread)], yielded := none }
      stands := s.stands.erase mgmtStand
      quads := s.quads.modify (4 * mgmtCore) (fun q => { q with stopped := none })
      mgmt := { s.mgmt with halted := false } }

end Sys2Proof.Machine
end

