-- ==== Sys2Proof/Machine/Dispatch.lean ====
section
/-!
DEFINITION. The meaning of every instruction: one arm for each constructor of Instr, in the order of Syntax.lean.
-/

namespace Sys2Proof.Machine

/-- The meaning of an instruction or event in a state. -/
def exec (i : Instr) (s : State) : Host.Outcome State Fault Refusal :=
  match i with
  | .nop f => Sys2Proof.Machine.execNop f s
  | .bra f => Sys2Proof.Machine.execBra f s
  | .call f => Sys2Proof.Machine.execCall f s
  | .rgrp f => Sys2Proof.Machine.execRgrp f s
  | .brx f => Sys2Proof.Machine.execBrx f s
  | .callx f => Sys2Proof.Machine.execCallx f s
  | .ret f => Sys2Proof.Machine.execRet f s
  | .exit f => Sys2Proof.Machine.execExit f s
  | .jset f => Sys2Proof.Machine.execJset f s
  | .jwait f => Sys2Proof.Machine.execJwait f s
  | .jclr f => Sys2Proof.Machine.execJclr f s
  | .elect f => Sys2Proof.Machine.execElect f s
  | .yield f => Sys2Proof.Machine.execYield f s
  | .chk f => Sys2Proof.Machine.execChk f s
  | .trap f => Sys2Proof.Machine.execTrap f s
  | .iret f => Sys2Proof.Machine.execIret f s
  | .launch f => Sys2Proof.Machine.execLaunch f s
  | .join f => Sys2Proof.Machine.execJoin f s
  | .trig f => Sys2Proof.Machine.execTrig f s
  | .srd f => Sys2Proof.Machine.execSrd f s
  | .swr f => Sys2Proof.Machine.execSwr f s
  | .dbgbrk f => Sys2Proof.Machine.execDbgbrk f s
  | .mark f => Sys2Proof.Machine.execMark f s
  | .halt f => Sys2Proof.Machine.execHalt f s
  | .add f => Sys2Proof.Machine.execAdd f s
  | .sub f => Sys2Proof.Machine.execSub f s
  | .addc f => Sys2Proof.Machine.execAddc f s
  | .subb f => Sys2Proof.Machine.execSubb f s
  | .neg f => Sys2Proof.Machine.execNeg f s
  | .abs f => Sys2Proof.Machine.execAbs f s
  | .mul f => Sys2Proof.Machine.execMul f s
  | .mulh f => Sys2Proof.Machine.execMulh f s
  | .mulw f => Sys2Proof.Machine.execMulw f s
  | .mad f => Sys2Proof.Machine.execMad f s
  | .madh f => Sys2Proof.Machine.execMadh f s
  | .madw f => Sys2Proof.Machine.execMadw f s
  | .div f => Sys2Proof.Machine.execDiv f s
  | .rem f => Sys2Proof.Machine.execRem f s
  | .min f => Sys2Proof.Machine.execMin f s
  | .max f => Sys2Proof.Machine.execMax f s
  | .and f => Sys2Proof.Machine.execAnd f s
  | .or f => Sys2Proof.Machine.execOr f s
  | .xor f => Sys2Proof.Machine.execXor f s
  | .not f => Sys2Proof.Machine.execNot f s
  | .andn f => Sys2Proof.Machine.execAndn f s
  | .shl f => Sys2Proof.Machine.execShl f s
  | .shr f => Sys2Proof.Machine.execShr f s
  | .sar f => Sys2Proof.Machine.execSar f s
  | .rol f => Sys2Proof.Machine.execRol f s
  | .fshl f => Sys2Proof.Machine.execFshl f s
  | .bfx f => Sys2Proof.Machine.execBfx f s
  | .bfi f => Sys2Proof.Machine.execBfi f s
  | .popc f => Sys2Proof.Machine.execPopc f s
  | .clz f => Sys2Proof.Machine.execClz f s
  | .ctz f => Sys2Proof.Machine.execCtz f s
  | .brev f => Sys2Proof.Machine.execBrev f s
  | .perm f => Sys2Proof.Machine.execPerm f s
  | .sel f => Sys2Proof.Machine.execSel f s
  | .iset f => Sys2Proof.Machine.execIset f s
  | .lea f => Sys2Proof.Machine.execLea f s
  | .sad f => Sys2Proof.Machine.execSad f s
  | .dot4 f => Sys2Proof.Machine.execDot4 f s
  | .dot8 f => Sys2Proof.Machine.execDot8 f s
  | .mov f => Sys2Proof.Machine.execMov f s
  | .movi f => Sys2Proof.Machine.execMovi f s
  | .movh f => Sys2Proof.Machine.execMovh f s
  | .pand f => Sys2Proof.Machine.execPand f s
  | .por f => Sys2Proof.Machine.execPor f s
  | .pxor f => Sys2Proof.Machine.execPxor f s
  | .pnot f => Sys2Proof.Machine.execPnot f s
  | .pmov f => Sys2Proof.Machine.execPmov f s
  | .idx f => Sys2Proof.Machine.execIdx f s
  | .fadd f => Sys2Proof.Machine.execFadd f s
  | .fsub f => Sys2Proof.Machine.execFsub f s
  | .fmul f => Sys2Proof.Machine.execFmul f s
  | .fma f => Sys2Proof.Machine.execFma f s
  | .fmin f => Sys2Proof.Machine.execFmin f s
  | .fmax f => Sys2Proof.Machine.execFmax f s
  | .fset f => Sys2Proof.Machine.execFset f s
  | .fclass f => Sys2Proof.Machine.execFclass f s
  | .frnd f => Sys2Proof.Machine.execFrnd f s
  | .fscale f => Sys2Proof.Machine.execFscale f s
  | .fexpn f => Sys2Proof.Machine.execFexpn f s
  | .fmant f => Sys2Proof.Machine.execFmant f s
  | .fcopys f => Sys2Proof.Machine.execFcopys f s
  | .frcp f => Sys2Proof.Machine.execFrcp f s
  | .frsq f => Sys2Proof.Machine.execFrsq f s
  | .fsqrt f => Sys2Proof.Machine.execFsqrt f s
  | .fdiv f => Sys2Proof.Machine.execFdiv f s
  | .fexp2 f => Sys2Proof.Machine.execFexp2 f s
  | .flog2 f => Sys2Proof.Machine.execFlog2 f s
  | .fsin f => Sys2Proof.Machine.execFsin f s
  | .fcos f => Sys2Proof.Machine.execFcos f s
  | .ftanh f => Sys2Proof.Machine.execFtanh f s
  | .fsigm f => Sys2Proof.Machine.execFsigm f s
  | .fdot2 f => Sys2Proof.Machine.execFdot2 f s
  | .fdot4 f => Sys2Proof.Machine.execFdot4 f s
  | .cvt f => Sys2Proof.Machine.execCvt f s
  | .cvts f => Sys2Proof.Machine.execCvts f s
  | .cvti f => Sys2Proof.Machine.execCvti f s
  | .pack f => Sys2Proof.Machine.execPack f s
  | .unpack f => Sys2Proof.Machine.execUnpack f s
  | .addmin f => Sys2Proof.Machine.execAddmin f s
  | .addmax f => Sys2Proof.Machine.execAddmax f s
  | .fmini f => Sys2Proof.Machine.execFmini f s
  | .fmaxi f => Sys2Proof.Machine.execFmaxi f s
  | .imini f => Sys2Proof.Machine.execImini f s
  | .imaxi f => Sys2Proof.Machine.execImaxi f s
  | .shfl f => Sys2Proof.Machine.execShfl f s
  | .slide f => Sys2Proof.Machine.execSlide f s
  | .bcastl f => Sys2Proof.Machine.execBcastl f s
  | .vote f => Sys2Proof.Machine.execVote f s
  | .matchLanes f => Sys2Proof.Machine.execMatchLanes f s
  | .redux f => Sys2Proof.Machine.execRedux f s
  | .scan f => Sys2Proof.Machine.execScan f s
  | .lmask f => Sys2Proof.Machine.execLmask f s
  | .pairWord x y => Sys2Proof.Machine.execPairWord x y s
  | .ld f => Sys2Proof.Machine.execLd f s
  | .ldS f => Sys2Proof.Machine.execLdS f s
  | .st f => Sys2Proof.Machine.execSt f s
  | .storeDrain thread => Sys2Proof.Machine.execStoreDrain thread s
  | .atom f => Sys2Proof.Machine.execAtom f s
  | .atomc f => Sys2Proof.Machine.execAtomc f s
  | .red f => Sys2Proof.Machine.execRed f s
  | .fence f => Sys2Proof.Machine.execFence f s
  | .pref f => Sys2Proof.Machine.execPref f s
  | .evict f => Sys2Proof.Machine.execEvict f s
  | .tagset f => Sys2Proof.Machine.execTagset f s
  | .tagget f => Sys2Proof.Machine.execTagget f s
  | .bcst f => Sys2Proof.Machine.execBcst f s
  | .pres f => Sys2Proof.Machine.execPres f s
  | .pclr f => Sys2Proof.Machine.execPclr f s
  | .dcq f => Sys2Proof.Machine.execDcq f s
  | .quantumCommit stand => Sys2Proof.Machine.execQuantumCommit stand s
  | .qinit f => Sys2Proof.Machine.execQinit f s
  | .qenq f => Sys2Proof.Machine.execQenq f s
  | .qdeq f => Sys2Proof.Machine.execQdeq f s
  | .qpeek f => Sys2Proof.Machine.execQpeek f s
  | .waitw f => Sys2Proof.Machine.execWaitw f s
  | .waitwReread thread => Sys2Proof.Machine.execWaitwReread thread s
  | .bari f => Sys2Proof.Machine.execBari f s
  | .bara f => Sys2Proof.Machine.execBara f s
  | .barw f => Sys2Proof.Machine.execBarw f s
  | .bars f => Sys2Proof.Machine.execBars f s
  | .linkedArrival stand bar => Sys2Proof.Machine.execLinkedArrival stand bar s
  | .tbari f => Sys2Proof.Machine.execTbari f s
  | .tbare f => Sys2Proof.Machine.execTbare f s
  | .lbrd f => Sys2Proof.Machine.execLbrd f s
  | .lbor f => Sys2Proof.Machine.execLbor f s
  | .clrseg f => Sys2Proof.Machine.execClrseg f s
  | .mcfg f => Sys2Proof.Machine.execMcfg f s
  | .wload f => Sys2Proof.Machine.execWload f s
  | .wloadComplete quad => Sys2Proof.Machine.execWloadComplete quad s
  | .wloadr f => Sys2Proof.Machine.execWloadr f s
  | .wclr f => Sys2Proof.Machine.execWclr f s
  | .mma f => Sys2Proof.Machine.execMma f s
  | .mmasp f => Sys2Proof.Machine.execMmasp f s
  | .mconv f => Sys2Proof.Machine.execMconv f s
  | .mmar f => Sys2Proof.Machine.execMmar f s
  | .rowAccept quad => Sys2Proof.Machine.execRowAccept quad s
  | .rowWrite quad => Sys2Proof.Machine.execRowWrite quad s
  | .epilogue quad => Sys2Proof.Machine.execEpilogue quad s
  | .epcfg f => Sys2Proof.Machine.execEpcfg f s
  | .mstat f => Sys2Proof.Machine.execMstat f s
  | .mdrain f => Sys2Proof.Machine.execMdrain f s
  | .mrdacc f => Sys2Proof.Machine.execMrdacc f s
  | .mwracc f => Sys2Proof.Machine.execMwracc f s
  | .xcopy f => Sys2Proof.Machine.execXcopy f s
  | .copyLineArrival cmd data => Sys2Proof.Machine.execCopyLineArrival cmd data s
  | .copyComplete cmd => Sys2Proof.Machine.execCopyComplete cmd s
  | .xkick f => Sys2Proof.Machine.execXkick f s
  | .xwait f => Sys2Proof.Machine.execXwait f s
  | .xtest f => Sys2Proof.Machine.execXtest f s
  | .send f => Sys2Proof.Machine.execSend f s
  | .messageArrival stand route => Sys2Proof.Machine.execMessageArrival stand route s
  | .recv f => Sys2Proof.Machine.execRecv f s
  | .rtest f => Sys2Proof.Machine.execRtest f s
  | .obsend f => Sys2Proof.Machine.execObsend f s
  | .burstTransmit port => Sys2Proof.Machine.execBurstTransmit port s
  | .burstAck burst refused => Sys2Proof.Machine.execBurstAck burst refused s
  | .ackTimeout burst => Sys2Proof.Machine.execAckTimeout burst s
  | .obrecv f => Sys2Proof.Machine.execObrecv f s
  | .burstArrival port peer tag data => Sys2Proof.Machine.execBurstArrival port peer tag data s
  | .receiveComplete cmd => Sys2Proof.Machine.execReceiveComplete cmd s
  | .resetNotice port peer len => Sys2Proof.Machine.execResetNotice port peer len s
  | .obstat f => Sys2Proof.Machine.execObstat f s
  | .rel f => Sys2Proof.Machine.execRel f s
  | .wpset f => Sys2Proof.Machine.execWpset f s
  | .wpclr f => Sys2Proof.Machine.execWpclr f s
  | .profrd f => Sys2Proof.Machine.execProfrd f s
  | .tlbi f => Sys2Proof.Machine.execTlbi f s
  | .ctxsv f => Sys2Proof.Machine.execCtxsv f s
  | .ctxld f => Sys2Proof.Machine.execCtxld f s
  | .crrd f => Sys2Proof.Machine.execCrrd f s
  | .crwr f => Sys2Proof.Machine.execCrwr f s
  | .flumeRds cluster line => Sys2Proof.Machine.execFlumeRds cluster line s
  | .flumeRdx cluster line => Sys2Proof.Machine.execFlumeRdx cluster line s
  | .flumeUpg cluster line => Sys2Proof.Machine.execFlumeUpg cluster line s
  | .flumeWb cluster line => Sys2Proof.Machine.execFlumeWb cluster line s
  | .flumeWst cluster => Sys2Proof.Machine.execFlumeWst cluster s
  | .coherenceTimeout requester tag home => Sys2Proof.Machine.execCoherenceTimeout requester tag home s
  | .warpForm quad => Sys2Proof.Machine.execWarpForm quad s
  | .balancerPass core => Sys2Proof.Machine.execBalancerPass core s
  | .trapRecordClose core => Sys2Proof.Machine.execTrapRecordClose core s
  | .launchSubmit hart vf data => Sys2Proof.Machine.execLaunchSubmit hart vf data s
  | .launchClaim grid => Sys2Proof.Machine.execLaunchClaim grid s
  | .standPlace part => Sys2Proof.Machine.execStandPlace part s
  | .standStart stand => Sys2Proof.Machine.execStandStart stand s
  | .gangPatienceExpire grid gang => Sys2Proof.Machine.execGangPatienceExpire grid gang s
  | .gangRelief part => Sys2Proof.Machine.execGangRelief part s
  | .gridEnd grid => Sys2Proof.Machine.execGridEnd grid s
  | .sliceEnd part => Sys2Proof.Machine.execSliceEnd part s
  | .contextSave stand => Sys2Proof.Machine.execContextSave stand s
  | .contextRestore stand => Sys2Proof.Machine.execContextRestore stand s
  | .wakeEvent source => Sys2Proof.Machine.execWakeEvent source s
  | .ringSearch node index locked heat => Sys2Proof.Machine.execRingSearch node index locked heat s
  | .eyeTraining node index eyeh eyew => Sys2Proof.Machine.execEyeTraining node index eyeh eyew s
  | .powerOn found image => Sys2Proof.Machine.execPowerOn found image s
  | .retest site coreOk routerOk => Sys2Proof.Machine.execRetest site coreOk routerOk s
  | .linkRetry site port => Sys2Proof.Machine.execLinkRetry site port s
  | .linkDown site port okHere okThere => Sys2Proof.Machine.execLinkDown site port okHere okThere s
  | .marginAlarm waveguide wavelength heater => Sys2Proof.Machine.execMarginAlarm waveguide wavelength heater s
  | .lockLost node wavelength => Sys2Proof.Machine.execLockLost node wavelength s
  | .uncorrectableError place => Sys2Proof.Machine.execUncorrectableError place s
  | .dramScrub channel sector corrected lastOfPass => Sys2Proof.Machine.execDramScrub channel sector corrected lastOfPass s
  | .vaultScrub cluster line corrected lastOfPass => Sys2Proof.Machine.execVaultScrub cluster line corrected lastOfPass s
  | .scratchpadScrub core bank line corrected => Sys2Proof.Machine.execScratchpadScrub core bank line corrected s
  | .errorFoldExpire fold => Sys2Proof.Machine.execErrorFoldExpire fold s
  | .guaranteeLapse port control lane => Sys2Proof.Machine.execGuaranteeLapse port control lane s
  | .guaranteeRestored port => Sys2Proof.Machine.execGuaranteeRestored port s
  | .watchdogRestart image => Sys2Proof.Machine.execWatchdogRestart image s
  | .policyCheckFail handle => Sys2Proof.Machine.execPolicyCheckFail handle s
  | .hostLoad hart op size => Sys2Proof.Machine.execHostLoad hart op size s
  | .hostStore hart op data => Sys2Proof.Machine.execHostStore hart op data s
  | .stallReasonCount quad => Sys2Proof.Machine.execStallReasonCount quad s
  | .unassignedOpcode word => Sys2Proof.Machine.execUnassignedOpcode word s
  | .gateRelease => Sys2Proof.Machine.execGateRelease s
  | .saveReplay => Sys2Proof.Machine.execSaveReplay s
  | .saveKill => Sys2Proof.Machine.execSaveKill s
  | .partitionEnable => Sys2Proof.Machine.execPartitionEnable s
  | .partitionDisable => Sys2Proof.Machine.execPartitionDisable s
  | .vfEnable => Sys2Proof.Machine.execVfEnable s
  | .vfTeardown => Sys2Proof.Machine.execVfTeardown s
  | .circuitDisable => Sys2Proof.Machine.execCircuitDisable s
  | .frameZero => Sys2Proof.Machine.execFrameZero s
  | .policyInstall => Sys2Proof.Machine.execPolicyInstall s
  | .policyRemove => Sys2Proof.Machine.execPolicyRemove s
  | .keyRegister => Sys2Proof.Machine.execKeyRegister s
  | .migrationReplay => Sys2Proof.Machine.execMigrationReplay s
  | .handlerCreate => Sys2Proof.Machine.execHandlerCreate s
  | .handlerTeardown => Sys2Proof.Machine.execHandlerTeardown s
  | .presRetry => Sys2Proof.Machine.execPresRetry s
  | .presSkip => Sys2Proof.Machine.execPresSkip s
  | .presKill => Sys2Proof.Machine.execPresKill s
  | .pvalWrite => Sys2Proof.Machine.execPvalWrite s
  | .hpvalWrite => Sys2Proof.Machine.execHpvalWrite s
  | .forwardEvent => Sys2Proof.Machine.execForwardEvent s
  | .debugStopRequest => Sys2Proof.Machine.execDebugStopRequest s
  | .debugResume => Sys2Proof.Machine.execDebugResume s
  | .claimSuspend => Sys2Proof.Machine.execClaimSuspend s
  | .claimResume => Sys2Proof.Machine.execClaimResume s
  | .featureConfirm => Sys2Proof.Machine.execFeatureConfirm s
  | .mstateWrite => Sys2Proof.Machine.execMstateWrite s
  | .registerWrite => Sys2Proof.Machine.execRegisterWrite s
  | .lmapWrite => Sys2Proof.Machine.execLmapWrite s
  | .fmapWrite => Sys2Proof.Machine.execFmapWrite s
  | .status => Sys2Proof.Machine.execStatus s
  | .log => Sys2Proof.Machine.execLog s
  | .report => Sys2Proof.Machine.execReport s
  | .fwload => Sys2Proof.Machine.execFwload s
  | .stream => Sys2Proof.Machine.execStream s
  | .unknownRequest => Sys2Proof.Machine.execUnknownRequest s
  | .channelAck => Sys2Proof.Machine.execChannelAck s
  | .relocationComplete => Sys2Proof.Machine.execRelocationComplete s
  | .clauseNotWellFormed => Sys2Proof.Machine.execClauseNotWellFormed s

end Sys2Proof.Machine
end

