-- ==== Sys2Proof/Machine/Issue.lean ====
section
/-!
DEFINITION. Which PC groups are ready, and the choice of what the machine does next (R30, R31, R364; notes/assumptions 3, 4): an
event from outside, the second group of an issue cycle, a group chosen as R31 and R305 say, or one of the device's own steps, which
take turns with the groups.
-/

namespace Sys2Proof.Machine

/-! ### Ready groups (R30) -/

/-- What an instruction that is not held changes of a thread: its state, its PC, what it waits for, or how far it has come. -/
def Thread.moved (a b : Thread) : Bool :=
  decide (a.status ≠ b.status) || decide (a.pc ≠ b.pc) || decide (a.wait ≠ b.wait) || decide (a.qlane ≠ b.qlane)
    || decide (a.prog ≠ b.prog)

/-- The reason that holds an instruction of the group being issued: it asks for a hold and moves no lane. -/
def State.heldBy (s : State) (i : Instr) : Option Nat :=
  match exec i { s with holds := [] } with
  | .next t =>
    if s.cur.lanes.any (fun l => (s.thread (s.laneKey l)).moved (t.thread (s.laneKey l))) then none
    else (t.holds.find? (fun h => h.slot = s.cur.slotKey && h.pc = s.cur.pc)).map (·.reason)
  | _ => none

/-- The reason that holds a PC group, none when it is ready: its fetch, its clause wait, or what its instruction needs (R30). The
instruction is tried on the state, whose trial is dropped. -/
def State.groupHeld (s : State) (sk : Nat) (g : Group) : Option Nat :=
  match s.prepare sk g.lanes g.pc with
  | .run i s1 => s1.heldBy i
  | .held r _ => some r
  | .done _ => none

/-- The groups of a slot that are not ready. -/
def State.slotHolds (s : State) (p : Nat × Slot) : List Hold :=
  if s.slotRuns p.1 p.2 then (s.groups p.2).filterMap (fun g => (s.groupHeld p.1 g).map (fun r => ⟨p.1, g.pc, r⟩)) else []

/-- A pair without a ready group has none until one becomes ready (R305). -/
def State.settleReady (s : State) : State :=
  { s with quads := s.quads.mapVals (fun k q =>
      let keys := (s.readySlots k).map (fun p => p.2.pairKey)
      { q with vtimes := q.vtimes.mapVals (fun x v => { v with ready := v.ready && keys.contains x }) }) }

/-- Before a step: which groups are ready, and which pending gang members lack room (R30, R305, R440). -/
def State.refresh (s : State) : State := ({ s with holds := s.slots.flatMap s.slotHolds }.settleReady).noteLack

/-! ### The choice -/

/-- The second group of the cycle, if it is still ready (R31). -/
def State.trySecond (s : State) (x : Nat × PC × List Nat) : Option Act :=
  match s.secondGroup x with
  | none => none
  | some g =>
    if s.slotRuns x.1 (s.slotAt x.1) && (s.groupHeld x.1 g).isNone then
      some (s.tryGroup ⟨x.1, g, false, (s.quadAt (x.1 / 16)).vtimes, [], none⟩)
    else none

/-- A group or one of the device's own steps; they take turns. -/
def State.takeTurn (s : State) : Act :=
  if s.turn % 2 = 0 then (s.tryIssue <|> s.tryOwn).getD (.idle s) else (s.tryOwn <|> s.tryIssue).getD (.idle s)

/-- What the machine does next. -/
def State.act (s : State) : Act :=
  match s.inputs with
  | x :: xs => .event x.event { s with inputs := xs, stim := x.stim }
  | [] =>
    let s0 := { s with second := none }
    match s.second with
    | some x => (s0.trySecond x).getD (s0.missSecond x).takeTurn
    | none => s0.takeTurn

end Sys2Proof.Machine
end

