-- ==== Sys2Proof/Machine/Step.lean ====
section
/-!
DEFINITION. One step of the machine: it runs the event or the instruction that State.act names, and adds what the issue stage
and the clock add; and the host's way to place an instruction. Everything it calls stands in the other files.
-/

namespace Sys2Proof.Machine

/-- One step. -/
def step (s : State) : Host.Outcome State Fault Refusal :=
  match s.refresh.act with
  | .event i s1 => onNext State.closeEvent (exec i s1)
  | .issue p i s1 => onNext (State.closeInstr p s1) (exec i s1)
  | .settle p s1 => .next (s1.closeSettle p)
  | .idle s1 => .next s1.closeEvent

/-- The state in which the management core's next instruction is the one given: a clause of that one instruction stands at its
thread's program counter, and the thread is Active, in its slot, with nothing before it (notes/assumptions 11). -/
def State.withFetchWord (s : State) (nbits w : Nat) : State := s.placeClause (oneClause nbits w)

end Sys2Proof.Machine
end

