-- ==== Sys2Proof/Machine/RegisterOps.lean ====
section
/-!
DEFINITION. The instructions that only compute on registers, as data: what each reads, checks and writes. Statements name
these instructions through the two tables here; their meanings run the same operations.
-/

namespace Sys2Proof.Machine

/-- The register operation of an instruction of classes IA, II, PR, FA, FT, CV and their kin; none for any other. -/
def State.registerOp (s : State) (i : Instr) : Option Alu :=
  match i with
  | .add f => some (iaPlain f (rowAB true true) fnAdd)
  | .sub f => some (iaPlain f (rowAB true true) fnSub)
  | .neg f => some (iaPlain f (rowA true false) fnNeg)
  | .abs f => some (iaPlain f (rowA true false) fnAbs)
  | .mul f => some (iaPlain f (rowAB true true) fnMul)
  | .mulh f => some (iaPlain f ⟨[8, 16, 32], false, true, 2⟩ fnMulh)
  | .mad f => some (iaPlain f ⟨[8, 16, 32], true, true, 3⟩ fnMad)
  | .madh f => some (iaPlain f ⟨[16, 32], false, true, 3⟩ fnMadh)
  | .div f => some (iaElem f (rowAB false true) false true false fnDiv)
  | .rem f => some (iaElem f (rowAB false true) false true false fnRem)
  | .min f => some (iaPlain f (rowAB false true) fnMin)
  | .max f => some (iaPlain f (rowAB false true) fnMax)
  | .and f => some (iaPlain f (rowAB false true) fnAnd)
  | .or f => some (iaPlain f (rowAB false true) fnOr)
  | .xor f => some (iaPlain f (rowAB false true) fnXor)
  | .not f => some (iaPlain f (rowA false false) fnNot)
  | .andn f => some (iaPlain f (rowAB false true) fnAndn)
  | .shl f => some (iaPlain f (rowAB true true) fnShl)
  | .shr f => some (iaPlain f (rowAB false true) fnShr)
  | .sar f => some (iaPlain f (rowAB false true) fnSar)
  | .rol f => some (iaPlain f (rowAB false true) fnRol)
  | .popc f => some (iaElem f (rowA false false) (iaSat f) (f.xs 0 3 = 0) true fnPopc)
  | .clz f => some (iaElem f (rowA false false) (iaSat f) (f.xs 0 3 = 0) true fnClz)
  | .ctz f => some (iaElem f (rowA false false) (iaSat f) (f.xs 0 3 = 0) true fnCtz)
  | .brev f => some (iaPlain f (rowA false false) fnBrev)
  | .mov f => some (iaPlain f (rowA false true) fnMov)
  | .addc f => some (carryAlu f false)
  | .subb f => some (carryAlu f true)
  | .mulw f => some (wideAlu f false)
  | .madw f => some (wideAlu f true)
  | .fshl f => some (iaWord f true [wordSpec f, wordSpec f, wordSpec f] (wrap 32 (readInt (iaNat f) 8 f.rc)) false (iaWidth f = 32) [.v f.rd 1] [] (fun vs _ => [bits ((nth vs 0 * 2 ^ 32 + nth vs 1) * 2 ^ (nth vs 2 % 32)) 32 32]))
  | .bfx f => some (fieldAlu f false)
  | .bfi f => some (fieldAlu f true)
  | .perm f => some (iaWord f false [wordSpec f, wordSpec f, wordSpec f] 0 false (iaWidth f = 32) [.v f.rd 1] [] (fun vs _ => [permBytes (nth vs 0) (nth vs 1) (nth vs 2)]))
  | .sel f => some (selOp f)
  | .iset f => some (isetOp f)
  | .lea f => some (iaWord f true [(2, .plain), wordSpec f, (1, .plain)] f.rc false (iaIb f && f.rc ≤ 7 && iaWidth f = 32 && aligned f.rd 2) [.v f.rd 2] [] (fun vs _ => [leaPtr (iaNat f) (nth vs 0) (nth vs 1) (nth vs 2)]))
  | .sad f => some (sadOp f)
  | .dot4 f => some (dotAlu f 8)
  | .dot8 f => some (dotAlu f 4)
  | .movi f => some (if f.sel = 1 then immAlu f (aligned f.d.toNat 2) (.v f.d.toNat 2) (wrap 64 (sext f.imm.toNat 32)) else immAlu f (f.sel = 0) (.v f.d.toNat 1) f.imm.toNat)
  | .movh f => some (immAlu f (f.sel = 0 && aligned f.d.toNat 2) (.v (f.d.toNat + 1) 1) f.imm.toNat)
  | .fadd f => some (rsrAlu f s (faAB f) true (fun r xs _ => sumNum (isRdn r) [num xs 0, num xs 1]))
  | .fsub f => some (rsrAlu f s (faAB f) true (fun r xs _ => sumNum (isRdn r) [num xs 0, (num xs 1).negate]))
  | .fmul f => some (rsrAlu f s (faAB f) true (fun _ xs _ => mulNum (num xs 0) (num xs 1)))
  | .frnd f => some (frndOp f s)
  | .fscale f => some (fscaleOp f s)
  | .fma f => some (fmaOp f s)
  | .fmin f => some (minMaxAlu f.gn f.gp ((faFields f).plainOk f) (faFields f) false (faAB f) f.rd)
  | .fmax f => some (minMaxAlu f.gn f.gp ((faFields f).plainOk f) (faFields f) true (faAB f) f.rd)
  | .fset f => some (fsetOp f)
  | .fclass f => some (wordResult f (fun x v => 2 ^ classOf x.fmt x.ftz v))
  | .fexpn f => some (wordResult f (fun x v => expnOf (if x.fmt.width = 16 then 16 else 32) (x.fmt.decode x.ftz v)))
  | .fmant f => some (fmantOp f)
  | .fcopys f => some (fcopysOp f)
  | .frcp f => some (ftOne f true (algebraic rcpNum))
  | .frsq f => some (ftOne f true (algebraic rsqNum))
  | .fsqrt f => some (ftOne f true (algebraic sqrtNum))
  | .fdiv f => some (fdivOp f)
  | .fexp2 f => some (ftOne f false (transc .exp2))
  | .flog2 f => some (ftOne f false (transc .log2))
  | .fsin f => some (ftOne f false (transc .sin))
  | .fcos f => some (ftOne f false (transc .cos))
  | .ftanh f => some (ftOne f false (transc .tanh))
  | .fsigm f => some (ftOne f false (transc .sigm))
  | .fdot2 f => some (fdot2Op f s)
  | .fdot4 f => some (fdot4Op f s)
  | .addmin f => some (addMinAlu f s false)
  | .addmax f => some (addMinAlu f s true)
  | .fmini f => some (miniAlu f (f.sel = 0 && f.xs 0 3 = 0) (miniFloat false (f.xs 3 1 = 1)))
  | .fmaxi f => some (miniAlu f (f.sel = 0 && f.xs 0 3 = 0) (miniFloat true (f.xs 3 1 = 1)))
  | .imini f => some (miniAlu f (f.s 0 2 = 2 && f.s 3 2 = 0 && f.x = 0) (miniInt false (f.s 2 1 = 1)))
  | .imaxi f => some (miniAlu f (f.s 0 2 = 2 && f.s 3 2 = 0 && f.x = 0) (miniInt true (f.s 2 1 = 1)))
  | .cvt f => some (cvWord f (fltCode (f.rc / 16)) (fltCode (f.rc % 16)) (f.s 0 2 + 4 * f.xs 0 1) s (f.s 2 3 ≠ 6) none)
  | .cvts f => some (cvWord f (fltCode (f.rc / 16)) (fltCode (f.rc % 16)) (f.s 0 2 + 4 * f.xs 0 1) s (f.s 2 3 = 6) (some f.rb))
  | .cvti f => some (cvtiOp f s)
  | .pack f => some (packOp f)
  | .unpack f => some (unpackOp f)
  | .pand f => some (predAlu f (fun a b => a && b))
  | .por f => some (predAlu f (fun a b => a || b))
  | .pxor f => some (predAlu f xorB)
  | .pnot f => some (predOne f (fun a => !a))
  | .pmov f => some (match f.xs 0 2 with | 0 => predOne f (fun a => a) | 1 => packPreds f | 2 => unpackPreds f | _ => { predOne f (fun a => a) with ok := false })
  | .idx f => some (idxOp f s)
  | _ => none

/-- The cross-lane operation of an instruction of class XL; none for any other. -/
def laneOp (i : Instr) : Option XLane :=
  match i with
  | .shfl f => some (shflOp f)
  | .slide f => some (slideOp f)
  | .bcastl f => some (bcastlOp f)
  | .vote f => some (voteOp f)
  | .matchLanes f => some (matchLanesOp f)
  | .redux f => some (reduxLane f false)
  | .scan f => some (reduxLane f true)
  | .lmask f => some (lmaskOp f)
  | _ => none

end Sys2Proof.Machine
end

