-- ==== Sys2Proof/Machine/Uses.lean ====
section
/-!
DEFINITION. The use that an instruction makes of its operands, as data: its guard, and the first fault of steps 3 to 7 of R419
that its encoding, its operands and the issuing level give, which parks every executing lane. PAIR_WORD has two guards and
stands apart; the events have none.
-/

namespace Sys2Proof.Machine

/-- A guarded use: the guard, and the fault of steps 3 to 7 of R419. -/
structure Use where
  gn : BitVec 1
  gp : BitVec 3
  bad : Option Flt

/-- The use of an instruction that does more than compute on registers; none for any other. -/
def State.actUse (s : State) (i : Instr) : Option Use :=
  match i with
  | .nop f | .exit f | .yield f => some ⟨f.gn, f.gp, illBare f⟩
  | .bra f => some ⟨f.gn, f.gp, illBra f⟩
  | .call f => some ⟨f.gn, f.gp, illCall f s⟩
  | .rgrp f => some ⟨f.gn, f.gp, illRgrp f s⟩
  | .brx f | .ret f => some ⟨f.gn, f.gp, illIndirect f false s⟩
  | .callx f => some ⟨f.gn, f.gp, illIndirect f true s⟩
  | .jset f => some ⟨f.gn, f.gp, illJset f⟩
  | .jwait f | .jclr f => some ⟨f.gn, f.gp, illJoin f⟩
  | .elect f => some ⟨f.gn, f.gp, illElect f⟩
  | .chk f => some ⟨f.gn, f.gp, illChk f s⟩
  | .trap f | .dbgbrk f => some ⟨f.gn, f.gp, illCode f⟩
  | .iret f => some ⟨f.gn, f.gp, illIret f s⟩
  | .launch f => some ⟨f.gn, f.gp, illLaunch f s⟩
  | .join f => some ⟨f.gn, f.gp, illJoinGrid f s⟩
  | .trig f => some ⟨f.gn, f.gp, illTrig f⟩
  | .srd f => some ⟨f.gn, f.gp, illSrd f s⟩
  | .swr f => some ⟨f.gn, f.gp, illSwr f s⟩
  | .mark f => some ⟨f.gn, f.gp, illMark f s⟩
  | .halt f => some ⟨f.gn, f.gp, illHalt f s⟩
  | .ld f => some ⟨f.gn, f.gp, illLd f false s⟩
  | .ldS f => some ⟨f.gn, f.gp, illLd f true s⟩
  | .st f => some ⟨f.gn, f.gp, illSt f s⟩
  | .atom f => some ⟨f.gn, f.gp, illAtom f s⟩
  | .atomc f => some ⟨f.gn, f.gp, illAtomc f s⟩
  | .red f => some ⟨f.gn, f.gp, illRed f s⟩
  | .fence f => some ⟨f.gn, f.gp, illFence f⟩
  | .pref f => some ⟨f.gn, f.gp, illHint f 2 s⟩
  | .evict f => some ⟨f.gn, f.gp, illHint f 1 s⟩
  | .tagset f => some ⟨f.gn, f.gp, illTagset f s⟩
  | .tagget f => some ⟨f.gn, f.gp, illTagget f s⟩
  | .bcst f => some ⟨f.gn, f.gp, illBcst f s⟩
  | .pres f | .pclr f => some ⟨f.gn, f.gp, illPres f s⟩
  | .dcq f => some ⟨f.gn, f.gp, illDcq f⟩
  | .qinit f => some ⟨f.gn, f.gp, illQinit f s⟩
  | .qenq f => some ⟨f.gn, f.gp, illQenq f s⟩
  | .qdeq f => some ⟨f.gn, f.gp, illQdeq f s⟩
  | .qpeek f => some ⟨f.gn, f.gp, illQpeek f s⟩
  | .waitw f => some ⟨f.gn, f.gp, illWaitw f s⟩
  | .bari f => some ⟨f.gn, f.gp, illBari f s⟩
  | .bara f => some ⟨f.gn, f.gp, illBara f s⟩
  | .barw f => some ⟨f.gn, f.gp, illBarw f s⟩
  | .bars f => some ⟨f.gn, f.gp, illBars f⟩
  | .tbari f => some ⟨f.gn, f.gp, illTbari f s⟩
  | .tbare f => some ⟨f.gn, f.gp, illTbare f s⟩
  | .lbrd f => some ⟨f.gn, f.gp, illLbrd f s⟩
  | .lbor f => some ⟨f.gn, f.gp, illLbor f s⟩
  | .clrseg f => some ⟨f.gn, f.gp, illClrseg f s⟩
  | .mcfg f => some ⟨f.gn, f.gp, illBlock f 7 s⟩
  | .epcfg f => some ⟨f.gn, f.gp, illBlock f 1 s⟩
  | .wload f => some ⟨f.gn, f.gp, illWload f s⟩
  | .wloadr f => some ⟨f.gn, f.gp, illWloadr f s⟩
  | .wclr f => some ⟨f.gn, f.gp, illWclr f s⟩
  | .mma f => some ⟨f.gn, f.gp, illMma f .mma s⟩
  | .mmasp f => some ⟨f.gn, f.gp, illMma f .mmasp s⟩
  | .mconv f => some ⟨f.gn, f.gp, illMma f .mconv s⟩
  | .mmar f => some ⟨f.gn, f.gp, illMma f .mmar s⟩
  | .mstat f => some ⟨f.gn, f.gp, illMstat f s⟩
  | .mdrain f => some ⟨f.gn, f.gp, illMdrain f s⟩
  | .mrdacc f => some ⟨f.gn, f.gp, s.accBad f true⟩
  | .mwracc f => some ⟨f.gn, f.gp, s.accBad f false⟩
  | .xcopy f => some ⟨f.gn, f.gp, illXcopy f s⟩
  | .xkick f => some ⟨f.gn, f.gp, illXkick f s⟩
  | .xwait f => some ⟨f.gn, f.gp, illXwait f s⟩
  | .xtest f => some ⟨f.gn, f.gp, illTest f 3 s⟩
  | .rtest f => some ⟨f.gn, f.gp, illTest f 6 s⟩
  | .send f => some ⟨f.gn, f.gp, illSend f s⟩
  | .recv f => some ⟨f.gn, f.gp, illRecv f s⟩
  | .obsend f => some ⟨f.gn, f.gp, illObsend f s⟩
  | .obrecv f => some ⟨f.gn, f.gp, illObrecv f s⟩
  | .obstat f => some ⟨f.gn, f.gp, illObstat f s⟩
  | .rel f => some ⟨f.gn, f.gp, illRel f s⟩
  | .wpset f => some ⟨f.gn, f.gp, illWatch f true s⟩
  | .wpclr f => some ⟨f.gn, f.gp, illWatch f false s⟩
  | .profrd f => some ⟨f.gn, f.gp, illProfrd f s⟩
  | .tlbi f => some ⟨f.gn, f.gp, illTlbi f s⟩
  | .ctxsv f | .ctxld f => some ⟨f.gn, f.gp, illCtx f s⟩
  | .crrd f | .crwr f => some ⟨f.gn, f.gp, illRing f s⟩
  | _ => none

/-- The use of an instruction with one guard; none for PAIR_WORD and for an event. -/
def State.useOf (s : State) (i : Instr) : Option Use :=
  match s.registerOp i, laneOp i, s.actUse i with
  | some op, _, _ => some ⟨op.gn, op.gp, op.bad s.quota⟩
  | none, some op, _ => some ⟨op.gn, op.gp, illegal op.ok (op.srcs.any (·.beyond s.quota) || op.dst.beyond s.quota)⟩
  | none, none, u => u

end Sys2Proof.Machine
end

