-- ==== Sys2Proof/Safety.lean ====
section
/-!
DEFINITION. The terms in which claims are stated: what a safe run is, what an issuing group that the schedule can choose looks
like, what a destination holds after it took a value, and what an instruction that only computes on registers may change.
-/

namespace Sys2Proof.Machine

/-- A run of `n` steps that neither faults nor refuses. -/
def SafeRun (n : Nat) (s : State) : Prop := ∃ t, Sys2Proof.core.run n s = .next t

/-- The issuing group is one that a slot can hold (R27, R29): the slot exists, the group's lanes are distinct and each of
them holds a thread, no two the same. -/
def State.ordered (s : State) : Bool :=
  (s.slots.get? s.cur.slotKey).isSome && decide s.cur.lanes.Nodup && decide (s.cur.lanes.map s.laneKey).Nodup
    && s.cur.lanes.all (fun l => (s.threads.get? (s.laneKey l)).isSome)

/-- A destination takes what it receives: a value, or a token that the thread's own ring holds (R406, R407). -/
def Thread.take (t : Thread) (d : Dst) (o : Out) : Thread :=
  match o, d with
  | .val v, .v r n => t.setRegs r n v
  | .val v, .p r => t.setPred r (v % 2 = 1)
  | .tok k _, .v r n => (List.range n).foldl (fun t i => t.poisonReg (r + i) k) t
  | .tok k _, .p r => t.poisonPred r k

/-- Destinations take what they receive, in order. -/
def Thread.takeAll (t : Thread) : List Dst → List Out → Thread
  | d :: ds, o :: os => (t.take d o).takeAll ds os
  | _, _ => t

/-- From `s`, the lanes `ex` of the issuing group wrote `out` to the destinations `ds`, under the label `lab`, and the whole
group went on: every lane of the group has the next PC, every other thread is as it was; of the issuing slot only the labels
of `ds` changed (R147), of every other slot nothing; and nothing else of the machine changed, its memory included. -/
def State.Wrote (s t : State) (ex : List Nat) (ds : List Dst) (out : Nat → List Out) (lab : Label) : Prop :=
  (∀ l ∈ ex, t.lane l = { (s.lane l).takeAll ds (out l) with pc := s.cur.nextPC })
  ∧ (∀ l ∈ s.cur.lanes, l ∉ ex → t.lane l = { s.lane l with pc := s.cur.nextPC })
  ∧ (∀ k, k ∉ s.cur.lanes.map s.laneKey → t.thread k = s.thread k)
  ∧ t.curSlot = ds.foldl (Slot.labelDst · (s.wholeSlot ex) lab) s.curSlot
  ∧ (∀ k, k ≠ s.cur.slotKey → t.slotAt k = s.slotAt k)
  ∧ t = { s with threads := t.threads, slots := t.slots }

/-- No executing lane carries poison into the operation (R411). -/
def State.clean (s : State) (op : Alu) : Bool := (s.execLanes op.gn op.gp).all (fun l => (op.token (s.lane l)).isNone)

/-! ### Terms of the register statements -/

/-- The destination of a class IA instruction: a register, or a pair at width 64 (R172). -/
def iaDst (f : GFmt) : List Dst := [.v f.rd (regsOf (iaWidth f))]

/-- The operands of a class IA instruction of `n` sources in a thread, modifiers applied and imm8 extended (R112, R116). -/
def iaArgs (f : GFmt) (n : Nat) (t : Thread) : List Nat :=
  (iaOperands f (List.replicate n (regsOf (iaWidth f), intElem (iaNat f) (iaWidth f)))
    (immBits (iaNat f) (iaWidth f) (32 * regsOf (iaWidth f)) f.rc)).map (Opnd.val t)

/-- The result of a class IA instruction: `fn` on each element of its `n` operands, read by signedness, narrowed (R172). -/
def iaResult (f : GFmt) (n : Nat) (sat : Bool) (fn : ElemFn) (s : State) (l : Nat) : List Nat :=
  [elementwise fn sat (iaNat f) (iaWidth f) (32 * regsOf (iaWidth f)) (iaArgs f n (s.lane l))]

/-- Operand `k` of a word form of class IA. -/
def iaWordArg (f : GFmt) (spec : List (Nat × Elem)) (imm k : Nat) (t : Thread) : Nat :=
  nth ((iaOperands f spec imm).map (Opnd.val t)) k

/-- Operand `k` of a class FA or FT instruction in a thread: the bits of element `e` (R185). -/
def fpArg (x : FaFields) (r m e : Nat) (t : Thread) : Nat := bits ((x.fmt.opnd r m).val t) (x.fmt.width * e) x.fmt.width

/-- The value of an operand's element (R132, R140). -/
def fpVal (x : FaFields) (r m e : Nat) (t : Thread) : FloatVal := x.fmt.decode x.ftz (fpArg x r m e t)

/-- A result of a class FA or FT instruction, element by element (R185). -/
def fpResult (x : FaFields) (one : Nat → Nat) : List Nat := [joinElems x.fmt.width ((List.range (x.fmt.count x.x2)).map one)]

/-- The mode of an instruction with a rounding field and no RAND (R116). -/
def fpMode (x : FaFields) (s : State) : RMode := resolveRM x.rm (bits s.rmode 0 3) false 0 0

/-- The mode of an RSR form in a lane for element `e`, with RAND from C (R116, R138). -/
def fpModeRand (f : GFmt) (x : FaFields) (s : State) (e l : Nat) : RMode :=
  let wr := randOf ((s.lane l).reg f.rc).toNat (x.fmt.count x.x2) e
  resolveRM x.rm (bits s.rmode 0 3) true wr.1 wr.2

/-- In every state in which the group is ordered, some lane executes, the use is legal (steps 5 and 6 of R419) and no
executing lane carries poison, the instruction completes: its executing lanes write `val` to `ds`, and nothing else changes
but the PCs of the group and the labels of `ds`. -/
def Gives (i : Instr) (ds : List Dst) (val : State → Nat → List Nat) : Prop :=
  ∀ (s : State) (op : Alu), s.registerOp i = some op → s.ordered = true → op.bad s.quota = none →
    s.execLanes op.gn op.gp ≠ [] → s.clean op = true →
    ∃ t, exec i s = .next t
      ∧ s.Wrote t (s.execLanes op.gn op.gp) ds (fun l => (val s l).map .val) (op.label s (s.execLanes op.gn op.gp))

/-- No participant of a cross-lane instruction carries poison in its guard or its sources (R412). -/
def State.cleanLanes (s : State) (op : XLane) : Bool :=
  (s.execLanes op.gn op.gp).all (fun l =>
    (s.guardTok op.gp l).isNone && op.srcs.all (fun x => (x.token (s.lane l)).isNone))

/-- In every state in which the group is ordered, some lane executes, the use is legal and no participant carries poison, the
cross-lane instruction completes: participant `l` writes `val` of the participants to `d`, and nothing else changes but the
PCs of the group and the label of `d`. -/
def GivesLanes (i : Instr) (d : Dst) (val : State → List Nat → Nat → Nat) : Prop :=
  ∀ (s : State) (op : XLane), laneOp i = some op → s.ordered = true →
    illegal op.ok (op.srcs.any (·.beyond s.quota) || op.dst.beyond s.quota) = none →
    s.execLanes op.gn op.gp ≠ [] → s.cleanLanes op = true →
    ∃ t, exec i s = .next t
      ∧ s.Wrote t (s.execLanes op.gn op.gp) [d] (fun l => [.val (val s (s.execLanes op.gn op.gp) l)])
          (s.labelL op.gp.toNat (s.execLanes op.gn op.gp) (s.curSlot.srcLabel op.srcs) 0)

/-! ### Terms of the statements about the other instructions -/

/-- The use of `i` in `s` has the guard `gn`, `gp`, is legal (steps 3 to 7 of R419), and some lane executes: the lanes `ex`. -/
def State.Runs (s : State) (i : Instr) (gp : BitVec 3) (ex : List Nat) : Prop :=
  ∃ u, s.useOf i = some u ∧ u.bad = none ∧ u.gp = gp ∧ s.execLanes u.gn gp = ex ∧ ex ≠ []

/-- Wherever `i` runs, it completes in the state that `t` gives. -/
def Does (i : Instr) (t : State → BitVec 3 → List Nat → State) : Prop :=
  ∀ s gp ex, s.Runs i gp ex → exec i s = .next (t s gp ex)

/-- Wherever `i` runs, no executing lane raises its guard or `srcs`, and `ok` holds, it completes in the state that `t`
gives. -/
def ActsIf (i : Instr) (srcs : State → List Src) (ok : State → BitVec 3 → Nat → Prop) (t : State → BitVec 3 → List Nat → State) : Prop :=
  ∀ s gp ex, s.Runs i gp ex → (∀ l ∈ ex, s.raiseTok gp (srcs s) l = none) → (∀ l ∈ ex, ok s gp l) → exec i s = .next (t s gp ex)

/-- Wherever `i` runs and no executing lane raises its guard or `srcs`, it completes in the state that `t` gives. -/
def Acts (i : Instr) (srcs : List Src) (t : State → BitVec 3 → List Nat → State) : Prop :=
  ActsIf i (fun _ => srcs) (fun _ _ _ => True) t

/-- As `Acts` in an ordered state: the executing lanes write `val` to `ds` under the label `lab`, and nothing else changes but
the PCs of the group and the labels of `ds`. -/
def Writes (i : Instr) (srcs : List Src) (ds : State → List Dst) (val : State → List Nat → Nat → List Nat)
    (lab : State → BitVec 3 → List Nat → Label) : Prop :=
  ∀ s gp ex, s.Runs i gp ex → s.ordered = true → (∀ l ∈ ex, s.raiseTok gp srcs l = none) →
    ∃ t, exec i s = .next t ∧ s.Wrote t ex (ds s) (fun l => (val s ex l).map .val) (lab s gp ex)

/-- Every lane of `ex` passes the check, in order: `v` is each lane with what its check gave, and `s1` the state after the
checks, in which walks may have filled the translation buffers. -/
def State.Passes {α : Type} (s : State) (chk : State → Nat → Ans α × State) (ex : List Nat) (v : List (Nat × α)) (s1 : State) : Prop :=
  checkLanes chk s ex = (v.map (fun p => (p.1, .ok p.2)), s1)

/-- Wherever `i` runs and every executing lane passes its check, it completes: the state that `t` gives from what the checks
answered, in which the group goes on. -/
def Completes {α : Type} (i : Instr) (chk : State → Nat → Ans α × State) (t : State → List (Nat × α) → State) : Prop :=
  ∀ s gp ex v s1, s.Runs i gp ex → s.Passes chk ex v s1 → exec i s = .next ((t s1 v).advance s.cur.lanes)

/-- As `Completes`, where `r` gives the lanes' answers together. -/
def Settles {α : Type} (i : Instr) (r : State → List Nat → List (Nat × Ans α) × State) (t : State → List (Nat × α) → State) : Prop :=
  ∀ s gp ex v s1, s.Runs i gp ex → r s ex = (v.map (fun p => (p.1, .ok p.2)), s1) → exec i s = .next ((t s1 v).advance s.cur.lanes)

/-- As `Completes`, for an instruction after which some lanes do not go on to the next PC: `t` says which. -/
def CompletesStay {α : Type} (i : Instr) (chk : State → Nat → Ans α × State) (t : State → List (Nat × α) → State × List Nat) : Prop :=
  ∀ s gp ex v s1, s.Runs i gp ex → s.Passes chk ex v s1 → exec i s = .next ((t s1 v).1.advance (s.othersOf (t s1 v).2))

/-- Wherever a queue instruction runs, no executing lane has completed before, and each completes now in ascending order (R231),
it completes: %prog counts the lanes, and `State.queEnd` ends it. -/
def QueueCompletes (i : Instr) (srcs : List Src) (dst : Option Dst) (one : State → Nat → QAns × State) : Prop :=
  ∀ s gp ex t, s.Runs i gp ex → (∀ l ∈ ex, (s.lane l).queueDone = false) →
    queLanes dst (State.queLane gp srcs one) (s.queRanks ex) ex ⟨[], [], [], none⟩ = (⟨ex, [], [], none⟩, t) →
    exec i s = .next (((ex.foldl (fun x l => x.updLane l (fun th => { th with prog := th.prog + ex.length })) t).queEnd
      gp srcs dst ex).advance s.cur.lanes)

/-- The offset that a scratchpad pointer and a displacement give (R54, R55). -/
def spOff (ptr : Nat) (disp : Int) : Nat := (bits ptr 0 20 + disp).toNat

/-- An access of lane `l` to `n` aligned bytes of its own scratchpad that nothing stops (R54 to R56, R67 to R69, R448): the member
and reserved bits of the pointer are zero, the sum stays within 20 bits and the bytes within the program area, the sector has the
pointer's tag and is not bad, the line is present, and no queued store of the thread touches the bytes. -/
def State.ownSpan (s : State) (st : Stand) (l ptr : Nat) (disp : Int) (n : Nat) : Bool :=
  let o := spOff ptr disp
  bits ptr 20 8 = 0 && decide (0 ≤ bits ptr 0 20 + disp) && decide (bits ptr 0 20 + disp < (2 ^ 20 : Nat)) && decide (o + n ≤ st.areaA)
    && o % n = 0 && st.sptags.getD (o / 32) 0 = bits ptr 28 4 && !st.absent.contains (o / 64) && !st.bad.contains (o / 32)
    && !(s.thread (s.laneKey l)).storeQ.any (fun e => overlaps e.loc e.bytes.length (.sp s.curStand o) n)

/-- Wherever `i`, which acts once for its group, runs, no executing lane raises `low` of the lowest lane or `each`, and the
lowest lane passes its check, it completes in the state that `t` gives. -/
def GroupCompletes {α : Type} (i : Instr) (low each : List Src) (chk : State → Nat → List Nat → Ans α × State)
    (t : State → BitVec 3 → Nat → List Nat → α → State) : Prop :=
  ∀ s gp l ls a s1, s.Runs i gp (l :: ls) → (∀ m ∈ l :: ls, s.groupTok gp low each (l = m) m = none) →
    chk s l (l :: ls) = (.ok a, s1) → exec i s = .next (t s1 gp l (l :: ls) a)

/-- Wherever `i`, which its lowest lane carries out, runs, no executing lane raises `srcs`, and the lowest lane passes its
check, it completes: the state that `t` gives, in which the group goes on. -/
def OnceCompletes {α : Type} (i : Instr) (srcs : List Src) (chk : State → Nat → Ans α × State) (t : State → Nat → α → State) : Prop :=
  ∀ s gp l ls a s1, s.Runs i gp (l :: ls) → (∀ m ∈ l :: ls, s.raiseTok gp srcs m = none) →
    chk s l = (.ok a, s1) → exec i s = .next ((t s1 l a).advance s.cur.lanes)

/-- A control transfer: wherever it runs and no executing lane raises, has a target that faults or fails the flow check
(R324), each lane's PC is its target at index 0 and its carried label takes those of the guard and the target (R153), the pair
`link` takes the address of the next clause where there is a link (R150), and the other lanes of the group go on. -/
def Transfers (i : Instr) (srcs : List Src) (link : Option Nat) (target : State → Nat → Int × Option Flt) : Prop :=
  ActsIf i (fun _ => srcs) (fun s gp l => (target s l).2 = none ∧ s.flowFlt gp (s.curSlot.srcLabel srcs) l = none)
    (fun s gp ex =>
      let linked := match link with
        | some d => s.commit ex [.v d 2] (s.labelL gp.toNat ex (s.curSlot.srcLabel srcs) 0) (ex.map (fun l => (l, [Out.val s.cur.next])))
        | none => s
      (ex.foldl (fun x l => x.takeTransfer l (target s l).1.toNat (s.curSlot.predLabel gp.toNat ||| s.curSlot.srcLabel srcs))
        linked).advance (s.othersOf ex))

end Sys2Proof.Machine
end

