-- ==== Sys2Proof/WellFormed.lean ====
section
/-!
DEFINITION. Which terms of Instr stand for a word of the opcode map or for an event of this device: the constructor is the one
that the word's fields select (R124, R125, R217), bits that the map marks zero are zero (R118, R119, R124), and an event names
a part that the device has (R16, R20, R22, R449). What the other fields may hold is judged when an instruction issues (R419).
-/

namespace Sys2Proof

/-- The opcodes that the map assigns and this device implements (R124, R125, R384). -/
def assignedOp (op : Nat) : Bool :=
  op < 0x018 || (0x040 ≤ op && op < 0x070) || (0x080 ≤ op && op < 0x0A4) || (0x0C0 ≤ op && op < 0x0C8)
    || (0x100 ≤ op && op < 0x11C) || (0x140 ≤ op && op < 0x14D) || (0x180 ≤ op && op < 0x18B) || (0x1C0 ≤ op && op < 0x1C6)
    || op = 0x380 || op = 0x381

/-- Check 1: the fields select this constructor. VAR[3] tells LD.S from LD (R217), and only a word whose opcode is not
assigned, and is not the header's, is an unassigned one (R125). -/
def Instr.selects : Instr → Bool
  | .ld f => !f.var.getLsbD 3
  | .ldS f => f.var.getLsbD 3
  | .unassignedOpcode w => !assignedOp (w.extractLsb' 54 10).toNat && (w.extractLsb' 54 10).toNat ≠ 0x3FF
  | _ => true

/-- A compact operation has its reserved bit zero and a COP that R120 names (R119, R120). -/
def CFmt.wellFormed (c : CFmt) : Bool := c.rsv = 0 && c.cop.toNat ≤ 35

/-- Check 2: the bits that the map marks zero are zero (R118, R119, R124). -/
def Instr.zeroBits : Instr → Bool
  | .nop f | .brx f | .callx f | .ret f | .exit f | .jset f | .jwait f | .jclr f | .elect f | .yield f | .chk f => f.x = 0
  | .bra f | .call f | .rgrp f => f.x = 0
  | .pairWord x y => x.wellFormed && y.wellFormed
  | _ => true

/-- Check 3: an event names a part of the device: a site or the management core, a quadrant, a cluster, an optical port, a
waveguide, a DRAM channel, a virtual function, a host core. -/
def Instr.namesParts : Instr → Bool
  | .rowAccept q | .rowWrite q | .epilogue q | .wloadComplete q | .warpForm q | .stallReasonCount q => q < 4 * 7681
  | .balancerPass c | .trapRecordClose c => c < 7681
  | .flumeRds c _ | .flumeRdx c _ | .flumeUpg c _ | .flumeWb c _ => c < 384 || (384 < c && c < 481)
  | .flumeWst c => c < 384
  | .burstTransmit p | .guaranteeLapse p _ _ | .guaranteeRestored p => p < 96
  | .burstArrival p _ _ _ | .resetNotice p _ _ => p < 96
  | .retest s _ _ | .linkRetry s _ | .linkDown s _ _ _ => s < 7680
  | .scratchpadScrub c _ _ _ => c < 7680
  | .dramScrub ch _ _ _ => ch < 1024
  | .vaultScrub c _ _ _ => c < 384
  | .marginAlarm g _ _ => g < 48
  | .launchSubmit h v _ => h < 96 && v < 1024
  | .hostLoad h _ _ | .hostStore h _ _ => h < 96
  | _ => true

/-- Whether an instruction is a pair word, which the header's PAIR bit tells (R105). -/
def Instr.isPair : Instr → Bool
  | .pairWord _ _ => true
  | _ => false

/-- A well-formed instruction or event. -/
def Instr.wellFormed (i : Instr) : Bool := i.selects && i.zeroBits && i.namesParts

end Sys2Proof
end

