-- ==== Sys2Proof/Certificates/Slice0/Obligations.lean ====
section
/-!
DEFINITION. The statements for the provers: each formalises rules of the spec, or is derived from the sections it names, and
says what the machine does; docstrings name the rules (R numbers of spec/) and the log entries a clause rests on.
-/

open Sys2Proof Sys2Proof.Machine

/-- R172, R174, R175 and R177 (spec/07): in every executing lane each element of D is the operation on the elements of the sources, read
by signedness and narrowed to the width, and nothing else changes but PCs and D's label. -/
def Obligations.IntegerElements : Prop := ∀ f : GFmt,
  Gives (.add f) (iaDst f) (iaResult f 2 (iaSat f) (fun _ _ a b _ => a + b))
  ∧ Gives (.sub f) (iaDst f) (iaResult f 2 (iaSat f) (fun _ _ a b _ => a - b))
  ∧ Gives (.neg f) (iaDst f) (iaResult f 1 (iaSat f) (fun _ _ a _ _ => 0 - a))
  ∧ Gives (.abs f) (iaDst f) (iaResult f 1 (iaSat f) (fun _ _ a _ _ => a.natAbs))
  ∧ Gives (.mul f) (iaDst f) (iaResult f 2 (iaSat f) (fun _ _ a b _ => a * b))
  ∧ Gives (.mulh f) (iaDst f) (iaResult f 2 (iaSat f) (fun _ w a b _ => a * b / (2 ^ w : Nat)))
  ∧ Gives (.mad f) (iaDst f) (iaResult f 3 (iaSat f) (fun _ _ a b c => a * b + c))
  ∧ Gives (.madh f) (iaDst f) (iaResult f 3 (iaSat f) (fun _ w a b c => a * b / (2 ^ w : Nat) + c))
  ∧ Gives (.div f) (iaDst f) (iaResult f 2 false (fun nat w a b _ =>
      if b = 0 then (if nat then ((2 ^ w : Nat) : Int) - 1 else -1) else Int.tdiv a b))
  ∧ Gives (.rem f) (iaDst f) (iaResult f 2 false (fun _ _ a b _ => if b = 0 then a else Int.tmod a b))
  ∧ Gives (.min f) (iaDst f) (iaResult f 2 (iaSat f) (fun _ _ a b _ => min a b))
  ∧ Gives (.max f) (iaDst f) (iaResult f 2 (iaSat f) (fun _ _ a b _ => max a b))
  ∧ Gives (.and f) (iaDst f) (iaResult f 2 (iaSat f) (fun _ w a b _ => (wrap w a &&& wrap w b : Nat)))
  ∧ Gives (.or f) (iaDst f) (iaResult f 2 (iaSat f) (fun _ w a b _ => (wrap w a ||| wrap w b : Nat)))
  ∧ Gives (.xor f) (iaDst f) (iaResult f 2 (iaSat f) (fun _ w a b _ => (wrap w a ^^^ wrap w b : Nat)))
  ∧ Gives (.not f) (iaDst f) (iaResult f 1 (iaSat f) (fun _ _ a _ _ => -1 - a))
  ∧ Gives (.andn f) (iaDst f) (iaResult f 2 (iaSat f) (fun _ w a b _ => (wrap w a &&& (2 ^ w - 1 - wrap w b) : Nat)))
  ∧ Gives (.shl f) (iaDst f) (iaResult f 2 (iaSat f) (fun _ w a b _ => a * (2 ^ min (wrap w b) (2 * w) : Nat)))
  ∧ Gives (.shr f) (iaDst f) (iaResult f 2 (iaSat f) (fun _ w a b _ => (wrap w a / 2 ^ min (wrap w b) w : Nat)))
  ∧ Gives (.sar f) (iaDst f) (iaResult f 2 (iaSat f) (fun _ w a b _ => sext (wrap w a) w / (2 ^ min (wrap w b) w : Nat)))
  ∧ Gives (.rol f) (iaDst f) (iaResult f 2 (iaSat f) (fun _ w a b _ =>
      (wrap w a * 2 ^ (wrap w b % w) + wrap w a / 2 ^ (w - wrap w b % w) : Nat)))
  ∧ Gives (.popc f) [.v f.rd 1] (iaResult f 1 (iaSat f) (fun _ w a _ _ => (popCount w (wrap w a) : Nat)))
  ∧ Gives (.clz f) [.v f.rd 1] (iaResult f 1 (iaSat f) (fun _ w a _ _ => (clz w (wrap w a) : Nat)))
  ∧ Gives (.ctz f) [.v f.rd 1] (iaResult f 1 (iaSat f) (fun _ w a _ _ => (ctz w (wrap w a) : Nat)))
  ∧ Gives (.brev f) (iaDst f) (iaResult f 1 (iaSat f) (fun _ w a _ _ => (revBits w (wrap w a) : Nat)))
  ∧ Gives (.mov f) (iaDst f) (iaResult f 1 (iaSat f) (fun _ _ a _ _ => a))

/-- R172, R173, R175, R176, R178 to R182 (spec/07): the word forms with rules of their own, and the sums over the elements of words with a
word addend. -/
def Obligations.IntegerWords : Prop :=
  ((∀ f : GFmt,
    Gives (.addc f) [.v f.rd 1, .p (f.rc % 8)] (fun s l =>
      let n := iaWordArg f [wordSpec f, wordSpec f] 0 0 (s.lane l) + iaWordArg f [wordSpec f, wordSpec f] 0 1 (s.lane l)
        + (if (s.lane l).pred (f.rc % 8) then 1 else 0)
      [n % 2 ^ 32, if 2 ^ 32 ≤ n then 1 else 0])
    ∧ Gives (.subb f) [.v f.rd 1, .p (f.rc % 8)] (fun s l =>
      let a := iaWordArg f [wordSpec f, wordSpec f] 0 0 (s.lane l)
      let b := iaWordArg f [wordSpec f, wordSpec f] 0 1 (s.lane l) + (if (s.lane l).pred (f.rc % 8) then 1 else 0)
      [wrap 32 ((a : Int) - b), if a < b then 1 else 0])
    ∧ Gives (.mulw f) [.v f.rd 2] (fun s l =>
      let arg k := iaWordArg f [wordSpec f, wordSpec f] (wrap 32 (readInt (iaNat f) 8 f.rc)) k (s.lane l)
      [wrap 64 (readInt (iaNat f) 32 (arg 0) * readInt (iaNat f) 32 (arg 1))])
    ∧ Gives (.madw f) [.v f.rd 2] (fun s l =>
      let arg k := iaWordArg f [wordSpec f, wordSpec f, (2, .plain)] (wrap 32 (readInt (iaNat f) 8 f.rc)) k (s.lane l)
      [wrap 64 (readInt (iaNat f) 32 (arg 0) * readInt (iaNat f) 32 (arg 1) + readInt (iaNat f) 64 (arg 2))])
    ∧ Gives (.fshl f) [.v f.rd 1] (fun s l =>
      let arg k := iaWordArg f [wordSpec f, wordSpec f, wordSpec f] (wrap 32 (readInt (iaNat f) 8 f.rc)) k (s.lane l)
      [(arg 0 * 2 ^ 32 + arg 1) * 2 ^ (arg 2 % 32) / 2 ^ 32 % 2 ^ 32])
    ∧ Gives (.bfx f) (iaDst f) (fun s l =>
      let e := (regsOf (iaWidth f), intElem (iaNat f) (iaWidth f))
      let arg k := iaWordArg f [e, e, wordSpec f] f.rc k (s.lane l)
      let p := arg 1 % 256
      let n := min (arg 2 % 256) (iaWidth f)
      [if n = 0 then 0 else wrap (iaWidth f) (readInt (iaNat f) n (wrap (p + n) (readInt (iaNat f) (iaWidth f) (arg 0)) / 2 ^ p))])
    ∧ Gives (.bfi f) (iaDst f) (fun s l =>
      let e := (regsOf (iaWidth f), intElem (iaNat f) (iaWidth f))
      let arg k := iaWordArg f [e, e, wordSpec f] f.rc k (s.lane l)
      let p := arg 2 % 256
      let mask := (2 ^ (arg 2 / 256 % 256) - 1) * 2 ^ p % 2 ^ iaWidth f
      [(arg 1 &&& (2 ^ iaWidth f - 1 - mask)) ||| (arg 0 * 2 ^ p &&& mask)])
    ∧ Gives (.perm f) [.v f.rd 1] (fun s l =>
      let arg k := iaWordArg f [wordSpec f, wordSpec f, wordSpec f] 0 k (s.lane l)
      let byte k := bits (arg 0 + 2 ^ 32 * arg 2) (8 * bits (arg 1) (4 * k) 3) 8
      [joinElems 8 ((List.range 4).map (fun k =>
        if bit (arg 1) (4 * k + 3) then (if bit (byte k) 7 then 0xFF else 0) else byte k))])
    ∧ Gives (.sel f) (iaDst f) (fun s l =>
      let e := intElem (iaNat f) (iaWidth f)
      [if (s.lane l).pred (f.rc % 8) then e.modify f.ma.toNat ((s.lane l).regNat f.ra (regsOf (iaWidth f)))
       else e.modify f.mb.toNat ((s.lane l).regNat f.rb (regsOf (iaWidth f)))])
    ∧ Gives (.iset f) [.p (f.rd % 8)] (fun s l =>
      let arg k := readInt (iaNat f) (iaWidth f) (nth (iaArgs f 2 (s.lane l)) k)
      [if intTest (8 * f.s 3 1 + f.xs 0 3) (arg 0) (arg 1) then 1 else 0])
    ∧ Gives (.lea f) [.v f.rd 2] (fun s l =>
      let arg k := iaWordArg f [(2, .plain), wordSpec f, (1, .plain)] f.rc k (s.lane l)
      [bits (arg 0) 56 8 * 2 ^ 56 + wrap 56 ((bits (arg 0) 0 56 : Int) + readInt (iaNat f) 32 (arg 1) * (2 ^ arg 2 : Nat))]))
  ∧ (∀ f : IFmt,
    Gives (.movi f) [.v f.d.toNat (if f.sel = 1 then 2 else 1)]
      (fun _ _ => [if f.sel = 1 then wrap 64 (sext f.imm.toNat 32) else f.imm.toNat])
    ∧ Gives (.movh f) [.v (f.d.toNat + 1) 1] (fun _ _ => [f.imm.toNat])))
  ∧ (∀ f : GFmt,
  Gives (.sad f) [.v f.rd 1] (fun s l =>
    let w := iaWidth f
    let u := iaNat f
    let arg k := iaWordArg f [(1, .packed w), (1, .packed w), (1, .int u)] (wrap 32 (readInt u 8 f.rc)) k (s.lane l)
    let e k := (splitElems w (32 / w) (arg k)).map (readInt u w)
    [narrow (iaSat f) u 32 ((List.zipWith (fun a b => ((a - b).natAbs : Int)) (e 0) (e 1)).foldl (· + ·) (readInt u 32 (arg 2)))])
  ∧ (∀ w i, (w = 8 ∧ i = Instr.dot4 f) ∨ (w = 4 ∧ i = Instr.dot8 f) →
    Gives i [.v f.rd 1] (fun s l =>
      let mx : Bool := f.xs 0 1 = 1
      let u := iaNat f && !mx
      let arg k := iaWordArg f [(1, .packed w), (1, .packed w), (1, .int u)] (wrap 32 (readInt u 8 f.rc)) k (s.lane l)
      let ea := (splitElems w (32 / w) (arg 0)).map (readInt u w)
      let eb := (splitElems w (32 / w) (arg 1)).map (readInt (iaNat f || mx) w)
      [narrow (iaSat f) u 32 ((List.zipWith (· * ·) ea eb).foldl (· + ·) (readInt u 32 (arg 2)))])))

/-- R183 (spec/07): predicate logic, the moves between predicates and a register, and the index registers. -/
def Obligations.PredicatesAndIndexes : Prop := ∀ f : GFmt,
  let a (t : Thread) : Bool := t.pred (f.ra % 8) != decide (f.xs 0 1 = 1)
  let b (t : Thread) : Bool := t.pred (f.rb % 8) != decide (f.xs 1 1 = 1)
  let d : List Dst := [.p (f.rd % 8)]
  Gives (.pand f) d (fun s l => [if a (s.lane l) && b (s.lane l) then 1 else 0])
  ∧ Gives (.por f) d (fun s l => [if a (s.lane l) || b (s.lane l) then 1 else 0])
  ∧ Gives (.pxor f) d (fun s l => [if a (s.lane l) != b (s.lane l) then 1 else 0])
  ∧ Gives (.pnot f) d (fun s l => [if (s.lane l).pred (f.ra % 8) then 0 else 1])
  ∧ (f.xs 0 2 = 0 → Gives (.pmov f) d (fun s l => [if (s.lane l).pred (f.ra % 8) then 1 else 0]))
  ∧ (f.xs 0 2 = 1 → Gives (.pmov f) [.v f.rd 1] (fun s l => [maskOf ((List.range 8).filter (s.lane l).pred)]))
  ∧ (f.xs 0 2 = 2 → Gives (.pmov f) ((List.range 7).map .p)
      (fun s l => (List.range 7).map (fun i => bits ((s.lane l).reg f.ra).toNat i 1)))
  ∧ Gives (.idx f) [.v f.rd 1] (fun s l => [s.indexValue (f.xs 0 2) l])

/-- R187, R188, R191 (spec/08) with R116 and R137 to R140: each element is the exact result rounded once under the mode that RM selects;
the five RSR forms take RAND from C, FMA does not. -/
def Obligations.FloatArithmetic : Prop := ∀ f : GFmt,
  let x := faFields f
  let d : List Dst := [.v f.rd x.fmt.nregs]
  let a (s : State) (l e : Nat) : FloatVal := fpVal x f.ra f.ma.toNat e (s.lane l)
  let b (s : State) (l e : Nat) : FloatVal := fpVal x f.rb f.mb.toNat e (s.lane l)
  let c (s : State) (l e : Nat) : FloatVal := fpVal x f.rc f.mc.toNat e (s.lane l)
  let r (s : State) (l e : Nat) : RMode := fpModeRand f x s e l
  Gives (.fadd f) d (fun s l => fpResult x (fun e =>
    x.fmt.round (r s l e) false x.ftz (sumNum (r s l e = .rdn) [a s l e, b s l e])))
  ∧ Gives (.fsub f) d (fun s l => fpResult x (fun e =>
    x.fmt.round (r s l e) false x.ftz (sumNum (r s l e = .rdn) [a s l e, (b s l e).negate])))
  ∧ Gives (.fmul f) d (fun s l => fpResult x (fun e => x.fmt.round (r s l e) false x.ftz (mulNum (a s l e) (b s l e))))
  ∧ Gives (.fma f) d (fun s l => fpResult x (fun e =>
    let p := mulNum (a s l e) (b s l e)
    x.fmt.round (fpMode x s) false x.ftz (sumNum (fpMode x s = .rdn)
      [if bit x.v 0 then p.negate else p, if bit x.v 1 then (c s l e).negate else c s l e])))
  ∧ Gives (.frnd f) d (fun s l => fpResult x (fun e => x.fmt.round (r s l e) false x.ftz (roundIntegral (r s l e) (a s l e))))
  ∧ Gives (.fscale f) d (fun s l => fpResult x (fun e =>
    let w := if x.fmt.width = 16 then 16 else 32
    let k := bits ((Opnd.reg f.rb 1 f.mb.toNat (if w = 16 then .packed 16 else .int false)).val (s.lane l)) (x.fmt.width * e) x.fmt.width
    x.fmt.round (r s l e) false x.ftz (scaleNum (a s l e) (sext k w))))

/-- R187, R189 to R191 (spec/08): selections, comparisons and the parts of a float; none of them rounds but to deliver. -/
def Obligations.FloatSelections : Prop := ∀ f : GFmt,
  let x := faFields f
  let d : List Dst := [.v f.rd x.fmt.nregs]
  let w := if x.fmt.width = 16 then 16 else 32
  let a (s : State) (l e : Nat) : FloatVal := fpVal x f.ra f.ma.toNat e (s.lane l)
  let b (s : State) (l e : Nat) : FloatVal := fpVal x f.rb f.mb.toNat e (s.lane l)
  let abits (s : State) (l e : Nat) : Nat := fpArg x f.ra f.ma.toNat e (s.lane l)
  let bbits (s : State) (l e : Nat) : Nat := fpArg x f.rb f.mb.toNat e (s.lane l)
  let words (g : Nat → Nat) : List Nat := [joinElems w ((List.range (x.fmt.count x.x2)).map g)]
  Gives (.fmin f) d (fun s l => fpResult x (fun e => x.fmt.round .rne false x.ftz (minMaxNum false (a s l e) (b s l e))))
  ∧ Gives (.fmax f) d (fun s l => fpResult x (fun e => x.fmt.round .rne false x.ftz (minMaxNum true (a s l e) (b s l e))))
  ∧ Gives (.fset f) [.p (f.rd % 8)] (fun s l =>
    [if (List.range (x.fmt.count x.x2)).all (fun e => floatTest x.rm (a s l e) (b s l e)) then 1 else 0])
  ∧ Gives (.fclass f) [.v f.rd 1] (fun s l => words (fun e => 2 ^ classOf x.fmt x.ftz (abits s l e)))
  ∧ Gives (.fexpn f) [.v f.rd 1] (fun s l => words (fun e => expnOf w (a s l e)))
  ∧ Gives (.fmant f) d (fun s l => fpResult x (fun e => x.fmt.round .rne false x.ftz (mantOf (a s l e))))
  ∧ Gives (.fcopys f) d (fun s l => fpResult x (fun e =>
    abits s l e % 2 ^ (x.fmt.width - 1) + bbits s l e / 2 ^ (x.fmt.width - 1) * 2 ^ (x.fmt.width - 1)))

/-- R192 and R193 (spec/08): the algebraic functions are exact and rounded once under RNE; the transcendental ones are the function of
R193 on each element. -/
def Obligations.SpecialFunctions : Prop := ∀ f : GFmt,
  let x := ftFields f
  let d : List Dst := [.v f.rd x.fmt.nregs]
  let a (s : State) (l e : Nat) : FloatVal := fpVal x f.ra f.ma.toNat e (s.lane l)
  let b (s : State) (l e : Nat) : FloatVal := fpVal x f.rb f.mb.toNat e (s.lane l)
  let one (g : FloatVal → FloatVal) : State → Nat → List Nat := fun s l => fpResult x (fun e => x.fmt.round .rne false x.ftz (g (a s l e)))
  let fun' (g : SFun) : State → Nat → List Nat := fun s l => fpResult x (fun e =>
    sfun g x.fmt x.ftz (fpArg x f.ra f.ma.toNat e (s.lane l)))
  Gives (.frcp f) d (one rcpNum) ∧ Gives (.frsq f) d (one rsqNum) ∧ Gives (.fsqrt f) d (one sqrtNum)
  ∧ Gives (.fdiv f) d (fun s l => fpResult x (fun e => x.fmt.round .rne false x.ftz (divNum (a s l e) (b s l e))))
  ∧ Gives (.fexp2 f) d (fun' .exp2) ∧ Gives (.flog2 f) d (fun' .log2) ∧ Gives (.fsin f) d (fun' .sin)
  ∧ Gives (.fcos f) d (fun' .cos) ∧ Gives (.ftanh f) d (fun' .tanh) ∧ Gives (.fsigm f) d (fun' .sigm)

/-- R195 to R197 (spec/08): dot products with a word addend, rounded once; the sum, then the selection against C; and the better value
with its index, the lower one on a tie. -/
def Obligations.DotProductsAndSelections : Prop :=
  (∀ f : GFmt,
  let dot (fa fb : Fmt) (s : State) (l : Nat) : List Nat :=
    let ftz : Bool := f.xs 3 1 = 1
    let r := resolveRM (f.s 2 3) (bits s.rmode 0 3) false 0 0
    let a := (Opnd.reg f.ra 1 f.ma.toNat (.packed fa.width)).val (s.lane l)
    let b := (Opnd.reg f.rb 1 f.mb.toNat (.packed fa.width)).val (s.lane l)
    [Fmt.f32.round r false ftz (sumNum (r = .rdn) (Fmt.f32.decode ftz ((Opnd.reg f.rc 1 f.mc.toNat .plain).val (s.lane l)) ::
      (List.range (32 / fa.width)).map (fun k => mulNum (fa.decode ftz (bits a (fa.width * k) fa.width))
        (fb.decode ftz (bits b (fa.width * k) fa.width)))))]
  Gives (.fdot2 f) [.v f.rd 1] (if f.s 0 2 = 0 then dot .bf16 .bf16 else dot .f16 .f16)
  ∧ Gives (.fdot4 f) [.v f.rd 1] (dot (if f.s 0 2 = 0 ∨ f.s 0 2 = 2 then .e4m3 else .e5m2) (if f.s 0 2 = 0 ∨ f.s 0 2 = 3 then .e4m3 else .e5m2)))
  ∧ (∀ (f : GFmt) (g : Bool),
  let i : Instr := if g then .addmax f else .addmin f
  let pick (x y : Int) : Int := if g then max x y else min x y
  (f.s 4 1 = 1 → Gives i [.v f.rd 1] (fun s l =>
      let w := if f.s 0 2 = 1 then 16 else 32
      let u : Bool := f.s 2 1 = 1
      let e := intElem u w
      [elementwise (fun u w a b c => pick (readInt u w (narrow (f.xs 3 1 = 1) u w (a + b))) c) false u w 32
        [(Opnd.reg f.ra 1 f.ma.toNat e).val (s.lane l), (Opnd.reg f.rb 1 f.mb.toNat e).val (s.lane l),
          (Opnd.reg f.rc 1 f.mc.toNat e).val (s.lane l)]]))
  ∧ (f.s 4 1 ≠ 1 →
      let k := f.s 2 2
      let x : FaFields := ⟨if k = 0 then .f32 else if k = 1 then .f16 else if k = 2 then .bf16 else .f64, true, f.xs 3 1 = 1, f.xs 0 3, 0⟩
      Gives i [.v f.rd x.fmt.nregs] (fun s l => fpResult x (fun e =>
        let v (r m : Nat) : FloatVal := fpVal x r m e (s.lane l)
        let sum := x.fmt.round (fpMode x s) false x.ftz (sumNum (fpMode x s = .rdn) [v f.ra f.ma.toNat, v f.rb f.mb.toNat])
        x.fmt.round .rne false x.ftz (minMaxNum g (x.fmt.decode x.ftz sum) (v f.rc f.mc.toNat))))))
  ∧ (∀ (f : GFmt) (g : Bool),
  let ftz : Bool := f.xs 3 1 = 1
  Gives (if g then .fmaxi f else .fmini f) [.v f.rd 2] (fun s l =>
    let a := (s.lane l).regNat f.ra 2
    let b := (s.lane l).regNat f.rb 2
    let x := Fmt.f32.decode ftz (a % 2 ^ 32)
    let y := Fmt.f32.decode ftz (b % 2 ^ 32)
    let second := pickSecond g x y (a / 2 ^ 32) (b / 2 ^ 32)
    [Fmt.f32.round .rne false ftz (if second then y else x) + (if second then b / 2 ^ 32 else a / 2 ^ 32) * 2 ^ 32])
  ∧ Gives (if g then .imaxi f else .imini f) [.v f.rd 2] (fun s l =>
    let a := (s.lane l).regNat f.ra 2
    let b := (s.lane l).regNat f.rb 2
    let u : Bool := f.s 2 1 = 1
    let x := readInt u 32 a
    let y := readInt u 32 b
    [if x = y then (if b / 2 ^ 32 < a / 2 ^ 32 then b else a) else if (if g then x < y else y < x) then b else a]))

/-- R199 to R203 (spec/08): conversions element by element within the group, and packing. -/
def Obligations.Conversions : Prop := ∀ f : GFmt,
  let result (src dst : CvtTy) (i : Nat) (rnd : Option Nat) (s : State) (l : Nat) : List Nat :=
    let c : Cvt := ⟨src, dst, i, f.s 2 3, f.xs 2 1 = 1, f.xs 3 1 = 1, f.xs 1 1 = 1⟩
    let word := match rnd with
      | some r => ((s.lane l).reg r).toNat
      | none => 0
    let v := (Opnd.reg f.ra c.regsA f.ma.toNat src.elem).val (s.lane l)
    [joinElems dst.width ((List.range c.group).map (fun k =>
      let x := src.value c.ftz (bits v (src.width * ((if src.width < dst.width then i * c.group else 0) + k)) src.width)
      let wr := randOf word c.group k
      dst.encode (c.mode s.rmode wr.1 wr.2) c.sat c.ftz x)) * 2 ^ (dst.width * (if dst.width < src.width then i * c.group else 0))]
  let regs (t : CvtTy) : Nat := if t.width = 64 then 2 else 1
  (∀ src dst, fltCode (f.rc / 16) = some src → fltCode (f.rc % 16) = some dst →
    Gives (.cvt f) [.v f.rd (regs dst)] (result src dst (f.s 0 2 + 4 * f.xs 0 1) none)
    ∧ Gives (.cvts f) [.v f.rd (regs dst)] (result src dst (f.s 0 2 + 4 * f.xs 0 1) (some f.rb)))
  ∧ (∀ src dst, (if f.xs 0 1 = 1 then intCode (f.rc / 16) else fltCode (f.rc / 16)) = some src →
      (if f.xs 0 1 = 1 then fltCode (f.rc % 16) else intCode (f.rc % 16)) = some dst →
    Gives (.cvti f) [.v f.rd (regs dst)] (result src dst (f.s 0 2) none))
  ∧ (f.s 0 2 ≠ 3 →
    let w := packWidth (f.s 0 2)
    let a (s : State) (l : Nat) : Nat := (Elem.packed w).modify f.ma.toNat ((s.lane l).regNat f.ra 1)
    let b (s : State) (l : Nat) : Nat := (Elem.packed w).modify f.mb.toNat ((s.lane l).regNat f.rb 1)
    Gives (.pack f) [.v f.rd 1] (fun s l => [joinElems w
      ((List.range (32 / w / 2)).map (fun j => bits (a s l) (w * (2 * j)) w) ++ (List.range (32 / w / 2)).map (fun j => bits (b s l) (w * (2 * j)) w))])
    ∧ Gives (.unpack f) [.v f.rd 1] (fun s l => [joinElems (2 * w)
      ((List.range (16 / w)).map (fun j => bits (a s l) (w * (f.xs 0 2 * (16 / w) + j)) w))]))
  ∧ (f.s 0 2 = 3 →
    Gives (.pack f) [.v f.rd 1] (fun s l =>
      [bits (joinElems 6 ((List.range 16).map (fun e => bits ((Opnd.reg f.ra 4 f.ma.toNat .plain).val (s.lane l)) (8 * e) 6))) (32 * f.xs 0 2) 32])
    ∧ Gives (.unpack f) [.v f.rd 1] (fun s l =>
      [joinElems 8 ((List.range 4).map (fun j => bits ((s.lane l).regNat f.ra 3) (6 * (4 * f.xs 0 2 + j)) 6))]))

/-- R206 to R209 and R211 (spec/08): what each participant reads from the others. A lane that is no participant, or lies outside the
segment, is not read. -/
def Obligations.LaneExchange : Prop := ∀ f : GFmt,
  let z := segSize f
  let arg (s : State) (l : Nat) : Nat := if f.s 4 1 = 1 then f.rc else ((s.lane l).reg f.rb).toNat
  let yes (s : State) (ex : List Nat) : List Nat := ex.filter (fun l => (s.lane l).pred (f.ra % 8) != decide (f.s 2 1 = 1))
  let b (c : Bool) : Nat := if c then 1 else 0
  GivesLanes (.shfl f) (.v f.rd 1) (fun s ex l =>
    let base := l - l % z
    let n := arg s l
    let j := match f.s 0 2 with
      | 0 => base + n % z
      | 1 => l ^^^ (n % z)
      | 2 => if l < base + n then l else l - n
      | _ => if base + z ≤ l + n then l else l + n
    ((s.lane (if j ∈ ex then j else l)).reg f.ra).toNat)
  ∧ GivesLanes (.slide f) (.v f.rd 1) (fun s ex l =>
    let j : Int := (l : Int) - sext f.rc 8
    if ((l - l % z : Nat) : Int) ≤ j ∧ j < ((l - l % z + z : Nat) : Int) ∧ j.toNat ∈ ex then ((s.lane j.toNat).reg f.ra).toNat
    else if f.s 4 1 = 1 then wrap 32 (sext f.rb 8) else ((s.lane l).reg f.rb).toNat)
  ∧ GivesLanes (.bcastl f) (.v f.rd 1) (fun s ex _ =>
    let j := arg s (ex.headD 0) % 32
    ((s.lane (if j ∈ ex then j else ex.headD 0)).reg f.ra).toNat)
  ∧ GivesLanes (.vote f) (if f.s 0 2 = 3 then .v f.rd 1 else .p (f.rd % 8)) (fun s ex _ =>
    match f.s 0 2 with
    | 0 => b ((yes s ex).length = ex.length)
    | 1 => b (!(yes s ex).isEmpty)
    | 2 => b ((yes s ex).isEmpty || (yes s ex).length = ex.length)
    | _ => maskOf (yes s ex))
  ∧ GivesLanes (.matchLanes f) (.v f.rd 1) (fun s ex l =>
    let n := if f.s 0 2 = 3 then 2 else 1
    maskOf (ex.filter (fun m => (s.lane m).regNat f.ra n = (s.lane l).regNat f.ra n)))
  ∧ GivesLanes (.lmask f) (.v f.rd 1) (fun s ex l =>
    match f.s 0 2 with
    | 0 => maskOf ex
    | 1 => maskOf s.slotLanes
    | 2 => maskOf s.cur.lanes
    | _ => maskOf (ex.filter (· < l)))

/-- R145 and R210 (spec/06, 08): the reduction over the participants by the lane tree, and the scan of each lane's prefix. -/
def Obligations.LaneReduction : Prop := ∀ (f : GFmt) (scan : Bool),
  let x := reduxOf f
  GivesLanes (if scan then .scan f else .redux f) (.v f.rd x.regs) (fun s ex l =>
    let seen (m : Nat) : Bool := m ∈ ex && (!scan || (if x.exc then m < l else m ≤ l))
    let leaf (pick : Nat → Nat) (m : Nat) : Option Nat := if seen m then some (pick ((s.lane m).regNat f.ra x.regs)) else none
    let tree (pick : Nat → Nat) : Nat :=
      (treeRoot (x.combine (bits s.rmode 0 3)) ((List.range 32).map (leaf pick))).getD x.identity
    if x.ty = 3 then tree (fun v => bits v 0 16) + 2 ^ 16 * tree (fun v => bits v 16 16) else tree id)

/-- R34 to R36, R149 to R153 (spec/02, 07): direct transfers go to header + 8 × sext(IMM32), indirect ones to the address in a pair, a
call links the next clause; where both sides of a regroup have lanes and the yard has room, the smaller side, on a tie the one that takes
the branch, goes to the yard with n live registers, and else it is an ordinary divergent branch. -/
def Obligations.ControlTransfers : Prop :=
  ((∀ f : IFmt,
    let target (s : State) (_ : Nat) : Int × Option Flt :=
      (s.cur.hdr + 8 * sext f.imm.toNat 32, targetFlt (s.cur.hdr + 8 * sext f.imm.toNat 32))
    Transfers (.bra f) [] none target ∧ Transfers (.call f) [] (some f.d.toNat) target)
  ∧ (∀ f : GFmt,
    let target (s : State) (l : Nat) : Int × Option Flt :=
      let n := (s.lane l).regNat f.ra 2
      (n, if 2 ^ 56 ≤ n then some (Flt.at 0x05 0 (BitVec.ofNat 64 n))
        else if n % 8 ≠ 0 then some (Flt.at 0x06 8 (BitVec.ofNat 64 n)) else none)
    Transfers (.brx f) [.v f.ra 2] none target ∧ Transfers (.ret f) [.v f.ra 2] none target
    ∧ Transfers (.callx f) [.v f.ra 2] (some f.rd) target))
  ∧ (∀ f : IFmt,
  let c := bits f.sel.toNat 0 3
  let n := f.d.toNat + 1
  ActsIf (.rgrp f) (fun _ => [.p c])
    (fun s _ l => (s.lane l).pred c = true → targetFlt (s.cur.hdr + 8 * sext f.imm.toNat 32) = none)
    (fun s gp ex =>
      let t := (s.cur.hdr + 8 * sext f.imm.toNat 32).toNat
      let lab := s.curSlot.predLabel gp.toNat ||| s.curSlot.predLabel c
      let yes := ex.filter (fun l => (s.lane l).pred c)
      let no := ex.filter (fun l => !(s.lane l).pred c)
      let go (s : State) (ls : List Nat) : State := ls.foldl (fun s l => s.takeTransfer l t lab) s
      let k := if yes.length ≤ no.length then yes.length else no.length
      let r :=
        if yes = [] ∨ no = [] ∨ s.yardRoom n k = false then (go s yes).sendLanes no ⟨s.cur.next, 0⟩
        else if yes.length ≤ no.length then yes.foldl (fun s l => s.toYard l n ⟨t, 0⟩ false lab) (s.sendLanes no ⟨s.cur.next, 0⟩)
        else no.foldl (fun s l => s.toYard l n ⟨s.cur.next, 0⟩ false lab) (go s yes)
      r.advance (s.othersOf ex)))

/-- R39, R154 to R156, R184 (spec/02, 07): at EXIT the stores of the executing lanes' threads perform, a thread with no operation
outstanding ends and one with an operation outstanding becomes Waiting; JSET makes the executing lanes' threads the set of point D with
the label of Pc; JWAIT makes each lane whose point is pending wait at it and arrive; JCLR makes the point idle and arrives. -/
def Obligations.ExitsAndJoinPoints : Prop :=
  (∀ f : GFmt,
  Acts (.exit f) [] (fun s _ ex =>
    let d := s.drainLanes ex
    let late := ex.filter (fun l => (d.lane l).outstanding)
    let keys := (ex.filter (fun l => !(d.lane l).outstanding)).map d.laneKey
    (keys.foldl State.exitThread (late.foldl (fun x l => x.updLane l (fun t => t.sleep .exit)) d)).advance (s.othersOf ex)))
  ∧ (∀ f : GFmt,
  Acts (.jset f) [] (fun s _ ex =>
    (ex.foldl (fun x l => x.updLane l (fun t =>
      { t with joins := t.joins.insert f.rd ⟨sortNat (ex.map s.laneKey), s.curSlot.predLabel f.ra⟩ })) s).advance s.cur.lanes)
  ∧ Acts (.jwait f) [] (fun s _ ex =>
    let ls := ex.filter (fun l => ((s.lane l).joins.get? f.rd).isSome)
    (ls.foldl (fun x l => x.arriveJoin x.curStand (x.laneKey l) f.rd)
      (ls.foldl (fun x l => x.updLane l (fun t => t.sleep (.join f.rd s.cur.nextPC))) s)).advance (s.othersOf ls))
  ∧ Acts (.jclr f) [] (fun s _ ex =>
    ((ex.filter (fun l => ((s.lane l).joins.get? f.rd).isSome)).foldl (fun x l =>
      (x.updLane l (fun t => { t with joins := t.joins.erase f.rd })).arriveJoin x.curStand (x.laneKey l) f.rd) s).advance s.cur.lanes))

/-- R155, R158, R159, R166, R168 to R170 (spec/07): NOP and a CHK that finds no poison only go on; YIELD notes the PC at which its group
waits its turn; TRIG marks the stand; HALT halts the management core; DBGBRK stops an armed quadrant; MARK gives the clock and a trace
record. -/
def Obligations.PlainControl : Prop :=
  (∀ (f : GFmt) (g : SFmt),
  Does (.nop f) (fun s _ _ => s.advance s.cur.lanes)
  ∧ Acts (.chk f) [if f.s 0 1 = 1 then .p f.ra else .v f.ra 1] (fun s _ _ => s.advance s.cur.lanes)
  ∧ Acts (.yield f) [] (fun s _ _ =>
    (s.advance s.cur.lanes).updSlot s.cur.slotKey (fun sl => { sl with yielded := some (s.cur.nextPC, s.tick) }))
  ∧ Acts (.trig g) [] (fun s _ ex =>
    (if isHandler s.curStand then s.drainLanes ex
      else (s.drainLanes ex).updStand s.curStand (fun st => { st with triggered := true })).advance s.cur.lanes)
  ∧ Acts (.halt g) [] (fun s _ _ => State.advance { s with mgmt := { s.mgmt with halted := true } } s.cur.lanes)
  ∧ ActsIf (.dbgbrk g) (fun _ => []) (fun s _ _ => s.onMgmt = true ∨ s.field (dbgAt s.cur.core (0x40 + 8 * s.cur.quad)) 0 1 = 0)
    (fun s _ _ => s.advance s.cur.lanes)
  ∧ ActsIf (.dbgbrk g) (fun _ => []) (fun s _ _ => s.onMgmt = false ∧ s.field (dbgAt s.cur.core (0x40 + 8 * s.cur.quad)) 0 1 = 1)
    (fun s _ ex => ((s.advance s.cur.lanes).stopQuad s.cur.core s.cur.quad 0 g.imm.toNat (s.cur.nextPC.hdr + s.cur.nextPC.idx)
      (ex.headD 0) []).finishStop s.cur.core s.cur.quad))
  ∧ (∀ f : SFmt,
  Acts (.mark f) [.v f.ra 1] (fun s gp ex =>
    ((s.commit ex [.v f.rd 2] (s.labelL gp.toNat ex (s.curSlot.srcLabel [.v f.ra 1]) 0)
      (ex.map (fun l => (l, [Out.val (s.clk s.cur.core).toNat])))).traceRecord (s.vfOf s.curStand) s.cur.core f.imm.toNat 0
        ((s.lane (ex.headD 0)).reg f.ra).toNat).advance s.cur.lanes))

/-- R157, R167, R261, R269, R271, R281, R288, R370 and R239 (spec/07, 09, 10, 11, 16): instructions that write a register from the state
of the machine: the elected lane, a special register, the engine's word, a token's word, a route's word, a counter, a register's label. -/
def Obligations.StatusReads : Prop := ∀ (f : GFmt) (g : SFmt) (x : XFmt) (y : YFmt),
  let lab (s : State) (gp : BitVec 3) (ex : List Nat) : Label := s.curSlot.predLabel gp.toNat ||| s.flows ex
  Writes (.elect f) [] (fun _ => [.p f.rd]) (fun _ ex l => [if ex.head? = some l then 1 else 0]) lab
  ∧ Writes (.srd g) [] (fun s => [.v g.rd (s.specialWords g.n)]) (fun s _ l => [(s.specialRead g.n l).1])
      (fun s gp ex => lab s gp ex ||| Label.union (ex.map (fun l => (s.specialRead g.n l).2)))
  ∧ Writes (.profrd g) [] (fun _ => [.v g.rd 2]) (fun s _ _ =>
      let k := g.imm.toNat % 16
      let n := if bits g.imm.toNat 4 2 = 0 then s.curSlot.stall.getD k 0 else s.standCount s.curStand k
      [n + if s.bufferOn (s.vfOf s.curStand) 0x1C1 && s.claimed s.cur.core 0 then 2 ^ 32 else 0]) lab
  ∧ Writes (.mstat x) [] (fun _ => [.v x.rd 1]) (fun s _ _ => [s.mx.stat])
      (fun s gp ex => lab s gp ex ||| (match s.mx.cfg with
        | some b => b.label
        | none => 0))
  ∧ Writes (.xtest y) [] (fun _ => [.v y.rd 1]) (fun s _ l =>
      let x := (s.lane l).sb (y.s 0 3)
      [x.info.toNat + x.ring.toNat * 2 ^ 16 + min 63 x.count * 2 ^ 18 + x.code.toNat * 2 ^ 24]) lab
  ∧ Writes (.rtest y) [] (fun _ => [.v y.rd 1]) (fun s _ _ =>
      [min 3 (s.circuit s.curStand (y.s 0 6)).waiting.length + if (s.routeTo s.curStand (y.s 0 6)).isNone then 4 else 0]) lab
  ∧ (f.s 0 2 = 0 → Writes (.lbrd f) [.v f.ra 1] (fun _ => [.v f.rd 2]) (fun s _ _ => [(s.curSlot.regLabel f.ra).toNat])
      (fun s gp ex => lab s gp ex ||| s.curSlot.regLabel f.ra))

/-- R141, R167, R383, R396 (spec/06, 07, 17, 18): what SWR writes, after the stores of its threads: %rmode of the stage (the highest
lane's value), a selection of each handler thread, each lane's resolution, a management register, or the write of one register to its map. -/
def Obligations.SpecialWrites : Prop := ∀ f : SFmt,
  let src (s : State) : List Src := [.v f.ra (s.specialWords f.n)]
  let any (_ : State) (_ : BitVec 3) (_ : Nat) : Prop := True
  let val (s : State) (l : Nat) : Nat := (s.lane l).regNat f.ra (s.specialWords f.n)
  let last (s : State) (ex : List Nat) : Nat := val s (ex.getLastD 0)
  let each (g : Nat → Thread → Thread) (s : State) (_ : BitVec 3) (ex : List Nat) : State :=
    (ex.foldl (fun x l => x.updLane l (g (val s l))) (s.drainLanes ex)).advance s.cur.lanes
  (f.imm = 0x0A → ActsIf (.swr f) src (fun s _ l => val s l % 8 ≠ 0 ∧ val s l % 8 ≠ 7) (fun s _ ex =>
      let d := s.drainLanes ex
      (if d.onMgmt then { d with mgmt := { d.mgmt with rmode := BitVec.ofNat 32 (last s ex % 32) } }
        else d.updStand d.curStand (fun st =>
          { st with rmode := st.rmode.insert d.curSlot.stage (BitVec.ofNat 32 (last s ex % 32)) })).advance s.cur.lanes))
  ∧ (f.imm = 0x103 → ActsIf (.swr f) src any (each (fun v t => { t with psel := BitVec.ofNat 32 v })))
  ∧ (f.imm = 0x106 → ActsIf (.swr f) src any (each (fun v t => { t with plane := BitVec.ofNat 32 (v % 32) })))
  ∧ (f.imm = 0x10F → ActsIf (.swr f) src any (each (fun v t => { t with preg := BitVec.ofNat 32 (v % 512) })))
  ∧ (f.imm = 0x111 → ActsIf (.swr f) src any (fun s gp ex =>
      let d := s.drainLanes ex
      (d.postWrites (ex.map (fun l => ⟨supAt (d.vfOf d.curStand) f.n, BitVec.ofNat 64 (val s l), .thread (d.laneKey l),
        s.labelL gp.toNat ex (s.curSlot.srcLabel (src s)) 0⟩))).advance s.cur.lanes))
  ∧ (f.imm.toNat / 0x100 = 1 ∧ f.imm ≠ 0x103 ∧ f.imm ≠ 0x106 ∧ f.imm ≠ 0x10F ∧ f.imm ≠ 0x111 → ActsIf (.swr f) src any (fun s gp ex =>
      let d := s.drainLanes ex
      (d.postWrite ⟨supAt (d.vfOf d.curStand) f.n, BitVec.ofNat 64 (last s ex), .thread (d.laneKey (ex.getLastD 0)),
        s.labelL gp.toNat ex (s.curSlot.srcLabel (src s)) 0⟩).advance s.cur.lanes))
  ∧ (f.imm = 0x8000 → ActsIf (.swr f) src any (fun s _ ex =>
      ((s.drainLanes ex).postWrite ⟨mgmtRegAt 0x8000, BitVec.ofNat 64 (last s ex), .mgmt, 0⟩).advance s.cur.lanes))
  ∧ (f.imm = 0x8001 → ActsIf (.swr f) src any (fun s _ ex =>
      State.advance { (s.drainLanes ex) with mgmt := { (s.drainLanes ex).mgmt with mwake := BitVec.ofNat 64 (last s ex % 8) } } s.cur.lanes))
  ∧ (f.imm = 0x8002 → ActsIf (.swr f) src any (fun s _ ex =>
      State.advance { (s.drainLanes ex) with mgmt := { (s.drainLanes ex).mgmt with mtimer := BitVec.ofNat 64 (last s ex) } } s.cur.lanes))

/-- R215 to R217, R213 (spec/09): where every executing lane passes the checks, LD and LD.S complete: the lanes act in ascending order,
each taking a poison token, making one, or loading, and write what they obtained to the destination under its label. -/
def Obligations.Loads : Prop := ∀ f : MFmt,
  let act (s : State) (v : List (Nat × LdAns)) : State :=
    let ls := v.map Prod.fst
    (s.ldAct f v).2.2.commit ls [.v f.rd (szRegs f.z)]
      ((s.ldAct f v).2.2.labelL f.gp.toNat ls (s.curSlot.srcLabel [MFmt.addr f]) (s.ldAct f v).2.1) (s.ldAct f v).1
  Completes (.ld f) (State.ldCheck f false) act ∧ Completes (.ldS f) (State.ldCheck f true) act

/-- R54, R67, R68, R69, R82, R213, R216 (spec/03, 04, 09): a load of a program's own scratchpad through a clean, aligned pointer of the
right tag, inside the program area, where no line is absent, no watchpoint is set, no queued store overlaps and no sector is bad: every
executing lane writes the little-endian bytes at base plus displacement, extended as the size says, and nothing else changes, its memory
and scratchpad included. -/
def Obligations.ScratchpadLoads : Prop := ∀ (f : MFmt) (s : State) (gp : BitVec 3) (ex : List Nat) (st : Stand),
  f.sp = 1 → s.Runs (.ld f) gp ex → s.ordered = true → s.stands.get? s.curStand = some st → st.raceCheck = false →
  (∀ l ∈ ex, s.raiseTok gp [.v f.ra 1] l = none ∧ s.watchList (s.laneWho l) = []
    ∧ s.ownSpan st l (MFmt.ptr f (s.lane l)) f.disp16 (szBytes f.z) = true) →
  ∃ t, exec (.ld f) s = .next t
    ∧ s.Wrote t ex [.v f.rd (szRegs f.z)]
        (fun l => [.val (ldExtend f.z (leNat (rawBytes st.sp (spOff (MFmt.ptr f (s.lane l)) f.disp16) (szBytes f.z))))])
        (s.labelL gp.toNat ex (s.curSlot.srcLabel [.v f.ra 1])
          (Label.union (ex.map (fun l => st.splabels.getD (spOff (MFmt.ptr f (s.lane l)) f.disp16 / 1024) st.fill))))

/-- R84, R98, R99, R213, R215, R225 (spec/04, 09): where every executing lane passes the checks, ST hands each lane's bytes,
little-endian, with its label to the store queue, and BCST one scratchpad line to the window page; the lanes act in ascending order and
the group goes on. -/
def Obligations.Stores : Prop := ∀ f : MFmt,
  Settles (.st f) (fun s ex => s.stVerdicts f ex) (fun s v => (v.foldl (fun s p =>
    (if f.ord = 0 then s.setShadow (s.laneWho p.1) p.2.loc (szBytes f.z) else s).storeAt (s.laneWho p.1) p.2
      (leBytes (szBytes f.z) ((s.lane p.1).regNat f.rd (szRegs f.z)))
      (s.writeLabel f.gp [MFmt.addr f, .v f.rd (szRegs f.z)] p.1) s.cur.slotKey) s).drainLanes (sharedLanes (szBytes f.z) v))
  ∧ Completes (.bcst f) (State.afterRaise f.gp [MFmt.addr f, .v f.rb 1] (State.bcstCheck f)) (fun s v => v.foldl (fun s p =>
    match p.2.1 with
    | [] => s
    | src :: _ =>
      if s.badSpan src.loc 64 then s.failStand s.curStand 0xE0 none false
      else
        let x := s.loadAt (s.laneWho p.1) src 64
        (x.2.touch (s.laneWho p.1) p.2.2 true).enqueue (s.laneKey p.1) ⟨p.2.2.loc, leBytes 64 x.1.v, none,
          x.1.label ||| s.writeLabel f.gp [MFmt.addr f, .v f.rb 1] p.1, p.2.2.window, false, s.cur.slotKey⟩) s)

/-- R83, R84, R98 (spec/04): a store to a scratchpad, or to a cached page that is neither a window nor a DC page, changes no byte when it
executes: it joins the end of its thread's queue, in pieces of at most eight bytes, and sets A and D in its leaves; STORE_DRAIN takes the
oldest queued store of a thread and performs it, unless it is a window store, which starts its lap and stays queued. -/
def Obligations.StoreQueue : Prop :=
  (∀ (s : State) (w : Who) (tg : Target) (bs : List Byte) (lab : Label) (slot : Nat),
  tg.dc = false → tg.nc = false → tg.loc.device = false →
  s.storeAt w tg bs lab slot =
    (if bs.length ≤ 8 then [(tg.loc, bs)] else [(tg.loc, bs.take 8), (tg.loc.plus 8, bs.drop 8)]).foldl
      (fun x p => x.enqueue w.thread ⟨p.1, p.2, none, lab, tg.window, false, slot⟩) (s.touch w tg true))
  ∧ (∀ (s : State) (k : Nat),
  (∃ t, exec (.storeDrain k) s = .next t)
  ∧ ((s.thread k).storeQ = [] → exec (.storeDrain k) s = .next s)
  ∧ ∀ (e : StoreEnt) (es : List StoreEnt), (s.thread k).storeQ = e :: es →
  (∀ w a, e.window = some w → e.loc = .pa a → e.sent = true → exec (.storeDrain k) s = .next s) ∧
  (e.window = none → exec (.storeDrain k) s
      = .next ((s.updThread k (fun t => Thread.wakeExit { t with storeQ := es })).performStore (s.thread k).stand false e))
  ∧ (∀ w a, e.window = some w → e.loc = .pa a → e.sent = false → ∃ t, exec (.storeDrain k) s = .next t
      ∧ t.mem = s.mem ∧ t.stands = s.stands
      ∧ t.windowMsgs = s.windowMsgs ++ [⟨w.2, s.vfOf (s.thread k).stand, w.1, k, a, e.bytes, e.tag, e.label⟩]
      ∧ (∀ j, j ≠ k → t.thread j = s.thread j)))

/-- R2, R71, R72, R74, R83 (spec/00, 03, 04): what a store that performs in DRAM or in a vault does to memory: every stored byte reads
back; every other byte reads as before, but for the labels of DRAM frames (R71) and the rest of the vault lines that the store touches
(R74); and memory keeps its canonical form. -/
def Obligations.StorePerforms : Prop := ∀ (s : State) (c : Option Nat) (k a : Nat) (bs : List Byte) (lab : Label),
  Memory.wf s.mem = true → a + bs.length ≤ 0x1F7F0000000 ∨ 0x40000000000 ≤ a ∧ a + bs.length ≤ 0x40600000000 →
  let t := s.perform c k (.pa a) bs lab
  Memory.wf t.mem = true
  ∧ (∀ i, i < bs.length → rawByte t.mem (a + i) = bs.getD i 0)
  ∧ (∀ x, (x < a ∨ a + bs.length ≤ x) → (x < 0x1F7F0000000 ∨ 0x1F800000000 ≤ x) →
      (isVault x = false ∨ x / 64 < a / 64 ∨ (a + bs.length - 1) / 64 < x / 64) → rawByte t.mem x = rawByte s.mem x)

/-- R72, R84, R218 to R221 (spec/03, 04, 09): where every executing lane passes the checks, an atomic completes: the lanes act in
ascending order, each after its thread's queued stores: it reads the old value, and writes the new one where there is one; ATOM and ATOMC
write the old value to the destination; and the new values are those of the table. -/
def Obligations.Atomics : Prop :=
  (∀ f : MFmt,
  let k := szRegs f.z
  let run (bRegs : Nat) (new : Thread → Nat → Option Nat) (s : State) (v : List (Nat × Target)) :=
    State.atomLanes (szBytes f.z) new f.gp [MFmt.addr f, .v f.rb bRegs] s v
  let old (bRegs : Nat) (new : Thread → Nat → Option Nat) (s : State) (v : List (Nat × Target)) : State :=
    let r := run bRegs new s v
    r.2.2.commit (v.map Prod.fst) [.v f.rd k] (r.2.2.labelL f.gp.toNat (v.map Prod.fst)
      (s.curSlot.srcLabel [MFmt.addr f, .v f.rb bRegs]) r.2.1) r.1
  Completes (.atom f) (State.atomicCheck f k) (old k (fun t o => atomOp f.v f.z o (t.regNat f.rb k)))
  ∧ Completes (.atomc f) (State.atomicCheck f (2 * k))
      (old (2 * k) (fun t o => if o = t.regNat f.rb k then some (t.regNat (f.rb + k) k) else none))
  ∧ Completes (.red f) (State.atomicCheck f k)
      (fun s v => (run k (fun t o => atomOp f.v f.z o (t.regNat f.rb k)) s v).2.2))
  ∧ (∀ z o b : Nat, z = 4 ∨ z = 5 →
  let n := if z = 4 then 32 else 64
  let i (x : Nat) : Int := sext x n
  o < 2 ^ n → b < 2 ^ n →
  atomOp 0 z o b = some b
  ∧ (∃ v, atomOp 1 z o b = some v ∧ v < 2 ^ n ∧ (v = o + b ∨ v + 2 ^ n = o + b))
  ∧ (∃ v, atomOp 2 z o b = some v ∧ (v = o ∨ v = b) ∧ i v ≤ i o ∧ i v ≤ i b)
  ∧ (∃ v, atomOp 3 z o b = some v ∧ (v = o ∨ v = b) ∧ i o ≤ i v ∧ i b ≤ i v)
  ∧ (∃ v, atomOp 4 z o b = some v ∧ (v = o ∨ v = b) ∧ v ≤ o ∧ v ≤ b)
  ∧ (∃ v, atomOp 5 z o b = some v ∧ (v = o ∨ v = b) ∧ o ≤ v ∧ b ≤ v)
  ∧ (∃ v, atomOp 6 z o b = some v ∧ ∀ j, v.testBit j = (o.testBit j && b.testBit j))
  ∧ (∃ v, atomOp 7 z o b = some v ∧ ∀ j, v.testBit j = (o.testBit j || b.testBit j))
  ∧ (∃ v, atomOp 8 z o b = some v ∧ ∀ j, v.testBit j = (o.testBit j ^^ b.testBit j))
  ∧ atomOp 9 z o b = some (if b ≤ o then 0 else o + 1)
  ∧ atomOp 10 z o b = some (if o = 0 ∨ b < o then b else o - 1))

/-- R87, R90, R99, R222 to R224, R228 (spec/04, 09): FENCE drains the executing lanes' stores, DCQ ends a quantum, and the hints only move
lines between clusters and memory. -/
def Obligations.FencesAndHints : Prop :=
  (∀ (f : MFmt) (g : GFmt),
  Acts (.fence f) [] (fun s _ ex => (if f.ord = 3 then s.drainLanes ex else s).advance s.cur.lanes)
  ∧ Does (.pref f) (fun s _ ex =>
    (s.hinted f ex (fun s line => s.prefetch s.cur.core f.v line)).advance s.cur.lanes)
  ∧ Does (.evict f) (fun s _ ex =>
    (s.hinted f ex (fun s line => if f.v = 1 then s.evict (clusterOf s.cur.core) line else s.evictL1 s.cur.core line)).advance s.cur.lanes)
  ∧ Acts (.dcq g) [] (fun s _ ex => (ex.foldl (fun x l =>
      if x.dcStage x.curStand x.curSlot.stage then x.updLane l Thread.endQuantum else x) s).advance s.cur.lanes))
  ∧ (∀ (s : State) (f : MFmt) (i : Instr) (gp : BitVec 3) (ex : List Nat),
  i = .pref f ∨ i = .evict f → s.Runs i gp ex →
  ∃ t, exec i s = .next t ∧ t = { s with threads := t.threads, lines := t.lines, l1 := t.l1, backing := t.backing }
    ∧ ∀ k, ∃ pc, t.thread k = { s.thread k with pc := pc })

/-- R69, R224, R410 (spec/03, 09, 19): TAGSET sets the tag of each named sector to the pointer's, after the thread's stores; TAGGET writes
the sector's tag. -/
def Obligations.MemoryTags : Prop := ∀ f : MFmt,
  Completes (.tagset f) (State.tagsetCheck f) (fun s v => v.foldl (fun s p =>
    p.2.foldl (fun x tg => x.markTarget (s.laneWho p.1) tg (some (MFmt.req f f.disp16 (s.lane p.1) 32 false true 1 false).tag)
        (s.writeLabel f.gp [MFmt.addr f] p.1)) s) s)
  ∧ (∀ (s : State) (w : Who) (tg : Target) (tag : Option Nat) (lab : Label),
    (tg.window = none → s.markTarget w tg tag lab =
      State.raiseLabel (match tag with
        | some t => ((s.touch w tg true).drainQ w.thread).setTagOf tg.loc t
        | none => (s.touch w tg true).drainQ w.thread) tg.loc lab)
    ∧ (∀ x, tg.window = some x → s.markTarget w tg tag lab =
      (s.touch w tg true).enqueue w.thread ⟨tg.loc, [], tag, lab, some x, false, s.cur.slotKey⟩))
  ∧ Completes (.tagget f) (State.taggetCheck f) (fun s v =>
    let r := State.byteLanes (fun s tg _ => s.tagOf tg.loc) s v
    r.2.2.commit (v.map Prod.fst) [.v f.rd 1] (r.2.2.labelL f.gp.toNat (v.map Prod.fst) (s.curSlot.srcLabel [MFmt.addr f]) r.2.1) r.1)

/-- R69 (spec/03): a sector's tag reads back as it was set and no other sector's changes; the tag of a DRAM sector is one half of one byte
of the tag array, the only byte of memory that changes; a zero tag of a vault sector is not listed. -/
def Obligations.TagReadsBack : Prop := ∀ (s : State) (a b t : Nat), Memory.wf s.mem = true → t < 16 →
  (isVault a = false ∨ t ≠ 0 → (s.setTagAt a t).tagAt a = t)
  ∧ (isVault a = true → (s.setTagAt a 0).vtags = s.vtags.erase (a / 32))
  ∧ (a / 32 ≠ b / 32 → (s.setTagAt a t).tagAt b = s.tagAt b)
  ∧ (isVault a = true → (s.setTagAt a t).mem = s.mem)
  ∧ (∀ x, x ≠ 0x1F800000000 + a / 64 → rawByte (s.setTagAt a t).mem x = rawByte s.mem x)

/-- R68, R226, R239, R240 (spec/03, 09): PRES makes lines present and PCLR absent, after the thread's stores; LBRD reads the label of the
granule that holds an address, LBOR raises that of a register or a granule; CLRSEG writes zeros to a segment, sets its tags, makes its
lines present and gives it the label of the clearing lane. -/
def Obligations.PresenceAndLabels : Prop :=
  (∀ f : MFmt,
  let act (next : List Nat → List Nat → List Nat) (s : State) (v : List (Nat × Target)) : State := v.foldl (fun s p =>
    match p.2.loc with
    | .sp k o => (s.drainQ (s.laneKey p.1)).updStand k (fun st =>
        { st with absent := next ((List.range (f.v + 1)).map (fun i => o / 64 + i)) st.absent })
    | .pa _ => s) s
  Completes (.pres f) (State.presCheck f) (act (fun ls a => a.filter (fun x => !ls.contains x)))
  ∧ Completes (.pclr f) (State.presCheck f) (act (fun ls a => ls.foldl (fun a x => insertNat x a) a)))
  ∧ (∀ (f : GFmt) (g : MFmt),
  (f.s 0 2 ≠ 0 → Completes (.lbrd f) (State.lbrdCheck f) (fun s v =>
    let r := State.byteLanes (fun _ _ lab => lab.toNat) s v
    r.2.2.commit (v.map Prod.fst) [.v f.rd 2] (r.2.2.labelL f.gp.toNat (v.map Prod.fst) (s.curSlot.srcLabel [lbrdSrc f]) r.2.1) r.1))
  ∧ (f.s 0 2 = 0 → Acts (.lbor f) [.v f.ra 2] (fun s gp ex =>
    (s.updSlot s.cur.slotKey (fun sl => sl.setRegLabel f.rd (sl.regLabel f.rd |||
      (s.labelL gp.toNat ex (s.curSlot.srcLabel [.v f.ra 2]) 0 ||| Label.union (ex.map (fun l => (s.lane l).pair f.ra)))))).advance
      s.cur.lanes))
  ∧ (f.s 0 2 ≠ 0 → Completes (.lbor f) (State.lborCheck f) (fun s v => v.foldl (fun s p =>
    s.markTarget (s.laneWho p.1) p.2 none ((s.lane p.1).pair f.ra ||| s.writeLabel f.gp [lborSrc f, .v f.ra 2] p.1)) s))
  ∧ Completes (.clrseg g) (State.clrsegCheck g) (fun s v => v.foldl (fun s p =>
    ((s.drainQ (s.laneKey p.1)).touch (s.laneWho p.1) p.2 true).clearSegment (if p.2.nc then none else some (s.laneWho p.1).core) p.2.key p.2.loc
      (if g.sp = 0 then 4096 else 1024) (MFmt.req g g.disp16 (s.lane p.1) (if g.sp = 0 then 4096 else 1024) false true 1 false).tag
      (s.ownLabel (s.vfOf s.curStand) ||| s.writeLabel g.gp [MFmt.addr g] p.1)) s))

/-- R229 to R232, R430, R431 (spec/09, 20): where every executing lane completes, in ascending order, the queue instructions complete;
what one lane does on an open queue; and the bytes of a queue in a scratchpad after it. -/
def Obligations.Queues : Prop :=
  (∀ f : MFmt,
  OnceCompletes (.qinit f) [MFmt.addr f, .v f.rb 1] (State.qinitCheck f) (fun s l a =>
    ((s.drainQ (s.laneKey l)).touch (s.laneWho l) a.1.desc true).quePut (s.laneWho l) a.1 a.2 0 0
      (s.writeLabel f.gp [MFmt.addr f, .v f.rb 1] l))
  ∧ QueueCompletes (.qenq f) [MFmt.addr f, .v f.rb (szRegs f.z)] none (State.qenqLane f)
  ∧ QueueCompletes (.qdeq f) [MFmt.addr f] (some (.v f.rd (szRegs f.z))) (State.qdeqLane f)
  ∧ QueueCompletes (.qpeek f) [MFmt.addr f] (some (.v f.rd (szRegs f.z))) (State.qpeekLane f))
  ∧ (∀ (f : MFmt) (s s1 s2 : State) (l : Nat) (q : Que) (t : Target),
  let w := s.laneWho l
  let size := szBytes f.z
  (s.queOpen f f.disp8 true 1 l none = (.ok q, s1) →
    (q.legal (some f.z) = false → s.qenqLane f l = (.bad (.plain 0x0F 0), s1))
    ∧ (q.legal (some f.z) = true → q.count = q.cap → s.qenqLane f l = (.wait 7, s1))
    ∧ (q.legal (some f.z) = true → q.count ≠ q.cap →
        s1.queCheck w (queReq f f.disp8 (s.lane l) (64 + q.tail % q.cap * 4 * 2 ^ q.esz) size true 1) = (.ok t, s2) →
        s.qenqLane f l = (.done none 0, s2.quePush f w q t ((s.lane l).regNat f.rb (szRegs f.z))
          (s.writeLabel f.gp [MFmt.addr f, .v f.rb (szRegs f.z)] l))))
  ∧ (s.queOpen f f.disp8 true 0 l none = (.ok q, s1) →
    (q.legal (some f.z) = false → s.qdeqLane f l = (.bad (.plain 0x0F 0), s1))
    ∧ (q.legal (some f.z) = true → q.count = 0 → f.v = 0 → s.qdeqLane f l = (.wait 6, s1))
    ∧ (q.legal (some f.z) = true → q.count ≠ 0 →
        s1.queCheck w (queReq f f.disp8 (s.lane l) (64 + q.head % q.cap * 4 * 2 ^ q.esz) size false 0) = (.ok t, s2) →
        s2.badSpan t.loc size = false →
        s.qdeqLane f l = (.done (some (s2.quePop f w q t).1.v) (q.label ||| (s2.quePop f w q t).1.label), (s2.quePop f w q t).2)))
  ∧ (s.queOpen f f.disp16 false 0 l none = (.ok q, s1) →
    (f.v = 1 → q.legal none = true → s.qpeekLane f l = (.done (some q.count) q.label, s1.touch w q.desc false))
    ∧ (f.v ≠ 1 → q.legal (some f.z) = true → q.count ≤ (s.lane l).rank → s.qpeekLane f l = (.wait 6, s1))))
  ∧ (∀ (f : MFmt) (s : State) (w : Who) (q : Que) (t : Target) (k o v : Nat) (lab : Label) (st : Stand),
  s.stands.get? k = some st → (s.thread w.thread).storeQ = [] → q.desc.tlb = none → t.tlb = none → t.dc = false → t.nc = false →
  q.desc.loc = .sp k o → 0 < q.cap → q.cap < 2 ^ 16 → q.esz < 3 → f.z = q.esz + 4 → q.head < 2 ^ 32 → q.tail < 2 ^ 32 →
  (t.loc = .sp k (o + q.entryOff q.tail) → ∃ st', (s.quePush f w q t v lab).stands.get? k = some st'
    ∧ rawNat st'.sp (o + q.entryOff q.tail) (szBytes f.z) = v % 2 ^ (8 * szBytes f.z)
    ∧ rawNat st'.sp o 4 = q.cfg ∧ rawNat st'.sp (o + 4) 4 = q.head ∧ rawNat st'.sp (o + 8) 4 = (q.tail + 1) % 2 ^ 32)
  ∧ (t.loc = .sp k (o + q.entryOff q.head) →
    (s.quePop f w q t).1.v = rawNat st.sp (o + q.entryOff q.head) (szBytes f.z)
    ∧ ∃ st', (s.quePop f w q t).2.stands.get? k = some st'
      ∧ rawNat st'.sp o 4 = q.cfg ∧ rawNat st'.sp (o + 4) 4 = (q.head + 1) % 2 ^ 32 ∧ rawNat st'.sp (o + 8) 4 = q.tail))

/-- R179, R233, R235 to R237 (spec/07, 09): each lane of WAITW loads its word and goes on where the condition holds, else its thread
waits; BARI sets a barrier, BARA arrives and answers the parity, BARW waits for the phase, BARS does both. -/
def Obligations.WaitsAndBarriers : Prop :=
  (∀ f : MFmt,
  let size := szBytes f.z
  let srcs := [MFmt.addr f, .v f.rb (szRegs f.z)]
  CompletesStay (.waitw f) (State.waitwCheck f) (fun s v =>
    let r := v.foldl (fun (x : List (Nat × List Out) × Label × List Nat × State) p =>
      let s := x.2.2.2
      if s.badSpan p.2.loc size then (x.1, x.2.1, x.2.2.1, s.failStand (s.laneWho p.1).stand 0xE0 none false)
      else
        let y := s.loadAt (s.laneWho p.1) p.2 size
        let i (n : Nat) : Int := if 8 ≤ f.v then sext n (32 * szRegs f.z) else (n : Int)
        if condHolds (f.v % 8) (i y.1.v) (i ((s.lane p.1).regNat f.rb (szRegs f.z))) then
          (x.1 ++ [(p.1, [Out.val y.1.v])], x.2.1 ||| y.1.label, x.2.2.1, y.2)
        else (x.1, x.2.1, x.2.2.1 ++ [p.1], y.2.updLane p.1 (fun t => t.sleep p.2.loc.waitOn))) ([], 0, [], s)
    let ls := r.1.map Prod.fst
    (r.2.2.2.commit ls [.v f.rd (szRegs f.z)] (r.2.2.2.labelL f.gp.toNat ls (s.curSlot.srcLabel srcs) r.2.1) r.1, r.2.2.1)))
  ∧ (∀ f : MFmt,
  OnceCompletes (.bari f) (bariSrcs f) (State.bariCheck f) (fun s l rcd =>
    let cfg := ((s.lane l).reg f.rb).toNat
    let mask := bits cfg 0 8
    s.updBarrier s.curStand (s.barOf f l) (fun x => { x with
      smask := BitVec.ofNat 8 mask
      exp := if mask = 0 then bits cfg 8 12
        else s.maskedCount s.curStand mask (if f.sco = 0 then some (s.crewOf (s.laneKey l)) else none)
      link := rcd.map (fun p => ⟨f.sco.toNat, p, false, false⟩) }))
  ∧ CompletesStay (.bara f) (State.afterRaise f.gp [] (State.barCheck f true)) (fun s v =>
    let r := v.foldl (fun (x : List (Nat × List Out) × List Nat × State) p =>
      let s := x.2.2
      let b := s.barOf f p.1
      if s.arrived b (s.laneKey p.1) then (x.1, x.2.1 ++ [p.1], s.updLane p.1 (fun t => t.sleep (.arrive b)))
      else (x.1 ++ [(p.1, [Out.val (if s.barPhase b then 1 else 0)])], x.2.1, s.arriveAt b p.1)) ([], [], s)
    let ls := r.1.map Prod.fst
    (r.2.2.commit ls [.v f.rd 1] (r.2.2.labelL f.gp.toNat ls 0 0) r.1, r.2.1))
  ∧ CompletesStay (.barw f) (State.afterRaise f.gp [.v f.rb 1] (State.barCheck f false)) (fun s v =>
    let stay := v.filter (fun p => p.2.ph = ((s.lane p.1).reg f.rb).getLsbD 0)
    (stay.foldl (fun x p => x.updLane p.1 (fun t => t.sleep (.barrier (x.barOf f p.1) p.2.ph x.cur.nextPC))) s, stay.map Prod.fst))
  ∧ CompletesStay (.bars f) (State.afterRaise f.gp [] (State.barCheck f true)) (fun s v =>
    (v.foldl (fun x p =>
      let b := x.barOf f p.1
      if x.arrived b (x.laneKey p.1) then x.updLane p.1 (fun t => t.sleep (.arrive b))
      else (x.updLane p.1 (fun t => t.sleep (.barrier b (x.barPhase b) x.cur.nextPC))).arriveAt b p.1) s, v.map Prod.fst)))

/-- R234, R236, R371 (spec/09, 16): an unlinked barrier whose arrivals have reached its count completes its phase: the parity toggles, the
count and the arrived bits clear, each thread that waits on it goes on, and a stand barrier raises GEN; while the count is not reached
nothing happens. -/
def Obligations.BarrierPhases : Prop := ∀ (s : State) (k b : Nat) (st : Stand) (x : Barrier),
  s.stands.get? k = some st → st.barriers.get? b = some x → x.link = none →
  (1 ≤ x.arr → x.exp ≤ x.arr → ∃ t st', s.testBarrier k b = t ∧ t.stands.get? k = some st'
    ∧ st'.barriers.get? b = some { x with arr := 0, ph := !x.ph, arrivedBits := [] }
    ∧ (∀ c, c ≠ b → st'.barriers.get? c = st.barriers.get? c)
    ∧ st'.gen = (if b < 16 then (st.gen + 1) % 8 else st.gen)
    ∧ (∀ j th, s.threads.get? j = some th → th.stand = k →
        (∀ p d, th.wait = .barrier b p d → t.threads.get? j = some { th with status := .active, wait := .none, pc := d })
        ∧ (th.wait = .arrive b → t.threads.get? j = some { th with status := .active, wait := .none })
        ∧ (th.wait = .none → t.threads.get? j = some th))
    ∧ t.mem = s.mem)
  ∧ (x.arr < x.exp → s.testBarrier k b = s)

/-- R238 (spec/09): TBARI writes the record of its lane: the count, with ARR, PH and BYT zero; TBARE arrives with or without expected
bytes, waits for the phase, or tests it; and when a phase completes. -/
def Obligations.TransactionBarriers : Prop :=
  (∀ f : MFmt,
  OnceCompletes (.tbari f) [.v f.ra 1, .v f.rb 1] (State.tbariCheck f) (fun s l o =>
    s.perform none 0 (.sp s.curStand o)
      (leBytes 16 ((s.tbar s.curStand o).init ((s.lane l).reg f.rb).toNat).bits) (s.writeLabel f.gp [.v f.ra 1, .v f.rb 1] l))
  ∧ CompletesStay (.tbare f) (State.tbareCheck f) (fun s v =>
    let r := v.foldl (fun (x : List (Nat × List Out) × Label × List Nat × State) p =>
      let q := State.tbareLane f (tbareSrcs f) x.2.2.2 p.1 p.2
      (x.1 ++ (match q.1 with
        | some o => [(p.1, [o])]
        | none => []), x.2.1 ||| q.2.1, if q.2.2.1 then x.2.2.1 ++ [p.1] else x.2.2.1, q.2.2.2)) ([], 0, [], s)
    let ls := r.1.map Prod.fst
    (r.2.2.2.commit ls (tbareDst f) (r.2.2.2.labelL f.gp.toNat ls (s.curSlot.srcLabel (tbareSrcs f)) r.2.1) r.1, r.2.2.1)))
  ∧ (∀ (f : MFmt) (srcs : List Src) (s0 : State) (l k o : Nat) (tg : Target),
  let s := s0.drainQ (s0.laneKey l)
  tg.loc = .sp k o → k = s.curStand →
  let t := s.tbar k o
  let b := (s.lane l).reg f.rb
  let q := State.tbareLane f srcs s0 l tg
  (f.v = 3 → q.1 = some (.val (if t.ph = b.getLsbD 0 then 0 else 1)) ∧ q.2.2 = (false, s))
  ∧ (f.v = 2 → t.ph = b.getLsbD 0 → q.2.2 = (true, s.updLane l (fun th => th.sleep (.tbar o t.ph s.cur.nextPC))))
  ∧ (f.v = 2 → t.ph ≠ b.getLsbD 0 → q.2.2 = (false, s))
  ∧ (f.v ≤ 1 → t.expa < t.arr + 1 → q.2.2 = (true, s.updLane l (fun th => th.sleep (.tbarArrive o))))
  ∧ (f.v ≤ 1 → t.arr + 1 ≤ t.expa → q.1 = some (.val (if t.ph then 1 else 0))
    ∧ q.2.2 = (false, s.putTbar k o
        { t with arr := t.arr + 1, byt := if f.v = 1 then (t.byt + b.toNat) % 2 ^ 32 else t.byt } (s.writeLabel f.gp srcs l)))
  ∧ (∀ u : TBar, u.arr = u.expa → u.byt = 0 → u.settle = { u with arr := 0, ph := !u.ph })
  ∧ (∀ u : TBar, u.arr ≠ u.expa ∨ u.byt ≠ 0 → u.settle = u))

/-- R269 to R271 (spec/11): XWAIT where no lane raises and, of the lanes whose token no operation holds, none has CODE 0x01 nor, under
TRAP, a CODE other than 0: each such lane's status word goes to the destination and its status is cleared; every other lane waits for its
token and writes nothing. -/
def Obligations.TokenWaits : Prop := ∀ (f : YFmt) (s : State) (gp : BitVec 3) (ex : List Nat),
  let k := f.s 0 3
  s.Runs (.xwait f) gp ex → s.ordered = true → (∀ l ∈ ex, s.raiseTok gp [] l = none) →
  (∀ l ∈ ex, ((s.lane l).sb k).count = 0 → ((s.lane l).sb k).code ≠ 1 ∧ (f.s 3 1 = 1 → ((s.lane l).sb k).code = 0)) →
  let free := ex.filter (fun l => ((s.lane l).sb k).count = 0)
  let held := ex.filter (fun l => ((s.lane l).sb k).count ≠ 0)
  let s1 := free.foldl (fun x l => x.updLane l (fun t => t.setSb k { t.sb k with code := 0, ring := 0, info := 0 })) s
  let s2 := held.foldl (fun x l => x.updLane l (fun t => { t with status := .waiting, wait := .token k })) s1
  exec (.xwait f) s = .next ((if f.s 3 1 = 1 then s2 else s2.commit free [.v f.rd 1] (s2.labelL gp.toNat free 0 0)
    (free.map (fun l => (l, [Out.val (((s.lane l).sb k).info.toNat + ((s.lane l).sb k).ring.toNat * 2 ^ 16
      + ((s.lane l).sb k).code.toNat * 2 ^ 24)])))).advance (s.othersOf held))

/-- R279 to R282 (spec/11): SEND on a route that reaches a stand with a credit puts one message of its lanes' words on the circuit; RECV
takes the oldest waiting message of its width; and the words that a lane sent are those that the same lane of the receiver obtains. -/
def Obligations.Messages : Prop :=
  (∀ f : YFmt,
  GroupCompletes (.send f) [] [.v f.ra (2 ^ f.s 6 2)] (State.sendCheck f) (fun s _ _ ex t =>
    ((if f.ord = 2 then s.drainLanes ex else s).updCircuit t (f.s 0 6) (fun c =>
      { c with flight := c.flight ++ [s.sendMsg f ex] })).advance s.cur.lanes)
  ∧ GroupCompletes (.recv f) [] [] (State.circuitCheck f) (fun s gp _ ex m =>
    let s1 := s.updCircuit s.curStand (f.s 0 6) (fun c => { c with waiting := c.waiting.tail })
    (s1.commit ex [.v f.rd (2 ^ f.s 6 2)] (s1.labelL gp.toNat ex 0 m.label)
      (ex.map (fun l => (l, [Out.val (m.laneWords (2 ^ f.s 6 2) l)])))).advance s.cur.lanes))
  ∧ (∀ (f : YFmt) (s : State) (ex : List Nat) (l : Nat), l < 32 → f.s 6 2 < 3 →
  (s.sendMsg f ex).laneWords (2 ^ f.s 6 2) l = if l ∈ ex then (s.lane l).regNat f.ra (2 ^ f.s 6 2) else 0)

/-- R285 to R289, R315, R329 (spec/11, 13): where the checks pass, OBSEND reads its buffer and queues a burst on the port of its
destination, or ends under the refusal of its label; OBRECV posts its buffer, whose lines become absent; OBSTAT answers the port or the
destination; REL hands its buffer to the gate. -/
def Obligations.BurstsAndReleases : Prop := ∀ f : YFmt,
  GroupCompletes (.obsend f) (obsendSrcs f) [] (State.obsendCheck f) (fun s gp l ex r =>
    let w := s.laneWho l
    let d := ((s.drainLanes ex).touchAll w r.2.2 false).readSpans w.stand (spansOf r.2.2)
    let lab := s.labelL gp.toNat ex (s.curSlot.srcLabel (obsendSrcs f)) d.1.2.1
    let x := ((s.lane l).reg (f.rb + 1)).toNat
    if d.1.2.2 then d.2.failStand w.stand 0xE0 none false
    else
      let s2 := d.2.tokensUp ex f.k
      (if !(Label.subset lab (s.ownLabel w.vf)) then s2.tokensDown (ex.map s.laneKey) f.k 0x02 ((s.free 0).setWidth 16) lab
        else s2.queueBurst ⟨w.vf, bits r.1 0 7, bits x 0 8, BitVec.ofNat 32 (bits r.1 32 32), BitVec.ofNat 16 (bits r.1 64 16),
          BitVec.ofNat 6 (bits x 8 6), d.1.1, ex.map s.laneKey, f.k, lab, false, r.2.1, 0⟩).advance s.cur.lanes)
  ∧ GroupCompletes (.obrecv f) (obrecvSrcs f) [] (State.recvCheck f) (fun s _ l ex r =>
    let s1 := (((s.drainLanes ex).touchAll (s.laneWho l) r.1 true).touchAll (s.laneWho l) r.2 true).tokensUp ex f.k
    let cmd := s.obrecvPost f l ex (spansOf r.1)
    let s2 := cmd.lines.foldl (fun s ln => s.setPresence ln false) s1
    State.advance { s2 with commands := s2.commands.insert s2.nextId cmd, nextId := s2.nextId + 1 } s.cur.lanes)
  ∧ GroupCompletes (.obstat f) [.v f.rb 1] [] (fun s _ _ => (.ok (), s)) (fun s gp l ex _ =>
    (s.commit ex [.v f.rd 1] (s.labelL gp.toNat ex (s.curSlot.srcLabel [.v f.rb 1]) 0)
      (ex.map (fun x => (x, [Out.val (s.obstat (s.vfOf s.curStand) (f.s 0 1) ((s.lane l).reg f.rb).toNat)])))).advance s.cur.lanes)
  ∧ GroupCompletes (.rel f) (relSrcs f) [] (State.relCheck f) (fun s _ l ex r =>
    let d := (((s.drainLanes ex).touchAll (s.laneWho l) r.2.1 false).touchAll (s.laneWho l) r.2.2 true).readSpans
      (s.laneWho l).stand (spansOf r.2.1)
    if d.1.2.2 then d.2.failStand (s.laneWho l).stand 0xE0 none false
    else State.advance { d.2.tokensUp ex f.k with
      gate := (d.2.tokensUp ex f.k).gate ++ [s.relRecord f l ex r.1 d.1.1 d.1.2.1 r.2.2] } s.cur.lanes)

/-- R252 to R258, R261, R262, R412 (spec/10, 19): where the checks pass, MCFG loads a legal configuration and clears every accumulator,
EPCFG loads a legal epilogue block, and an illegal block faults; WLOAD enters the engine; WLOADR loads one column for each lane; WCLR
clears its macros; MDRAIN goes on when no operation is incomplete; MRDACC and MWRACC read, or write, the columns of each lane's row from B
on, modulo 64. -/
def Obligations.MatrixSetup : Prop :=
  (∀ f : XFmt,
  GroupCompletes (.mcfg f) [XFmt.blockSrc f] [] (State.mcfgCheck f) (fun s _ l ex t => s.withBlock f l ex t (fun s b =>
    if b.cfgOk (!s.withheld 5) then
      (s.updMx s.cur.quadKey (fun x => { x with
        cfg := some b
        accs := (List.range 16).map (fun j => (j, { Acc.empty with label := b.label })) })).advance s.cur.lanes
    else s.parkAll ex (.plain 0x14 0)))
  ∧ GroupCompletes (.epcfg f) [XFmt.blockSrc f] [] (State.epcfgCheck f) (fun s _ l ex t => s.withBlock f l ex t (fun s b =>
    if b.epOk then (s.updMx s.cur.quadKey (fun x => { x with blocks := x.blocks.insert (f.s 1 2) b })).advance s.cur.lanes
    else s.parkAll ex (.plain 0x14 0)))
  ∧ GroupCompletes (.wload f) [XFmt.blockSrc f] [] (State.wloadCheck f) (fun s _ l ex r =>
    let s1 := r.2.foldl (fun x t => x.touchAll (x.laneWho l) t false) s
    (s1.enterEngine ex (s1.wloadOp f ex r.1 r.2)).advance s.cur.lanes)
  ∧ GroupCompletes (.wclr f) [] [] State.wclrCheck (fun s gp _ ex _ =>
    (s.updMx s.cur.quadKey (fun x => (XFmt.macros f).foldl (fun x i =>
      x.updMac i (fun _ => { Macro.empty with label := s.labelL gp.toNat ex 0 0 })) x)).advance s.cur.lanes)
  ∧ GroupCompletes (.mdrain f) [] [] (fun s _ _ => if s.engineIdle then (.ok (), s) else (.wait 8, s))
      (fun s _ _ _ _ => s.advance s.cur.lanes))
  ∧ (∀ (f : XFmt) (s s1 : State) (gp : BitVec 3) (ex : List Nat) (c : Block) (v : List (Nat × ColAns)),
  let base := s.firstColumn f (ex.headD 0)
  s.Runs (.wloadr f) gp ex → s.mx.cfg = some c → s.engineIdle = true → s.Passes (State.wloadrCheck f c base) ex v s1 →
  let s2 := s1.drainLanes ex
  ((Src.v f.rb 1).token (s.lane (ex.headD 0)) = none → base = ((s.lane (ex.headD 0)).reg f.rb).toNat)
  ∧ exec (.wloadr f) s = .next ((v.foldl (fun x p => x.loadColumn f c
    (s2.labelL gp.toNat ex (s2.curSlot.srcLabel [.v f.ra 2, .v f.rb 1]) 0) p.1 (base + p.1) p.2) s2).advance s.cur.lanes))
  ∧ (∀ f : XFmt,
  let k (s : State) : Nat := if s.wideNow then 2 else 1
  let cols := 2 ^ f.s 0 3
  (∀ s gp ex, s.Runs (.mrdacc f) gp ex → s.accFault f = none → s.engineIdle = true →
    exec (.mrdacc f) s = .next (((ex.foldl (State.readAcc f s.mx (k s) cols) s).labelDsts ex [.v f.rd (k s * cols)]
      (s.labelL gp.toNat ex (s.curSlot.srcLabel [.v f.rb 1]) (s.mx.accAt f.rj).label)).advance s.cur.lanes))
  ∧ (∀ s gp ex, s.Runs (.mwracc f) gp ex → s.accFault f = none → s.engineIdle = true → (∀ l ∈ ex, s.raiseTok gp [] l = none) →
    let lab := s.labelL gp.toNat ex (s.curSlot.srcLabel [.v f.ra (k s * cols), .v f.rb 1]) 0
    exec (.mwracc f) s = .next (((ex.foldl (State.writeAcc f (k s) cols) s).updMx s.cur.quadKey (fun x =>
      x.updAcc f.rj (fun a => { a with label := a.label ||| lab }))).advance s.cur.lanes)))

/-- R243, R253, R259, R260, R266 (spec/10): MMA, MMASP, MCONV and MMAR, where the engine is not taking rows of this operation and the
checks of acceptance pass: the operation is accepted, fresh or continued, and its lanes stay under stall reason 8 while its rows are
taken. -/
def Obligations.MatrixMultiplies : Prop := ∀ (f : XFmt) (s s1 : State) (gp : BitVec 3) (l : Nat) (ls : List Nat) (a : Accepted),
  s.accepting (l :: ls) = false →
  (∀ i kind, (i, kind) ∈ [(Instr.mma f, MKind.mma), (.mmasp f, .mmasp), (.mconv f, .mconv)] → s.Runs i gp (l :: ls) →
    (∀ m ∈ l :: ls, s.groupTok gp (XFmt.mmaSrcs f kind) [] (l = m) m = none) →
    State.mmaCheck f kind s l (l :: ls) = (.ok a, s1) → exec i s = .next (State.mmaAccept f kind s1 l (l :: ls) a))
  ∧ (s.Runs (.mmar f) gp (l :: ls) → (∀ m ∈ l :: ls, s.raiseTok gp [] m = none) →
    State.mmaCheck f .mmar s l (l :: ls) = (.ok a, s1) → exec (.mmar f) s = .next (State.mmaAccept f .mmar s1 l (l :: ls) a))

/-- R244, R259 (spec/10): ROW_WRITE with a row buffered for the operation at the head of a quadrant's queue: the row meets the macros, the
accumulator is cleared only once, and the operation leaves after its last row unless an epilogue follows; and a row that the engine takes
raises %prog of each lane, whose PC moves past the instruction with the last row. -/
def Obligations.MatrixRows : Prop := ∀ (q : Nat) (s : State) (o : MOp) (os : List MOp) (r : ARow) (rs : List ARow),
  (s.quadAt q).matrix.queue = o :: os → o.kind ≠ .wload → o.rows = r :: rs →
  let s1 := ((s.updMx q (Matrix.opClear o)).takeCols q o).updMx q (fun x => (x.processRow o r).updHead (fun o => { o with rows := rs, clear := false }))
  exec (.rowWrite q) s = .next (if rs = [] ∧ o.accepted = o.last then
      (if o.final = false then s1.popEngine q else if o.eblock = none then s1.finishOp q o else s1)
    else s1)
  ∧ ∀ row, s.rowTaken q o row = (o.lanes.foldl (fun x p => x.updThread p.2 (fun t =>
      if o.accepted + 1 = o.last then { t with prog := 0, pc := o.cur.nextPC } else { t with prog := o.accepted + 1 }))
    (s.updMx q (Matrix.updAccepting (fun o => { o with
      accepted := o.accepted + 1
      rows := match row with
        | some r => o.rows ++ [r]
        | none => o.rows }))))

/-- R144, R246, R251, R259 (spec/06, 10): an integer accumulator element after a row is the old value plus the exact sum of the products
of A and B over KLEN logical indices, modulo 2^32; N-of-24 sparsity keeps at most N logical rows of a group, each at the rank of its bit
among the set bits of the mask, and two rows never share a place. -/
def Obligations.MatrixSums : Prop :=
  (∀ (x : Matrix) (c : Block) (sparse : Bool) (macs : List Nat) (r : ARow) (n old : Nat),
  c.accFmt = none →
  ((x.accumulate c sparse macs r n old : Nat) : Int)
    = ((old : Int) + ((List.range c.klen).map (fun k => c.tyA.intValue (r.elems.getD k 0) * x.bInt c sparse macs k n)).sum) % (2 ^ 32 : Nat))
  ∧ (∀ (mask n t u r : Nat),
  (keptRank mask n t = some r → r < n ∧ mask.testBit t = true
    ∧ r = ((List.range t).filter (fun i => mask.testBit i)).length)
  ∧ (keptRank mask n t = some r → keptRank mask n u = some r → t = u))

/-- R162, R163 (spec/07): TRAP parks every executing lane that does not raise under the software-trap cause, its INFO the instruction's
number; IRET by a handler: each executing lane, in ascending order and after the threads' stores, resumes the parked sub-warp of its own
function that its handle names and writes 0, or writes 1 where the handle names none. -/
def Obligations.TrapsAndReturns : Prop :=
  (∀ f : SFmt,
  ∀ s gp ex, s.Runs (.trap f) gp ex → (∀ l ∈ ex, s.raiseTok gp [] l = none) →
    exec (.trap f) s = .next ((s.afterStop (s.park (ex.map (fun l => (l, .plain 0x17 f.imm.toNat))))).advance (s.othersOf ex)))
  ∧ (∀ f : SFmt,
  Acts (.iret f) [.v f.ra 1] (fun s gp ex =>
    let r := ex.foldl (fun (x : List (Nat × List Out) × State) l =>
      match x.2.findSub ((s.lane l).reg f.ra) with
      | some b => if x.2.vfPart (x.2.vfOf b.stand) = x.2.vfPart (s.vfOf s.curStand) then (x.1 ++ [(l, [Out.val 0])], x.2.resumeSub b (f.s 0 1 = 1))
          else (x.1 ++ [(l, [Out.val 1])], x.2)
      | none => (x.1 ++ [(l, [Out.val 1])], x.2)) ([], s.drainLanes ex)
    (r.2.commit ex [.v f.rd 1] (s.labelL gp.toNat ex (s.curSlot.srcLabel [.v f.ra 1]) 0) r.1).advance s.cur.lanes))

/-- R164, R165, R49 (spec/02, 07): where the checks pass, LAUNCH hands each lane's record to the distributor, in ascending order, and
writes its handle; JOIN writes the status of a child that has ended, and a lane whose child is running waits for it. -/
def Obligations.Launching : Prop := ∀ f : SFmt,
  (∀ s gp ex v s1, s.Runs (.launch f) gp ex → s.Passes (State.launchCheck f s.unjoined ex) ex v s1 →
    let r := v.foldl (fun (x : List (Nat × List Out) × Label × State) p =>
      if x.2.2.badSpan p.2.loc 64 then (x.1, x.2.1, x.2.2.failStand (x.2.2.laneWho p.1).stand 0xE0 none false)
      else
        let ld := (x.2.2.drainQ (x.2.2.laneKey p.1)).loadAt (x.2.2.laneWho p.1) p.2 64
        let g := ld.2.submitGrid (s.vfOf s.curStand) (gridOf x.2.2.curStand) none ld.1.v
          (x.2.2.curSlot.srcLabel [.v f.ra 2] ||| ld.1.label ||| (x.2.2.lane p.1).flow) p.1
        (x.1 ++ [(p.1, [Out.val g.1])], x.2.1 ||| ld.1.label, g.2.2.2)) ([], 0, s1)
    exec (.launch f) s = .next ((r.2.2.commit (r.1.map Prod.fst) [.v f.rd 1]
      (r.2.2.labelL f.gp.toNat (r.1.map Prod.fst) (s1.curSlot.srcLabel [.v f.ra 2]) r.2.1) r.1).advance s.cur.lanes))
  ∧ CompletesStay (.join f) (State.joinCheck f) (fun s v =>
    let ends := v.filterMap (fun p => match p.2 with
      | .status w lab => some (p.1, w, lab)
      | .running _ => none)
    let runs := v.filterMap (fun p => match p.2 with
      | .running h => some (p.1, h)
      | .status _ _ => none)
    let s1 := runs.foldl (fun (s : State) p => { (s.updLane p.1 (fun t => t.sleep (.child (BitVec.ofNat 32 p.2)))) with
      grids := s.grids.modify p.2 (fun g => { g with unjoined := false }) }) s
    (if f.s 0 1 = 1 then s1 else s1.commit (ends.map Prod.fst) (joinDst f) (s1.labelL f.gp.toNat (ends.map Prod.fst)
        (s.curSlot.srcLabel [.v f.ra 1]) (Label.union (ends.map (fun p => p.2.2)))) (ends.map (fun p => (p.1, [Out.val p.2.1]))),
      runs.map Prod.fst))

/-- R368, R369, R427 (spec/16, 20): WPSET and WPCLR of a thread change that watchpoint of every executing lane, of a wider scope that of
the lowest lane's instance once; TLBI drops the function's entries of this core for one page, or all of them, and no other entry, so that
the next access walks. -/
def Obligations.WatchpointsAndTranslations : Prop :=
  (∀ f : SFmt,
  let scope := bits f.imm.toNat 0 3
  let idx := bits f.imm.toNat 3 5
  (scope = 0 → Acts (.wpset f) [.v f.ra 4] (fun s _ ex => (ex.foldl (fun x l => x.updLane l (fun t =>
      { t with wps := t.wps.insert idx ((x.lane l).watchpoint f.ra) })) s).advance s.cur.lanes)
    ∧ Acts (.wpclr f) [] (fun s _ ex => (ex.foldl (fun x l => x.updLane l (fun t =>
      { t with wps := t.wps.erase idx })) s).advance s.cur.lanes))
  ∧ (scope ≠ 0 → GroupCompletes (.wpset f) [.v f.ra 4] [] (fun s _ _ => (.ok (), s)) (fun s _ l _ _ =>
      (s.setWatch l scope idx (some ((s.lane l).watchpoint f.ra))).advance s.cur.lanes)
    ∧ GroupCompletes (.wpclr f) [] [] (fun s _ _ => (.ok (), s)) (fun s _ l _ _ =>
      (s.setWatch l scope idx none).advance s.cur.lanes))
  ∧ GroupCompletes (.tlbi f) (tlbiSrcs f) [] (State.tlbiCheck f)
      (fun s _ _ _ page => (s.updCore s.cur.core (fun c => { c with tlb := c.tlb.filter (fun e =>
        !(e.vf = s.vfOf s.curStand && (f.s 0 1 = 1 || e.vpn = page))) })).advance s.cur.lanes))
  ∧ (∀ (f : SFmt) (s : State) (gp : BitVec 3) (l : Nat) (ls : List Nat),
  let v := s.vfOf s.curStand
  let page := (s.lane l).regNat f.ra 2 % 2 ^ 56 / 0x10000
  s.Runs (.tlbi f) gp (l :: ls) → f.s 0 1 = 0 → (∀ m ∈ l :: ls, s.groupTok gp (tlbiSrcs f) [] (l = m) m = none) →
  s.pastTranslation s.cur.core v (((s.coreAt s.cur.core).tlb.filter (tlbiHits f v page)).flatMap (s.framesOf s.cur.core)) = false →
  ∃ t, exec (.tlbi f) s = .next t ∧ t.mem = s.mem
    ∧ ∀ w vpn, ((t.coreAt s.cur.core).lookup w vpn
      = if w = v ∧ vpn = page then none else (s.coreAt s.cur.core).lookup w vpn))

/-- R119 to R122, R429 (spec/05, 20): a legal pair word issues both halves as one: each lane of a half's guard writes what that half
computes from the values before the instruction, poison included, and every lane of the group goes on; an illegal pair parks the lanes of
either guard under ILL 0, and a pair that no lane executes only goes on. -/
def Obligations.PairWords : Prop := ∀ (x y : CFmt) (s : State),
  let a := compactAlu x s.rmode
  let b := compactAlu y s.rmode
  let ea := s.execLanes a.gn a.gp
  let eb := s.execLanes b.gn b.gp
  let ex := s.cur.lanes.filter (fun l => ea.contains l || eb.contains l)
  let half (op : Alu) (ls : List Nat) (l : Nat) (t : Thread) : Thread := if l ∈ ls then t.takeAll op.dsts (op.outs s l) else t
  (ex = [] → exec (.pairWord x y) s = .next (s.advance s.cur.lanes))
  ∧ (ex ≠ [] → (pairOk x y a b && a.ok && b.ok) = false → exec (.pairWord x y) s = .next (s.parkAll ex (.plain 0x01 0)))
  ∧ (ex ≠ [] → pairOk x y a b = true → a.bad s.quota = none → b.bad s.quota = none → s.ordered = true →
    ∃ t, exec (.pairWord x y) s = .next t
      ∧ (∀ l ∈ s.cur.lanes, t.lane l = { half b eb l (half a ea l (s.lane l)) with pc := s.cur.nextPC })
      ∧ (∀ k, k ∉ s.cur.lanes.map s.laneKey → t.thread k = s.thread k)
      ∧ (∀ k, k ≠ s.cur.slotKey → t.slotAt k = s.slotAt k)
      ∧ t = { s with threads := t.threads, slots := t.slots })

/-- R147, R148, R411 (spec/07, 19): an instruction of the register classes that issues legally: a lane whose guard or senses carry poison
writes its first token to every destination, and no value; any other lane writes the values it computes from the registers before the
instruction; every destination takes the label of the guard, the sources and the flows, replacing its old one only where the executing
lanes are all of the slot's; and nothing else of the machine changes but PCs. -/
def Obligations.PoisonAndLabels : Prop := ∀ (i : Instr) (s : State) (op : Alu), s.registerOp i = some op → s.ordered = true →
  op.bad s.quota = none → s.execLanes op.gn op.gp ≠ [] →
  let ex := s.execLanes op.gn op.gp
  let lab := s.curSlot.predLabel op.gp.toNat ||| s.curSlot.srcLabel op.srcs ||| s.flows ex
  let next (old : Label) : Label := if s.curSlot.lanes.all (fun p => ex.contains p.1) then lab else old ||| lab
  ∃ t, exec i s = .next t
    ∧ (∀ l ∈ ex,
      (∀ k, op.token (s.lane l) = some k →
        t.lane l = { (s.lane l).takeAll op.dsts (op.dsts.map (fun _ => .tok k (s.laneKey l))) with pc := s.cur.nextPC }
        ∧ ∀ r n, .v r n ∈ op.dsts → ∀ j, r ≤ j → j < r + n → (t.lane l).poison.contains j = true)
      ∧ (op.token (s.lane l) = none →
        t.lane l = { (s.lane l).takeAll op.dsts ((op.eval l (s.lane l)).map .val) with pc := s.cur.nextPC }))
    ∧ (∀ l ∈ s.cur.lanes, l ∉ ex → t.lane l = { s.lane l with pc := s.cur.nextPC })
    ∧ (∀ k, k ∉ s.cur.lanes.map s.laneKey → t.thread k = s.thread k)
    ∧ (∀ r n, .v r n ∈ op.dsts → ∀ j, r ≤ j → j < r + n → t.curSlot.regLabel j = next (s.curSlot.regLabel j))
    ∧ (∀ k, k < 7 → .p k ∈ op.dsts → t.curSlot.predLabel k = next (s.curSlot.predLabel k))
    ∧ t = { s with threads := t.threads, slots := t.slots }

/-- R391, R392, R394, R395 (spec/18): taking an exception. Lanes of the group that take one cause, which is neither a stop nor a
recoverable page fault, park as one sub-warp under the lowest free number and its next generation, with the PC of the instruction kept and
that of the next one noted; the fault joins the coalescer of the core; the other lanes go on. On the management core the threads park
without a record and KIND 0x71 is logged (R473). -/
def Obligations.ExceptionEntry : Prop := ∀ (s : State) (ls : List Nat) (f : Flt),
  s.ordered = true → ls ≠ [] → List.Sublist ls s.cur.lanes → f.stop = false → (f.code ≠ 0x0B ∨ f.dfr = true) →
  (s.onMgmt = false →
    let t := s.parkAll ls f
    let num := s.curSlot.freeNum
    let gen := BitVec.ofNat 8 (s.curSlot.gens.getD num 0 + 1)
    let st := s.curStand
    (∀ l ∈ ls, t.lane l = { s.lane l with status := .parked, wait := .none })
    ∧ (∀ l ∈ s.cur.lanes, l ∉ ls → t.lane l = { s.lane l with pc := s.cur.nextPC })
    ∧ (∀ k, k ∉ s.cur.lanes.map s.laneKey → t.thread k = s.thread k)
    ∧ t.curSlot = { s.curSlot with
        gens := s.curSlot.gens.insert num gen.toNat
        parked := s.curSlot.parked ++ [{
          num := num, gen := gen, code := BitVec.ofNat 8 f.code, dfr := f.dfr, info := BitVec.ofNat 16 f.info,
          page := f.page s.cur.at_, hyp := f.hyp (isHandler st), dest := s.cur.nextPC, mark := none, seq := none, arrival := s.tick,
          lanes := ls.map (fun l => { lane := l, thread := s.laneKey l, addr := f.addr, det := f.det, ipa := f.ipa,
                                      attached := f.attached, label := f.label }) }] }
    ∧ ∃ full, t = { s.updCore s.cur.core (·.join full {
        code := BitVec.ofNat 8 f.code, dfr := f.dfr, info := BitVec.ofNat 16 f.info, page := f.page s.cur.at_, grid := gridOf st,
        stand := st, stage := s.curSlot.stage, hyp := f.hyp (isHandler st), hdl := isHandler st, vf := s.vfOf st,
        org := s.vfOrigin (s.vfOf st), clk := s.clk s.cur.core, opened := s.clk s.cur.core, nl := ls.length,
        slots := BitVec.ofNat 64 (2 ^ (16 * s.cur.quad + s.cur.slot)), parks := [(s.cur.slotKey, num, gen.toNat)],
        kill := none, arrival := s.tick }) with threads := t.threads, slots := t.slots })
  ∧ (s.onMgmt = true → s.parkAll ls f = ((ls.foldl (fun x l => x.updLane l (fun t => { t with status := .parked })) s).logError
      0x71 3 0x3FF 0 s.noLoc 1 f.code).advance (s.othersOf ls))

/-- R163, R392 (spec/07, 18): returning from an exception. A resumed sub-warp of a placed stand becomes Active at the instruction that
parked it, or under SKIP at the next one with what the instruction had done so far dropped; its handle names nothing any more; a saved one
is marked and moves when its stand is restored. -/
def Obligations.ExceptionReturn : Prop := ∀ (s : State) (h : Word) (b : Found) (skip : Bool),
  s.findSub h = some b → (b.sub.lanes.map (·.thread)).Nodup →
  (b.saved = false →
    let t := s.resumeSub b skip
    (∀ p ∈ b.sub.lanes, ∀ th, s.threads.get? p.thread = some th → t.thread p.thread =
      if skip then { th with status := .active, pc := b.sub.dest, prog := 0, qlane := .idle } else { th with status := .active })
    ∧ (∀ k, (∀ p ∈ b.sub.lanes, p.thread ≠ k) → t.thread k = s.thread k)
    ∧ (t.slotAt (handleSlot h)).parked = (s.slotAt (handleSlot h)).parked.filter (fun p => p.num ≠ handleNum h)
    ∧ t.mem = s.mem)
  ∧ (b.saved = true → (s.resumeSub b skip).threads = s.threads ∧ (s.resumeSub b skip).slots = s.slots)

/-- R74, R87, R98, R100, R233, R237, R322, R325, R452 (spec/03, 04, 09, 13, 22): the steps of memory itself: a line is read, taken,
upgraded or written back by a cluster, a window store completes its lap, a quantum commits, a linked barrier arrives, a wait on a device
register rereads, a host core loads and stores, a frame is zeroed, and a coherence request times out. -/
def Obligations.MemoryEvents : Prop := ∀ s : State,
  (∀ c n, c < 384 → s.isLine n = true → s.moesi c n = none → ∃ t, exec (.flumeRds c n) s = .next t ∧ t.mem = s.mem
    ∧ t.moesi c n = some (if (s.holders n).any (fun h => h.1 ≠ c) then .s else .e)
    ∧ ∀ b, b < 384 → b ≠ c → t.moesi b n ≠ some .m ∧ t.moesi b n ≠ some .e ∧ (t.moesi b n = none ↔ s.moesi b n = none))
  ∧ (∀ c n i, c < 384 → i = Instr.flumeRdx c n ∧ s.isLine n = true ∨ i = .flumeUpg c n ∧ (s.moesi c n = some .s ∨ s.moesi c n = some .o) →
    ∃ t, exec i s = .next t ∧ t.mem = s.mem ∧ t.moesi c n = some .m ∧ ∀ b, b < 384 → b ≠ c → t.moesi b n = none)
  ∧ (∀ c n, c < 384 → s.moesi c n = some .m ∨ s.moesi c n = some .o → ∃ t, exec (.flumeWb c n) s = .next t
    ∧ t.mem = s.mem ∧ t.moesi c n = none ∧ t.backing.get? n = none)
  ∧ (∀ c m, s.windowMsgs.find? (fun x => x.cluster = c) = some m → s.partialBad (.pa m.pa) m.bytes.length = false →
    let s1 := { s with windowMsgs := s.windowMsgs.erase m }.updThread m.thread (fun t => match t.storeQ with
      | e :: es => if e.sent then Thread.wakeExit { t with storeQ := es } else t
      | [] => t)
    exec (.flumeWst c) s = .next (match m.tag with
      | some g => s1.tagWindow m.vf m.sset m.cluster m.pa g m.label
      | none => if m.bytes = [] then s1.raiseWindow m.vf m.sset m.cluster m.pa m.label
          else s1.performWindow m.vf m.sset m.cluster m.pa m.bytes m.label))
  ∧ (∀ k q, s.dcDue k = some q → exec (.quantumCommit k) s = .next (s.dcCommit k q))
  ∧ (∀ k b st x l, s.stands.get? k = some st → st.barriers.get? b = some x → x.link = some l → x.linkDue = true →
    let r := s.linkRecord st.vf l.rcd
    exec (.linkedArrival k b) s = .next ((s.setLinkRecord k l.rcd r.1 (r.2.1 + 1) r.2.2).updStand k (fun st =>
      { st with barriers := st.barriers.modify b (fun y => { y with link := some { l with arrived := true, ph := r.2.2 = 1 } }) })))
  ∧ (∀ k n th, s.threads.get? k = some th → th.wait = .word n true →
    ∃ t, exec (.waitwReread k) s = .next t ∧ t.thread k = { th with status := .active, wait := .none }
      ∧ (∀ j, j ≠ k → t.thread j = s.thread j) ∧ t = { s with threads := t.threads })
  ∧ (∀ h a n md r, let x := s.hostStarts
    x.hostRuns h = true → 0 < n → x.exists? a = true → x.exists? (a + n - 1) = true → x.hostBarred h a = false →
    isDevice a = false → (r = .plain ∨ (n = 4 ∨ n = 8) ∧ a % n = 0) → exec (.hostLoad h ⟨a, md, r⟩ n) s = .next (
      let old := x.bytesOf md.key (.pa a) n
      if x.hostMayRead h (x.labelSpan md.key (x.hostLabel h) (.pa a) n) = true ∧ x.badSpan (.pa a) n = false then
        ((x.hostReads (hostWho md h) md.key a n).hostAfterRead h a n md (leNat old) r).answerHost h (some old)
      else x.answerHost h none))
  ∧ (∀ h a bs md sc, let x := s.hostStarts
    x.hostRuns h = true → bs ≠ [] → x.exists? a = true → x.exists? (a + bs.length - 1) = true → x.hostBarred h a = false →
    isDevice a = false → x.partialBad (.pa a) bs.length = false → (sc = true → (bs.length = 4 ∨ bs.length = 8) ∧ a % bs.length = 0) →
    exec (.hostStore h ⟨a, md, sc⟩ bs) s = .next (
      let y := x.perform (hostWho md h) md.key (.pa a) bs (x.hostLabel h)
      if sc = false then y else if x.reservations.get? h = some (a / 64) then y.answerSc h true else x.answerSc h false))
  ∧ (let f := bits s.wr.value.toNat 0 36
    s.wrAllowed = true → s.isDram (f * 0x10000) = true ∨ isVault (f * 0x10000) = true → Memory.wf s.mem = true →
    ∃ t, exec .frameZero s = .next t ∧ (∀ i, i < 0x10000 → rawByte t.mem (f * 0x10000 + i) = 0)
      ∧ ∀ x, x / 0x10000 ≠ f → (x < 0x1F7F0000000 ∨ 0x1F800000000 + 0x4000000000 ≤ x) → rawByte t.mem x = rawByte s.mem x)
  ∧ (∀ q g n, n < 384 → s.timeouts.get? (timeoutKey q g) = none →
    exec (.coherenceTimeout q g n) s = .next { s with timeouts := s.timeouts.insert (timeoutKey q g) 1 })
  ∧ (∀ h g n x, n < 384 → s.timeouts.get? (timeoutKey (.host h) g) = some x → exec (.coherenceTimeout (.host h) g n) s
    = .next (State.logError { s with timeouts := s.timeouts.erase (timeoutKey (.host h) g)
                                     outputs := s.outputs ++ [Output.hostData h none] } 0x40 1 0x3FF 0 s.noLoc 1 n))

/-- R95, R244, R248, R256, R270, R276, R285 to R288, R437, R438, R457 (spec/04, 10, 11, 21, 22): the steps of the engines: the matrix
engine loads weights, takes a row and writes its results; a copy moves its next part and completes; a burst leaves, is answered, lost or
received; a post completes; a reset notice counts; a circuit closes; a port's promise lapses or is restored. -/
def Obligations.EngineEvents : Prop := ∀ s : State,
  (∀ q o os, (s.quadAt q).matrix.queue = o :: os → o.kind = .wload →
    let s1 := s.updMx q (fun x => o.macs.foldl (fun x i => x.updMac i (fun m => { m.blank o.cfg o.wkind with label := m.label ||| o.label })) x)
    let s2 := State.loadPieces q o s1 ((o.cfg.wload o.wkind o.macs.length).zip o.sources)
    (s2.quadAt q).matrix.queue.isEmpty = false → exec (.wloadComplete q) s = .next (s2.finishOp q o))
  ∧ (∀ q o g a s1 s2, (s.quadAt q).matrix.queue.find? (fun o => o.accepted < o.last) = some o → o.kind ≠ .mmar →
    ((s.quadAt q).matrix.queue.map (fun o => o.rows.length)).sum < 2 → s.lanesThere o = true → (s.quadAt q).stopped = none →
    let s0 := { s with cur := o.cur }
    let w := s0.who ((o.lanes.map Prod.snd).headD noThread) o.stand o.cur.core
    s0.fetchScales o w o.accepted = (.ok g, s1) → s1.fetchRow o w o.accepted = (.ok a, s2) → a.bad = false → g.2.2 = false →
    exec (.rowAccept q) s = .next (s2.rowTaken q o (some ⟨o.accepted, a.elems, g.1, a.label ||| g.2.1, a.poison⟩)))
  ∧ (∀ q o os e, (s.quadAt q).matrix.queue = o :: os → o.eblock = some e → e.toMem = false → o.final = true → o.accepted = o.last →
    o.rows = [] →
    let s1 := { s with cur := o.cur }.updMx q (fun x => (x.opClear o).updAcc o.acc (fun a => { a with label := a.label ||| x.opLabel o }))
    let x := (s1.quadAt q).matrix
    let rows := rowsOf o.kind o.cfg.m (o.lanes.map Prod.fst)
    exec (.epilogue q) s = .next ((((rows.map (fun m => (m, x.outRow o e m))).foldl (fun s r => match o.lanes.find? (fun p => p.1 = r.1) with
      | some p => s.outRegs p.2 o.dreg e.out.width r.2 e.rowRegs
      | none => s) (s1.updMx q (Matrix.clrRead o e rows))).labelDsts (o.lanes.map Prod.fst) [.v o.dreg e.rowRegs]
        ((x.accAt o.acc).label ||| e.label ||| o.velabel)).finishOp q o))
  ∧ (∀ k c m ms p ps, s.commands.get? k = some c → c.kind = .copy → c.moves = m :: ms → m.dst = p :: ps → m.far = none → m.tba = none →
    let n := min (min (64 - (match p.loc with
      | .pa a => a % 64
      | .sp _ o => o % 64)) p.len) 64
    let r := s.moveBytes c m p n []
    n ≠ 0 → r.1.2.2 = false → exec (.copyLineArrival k []) s = .next
      (((r.2.writeSpans c.stand (c.threads.headD noThread) (takeSpans m.dst n) r.1.1 (c.label ||| m.label ||| r.1.2.1)).updCmd k (fun c =>
        { c with moves := trimMoves (m.rest n) ms })).settleLines k))
  ∧ (∀ k c, s.commands.get? k = some c → c.kind = .copy → c.moves = [] → ∃ t, exec (.copyComplete k) s = .next t
    ∧ t = { ((s.settleLines k).tokensDown c.threads c.tok c.code c.info (c.label ||| c.inLabel)) with commands := (s.settleLines k).commands.erase k })
  ∧ (∀ p k ks b, s.portQueues.getD p [] = k :: ks → s.portUp p = true → s.bursts.get? k = some b →
    exec (.burstTransmit p) s = .next { s with
      portQueues := s.portQueues.put [] p ks
      bursts := s.bursts.insert k { b with sent := true }
      outputs := s.outputs ++ [.burst p b.path b.peer b.tag b.data.length b.data] })
  ∧ (∀ k b r, s.bursts.get? k = some b → b.sent = true → exec (.burstAck k r) s = .next
      { s.tokensDown b.threads b.tok (if r then 0x05 else 0x00) (if r then 0 else b.info) b.label with bursts := s.bursts.erase k }
    ∧ exec (.ackTimeout k) s = .next { s.tokensDown b.threads b.tok 0x04 0 b.label with
        bursts := s.bursts.erase k, dstLost := bumpCount s.dstLost (256 * b.vf + b.dst) 1 })
  ∧ (∀ port peer tag data i p, s.portUp port = true → s.portCircuit port (fun i => s.field (circuitAt port i) 16 16 = peer.toNat) = some i → tag ≠ 0x3F →
    let v := s.field (circuitAt port i) 0 10
    s.vfEnabled v = true → s.commands.find? (fun p => p.2.kind = .recv && p.2.vf = v && p.2.tag = tag.toNat && p.2.got.isNone
      && data.length ≤ p.2.len) = some p →
    exec (.burstArrival port peer tag data) s = .next (s.updCmd p.1 (fun c => { c with
      got := some data.length, peer := peer, inLabel := s.reg (circuitAt port i + 8), moves := c.moves.map (fun m => { m with fill := data }) })))
  ∧ (∀ port peer tag data, s.portUp port = true → s.portCircuit port (fun i => s.field (circuitAt port i) 16 16 = peer.toNat) = none →
    exec (.burstArrival port peer tag data) s = .next (s.refuseBurst port peer none))
  ∧ (∀ k c n, s.commands.get? k = some c → c.kind = .recv → c.got = some n →
    let lab := c.label ||| c.inLabel
    let th := c.threads.headD noThread
    let s1 := c.moves.foldl (fun s m => s.writeSpans c.stand th (takeSpans m.dst n) (m.fill.take n) lab) s
    (s1.commands.get? k).isSome = true →
    let s3 := (c.lines.foldl (fun s ln => s.setPresence ln true) s1).writeSpans c.stand th [⟨.sp c.stand c.recOff, 16, none⟩]
      (recvRecord n c.peer c.inLabel) lab
    exec (.receiveComplete k) s = .next { (s3.tokensDown c.threads c.tok 0 0 0) with commands := s3.commands.erase k })
  ∧ (∀ port peer len, s.portUp port = true →
    exec (.resetNotice port peer len) s = .next { s with dstDisc := ((List.range 1024).filter s.vfEnabled).foldl (fun t v =>
      (List.range 256).foldl (fun t k =>
        if bit (s.destEntry v k) 7 && bits (s.destEntry v k) 64 16 = peer.toNat then bumpCount t (256 * v + k) len else t) t) s.dstDisc })
  ∧ (let n := (s.wr.pa - 0x080400000000) / 0x200
    let mine (b : Burst) : Bool := b.port = n && b.circuit = (s.wr.pa % 0x200 - 0x100) / 16
    let v := s.field s.wr.pa 0 10
    s.wrAllowed = true → n < 96 → (bits s.wr.value.toNat 0 10 = v ∨ s.circuitBusy n ((s.wr.pa % 0x200 - 0x100) / 16) = false) →
    exec .circuitDisable s = .next ((((s.burstsOf (fun b => b.vf = v && mine b)).foldl (fun s b =>
      s.tokensDown b.2.threads b.2.tok 0x06 0 b.2.label) s).stopEgress v mine).2.2.writePort s.wr.pa s.wr.value))
  ∧ (∀ p l, p < 96 → l < 8 → exec (.guaranteeLapse p false l) s = .next (State.settleGuarantee s p (s.untrain p (s.laneMap p l))))
  ∧ (∀ p l wl, p < 96 → let s1 := s.untrain p (s.laneMap p 8)
    s1.portSpare p (fun wl => s1.trained (64 + p) wl) = some wl → exec (.guaranteeLapse p true l) s = .next (s1.mapLane p 8 wl))
  ∧ (∀ p, p < 96 → s.lapsed p = true → exec (.guaranteeRestored p) s
    = .next (State.settleGuarantee s p ((List.range 8).foldl (fun s l => s.retrainLane p l) s)))

/-- R37, R164, R295 to R310, R320, R364, R373 to R376, R395, R397 to R404, R433, R434, R440, R442 (spec/02, 07, 12, 13, 16, 18, 21): the
steps of the distributor, the scheduler and the debug unit, each where it is due. -/
def Obligations.SchedulingEvents : Prop := ∀ s : State,
  (∀ q f sk sks, leastBy (fun f => 2 ^ 64 - oldest f.ws) (firstStages (s.forming q)) = some f → s.openSlots q = sk :: sks →
    exec (.warpForm q) s = .next (s.formWarp q sk f))
  ∧ (∀ c, exec (.balancerPass c) s = .next (((s.stands.filterMap (fun p =>
      if p.2.core = c && p.2.running && !isHandler p.1 then some p.1 else none)).foldl State.classifyStand s).updCore c (fun x =>
      { x with balanced := s.cycles / 256 })))
  ∧ (∀ c r n h e, (s.coreAt c).open4.find? (s.trapDue c) = some r → s.queueFor r = .takes n h e → exec (.trapRecordClose c) s
    = .next (((s.writeTrap c r n h e).updCore c (fun x => { x with open4 := x.open4.erase r })).takeIn c))
  ∧ (∀ h v data, data.length = 64 → s.launchOpen v = true → s.gridsIn (s.vfPart v) s.handleLive < 4096 →
    let r := s.submitGrid v 0 (some h) (leNat data) (s.vfLabel v) 0
    exec (.launchSubmit h v data) s = .next { r.2.2.2 with lhnd := r.2.2.2.lhnd.put 0 (1024 * h + v) (BitVec.ofNat 64
      (r.1 % 2 ^ 32 + (if r.2.1 ≠ 0 then 2 ^ 33 + r.2.1 * 2 ^ 34 else 0) + (if r.2.2.1 then 2 ^ 42 else 0))) })
  ∧ (∀ k g x y rs, s.grids.get? k = some g → g.state = .waiting → g.fail = none → g.deps.all (s.depMet g.vf) = true →
    (if g.pinned then (if s.inPartition (s.vfPart g.vf) g.x0 g.y0 g.width g.height then some (g.x0, g.y0) else none)
      else s.choosePosition k g) = some (x, y) → (g.pinned = true ∨ s.mtxBlocked g x y = false) → s.loadRoutes g = some rs →
    let g1 := { g with x0 := x, y0 := y, routes := rs, state := .placing }
    let s0 := s.distMark g.vf (g.f 128 64) (if g.f 128 64 = 0 then 0 else 4096) false
    s.linksFull g1 = false → exec (.launchClaim k) s = .next ((State.distWrite { s0 with grids := s0.grids.insert k g1 } g1.vf (g1.cptr + 64)
      (State.coreMap { s0 with grids := s0.grids.insert k g1 } g1) 0).addStands k g1))
  ∧ (∀ p x, let s0 := (s.beginTurns p).preemptFor p
    s0.stands.any (fun z => z.2.chosen && !z.2.exited && s0.vfPart z.2.vf = p) = false →
    leastBy (fun z => z.2.placeKey z.1) ((s0.waitingStands p).filter (fun z => s0.hasRoom z.1)) = some x →
    exec (.standPlace p) s = .next (s0.reserve x.1))
  ∧ (∀ k st, s.stands.get? k = some st → st.chosen = true → st.started = false → st.exited = false →
    let s1 := s.updStand k (fun st => st.begin (s.raceMode st.vf) (s.clk st.core) s.nextId)
    let s2 := { s1 with nextId := s.nextId + 1, grids := s1.grids.modify st.grid (fun g => g.noteStart st.num s.cycles)
                        remains := s1.remains.filterT (fun _ r => r.core ≠ st.core) }
    let s3 := ((s2.startVaultQueues k).classifyStand k).settleGang st.grid st.num
    exec (.standStart k) s = .next ((s3.settlePlaced st.grid).noteSusp.traceRecord st.vf st.core 0 1 st.num))
  ∧ (∀ k g n, s.grids.get? k = some g → 2 ≤ g.gang → g.expired.contains n = false → g.fail = none → s.gangAge g n g.patience = true →
    (s.members k g n).all (fun p => p.2.started) = false → exec (.gangPatienceExpire k n) s = .next (State.preemptFor
      { s with grids := s.grids.modify k (fun g => { g with expired := g.expired ++ [n] }) } (s.vfPart g.vf)).noteLack)
  ∧ (∀ p x y g, (s.stuckGangs p).find? (fun x => (s.waitsFor x).isSome) = some x →
    leastBy (fun y => 2 ^ 64 - (y.1 * 8192 + y.2)) (s.stuckReach ((s.stuckGangs p).length + 1) [x]) = some y → s.grids.get? y.1 = some g →
    exec (.gangRelief p) s = .next (State.callSave { s with grids := s.grids.modify y.1 (fun g =>
      { g with expired := g.expired.filter (· != y.2), firstStart := g.firstStart.erase y.2 }) }
      ((s.members y.1 g y.2).filterMap (fun p => if p.2.started && !p.2.exited && p.2.saved.isNone then some p.1 else none))))
  ∧ (∀ k, s.gridDone k = true → exec (.gridEnd k) s = .next (s.endGrid k))
  ∧ (∀ p v w, s.switching p = false → s.curOf p = some v → s.turnOver p v = true → s.nextTaker p (v + 1) = some w →
    exec (.sliceEnd p) s = .next (if w = v then s.updFunction v (fun f => { f with inTurn := false })
      else ((s.updFunction v (fun f => { f with inTurn := true })).setField (pctlAt p) 1 1 1).settleSwitch p))
  ∧ (∀ k st st1, s.stands.get? k = some st → st.savePending = true → st.started = true → st.exited = false → st.saved = none → st.stuckFrozen = false →
    s.saveDeferred st = false → let s1 := (List.range 4).foldl (fun s q => s.interruptAll k (4 * st.core + q) 64) s
    let s3 := ((s1.threads.filterMap (fun p => if p.2.stand = k then some p.1 else none)).foldl State.drainQ s1).withdrawPosts k
    s3.stands.get? k = some st1 → st1.exited = false → s3.saveWaits k st1 = false → s3.saveFault st1 true = none →
    let s4 := (s3.saveWrite st1.vf (s3.saveFrames st1 true)).foldSlots k
    exec (.contextSave k) s = .next ((((s4.leaveSite k).updStand k (fun st =>
      { st with saved := some (s4.contextOf k st1), savePending := false, frozen := none })).settleFrz st1.vf).settleSwitch (s.vfPart st.vf)))
  ∧ (∀ k st sv, s.stands.get? k = some st → st.saved = some sv → st.chosen = true → st.exited = false → st.stuckFrozen = false →
    s.saveFault st false = none → s.saveBad st = false → let s1 := s.putBack k st sv
    exec (.contextRestore k) s = .next (((State.settlePlaced { s1 with grids := s1.grids.modify st.grid (fun g => g.noteStart st.num s.cycles) }
      st.grid).settleFrz st.vf).settleSwitch (s.vfPart st.vf)))
  ∧ (∀ q, exec (.stallReasonCount q) s = .next (s.stallCycle q none))
  ∧ (s.isQdbg = true → (s.writeQdbg.quadAt (qdbgQuad s.wr.pa)).stopped = none →
    let k := qdbgQuad s.wr.pa
    exec .debugStopRequest s = .next ((s.writeQdbg.stopQuad (k / 4) (k % 4) 2 ((s.free 2).toNat % 256) ((s.free 0).toNat)
      ((s.free 1).toNat % 32) []).finishStop (k / 4) (k % 4)))
  ∧ (∀ st, s.isQdbg = true → (s.quadAt (qdbgQuad s.wr.pa)).stopped = some st → bit s.wr.value.toNat 1 = false →
    let k := qdbgQuad s.wr.pa
    exec .debugResume s = .next (st.recs.foldl (fun x r => x.joinTrap (k / 4) { r with opened := x.clk (k / 4) })
      ((s.updQuad k (fun q => { q with stopped := none })).setField (dbgAt (k / 4) (0x40 + 8 * (k % 4))) 1 2 0)).writeQdbg)
  ∧ exec .claimSuspend s = .next s.writeHclm ∧ exec .claimResume s = .next s.writeHclm

/-- R316, R318, R320, R326 to R331, R333, R382, R397 to R404, R434, R437, R442 (spec/13, 17, 18, 21): what a register write does to
functions, partitions, policies and parked sub-warps, where its agent may write there, and what the gate does with the oldest release. -/
def Obligations.FunctionEvents : Prop := ∀ s : State,
  (∀ p, s.wrPart = some p →
    (s.partFit p = true → exec .partitionEnable s = .next ((s.writePctl p s.wr.value).setField (pctlAt p) 0 1 1))
    ∧ exec .partitionDisable s = .next (((s.writePctl p s.wr.value).tearPartition p).setField (pctlAt p) 0 1 0))
  ∧ (∀ v, s.wrVctl = some v →
    (s.mgmtDown = false → (s.writeVctl v s.wr.value).enableBlocked v = false →
      let s2 := ((s.writeVctl v s.wr.value).resetRegs (runningRegs v)).fillKey ((s.writeVctl v s.wr.value).vfKey v)
      exec .vfEnable s = .next (State.setField { s2 with functions := s2.functions.insert v Function.empty } (ctxAt v 0) 0 1 1))
    ∧ exec .vfTeardown s = .next ((s.writeVctl v s.wr.value).tearDown v))
  ∧ (∀ v, s.frozenVf = some v →
    let cores := s.stands.filterMap (fun p => if p.2.vf = v && p.2.frozen.isSome then some p.2.core else none)
    let s1 := cores.foldl (fun s c => s.updCore c (fun x => { x with tlb := x.tlb.filter (fun e => e.vf ≠ v) })) s
    exec .saveReplay s = .next { s1 with stands := s1.stands.mapVals (fun _ (st : Stand) =>
      if st.vf = v then { st with frozen := st.frozen.map (fun f => { f with replay := true }) } else st) }
    ∧ exec .saveKill s = .next (s.tearDown v))
  ∧ (∀ v, s.wrVf = some v →
    let n := s.wr.value.toNat
    let core := 80 * bits n 8 7 + bits n 1 7
    let quota := 8 * (bits n 17 5 + 1)
    let s1 := s.setReg (supAt v 0x101) (s.wr.value &&& hctlMask)
    (∀ sk sks, s.vfEnabled v = true → bits n 1 7 < 80 → bits n 8 7 < 96 → s.handlerRoom v core quota (bits n 15 2) = true →
      s.openSlots (4 * core + bits n 15 2) = sk :: sks →
      let st := s1.handlerStand v core quota (bits n 15 2) (!s.mayPlace v)
      exec .handlerCreate s = .next ((State.seatHandler { s1 with
        stands := s1.stands.insert v { st with barriers := st.freshBarriers }, nextId := s1.nextId + 1 } v sk).updFunction v (fun f =>
          { f with handler := true })).noteSusp)
    ∧ exec .handlerTeardown s = .next ((s.dropHandler v).setReg (supAt v 0x101) (s.wr.value &&& hctlMask))
    ∧ (∀ m, (s.functions.getD v Function.empty).migIds.find? (fun m => m.written.map Prod.fst = some (bits n 0 16)) = some m →
      let s2 := (s.dropFrame v m.page).updFunction v (fun f => { f with migIds := f.migIds.filter (fun x => x.page ≠ m.page) })
      exec .migrationReplay s = .next (((s2.allParked v).filter (fun f => f.sub.onPage m.page)).foldl (fun s f => s.resumeSub f false) s2))
    ∧ exec .pvalWrite s = .next (s.writePval v (match s.wr.agent with
      | .thread k => (s.thread k).sel
      | _ => s.pageSel v))
    ∧ exec .hpvalWrite s = .next (s.writePval v (s.hypSel v))
    ∧ exec .forwardEvent s = .next (if s.ctxAddr v 0x78 = 0 then s else s.signal (s.ctxAddr v 0x78) (s.wr.value.setWidth 32)))
  ∧ (∀ f, s.wrSub = some f →
    exec .presRetry s = .next (s.resumeSub f false) ∧ exec .presSkip s = .next (s.resumeSub f true)
    ∧ (∀ n, f.sub.seq = some n → exec .presKill s = .next (s.failStandAt f.stand f.sub.code (some n) false f.sub.killAt))
    ∧ (f.sub.seq = none → exec .presKill s = .next (if s.recordOpen f = true then
        (s.killRecord f).failStandAt f.stand f.sub.code none true f.sub.killAt
      else s.failStandAt f.stand f.sub.code none false f.sub.killAt)))
  ∧ (s.gateRuns = true →
    let blen := 64 + 16 * polNdst (s.blob 64)
    let blob := s.blob (blen + 3373 * 64)
    let h := bits s.wr.value.toNat 2 16
    let o := bits s.wr.value.toNat 2 6
    (∀ k, policyOk (blob.take blen) = true → s.signFault blob (blob.take blen) blen = none →
      (List.range 1024).find? (fun k => (s.policies.get? k).isNone) = some k → exec .policyInstall s = .next (State.gateStatus
        { s with policies := s.policies.insert k ⟨s.policyGens.getD k 0, blob.take blen, polBudget (blob.take blen), polMaxrel (blob.take blen)⟩ }
        0 0 (k + 1024 * s.policyGens.getD k 0)))
    ∧ (policyOk (blob.take blen) = false → exec .policyInstall s = .next (s.gateStatus 1 0 0))
    ∧ ((s.policy h).isSome = true → exec .policyRemove s = .next ((s.dropPolicy (h % 1024)).gateStatus 0 0 0))
    ∧ (s.policy h = none → exec .policyRemove s = .next (s.gateStatus 5 0 0))
    ∧ exec .keyRegister s = .next (((s.policies.filterMap (fun p => if bit (polOset p.2.body) o then some p.1 else none)).foldl State.dropPolicy
        (State.measure { s with originKeys := s.originKeys.insert o (s.blob 1984) } 2 (BitVec.ofNat 8 o :: s.blob 1984))).gateStatus 0 0 0))
  ∧ (∀ r rs, s.gate = r :: rs → s.gateLogFull = false → (r.kind ≠ 1 ∨ s.mgmtDown = false) →
    let seq : BitVec 16 := BitVec.ofNat 16 (s.field (gateAt 0x28) 0 32)
    (∀ res, State.relRefusal { s with gate := rs } r = some res →
      exec .gateRelease s = .next ((State.gateLog { s with gate := rs } r res).tokensDown r.threads r.tok 0x02 seq r.label))
    ∧ (State.relRefusal { s with gate := rs } r = none →
      exec .gateRelease s = .next ((State.gateLog { s with
        gate := rs
        policies := s.policies.modify (r.handle.toNat % 1024) (fun p => p.spend r.data.length) } r (if r.kind = 2 then 1 else 0)).emit r seq)))

/-- R381, R383 to R386, R312, R379, R382, R447 (spec/13, 17, 22): the management domain: its wake events, rings and eyes, its requests
over the port, and the writes of its own registers. -/
def Obligations.ManagementEvents : Prop := ∀ s : State,
  (∀ src, ∃ t, exec (.wakeEvent src) s = .next t ∧ t = { s with mgmt := t.mgmt }
    ∧ t.mgmt = { s.mgmt with halted := s.mgmt.halted && !bit s.mgmt.mwake.toNat (match src with
        | .port => 0
        | .ring => 1
        | .timer => 2) })
  ∧ (∀ n i ok heat, ringExists n i = true → isWlc n i = true → bits (s.ringReg n i).toNat 0 3 = 1 → exec (.ringSearch n i ok heat) s
    = .next ((s.setRing n i (if ok then putField (putField (s.ringReg n i) 1 1 1) 8 8 heat.toNat else putField (s.ringReg n i) 2 1 1)).wakeMgmt .ring))
  ∧ (∀ n i eyeh eyew, ringExists n i = true → isWlc n i = true → bit (s.ringReg n i).toNat 3 = true → bit (s.ringReg n i).toNat 1 = true →
    let r1 := putField (putField (putField (s.ringReg n i) 3 1 0) 16 8 eyeh.toNat) 24 8 eyew.toNat
    exec (.eyeTraining n i eyeh eyew) s = .next ((State.settleGuarantee s (portOfNode n) (s.setRing n i
      (putField r1 (if 40 ≤ eyeh.toNat ∧ 32 ≤ eyew.toNat then 4 else 5) 1 1))).wakeMgmt .ring))
  ∧ (∀ found image, ∃ t, exec (.powerOn found image) s = .next t ∧ if Config.vendorVerify image = true then t.flash = image
    ∧ t.measures = [⟨0, BitVec.ofNat 384 (beNat (sha384 image))⟩] ∧ t.mem = [] ∧ t.stands = [] ∧ t.grids = [] ∧ t.hostHeld = true
    else t.bringUp = 15 ∧ (t.thread mgmtThread).status = .parked)
  ∧ (s.wrAllowed = true → s.field (featAt 0x40) 1 1 ≠ 1 → exec .featureConfirm s = .next (s.setReg (featAt 0x40)
      (if (List.range 4).any (fun i => ((s.reg (featAt (0x20 + 8 * i))).toNat &&& (2 ^ 64 - 1 - (s.reg (featAt (8 * i))).toNat)) ≠ 0)
        then 4 else 2)))
  ∧ (∀ n, bits s.wr.value.toNat 0 4 = n → bit s.wr.value.toNat 4 = false → (n ≤ 6 → s.bringUp ≠ 15 → exec .mstateWrite s = .next ((s.endStep n).setBringUp n))
      ∧ (n ≤ 6 → s.bringUp = 15 → exec .mstateWrite s = .next s)
      ∧ (n = 15 → exec .mstateWrite s = .next s.fatalStop))
  ∧ (∀ v off, v < 1024 → off < 0x100 → s.wrAllowed = true → s.wr.pa = 0x080600000000 + 0x100 * v + off →
    exec .registerWrite s = .next (s.writeCtx v off s.wr.value))
  ∧ (let node := (s.wr.pa - 2 ^ 53) / 1024
    let ok := mapOk ((List.range 9).map (fun i => bits s.wr.value.toNat (4 * i) 4)) 10
    ringExists node 16 = true → s.wr.agent = .mgmt → exec .lmapWrite s = .next (if ok = false then s.setRerr
      else State.settleGuarantee s (portOfNode node) (s.setRing node 16 (BitVec.ofNat 64 (s.wr.value.toNat % 2 ^ 36)))))
  ∧ (let node := (s.wr.pa - 2 ^ 53) / 1024
    let idx := (s.wr.pa - 2 ^ 53) % 1024
    let s1 := s.setRing node idx s.wr.value
    node < 48 → 48 ≤ idx → idx < 51 → s.wr.agent = .mgmt →
    exec .fmapWrite s = .next (if mapOk (fmapList (s1.fmap node)) 35 then s1 else s.setRerr))
  ∧ (let w := s.wakeMgmt .port
    let code (n : Nat) : Prop := ∃ b bs, s.stim.datagram = b :: bs ∧ b.toNat = n
    w.portServes = true →
    (code 1 → exec .status s = .next (w.reply (leBytes 8 w.mgmt.mstate.toNat
      ++ (if w.mapGen = 0 then [] else (List.range 2144).map w.mapByte) ++ w.fatals.flatten)))
    ∧ (code 2 → 1 ≤ s.bringUp → exec .log s = .next (w.reply (w.logBytes (leNat ((w.stim.datagram.drop 1).take 4)))))
    ∧ (code 3 → 1 ≤ s.bringUp → let m := reportTitle ++ (w.stim.datagram.drop 1).take 32 ++ w.logBytes 0
      exec .report s = .next (w.reply (m ++ Config.ed25519Sign m ++ Config.mldsaSign m)))
    ∧ (code 4 → s.bringUp = 15 ∨ s.bringUp = 6 → (w.stim.datagram.getD 1 0#8).toNat = 0 → ∃ t, exec .fwload s = .next t
      ∧ t = { w with flash := t.flash }
      ∧ ∀ i, i < (w.stim.datagram.drop 6).length → t.flash[leNat ((w.stim.datagram.drop 2).take 4) + i]? = (w.stim.datagram.drop 6)[i]?)
    ∧ (code 5 → s.bringUp = 6 → let n := (w.stim.datagram.getD 1 0#8).toNat
      exec .stream s = .next { w with outputs := w.outputs ++ [.reply (w.streams.getD n [])], streams := w.streams.erase n })
    ∧ (s.unknownCode = true → exec .unknownRequest s = .next ((w.reply [0#8]).logIgnored 0 false .mgmt)))

/-- R388, R446 to R460 (spec/17, 22): failures and repairs: retest and retirement, link and ring failures, bad sectors, scrubs, folded
records, channels in relocation, a policy that fails its check, and the watchdog. -/
def Obligations.FailureEvents : Prop := ∀ s : State,
  (∀ x a b, x < 7680 → let s1 := { s with retests := s.retests.filter (· ≠ (x, a, b)) }
    (s.retestWaits x = false → exec (.retest x a b) s = .next (if a = true ∧ b = true then s1.publish else s1.retire x (if b then 1 else 2)))
    ∧ (s.retestWaits x = true → exec (.retest x a b) s = .next { s1 with retests := s1.retests ++ [(x, a, b)] }))
  ∧ (∀ x p, x < 7680 → let k := 4 * x + portDir p
    exec (.linkRetry x p) s = .next (State.foldError { s with linkRetries := s.linkRetries.put 0 k (s.linkRetries.getD k 0 + 1) }
      0x10 0 x (portDir p)))
  ∧ (∀ x p y, x < 7680 → hopFrom x (portDir p) = some y → 16 ≤ s.linkRetries.getD (4 * x + portDir p) 0 →
    let s1 := (s.grids.filterMap (fun g => if g.2.state ≠ .ended && s.gridOver g.1 g.2 x y then some g.1 else none)).foldl
      (fun s k => s.failGrid k ⟨0xE0, none, false, 0⟩) s
    let s2 := { s1 with linkRetries := s1.linkRetries.erase (4 * x + portDir p) }
    exec (.linkDown x p true true) s = .next (s2.logError 0x11 1 0x3FF 0 x 1 (s2.siteState x)).publish)
  ∧ (∀ w x heat new, s.bringUp ≠ 15 → w < 48 → (fmapList (s.fmap w)).contains x = true → (heat.toNat ≤ 7 ∨ 248 ≤ heat.toNat) →
    (List.range 36).find? (s.spareFree w) = some new →
    let s1 := s.light w new
    let s2 := s1.setRing w x (putField (putField (s1.ringReg w x) 4 1 0) 5 1 1)
    exec (.marginAlarm w x heat) s = .next ((s2.setFmap w (remap (s2.fmap w) x new)).foldError 0x20 0 w (x + new * 2 ^ 6)))
  ∧ (∀ n x, exec (.lockLost n x) s = .next ((s.logError 0x21 2 0x3FF 0 n 1 x).fatalStop))
  ∧ (∀ pa, s.isDram pa = true ∨ isVault pa = true → exec (.uncorrectableError (.sector pa)) s
    = .next ((s.markBad (.pa pa)).logContained (if isVault pa then 5 else 6) 0x3FF (pa / 32 * 32) (s.siteOfPa pa)))
  ∧ (∀ k o, exec (.uncorrectableError (.spSector k o)) s = .next ((s.markBad (.sp k o)).logContained 2 (s.vfOf k) 0 (s.siteOfStand k)))
  ∧ (∀ t, exec (.uncorrectableError (.register t)) s = .next ((s.failStand (t / 16384) 0xE0 none false).logContained 1
      (s.vfOf (t / 16384)) 0 (s.siteOfStand (t / 16384))))
  ∧ (∀ c x, c < 1024 → 32 * x < 2 ^ 41 → channelOf (32 * x) = c → exec (.dramScrub c x true false) s = .next (
    let s1 := s.foldError 6 (32 * x) (s.entrySite c) ((s.free 56).toNat)
    let n := s.channelErrors.getD c 0 + 1
    let s2 := { s1 with channelErrors := s1.channelErrors.put 0 c n }
    if n = 256 then s2.channelFailing c else s2))
  ∧ (∀ c n, c < 384 → n < 2 ^ 20 → let row := rowKey c n
    let s1 := s.foldError 5 (0x40000000000 + c * 0x4000000 + 64 * n) (s.vaultPort c n) ((s.free 56).toNat)
    exec (.vaultScrub c n true false) s = .next (
      let s2 := { s1 with rowErrors := s.rowErrors.put 0 row (s.rowErrors.getD row 0 ||| 1) }
      if bit (s.rowErrors.getD row 0) 1 then s2.remapRow c row else s2))
  ∧ (∀ c b n, c < 7680 → b < 32 → n < 512 → exec (.scratchpadScrub c b n true) s = .next (s.foldError 2 0 c ((s.free 56).toNat)))
  ∧ (∀ k f, s.folds.get? k = some f → exec (.errorFoldExpire k) s = .next (State.logError { s with folds := s.folds.erase k }
      f.kind (if f.kind = 0x0B then 3 else 0) f.vf f.pa f.loc f.cnt f.info.toNat))
  ∧ (∀ h, (s.policy h.toNat).isSome = true → exec (.policyCheckFail h) s
    = .next ((s.dropPolicy (h.toNat % 1024)).logError 0x60 3 0x3FF 0 s.noLoc 1 h.toNat))
  ∧ (∀ image, exec (.watchdogRestart image) s = .next (if Config.vendorVerify image = false then s.fatalStop else (State.measure { s.startMgmt with
      flash := image
      mgmt := { s.mgmt with rmode := 1, mwake := 0, mtimer := 0, halted := false, held := [] }
      inputs := s.mgmt.held ++ s.inputs } 0 image).logError 0x70 3 0x3FF 0 s.noLoc 1 0))
  ∧ (s.wrAllowed = true → s.field (errAt 0x20) 10 2 = 1 → exec .channelAck s = .next ((s.setField (errAt 0x20) 10 2 2).setField (errAt 0x20) 12 1 1))
  ∧ (s.field (errAt 0x20) 10 2 = 2 →
    let ch := s.field (errAt 0x20) 0 10
    let s2 := ((State.setField { s with retired := insertNat ch s.retired } (errAt 0x20) 10 3 0).publish).logError 0x31 3 0x3FF 0 s.noLoc 1 ch
    exec .relocationComplete s = .next (match s2.failing with
      | [] => s2
      | c :: cs => State.channelFailing { s2 with failing := cs } c))

/-- R104, R106, R108, R124, R270, R419 (spec/05, 11, 20), and the step of notes/assumptions 3: with an input waiting, the machine runs it;
otherwise a group that the schedule chose fetches its clause, and once no lane waits on a token of the clause's mask or on an epilogue and
no status raises, the step is exec of the instruction that the clause holds at the group's index, with the issue stage's side after it;
and that instruction is the one its bytes decode to. -/
def Obligations.StepRuns : Prop :=
  (∀ (s : State) (x : Input) (xs : List Input), s.inputs = x :: xs →
    Machine.step s = onNext State.closeEvent (exec x.event { s.refresh with inputs := xs, stim := x.stim }))
  ∧ (∀ (u s s1 : State) (p : Plan) (cl : Clause) (i : Instr) (n : Nat),
    let lanes := p.group.lanes
    let pc := p.group.pc
    let c : Cur := { core := p.slot / 64, quad := p.slot / 16 % 4, slot := p.slot % 16, lanes := lanes, hdr := pc.hdr, idx := pc.idx,
                     cnt := pc.idx, next := pc.hdr, at_ := pc.hdr + 8 }
    let s0 := { s with cur := c }
    u.refresh.act = State.tryGroup s p →
    s0.fetchClause (s0.laneWho (lanes.headD 0)) pc.hdr = (.ok cl, s1) → clauseInstr cl pc.idx = (i, n) → i ≠ .clauseNotWellFormed →
    let s2 := { s1 with cur := { c with cnt := cl.header.cnt.toNat, next := nextClause pc.hdr cl.header, at_ := pc.hdr + n } }
    (pc.idx = 0 → lanes.any (fun l => (s2.lane l).waitsOn cl.header.wait.toNat) = false ∧ s2.clauseRaise cl.header.wait.toNat = none) →
    lanes.any (fun l => s0.epiloguePending (s0.laneKey l)) = false →
    Machine.step u = onNext (State.closeInstr p s2) (exec i s2))
  ∧ (∀ (cl : Clause) (xs : List Placed) (idx : Nat) (x : Placed) (i : Instr) (rest : List Byte),
    cl.body = some xs → (idx = 0 → bodyOk cl.header xs = true) → xs[idx]? = some x → decodeBytes x.pair x.bytes = .ok (i, rest) →
    clauseInstr cl idx = (i, x.off))

/-- R104, R107, R114, R151, R199, R217, R257, R283, R349 (spec/05, 07, 08, 09, 10, 11, 14): words that the spec writes out decode to the
instructions it says they are, field by field. -/
def Obligations.DecodedWords : Prop :=
  decodeTableWord 64 0x20C08101_4181C004
    = some (.fma { x := 0, gn := 0, gp := 2, d := 4, a := 5, b := 6, c := 7, ma := 0, mb := 0, mc := 0, sel := 0b00100 })
  ∧ decodeTableWord 64 0x19C28101_C0000006
    = some (.mov { x := 0, gn := 1, gp := 2, d := 4, a := 7, b := 0, c := 0, ma := 0, mb := 0, mc := 0, sel := 0b00110 })
  ∧ decodeTableWord 64 0x2651C202_40050006
    = some (.cvt { x := 4, gn := 0, gp := 7, d := 8, a := 9, b := 0, c := 0x14, ma := 0, mb := 0, mc := 0, sel := 0b00110 })
  ∧ decodeTableWord 64 0x4009C181_00054000
    = some (.ld { x := 2, gn := 0, gp := 7, d := 6, a := 4, b := 0, spc := 0, ord := 1, sco := 2, sz := 4, var := 0, dl := 0 })
  ∧ decodeTableWord 64 0x4401C106_87D04100
    = some (.qdeq { x := 0, gn := 0, gp := 7, d := 4, a := 26, b := 31, spc := 1, ord := 0, sco := 0, sz := 4, var := 1, dl := 0 })
  ∧ decodeTableWord 64 0x5101C002_00000203
    = some (.mma { x := 0, gn := 0, gp := 7, d := 0, a := 8, b := 0, tok := 0, te := 0, ord := 0, sco := 0, macs := 1, acc := 0, sel := 3 })
  ∧ decodeTableWord 64 0x6001C200_830C09E0
    = some (.xcopy { x := 0, gn := 0, gp := 7, d := 8, a := 2, b := 12, tok := 1, te := 1, ord := 0, sco := 0, dspc := 1, sspc := 0, sel := 0x1E0 })
  ∧ decodeTableWord 64 0x6100C002_00000080
    = some (.send { x := 0, gn := 0, gp := 3, d := 0, a := 8, b := 0, tok := 0, te := 0, ord := 0, sco := 0, dspc := 0, sspc := 0, sel := 0x080 })
  ∧ decodeTableWord 64 0x3041C545_C2C04000
    = some (.slide { x := 0, gn := 0, gp := 7, d := 21, a := 23, b := 11, c := 1, ma := 0, mb := 0, mc := 0, sel := 0 })
  ∧ decodeTableWord 64 0x00C1C2C0_00000201
    = some (.rgrp { x := 0, gn := 0, gp := 7, d := 11, imm := 8, sel := 1 })

/-- R104, R105, R113, R114, R119, R124, R125, R217 (spec/05, 09): every well-formed instruction that has an encoding is decoded from its
own bytes, whatever follows them, with every operand as it was. -/
def Obligations.DecodeEncode : Prop := ∀ (i : Instr) (rest : List Byte), i.wellFormed = true → encode i ≠ [] →
  decodeBytes i.isPair (encode i ++ rest) = .ok (i, rest)

/-- R104, R124, R125 (spec/05): no bit of an instruction is dropped and no two words mean one instruction: what a word or a pair word
decodes to encodes to that very word; and exactly the words whose opcode the map does not assign decode as unassigned, and only the
header's opcode is refused. -/
def Obligations.EncodeDecode : Prop :=
  (∀ (w : BitVec 64) (i : Instr), decodeWord w = .ok i → encode i = leBytes 8 w.toNat ∧ i.isPair = false)
  ∧ (∀ w : BitVec 96, encode (decodePair w) = leBytes 12 w.toNat)
  ∧ (∀ w : BitVec 64, decodeWord w = .error .headerValue ↔ opcodeField w = 0x3FF)
  ∧ (∀ w : BitVec 64, opcodeField w ≠ 0x3FF → (assignedOp (opcodeField w) = false ↔ decodeWord w = .ok (.unassignedOpcode w)))

/-- R69, R316, R318, R325, R379, R383, R385 (spec/03, 13, 17): after reset the device is in state ROM, runs no function, holds no stand,
no launch, no measurement and no queued work, its host cores are held, no partition and no function is enabled, every tag and the sticky
registers that the spec gives are zero; and the model's own choices (notes/assumptions 1, 2): the management thread's registers are zero,
and memory lists nothing, is canonical and reads zero everywhere. -/
def Obligations.ResetState : Prop :=
  (State.reset.bringUp = 0 ∧ State.reset.hostHeld = true ∧ State.reset.stands = [] ∧ State.reset.grids = [] ∧ State.reset.functions = []
  ∧ State.reset.commands = [] ∧ State.reset.bursts = [] ∧ State.reset.gate = [] ∧ State.reset.measures = [] ∧ State.reset.policies = []
  ∧ (∀ v, v < 1024 → State.reset.vfEnabled v = false) ∧ (∀ p, p < 48 → State.reset.partEnabled p = false)
  ∧ (∀ pa, State.reset.tagAt pa = 0) ∧ State.reset.mgmt.mwake = 0 ∧ State.reset.mgmt.mtimer = 0
  ∧ State.reset.reg (featAt 0x40) = 0 ∧ (∀ g r, State.reset.quadAt g = Quad.empty ∧ (State.reset.thread mgmtThread).reg r = 0))
  ∧ (Memory.wf State.reset.mem = true ∧ ∀ a, rawByte State.reset.mem a = 0)

/-- R5 (spec/00) and notes/assumptions 3: the machine never stops: every step is to a next state, its clock has moved on, and every
instruction and event answers a next state in every state. -/
def Obligations.NeverStops : Prop :=
  (∀ (i : Instr) (s : State), ∃ t, exec i s = .next t) ∧ (∀ s : State, ∃ t, Machine.step s = .next t)

/-- R2, R69, R71 (spec/00, 03), the model's own form of memory (notes/assumptions 2): a step keeps memory canonical, addresses strictly
rising and no byte listed that is zero, so that equal memories are equal data. -/
def Obligations.MemoryStaysCanonical : Prop := ∀ s t : State, Memory.wf s.mem = true → Machine.step s = .next t → Memory.wf t.mem = true

/-- R94, R96, R115, R268, R272 to R277 (spec/04, 05, 11): where room for the token is left and the preparation and every piece pass their
checks, XCOPY and XKICK hand the command to the request engine: queues drain, the token rises in every executing lane, destination lines
become absent, and the group goes on without waiting; and the slices of a linear copy over k crews meet and cover it. -/
def Obligations.Copies : Prop :=
  (∀ f : YFmt,
  let act (srcs : List Src) (s : State) (gp : BitVec 3) (l : Nat) (ex : List Nat) (r : Prepared × Copied) : State :=
    if s.badRecord r.1.rcd then s.failStand s.curStand 0xE0 none false
    else ((s.touchAll (s.laneWho l) r.1.rcd false).submit l ex f.k r.2
      (s.labelL gp.toNat ex (s.curSlot.srcLabel srcs) r.1.mlab)).advance s.cur.lanes
  GroupCompletes (.xcopy f) (xcopySrcs f) [] (State.copyCheck f (xcopySrcs f) (State.xcopyPrep f)) (act (xcopySrcs f))
  ∧ GroupCompletes (.xkick f) (xkickSrcs f) [] (State.copyCheck f (xkickSrcs f) (State.xkickPrep f)) (act (xkickSrcs f)))
  ∧ (∀ n k : Nat, 0 < n → 0 < k →
  (sliceOf n 0 k).1 = 0 ∧ (sliceOf n (k - 1) k).2 = n
  ∧ ∀ c, c + 1 < k → (sliceOf n (c + 1) k).1 % 64 = 0
      ∧ ((sliceOf n c k).2 = (sliceOf n (c + 1) k).1 ∨ (sliceOf n c k).2 = n ∧ n ≤ (sliceOf n (c + 1) k).1))

/-- R384, R428 (spec/17, 20): CRRD reads and CRWR writes a ring register on the management core, each lane in turn and after its stores,
and an address that names none sets RERR; CTXSV writes the block of the selected parked thread line by line and CTXLD reads it back; and
CTXLD of the very bytes that CTXSV wrote, into the same thread, restores it (the layout is the model's own, notes/assumptions 22). -/
def Obligations.RingAndContext : Prop :=
  (∀ f : SFmt,
  Acts (.crrd f) [.v f.ra 1] (fun s gp ex =>
    let s1 := s.drainLanes ex
    let target (l : Nat) : Option (Nat × Nat) := s.ringTarget ((s.lane l).reg f.ra).toNat
    let value (l : Nat) : Nat := match target l with
      | some x => s1.ringRead x.1 x.2
      | none => 0
    ((if ex.any (fun l => (target l).isNone) then s1.setRerr else s1).commit ex [.v f.rd 2]
      (s.labelL gp.toNat ex (s.curSlot.srcLabel [.v f.ra 1]) 0) (ex.map (fun l => (l, [Out.val (value l)])))).advance s.cur.lanes)
  ∧ Acts (.crwr f) [.v f.ra 1, .v f.rd 2] (fun s _ ex =>
    (ex.foldl (fun x l => match x.ringTarget ((x.lane l).reg f.ra).toNat with
      | some r => x.postWrite ⟨ringRegAt r.1 r.2, BitVec.ofNat 64 ((x.lane l).regNat f.rd 2), .mgmt, 0⟩
      | none => x.setRerr) (s.drainLanes ex)).advance s.cur.lanes)
  ∧ GroupCompletes (.ctxsv f) [.v f.ra 2] [] (fun s l _ => s.ctxCheck f true l) (fun s gp l ex a =>
    let lab := s.labelL gp.toNat ex (s.curSlot.srcLabel [.v f.ra 2]) 0
    match a with
    | none => s.ctxStatus f ex lab 1
    | some ((x, p), ts) =>
      let t := s.thread p.thread
      let q := s.quotaOf p.thread
      (((lineTargets ts).zip (List.range 32)).foldl (fun z y => z.storeAt (s.laneWho l) y.1
          (((t.toBlock (s.foundSlot x) q (s.vfOf x.stand)).drop (64 * y.2)).take 64)
          (t.blockLabel (s.foundSlot x) q ||| lab) z.cur.slotKey) s).ctxStatus f ex lab 0)
  ∧ GroupCompletes (.ctxld f) [.v f.ra 2] [] (fun s l _ => s.ctxCheck f false l) (fun s gp l ex a =>
    let lab := s.labelL gp.toNat ex (s.curSlot.srcLabel [.v f.ra 2]) 0
    match a with
    | none => s.ctxStatus f ex lab 1
    | some ((x, p), ts) =>
      let r := ((s.drainQ (s.laneKey l)).touchAll (s.laneWho l) ts false).readSpans (s.laneWho l).stand (spansOf ts)
      let q := s.quotaOf p.thread
      if r.1.2.2 then r.2.failStand (s.laneWho l).stand 0xE0 none false
      else if blockField r.1.1 0 2 ≠ q ∨ blockField r.1.1 2 2 ≠ s.vfOf x.stand then
        (r.2.park (ex.map (fun l' => (l', { (blockReq ((s.lane l).regNat f.ra 2) false).flt 0x05 0 with
          label := s.curSlot.srcLabel [.v f.ra 2] })))).advance (s.othersOf ex)
      else
        ((r.2.updThread p.thread (fun t => t.ofBlock (s.foundSlot x) q r.1.1)).updFound x (fun sl =>
          (List.range 7).foldl (fun sl k => sl.setPredLabel k (sl.predLabel k ||| (r.1.2.1 ||| lab)))
            ((List.range q).foldl (fun sl k => sl.setRegLabel k (sl.regLabel k ||| (r.1.2.1 ||| lab))) sl))).ctxStatus f ex lab 0))
  ∧ (∀ (t : Thread) (sl : Slot) (q v : Nat), q ≤ 256 → v < 2 ^ 16 →
  (∀ p ∈ t.predTok, p.1 < 7) → (∀ r ∈ t.poison, r < q) →
  let bs := t.toBlock sl q v
  let u := t.ofBlock sl q bs
  bs.length = 2048 ∧ blockField bs 0 2 = q ∧ blockField bs 2 2 = v
  ∧ (∀ r, r < q → u.reg r = t.reg r) ∧ (∀ k, k < 8 → u.pred k = t.pred k) ∧ (∀ k, u.predTok? k = t.predTok? k)
  ∧ (∀ r, u.poison.contains r = t.poison.contains r) ∧ u.carried = t.carried ∧ u.next = t.next)

/-- R106, R110, R124, R125, R384, R391, R419, R420 (spec/05, 17, 18, 20): a guarded instruction that no lane executes moves its group on
and changes nothing else; one whose encoding, operands or level are illegal, off the management core, parks its executing lanes at the
instruction, moves the others on, and changes no register, predicate or byte of memory; a word whose opcode is unassigned parks the
executing lanes of its guard under ILL 0, and a clause that is not well formed parks every lane of its group under ILL 3; privileged
instructions park where they may not run. -/
def Obligations.GuardsAndFaults : Prop :=
  (∀ (i : Instr) (s : State) (u : Use), s.useOf i = some u → s.ordered = true →
  let ex := s.execLanes u.gn u.gp
  (ex = [] → ∃ t, exec i s = .next t ∧ (∀ l ∈ s.cur.lanes, t.lane l = { s.lane l with pc := s.cur.nextPC })
    ∧ (∀ k, k ∉ s.cur.lanes.map s.laneKey → t.thread k = s.thread k) ∧ t = { s with threads := t.threads })
  ∧ (∀ f, ex ≠ [] → u.bad = some f → s.onMgmt = false → ∃ t, exec i s = .next t
    ∧ (∀ l ∈ ex, t.lane l = { s.lane l with status := .parked, wait := .none })
    ∧ (∀ l ∈ s.cur.lanes, l ∉ ex → t.lane l = { s.lane l with pc := s.cur.nextPC })
    ∧ (∀ k, k ∉ s.cur.lanes.map s.laneKey → t.thread k = s.thread k)
    ∧ t.mem = s.mem ∧ t.stands = s.stands ∧ t.functions = s.functions))
  ∧ (∀ s : State,
  (∀ word : BitVec 64, s.execLanes (word.extractLsb' 49 1) (word.extractLsb' 46 3) ≠ [] →
    exec (.unassignedOpcode word) s = .next (s.parkAll (s.execLanes (word.extractLsb' 49 1) (word.extractLsb' 46 3)) (.plain 0x01 0)))
  ∧ (∀ word : BitVec 64, s.execLanes (word.extractLsb' 49 1) (word.extractLsb' 46 3) = [] →
    exec (.unassignedOpcode word) s = .next (s.advance s.cur.lanes))
  ∧ exec .clauseNotWellFormed s = .next (s.parkAll s.cur.lanes (.plain 0x01 3)))
  ∧ (∀ (s : State) (f : SFmt) (i : Instr), s.execLanes f.gn f.gp ≠ [] →
  (i ∈ [Instr.iret f, .tlbi f, .ctxsv f, .ctxld f] → isHandler s.curStand = false →
    exec i s = .next (s.parkAll (s.execLanes f.gn f.gp) (.plain 0x02 0)))
  ∧ (i ∈ [Instr.halt f, .crrd f, .crwr f] → s.onMgmt = false →
    exec i s = .next (s.parkAll (s.execLanes f.gn f.gp) (.plain 0x01 0))))

/-- R84, R243, R253, R259, R269 to R271, R281, R368, R369, R427 (spec/04, 10, 11, 16, 20): ten instructions and events, each where nothing
stops it: the oldest queued store performs, the oldest message arrives, XWAIT gives its status words, WPSET and WPCLR change a watchpoint,
TLBI removes translations, and a multiply enters the engine's queue with its rows to come. -/
def Obligations.RemainingCompletions : Prop :=
  (∀ (s : State) (k : Nat) (e : StoreEnt) (es : List StoreEnt),
  (s.thread k).storeQ = e :: es → e.window = none →
  let st := (s.thread k).stand
  let s1 := s.updThread k (fun t => Thread.wakeExit { t with storeQ := es })
  s1.placeLive e.loc = true → s1.partialBad e.loc e.bytes.length = false →
  exec (.storeDrain k) s = .next (s1.perform (some (s1.coreOf st)) (s1.keyOf (s1.vfOf st)) e.loc e.bytes e.label))
  ∧ (∀ (s : State) (k r : Nat) (st : Stand), s.stands.get? k = some st →
  ((s.circuit k r).flight = [] → exec (.messageArrival k r) s = .next s)
  ∧ (∀ m ms, (s.circuit k r).flight = m :: ms → ∃ t, exec (.messageArrival k r) s = .next t
    ∧ t.circuit k r = ⟨ms, (s.circuit k r).waiting ++ [m]⟩ ∧ (∀ j, j ≠ r → t.circuit k j = s.circuit k j)
    ∧ t = { s with stands := t.stands }))
  ∧ (∀ (f : YFmt) (s : State) (gp : BitVec 3) (ex : List Nat),
  let k := f.s 0 3
  s.Runs (.xwait f) gp ex → s.ordered = true → (∀ l ∈ ex, s.raiseTok gp [] l = none) →
  (∀ l ∈ ex, ((s.lane l).sb k).count = 0 ∧ ((s.lane l).sb k).code ≠ 1 ∧ (f.s 3 1 = 1 → ((s.lane l).sb k).code = 0)) →
  let s1 := ex.foldl (fun x l => x.updLane l (fun t => t.setSb k { t.sb k with code := 0, ring := 0, info := 0 })) s
  exec (.xwait f) s = .next ((if f.s 3 1 = 1 then s1 else s1.commit ex [.v f.rd 1] (s1.labelL gp.toNat ex 0 0)
    (ex.map (fun l => (l, [Out.val (((s.lane l).sb k).info.toNat + ((s.lane l).sb k).ring.toNat * 2 ^ 16
      + ((s.lane l).sb k).code.toNat * 2 ^ 24)])))).advance s.cur.lanes))
  ∧ (∀ (f : SFmt) (s : State) (gp : BitVec 3) (l : Nat) (ls : List Nat),
  let scope := bits f.imm.toNat 0 3
  let idx := bits f.imm.toNat 3 5
  (s.Runs (.wpset f) gp (l :: ls) → (∀ m ∈ l :: ls, s.raiseTok gp [.v f.ra 4] m = none) →
    exec (.wpset f) s = .next (State.advance (if scope = 0 then (l :: ls).foldl (fun x m => x.updLane m (fun t =>
        { t with wps := t.wps.insert idx ((x.lane m).watchpoint f.ra) })) s
      else s.setWatch l scope idx (some ((s.lane l).watchpoint f.ra))) s.cur.lanes))
  ∧ (s.Runs (.wpclr f) gp (l :: ls) → (∀ m ∈ l :: ls, s.raiseTok gp [] m = none) →
    exec (.wpclr f) s = .next (State.advance (if scope = 0 then (l :: ls).foldl (fun x m => x.updLane m (fun t =>
        { t with wps := t.wps.erase idx })) s
      else s.setWatch l scope idx none) s.cur.lanes)))
  ∧ (∀ (f : SFmt) (s : State) (gp : BitVec 3) (l : Nat) (ls : List Nat),
  let v := s.vfOf s.curStand
  let page := (s.lane l).regNat f.ra 2 % 2 ^ 56 / 0x10000
  s.Runs (.tlbi f) gp (l :: ls) → (∀ m ∈ l :: ls, s.groupTok gp (tlbiSrcs f) [] (l = m) m = none) →
  s.pastTranslation s.cur.core v (((s.coreAt s.cur.core).tlb.filter (tlbiHits f v page)).flatMap (s.framesOf s.cur.core)) = false →
  exec (.tlbi f) s = .next ((s.updCore s.cur.core (fun c => { c with
    tlb := c.tlb.filter (fun e => !(e.vf = v && (f.s 0 1 = 1 || e.vpn = page))) })).advance s.cur.lanes))
  ∧ (∀ (f : XFmt) (s s1 : State) (gp : BitVec 3) (l : Nat) (ls : List Nat) (a : Accepted)
  (i : Instr) (kind : MKind), (i, kind) ∈ [(Instr.mma f, MKind.mma), (.mmasp f, .mmasp), (.mconv f, .mconv), (.mmar f, .mmar)] →
  s.Runs i gp (l :: ls) → s.accepting (l :: ls) = false → (∀ m ∈ l :: ls, s.groupTok gp (XFmt.mmaSrcs f kind) [] (l = m) m = none) →
  State.mmaCheck f kind s l (l :: ls) = (.ok a, s1) → s1.continued (l :: ls) = none →
  let w := s1.laneWho l
  let s2 := a.dest.foldl (fun x t => x.touchAll w t true) ((a.scales ++ [a.shape, a.svec, a.bvec]).foldl (fun x t => x.touchAll w t false) s1)
  let v1 := s2.readVec s1.curStand a.svec
  let v2 := v1.2.readVec s1.curStand a.bvec
  v1.1.2.2 = false → v2.1.2.2 = false → a.shape.any (fun p => s1.badSpan p.1.loc 64) = false →
  ∃ t o, exec i s = .next t ∧ (t.quadAt v2.2.cur.quadKey).matrix.queue.getLast? = some o
    ∧ o.kind = kind ∧ o.cfg = a.cfg ∧ o.eblock = a.ep ∧ o.last = a.cfg.m ∧ o.accepted = 0 ∧ o.rows = [] ∧ o.lanes.map Prod.fst = l :: ls
    ∧ o.tok = f.token ∧ o.dreg = f.rd ∧ o.areg = f.ra ∧ o.acc = f.rj ∧ o.macs = f.macros ∧ o.clear = decide (f.s 0 1 = 1)
    ∧ o.svec = v1.1.1 ∧ o.bvec = v2.1.1)
end

