-- ==== Sys2Proof/Laws/State.lean ====
section
/-!
SUPPORT. What each named update of State leaves in each field: one lemma per field per update.
-/

namespace Sys2Proof.Machine

/-! ### State.updThread -/

@[simp] theorem State.updThread_tick (s : State) (k : Nat) (f : Thread → Thread) :
    (s.updThread k f).tick = s.tick := rfl
@[simp] theorem State.updThread_cycles (s : State) (k : Nat) (f : Thread → Thread) :
    (s.updThread k f).cycles = s.cycles := rfl
@[simp] theorem State.updThread_inputs (s : State) (k : Nat) (f : Thread → Thread) :
    (s.updThread k f).inputs = s.inputs := rfl
@[simp] theorem State.updThread_stim (s : State) (k : Nat) (f : Thread → Thread) :
    (s.updThread k f).stim = s.stim := rfl
@[simp] theorem State.updThread_outputs (s : State) (k : Nat) (f : Thread → Thread) :
    (s.updThread k f).outputs = s.outputs := rfl
@[simp] theorem State.updThread_turn (s : State) (k : Nat) (f : Thread → Thread) :
    (s.updThread k f).turn = s.turn := rfl
@[simp] theorem State.updThread_auto (s : State) (k : Nat) (f : Thread → Thread) :
    (s.updThread k f).auto = s.auto := rfl
@[simp] theorem State.updThread_second (s : State) (k : Nat) (f : Thread → Thread) :
    (s.updThread k f).second = s.second := rfl
@[simp] theorem State.updThread_cur (s : State) (k : Nat) (f : Thread → Thread) :
    (s.updThread k f).cur = s.cur := rfl
@[simp] theorem State.updThread_holds (s : State) (k : Nat) (f : Thread → Thread) :
    (s.updThread k f).holds = s.holds := rfl
@[simp] theorem State.updThread_nextId (s : State) (k : Nat) (f : Thread → Thread) :
    (s.updThread k f).nextId = s.nextId := rfl
@[simp] theorem State.updThread_mem (s : State) (k : Nat) (f : Thread → Thread) :
    (s.updThread k f).mem = s.mem := rfl
@[simp] theorem State.updThread_vtags (s : State) (k : Nat) (f : Thread → Thread) :
    (s.updThread k f).vtags = s.vtags := rfl
@[simp] theorem State.updThread_vlabels (s : State) (k : Nat) (f : Thread → Thread) :
    (s.updThread k f).vlabels = s.vlabels := rfl
@[simp] theorem State.updThread_vmeta (s : State) (k : Nat) (f : Thread → Thread) :
    (s.updThread k f).vmeta = s.vmeta := rfl
@[simp] theorem State.updThread_badSectors (s : State) (k : Nat) (f : Thread → Thread) :
    (s.updThread k f).badSectors = s.badSectors := rfl
@[simp] theorem State.updThread_lines (s : State) (k : Nat) (f : Thread → Thread) :
    (s.updThread k f).lines = s.lines := rfl
@[simp] theorem State.updThread_l1 (s : State) (k : Nat) (f : Thread → Thread) :
    (s.updThread k f).l1 = s.l1 := rfl
@[simp] theorem State.updThread_reservations (s : State) (k : Nat) (f : Thread → Thread) :
    (s.updThread k f).reservations = s.reservations := rfl
@[simp] theorem State.updThread_backing (s : State) (k : Nat) (f : Thread → Thread) :
    (s.updThread k f).backing = s.backing := rfl
@[simp] theorem State.updThread_windowMsgs (s : State) (k : Nat) (f : Thread → Thread) :
    (s.updThread k f).windowMsgs = s.windowMsgs := rfl
@[simp] theorem State.updThread_keySlots (s : State) (k : Nat) (f : Thread → Thread) :
    (s.updThread k f).keySlots = s.keySlots := rfl
@[simp] theorem State.updThread_keyEpoch (s : State) (k : Nat) (f : Thread → Thread) :
    (s.updThread k f).keyEpoch = s.keyEpoch := rfl
@[simp] theorem State.updThread_keyDead (s : State) (k : Nat) (f : Thread → Thread) :
    (s.updThread k f).keyDead = s.keyDead := rfl
@[simp] theorem State.updThread_mmio (s : State) (k : Nat) (f : Thread → Thread) :
    (s.updThread k f).mmio = s.mmio := rfl
@[simp] theorem State.updThread_ignored (s : State) (k : Nat) (f : Thread → Thread) :
    (s.updThread k f).ignored = s.ignored := rfl
@[simp] theorem State.updThread_lhnd (s : State) (k : Nat) (f : Thread → Thread) :
    (s.updThread k f).lhnd = s.lhnd := rfl
@[simp] theorem State.updThread_ringRegs (s : State) (k : Nat) (f : Thread → Thread) :
    (s.updThread k f).ringRegs = s.ringRegs := rfl
@[simp] theorem State.updThread_sites (s : State) (k : Nat) (f : Thread → Thread) :
    (s.updThread k f).sites = s.sites := rfl
@[simp] theorem State.updThread_mapGen (s : State) (k : Nat) (f : Thread → Thread) :
    (s.updThread k f).mapGen = s.mapGen := rfl
@[simp] theorem State.updThread_retired (s : State) (k : Nat) (f : Thread → Thread) :
    (s.updThread k f).retired = s.retired := rfl
@[simp] theorem State.updThread_retests (s : State) (k : Nat) (f : Thread → Thread) :
    (s.updThread k f).retests = s.retests := rfl
@[simp] theorem State.updThread_agentsOut (s : State) (k : Nat) (f : Thread → Thread) :
    (s.updThread k f).agentsOut = s.agentsOut := rfl
@[simp] theorem State.updThread_threads (s : State) (k : Nat) (f : Thread → Thread) :
    (s.updThread k f).threads = s.threads.modify k f := rfl
@[simp] theorem State.updThread_slots (s : State) (k : Nat) (f : Thread → Thread) :
    (s.updThread k f).slots = s.slots := rfl
@[simp] theorem State.updThread_quads (s : State) (k : Nat) (f : Thread → Thread) :
    (s.updThread k f).quads = s.quads := rfl
@[simp] theorem State.updThread_cores (s : State) (k : Nat) (f : Thread → Thread) :
    (s.updThread k f).cores = s.cores := rfl
@[simp] theorem State.updThread_stands (s : State) (k : Nat) (f : Thread → Thread) :
    (s.updThread k f).stands = s.stands := rfl
@[simp] theorem State.updThread_remains (s : State) (k : Nat) (f : Thread → Thread) :
    (s.updThread k f).remains = s.remains := rfl
@[simp] theorem State.updThread_grids (s : State) (k : Nat) (f : Thread → Thread) :
    (s.updThread k f).grids = s.grids := rfl
@[simp] theorem State.updThread_functions (s : State) (k : Nat) (f : Thread → Thread) :
    (s.updThread k f).functions = s.functions := rfl
@[simp] theorem State.updThread_commands (s : State) (k : Nat) (f : Thread → Thread) :
    (s.updThread k f).commands = s.commands := rfl
@[simp] theorem State.updThread_bursts (s : State) (k : Nat) (f : Thread → Thread) :
    (s.updThread k f).bursts = s.bursts := rfl
@[simp] theorem State.updThread_portQueues (s : State) (k : Nat) (f : Thread → Thread) :
    (s.updThread k f).portQueues = s.portQueues := rfl
@[simp] theorem State.updThread_dstLost (s : State) (k : Nat) (f : Thread → Thread) :
    (s.updThread k f).dstLost = s.dstLost := rfl
@[simp] theorem State.updThread_dstDisc (s : State) (k : Nat) (f : Thread → Thread) :
    (s.updThread k f).dstDisc = s.dstDisc := rfl
@[simp] theorem State.updThread_policies (s : State) (k : Nat) (f : Thread → Thread) :
    (s.updThread k f).policies = s.policies := rfl
@[simp] theorem State.updThread_policyGens (s : State) (k : Nat) (f : Thread → Thread) :
    (s.updThread k f).policyGens = s.policyGens := rfl
@[simp] theorem State.updThread_originKeys (s : State) (k : Nat) (f : Thread → Thread) :
    (s.updThread k f).originKeys = s.originKeys := rfl
@[simp] theorem State.updThread_gate (s : State) (k : Nat) (f : Thread → Thread) :
    (s.updThread k f).gate = s.gate := rfl
@[simp] theorem State.updThread_streams (s : State) (k : Nat) (f : Thread → Thread) :
    (s.updThread k f).streams = s.streams := rfl
@[simp] theorem State.updThread_measures (s : State) (k : Nat) (f : Thread → Thread) :
    (s.updThread k f).measures = s.measures := rfl
@[simp] theorem State.updThread_flash (s : State) (k : Nat) (f : Thread → Thread) :
    (s.updThread k f).flash = s.flash := rfl
@[simp] theorem State.updThread_folds (s : State) (k : Nat) (f : Thread → Thread) :
    (s.updThread k f).folds = s.folds := rfl
@[simp] theorem State.updThread_fatals (s : State) (k : Nat) (f : Thread → Thread) :
    (s.updThread k f).fatals = s.fatals := rfl
@[simp] theorem State.updThread_rowErrors (s : State) (k : Nat) (f : Thread → Thread) :
    (s.updThread k f).rowErrors = s.rowErrors := rfl
@[simp] theorem State.updThread_rowSpares (s : State) (k : Nat) (f : Thread → Thread) :
    (s.updThread k f).rowSpares = s.rowSpares := rfl
@[simp] theorem State.updThread_channelErrors (s : State) (k : Nat) (f : Thread → Thread) :
    (s.updThread k f).channelErrors = s.channelErrors := rfl
@[simp] theorem State.updThread_failing (s : State) (k : Nat) (f : Thread → Thread) :
    (s.updThread k f).failing = s.failing := rfl
@[simp] theorem State.updThread_timeouts (s : State) (k : Nat) (f : Thread → Thread) :
    (s.updThread k f).timeouts = s.timeouts := rfl
@[simp] theorem State.updThread_linkRetries (s : State) (k : Nat) (f : Thread → Thread) :
    (s.updThread k f).linkRetries = s.linkRetries := rfl
@[simp] theorem State.updThread_hostHeld (s : State) (k : Nat) (f : Thread → Thread) :
    (s.updThread k f).hostHeld = s.hostHeld := rfl
@[simp] theorem State.updThread_mgmt (s : State) (k : Nat) (f : Thread → Thread) :
    (s.updThread k f).mgmt = s.mgmt := rfl

/-! ### State.updSlot -/

@[simp] theorem State.updSlot_tick (s : State) (k : Nat) (f : Slot → Slot) :
    (s.updSlot k f).tick = s.tick := rfl
@[simp] theorem State.updSlot_cycles (s : State) (k : Nat) (f : Slot → Slot) :
    (s.updSlot k f).cycles = s.cycles := rfl
@[simp] theorem State.updSlot_inputs (s : State) (k : Nat) (f : Slot → Slot) :
    (s.updSlot k f).inputs = s.inputs := rfl
@[simp] theorem State.updSlot_stim (s : State) (k : Nat) (f : Slot → Slot) :
    (s.updSlot k f).stim = s.stim := rfl
@[simp] theorem State.updSlot_outputs (s : State) (k : Nat) (f : Slot → Slot) :
    (s.updSlot k f).outputs = s.outputs := rfl
@[simp] theorem State.updSlot_turn (s : State) (k : Nat) (f : Slot → Slot) :
    (s.updSlot k f).turn = s.turn := rfl
@[simp] theorem State.updSlot_auto (s : State) (k : Nat) (f : Slot → Slot) :
    (s.updSlot k f).auto = s.auto := rfl
@[simp] theorem State.updSlot_second (s : State) (k : Nat) (f : Slot → Slot) :
    (s.updSlot k f).second = s.second := rfl
@[simp] theorem State.updSlot_cur (s : State) (k : Nat) (f : Slot → Slot) :
    (s.updSlot k f).cur = s.cur := rfl
@[simp] theorem State.updSlot_holds (s : State) (k : Nat) (f : Slot → Slot) :
    (s.updSlot k f).holds = s.holds := rfl
@[simp] theorem State.updSlot_nextId (s : State) (k : Nat) (f : Slot → Slot) :
    (s.updSlot k f).nextId = s.nextId := rfl
@[simp] theorem State.updSlot_mem (s : State) (k : Nat) (f : Slot → Slot) :
    (s.updSlot k f).mem = s.mem := rfl
@[simp] theorem State.updSlot_vtags (s : State) (k : Nat) (f : Slot → Slot) :
    (s.updSlot k f).vtags = s.vtags := rfl
@[simp] theorem State.updSlot_vlabels (s : State) (k : Nat) (f : Slot → Slot) :
    (s.updSlot k f).vlabels = s.vlabels := rfl
@[simp] theorem State.updSlot_vmeta (s : State) (k : Nat) (f : Slot → Slot) :
    (s.updSlot k f).vmeta = s.vmeta := rfl
@[simp] theorem State.updSlot_badSectors (s : State) (k : Nat) (f : Slot → Slot) :
    (s.updSlot k f).badSectors = s.badSectors := rfl
@[simp] theorem State.updSlot_lines (s : State) (k : Nat) (f : Slot → Slot) :
    (s.updSlot k f).lines = s.lines := rfl
@[simp] theorem State.updSlot_l1 (s : State) (k : Nat) (f : Slot → Slot) :
    (s.updSlot k f).l1 = s.l1 := rfl
@[simp] theorem State.updSlot_reservations (s : State) (k : Nat) (f : Slot → Slot) :
    (s.updSlot k f).reservations = s.reservations := rfl
@[simp] theorem State.updSlot_backing (s : State) (k : Nat) (f : Slot → Slot) :
    (s.updSlot k f).backing = s.backing := rfl
@[simp] theorem State.updSlot_windowMsgs (s : State) (k : Nat) (f : Slot → Slot) :
    (s.updSlot k f).windowMsgs = s.windowMsgs := rfl
@[simp] theorem State.updSlot_keySlots (s : State) (k : Nat) (f : Slot → Slot) :
    (s.updSlot k f).keySlots = s.keySlots := rfl
@[simp] theorem State.updSlot_keyEpoch (s : State) (k : Nat) (f : Slot → Slot) :
    (s.updSlot k f).keyEpoch = s.keyEpoch := rfl
@[simp] theorem State.updSlot_keyDead (s : State) (k : Nat) (f : Slot → Slot) :
    (s.updSlot k f).keyDead = s.keyDead := rfl
@[simp] theorem State.updSlot_mmio (s : State) (k : Nat) (f : Slot → Slot) :
    (s.updSlot k f).mmio = s.mmio := rfl
@[simp] theorem State.updSlot_ignored (s : State) (k : Nat) (f : Slot → Slot) :
    (s.updSlot k f).ignored = s.ignored := rfl
@[simp] theorem State.updSlot_lhnd (s : State) (k : Nat) (f : Slot → Slot) :
    (s.updSlot k f).lhnd = s.lhnd := rfl
@[simp] theorem State.updSlot_ringRegs (s : State) (k : Nat) (f : Slot → Slot) :
    (s.updSlot k f).ringRegs = s.ringRegs := rfl
@[simp] theorem State.updSlot_sites (s : State) (k : Nat) (f : Slot → Slot) :
    (s.updSlot k f).sites = s.sites := rfl
@[simp] theorem State.updSlot_mapGen (s : State) (k : Nat) (f : Slot → Slot) :
    (s.updSlot k f).mapGen = s.mapGen := rfl
@[simp] theorem State.updSlot_retired (s : State) (k : Nat) (f : Slot → Slot) :
    (s.updSlot k f).retired = s.retired := rfl
@[simp] theorem State.updSlot_retests (s : State) (k : Nat) (f : Slot → Slot) :
    (s.updSlot k f).retests = s.retests := rfl
@[simp] theorem State.updSlot_agentsOut (s : State) (k : Nat) (f : Slot → Slot) :
    (s.updSlot k f).agentsOut = s.agentsOut := rfl
@[simp] theorem State.updSlot_threads (s : State) (k : Nat) (f : Slot → Slot) :
    (s.updSlot k f).threads = s.threads := rfl
@[simp] theorem State.updSlot_slots (s : State) (k : Nat) (f : Slot → Slot) :
    (s.updSlot k f).slots = s.slots.modify k f := rfl
@[simp] theorem State.updSlot_quads (s : State) (k : Nat) (f : Slot → Slot) :
    (s.updSlot k f).quads = s.quads := rfl
@[simp] theorem State.updSlot_cores (s : State) (k : Nat) (f : Slot → Slot) :
    (s.updSlot k f).cores = s.cores := rfl
@[simp] theorem State.updSlot_stands (s : State) (k : Nat) (f : Slot → Slot) :
    (s.updSlot k f).stands = s.stands := rfl
@[simp] theorem State.updSlot_remains (s : State) (k : Nat) (f : Slot → Slot) :
    (s.updSlot k f).remains = s.remains := rfl
@[simp] theorem State.updSlot_grids (s : State) (k : Nat) (f : Slot → Slot) :
    (s.updSlot k f).grids = s.grids := rfl
@[simp] theorem State.updSlot_functions (s : State) (k : Nat) (f : Slot → Slot) :
    (s.updSlot k f).functions = s.functions := rfl
@[simp] theorem State.updSlot_commands (s : State) (k : Nat) (f : Slot → Slot) :
    (s.updSlot k f).commands = s.commands := rfl
@[simp] theorem State.updSlot_bursts (s : State) (k : Nat) (f : Slot → Slot) :
    (s.updSlot k f).bursts = s.bursts := rfl
@[simp] theorem State.updSlot_portQueues (s : State) (k : Nat) (f : Slot → Slot) :
    (s.updSlot k f).portQueues = s.portQueues := rfl
@[simp] theorem State.updSlot_dstLost (s : State) (k : Nat) (f : Slot → Slot) :
    (s.updSlot k f).dstLost = s.dstLost := rfl
@[simp] theorem State.updSlot_dstDisc (s : State) (k : Nat) (f : Slot → Slot) :
    (s.updSlot k f).dstDisc = s.dstDisc := rfl
@[simp] theorem State.updSlot_policies (s : State) (k : Nat) (f : Slot → Slot) :
    (s.updSlot k f).policies = s.policies := rfl
@[simp] theorem State.updSlot_policyGens (s : State) (k : Nat) (f : Slot → Slot) :
    (s.updSlot k f).policyGens = s.policyGens := rfl
@[simp] theorem State.updSlot_originKeys (s : State) (k : Nat) (f : Slot → Slot) :
    (s.updSlot k f).originKeys = s.originKeys := rfl
@[simp] theorem State.updSlot_gate (s : State) (k : Nat) (f : Slot → Slot) :
    (s.updSlot k f).gate = s.gate := rfl
@[simp] theorem State.updSlot_streams (s : State) (k : Nat) (f : Slot → Slot) :
    (s.updSlot k f).streams = s.streams := rfl
@[simp] theorem State.updSlot_measures (s : State) (k : Nat) (f : Slot → Slot) :
    (s.updSlot k f).measures = s.measures := rfl
@[simp] theorem State.updSlot_flash (s : State) (k : Nat) (f : Slot → Slot) :
    (s.updSlot k f).flash = s.flash := rfl
@[simp] theorem State.updSlot_folds (s : State) (k : Nat) (f : Slot → Slot) :
    (s.updSlot k f).folds = s.folds := rfl
@[simp] theorem State.updSlot_fatals (s : State) (k : Nat) (f : Slot → Slot) :
    (s.updSlot k f).fatals = s.fatals := rfl
@[simp] theorem State.updSlot_rowErrors (s : State) (k : Nat) (f : Slot → Slot) :
    (s.updSlot k f).rowErrors = s.rowErrors := rfl
@[simp] theorem State.updSlot_rowSpares (s : State) (k : Nat) (f : Slot → Slot) :
    (s.updSlot k f).rowSpares = s.rowSpares := rfl
@[simp] theorem State.updSlot_channelErrors (s : State) (k : Nat) (f : Slot → Slot) :
    (s.updSlot k f).channelErrors = s.channelErrors := rfl
@[simp] theorem State.updSlot_failing (s : State) (k : Nat) (f : Slot → Slot) :
    (s.updSlot k f).failing = s.failing := rfl
@[simp] theorem State.updSlot_timeouts (s : State) (k : Nat) (f : Slot → Slot) :
    (s.updSlot k f).timeouts = s.timeouts := rfl
@[simp] theorem State.updSlot_linkRetries (s : State) (k : Nat) (f : Slot → Slot) :
    (s.updSlot k f).linkRetries = s.linkRetries := rfl
@[simp] theorem State.updSlot_hostHeld (s : State) (k : Nat) (f : Slot → Slot) :
    (s.updSlot k f).hostHeld = s.hostHeld := rfl
@[simp] theorem State.updSlot_mgmt (s : State) (k : Nat) (f : Slot → Slot) :
    (s.updSlot k f).mgmt = s.mgmt := rfl

/-! ### State.updStand -/

@[simp] theorem State.updStand_tick (s : State) (k : Nat) (f : Stand → Stand) :
    (s.updStand k f).tick = s.tick := rfl
@[simp] theorem State.updStand_cycles (s : State) (k : Nat) (f : Stand → Stand) :
    (s.updStand k f).cycles = s.cycles := rfl
@[simp] theorem State.updStand_inputs (s : State) (k : Nat) (f : Stand → Stand) :
    (s.updStand k f).inputs = s.inputs := rfl
@[simp] theorem State.updStand_stim (s : State) (k : Nat) (f : Stand → Stand) :
    (s.updStand k f).stim = s.stim := rfl
@[simp] theorem State.updStand_outputs (s : State) (k : Nat) (f : Stand → Stand) :
    (s.updStand k f).outputs = s.outputs := rfl
@[simp] theorem State.updStand_turn (s : State) (k : Nat) (f : Stand → Stand) :
    (s.updStand k f).turn = s.turn := rfl
@[simp] theorem State.updStand_auto (s : State) (k : Nat) (f : Stand → Stand) :
    (s.updStand k f).auto = s.auto := rfl
@[simp] theorem State.updStand_second (s : State) (k : Nat) (f : Stand → Stand) :
    (s.updStand k f).second = s.second := rfl
@[simp] theorem State.updStand_cur (s : State) (k : Nat) (f : Stand → Stand) :
    (s.updStand k f).cur = s.cur := rfl
@[simp] theorem State.updStand_holds (s : State) (k : Nat) (f : Stand → Stand) :
    (s.updStand k f).holds = s.holds := rfl
@[simp] theorem State.updStand_nextId (s : State) (k : Nat) (f : Stand → Stand) :
    (s.updStand k f).nextId = s.nextId := rfl
@[simp] theorem State.updStand_mem (s : State) (k : Nat) (f : Stand → Stand) :
    (s.updStand k f).mem = s.mem := rfl
@[simp] theorem State.updStand_vtags (s : State) (k : Nat) (f : Stand → Stand) :
    (s.updStand k f).vtags = s.vtags := rfl
@[simp] theorem State.updStand_vlabels (s : State) (k : Nat) (f : Stand → Stand) :
    (s.updStand k f).vlabels = s.vlabels := rfl
@[simp] theorem State.updStand_vmeta (s : State) (k : Nat) (f : Stand → Stand) :
    (s.updStand k f).vmeta = s.vmeta := rfl
@[simp] theorem State.updStand_badSectors (s : State) (k : Nat) (f : Stand → Stand) :
    (s.updStand k f).badSectors = s.badSectors := rfl
@[simp] theorem State.updStand_lines (s : State) (k : Nat) (f : Stand → Stand) :
    (s.updStand k f).lines = s.lines := rfl
@[simp] theorem State.updStand_l1 (s : State) (k : Nat) (f : Stand → Stand) :
    (s.updStand k f).l1 = s.l1 := rfl
@[simp] theorem State.updStand_reservations (s : State) (k : Nat) (f : Stand → Stand) :
    (s.updStand k f).reservations = s.reservations := rfl
@[simp] theorem State.updStand_backing (s : State) (k : Nat) (f : Stand → Stand) :
    (s.updStand k f).backing = s.backing := rfl
@[simp] theorem State.updStand_windowMsgs (s : State) (k : Nat) (f : Stand → Stand) :
    (s.updStand k f).windowMsgs = s.windowMsgs := rfl
@[simp] theorem State.updStand_keySlots (s : State) (k : Nat) (f : Stand → Stand) :
    (s.updStand k f).keySlots = s.keySlots := rfl
@[simp] theorem State.updStand_keyEpoch (s : State) (k : Nat) (f : Stand → Stand) :
    (s.updStand k f).keyEpoch = s.keyEpoch := rfl
@[simp] theorem State.updStand_keyDead (s : State) (k : Nat) (f : Stand → Stand) :
    (s.updStand k f).keyDead = s.keyDead := rfl
@[simp] theorem State.updStand_mmio (s : State) (k : Nat) (f : Stand → Stand) :
    (s.updStand k f).mmio = s.mmio := rfl
@[simp] theorem State.updStand_ignored (s : State) (k : Nat) (f : Stand → Stand) :
    (s.updStand k f).ignored = s.ignored := rfl
@[simp] theorem State.updStand_lhnd (s : State) (k : Nat) (f : Stand → Stand) :
    (s.updStand k f).lhnd = s.lhnd := rfl
@[simp] theorem State.updStand_ringRegs (s : State) (k : Nat) (f : Stand → Stand) :
    (s.updStand k f).ringRegs = s.ringRegs := rfl
@[simp] theorem State.updStand_sites (s : State) (k : Nat) (f : Stand → Stand) :
    (s.updStand k f).sites = s.sites := rfl
@[simp] theorem State.updStand_mapGen (s : State) (k : Nat) (f : Stand → Stand) :
    (s.updStand k f).mapGen = s.mapGen := rfl
@[simp] theorem State.updStand_retired (s : State) (k : Nat) (f : Stand → Stand) :
    (s.updStand k f).retired = s.retired := rfl
@[simp] theorem State.updStand_retests (s : State) (k : Nat) (f : Stand → Stand) :
    (s.updStand k f).retests = s.retests := rfl
@[simp] theorem State.updStand_agentsOut (s : State) (k : Nat) (f : Stand → Stand) :
    (s.updStand k f).agentsOut = s.agentsOut := rfl
@[simp] theorem State.updStand_threads (s : State) (k : Nat) (f : Stand → Stand) :
    (s.updStand k f).threads = s.threads := rfl
@[simp] theorem State.updStand_slots (s : State) (k : Nat) (f : Stand → Stand) :
    (s.updStand k f).slots = s.slots := rfl
@[simp] theorem State.updStand_quads (s : State) (k : Nat) (f : Stand → Stand) :
    (s.updStand k f).quads = s.quads := rfl
@[simp] theorem State.updStand_cores (s : State) (k : Nat) (f : Stand → Stand) :
    (s.updStand k f).cores = s.cores := rfl
@[simp] theorem State.updStand_stands (s : State) (k : Nat) (f : Stand → Stand) :
    (s.updStand k f).stands = s.stands.modify k f := rfl
@[simp] theorem State.updStand_remains (s : State) (k : Nat) (f : Stand → Stand) :
    (s.updStand k f).remains = s.remains := rfl
@[simp] theorem State.updStand_grids (s : State) (k : Nat) (f : Stand → Stand) :
    (s.updStand k f).grids = s.grids := rfl
@[simp] theorem State.updStand_functions (s : State) (k : Nat) (f : Stand → Stand) :
    (s.updStand k f).functions = s.functions := rfl
@[simp] theorem State.updStand_commands (s : State) (k : Nat) (f : Stand → Stand) :
    (s.updStand k f).commands = s.commands := rfl
@[simp] theorem State.updStand_bursts (s : State) (k : Nat) (f : Stand → Stand) :
    (s.updStand k f).bursts = s.bursts := rfl
@[simp] theorem State.updStand_portQueues (s : State) (k : Nat) (f : Stand → Stand) :
    (s.updStand k f).portQueues = s.portQueues := rfl
@[simp] theorem State.updStand_dstLost (s : State) (k : Nat) (f : Stand → Stand) :
    (s.updStand k f).dstLost = s.dstLost := rfl
@[simp] theorem State.updStand_dstDisc (s : State) (k : Nat) (f : Stand → Stand) :
    (s.updStand k f).dstDisc = s.dstDisc := rfl
@[simp] theorem State.updStand_policies (s : State) (k : Nat) (f : Stand → Stand) :
    (s.updStand k f).policies = s.policies := rfl
@[simp] theorem State.updStand_policyGens (s : State) (k : Nat) (f : Stand → Stand) :
    (s.updStand k f).policyGens = s.policyGens := rfl
@[simp] theorem State.updStand_originKeys (s : State) (k : Nat) (f : Stand → Stand) :
    (s.updStand k f).originKeys = s.originKeys := rfl
@[simp] theorem State.updStand_gate (s : State) (k : Nat) (f : Stand → Stand) :
    (s.updStand k f).gate = s.gate := rfl
@[simp] theorem State.updStand_streams (s : State) (k : Nat) (f : Stand → Stand) :
    (s.updStand k f).streams = s.streams := rfl
@[simp] theorem State.updStand_measures (s : State) (k : Nat) (f : Stand → Stand) :
    (s.updStand k f).measures = s.measures := rfl
@[simp] theorem State.updStand_flash (s : State) (k : Nat) (f : Stand → Stand) :
    (s.updStand k f).flash = s.flash := rfl
@[simp] theorem State.updStand_folds (s : State) (k : Nat) (f : Stand → Stand) :
    (s.updStand k f).folds = s.folds := rfl
@[simp] theorem State.updStand_fatals (s : State) (k : Nat) (f : Stand → Stand) :
    (s.updStand k f).fatals = s.fatals := rfl
@[simp] theorem State.updStand_rowErrors (s : State) (k : Nat) (f : Stand → Stand) :
    (s.updStand k f).rowErrors = s.rowErrors := rfl
@[simp] theorem State.updStand_rowSpares (s : State) (k : Nat) (f : Stand → Stand) :
    (s.updStand k f).rowSpares = s.rowSpares := rfl
@[simp] theorem State.updStand_channelErrors (s : State) (k : Nat) (f : Stand → Stand) :
    (s.updStand k f).channelErrors = s.channelErrors := rfl
@[simp] theorem State.updStand_failing (s : State) (k : Nat) (f : Stand → Stand) :
    (s.updStand k f).failing = s.failing := rfl
@[simp] theorem State.updStand_timeouts (s : State) (k : Nat) (f : Stand → Stand) :
    (s.updStand k f).timeouts = s.timeouts := rfl
@[simp] theorem State.updStand_linkRetries (s : State) (k : Nat) (f : Stand → Stand) :
    (s.updStand k f).linkRetries = s.linkRetries := rfl
@[simp] theorem State.updStand_hostHeld (s : State) (k : Nat) (f : Stand → Stand) :
    (s.updStand k f).hostHeld = s.hostHeld := rfl
@[simp] theorem State.updStand_mgmt (s : State) (k : Nat) (f : Stand → Stand) :
    (s.updStand k f).mgmt = s.mgmt := rfl

/-! ### State.updQuad -/

@[simp] theorem State.updQuad_tick (s : State) (k : Nat) (f : Quad → Quad) :
    (s.updQuad k f).tick = s.tick := rfl
@[simp] theorem State.updQuad_cycles (s : State) (k : Nat) (f : Quad → Quad) :
    (s.updQuad k f).cycles = s.cycles := rfl
@[simp] theorem State.updQuad_inputs (s : State) (k : Nat) (f : Quad → Quad) :
    (s.updQuad k f).inputs = s.inputs := rfl
@[simp] theorem State.updQuad_stim (s : State) (k : Nat) (f : Quad → Quad) :
    (s.updQuad k f).stim = s.stim := rfl
@[simp] theorem State.updQuad_outputs (s : State) (k : Nat) (f : Quad → Quad) :
    (s.updQuad k f).outputs = s.outputs := rfl
@[simp] theorem State.updQuad_turn (s : State) (k : Nat) (f : Quad → Quad) :
    (s.updQuad k f).turn = s.turn := rfl
@[simp] theorem State.updQuad_auto (s : State) (k : Nat) (f : Quad → Quad) :
    (s.updQuad k f).auto = s.auto := rfl
@[simp] theorem State.updQuad_second (s : State) (k : Nat) (f : Quad → Quad) :
    (s.updQuad k f).second = s.second := rfl
@[simp] theorem State.updQuad_cur (s : State) (k : Nat) (f : Quad → Quad) :
    (s.updQuad k f).cur = s.cur := rfl
@[simp] theorem State.updQuad_holds (s : State) (k : Nat) (f : Quad → Quad) :
    (s.updQuad k f).holds = s.holds := rfl
@[simp] theorem State.updQuad_nextId (s : State) (k : Nat) (f : Quad → Quad) :
    (s.updQuad k f).nextId = s.nextId := rfl
@[simp] theorem State.updQuad_mem (s : State) (k : Nat) (f : Quad → Quad) :
    (s.updQuad k f).mem = s.mem := rfl
@[simp] theorem State.updQuad_vtags (s : State) (k : Nat) (f : Quad → Quad) :
    (s.updQuad k f).vtags = s.vtags := rfl
@[simp] theorem State.updQuad_vlabels (s : State) (k : Nat) (f : Quad → Quad) :
    (s.updQuad k f).vlabels = s.vlabels := rfl
@[simp] theorem State.updQuad_vmeta (s : State) (k : Nat) (f : Quad → Quad) :
    (s.updQuad k f).vmeta = s.vmeta := rfl
@[simp] theorem State.updQuad_badSectors (s : State) (k : Nat) (f : Quad → Quad) :
    (s.updQuad k f).badSectors = s.badSectors := rfl
@[simp] theorem State.updQuad_lines (s : State) (k : Nat) (f : Quad → Quad) :
    (s.updQuad k f).lines = s.lines := rfl
@[simp] theorem State.updQuad_l1 (s : State) (k : Nat) (f : Quad → Quad) :
    (s.updQuad k f).l1 = s.l1 := rfl
@[simp] theorem State.updQuad_reservations (s : State) (k : Nat) (f : Quad → Quad) :
    (s.updQuad k f).reservations = s.reservations := rfl
@[simp] theorem State.updQuad_backing (s : State) (k : Nat) (f : Quad → Quad) :
    (s.updQuad k f).backing = s.backing := rfl
@[simp] theorem State.updQuad_windowMsgs (s : State) (k : Nat) (f : Quad → Quad) :
    (s.updQuad k f).windowMsgs = s.windowMsgs := rfl
@[simp] theorem State.updQuad_keySlots (s : State) (k : Nat) (f : Quad → Quad) :
    (s.updQuad k f).keySlots = s.keySlots := rfl
@[simp] theorem State.updQuad_keyEpoch (s : State) (k : Nat) (f : Quad → Quad) :
    (s.updQuad k f).keyEpoch = s.keyEpoch := rfl
@[simp] theorem State.updQuad_keyDead (s : State) (k : Nat) (f : Quad → Quad) :
    (s.updQuad k f).keyDead = s.keyDead := rfl
@[simp] theorem State.updQuad_mmio (s : State) (k : Nat) (f : Quad → Quad) :
    (s.updQuad k f).mmio = s.mmio := rfl
@[simp] theorem State.updQuad_ignored (s : State) (k : Nat) (f : Quad → Quad) :
    (s.updQuad k f).ignored = s.ignored := rfl
@[simp] theorem State.updQuad_lhnd (s : State) (k : Nat) (f : Quad → Quad) :
    (s.updQuad k f).lhnd = s.lhnd := rfl
@[simp] theorem State.updQuad_ringRegs (s : State) (k : Nat) (f : Quad → Quad) :
    (s.updQuad k f).ringRegs = s.ringRegs := rfl
@[simp] theorem State.updQuad_sites (s : State) (k : Nat) (f : Quad → Quad) :
    (s.updQuad k f).sites = s.sites := rfl
@[simp] theorem State.updQuad_mapGen (s : State) (k : Nat) (f : Quad → Quad) :
    (s.updQuad k f).mapGen = s.mapGen := rfl
@[simp] theorem State.updQuad_retired (s : State) (k : Nat) (f : Quad → Quad) :
    (s.updQuad k f).retired = s.retired := rfl
@[simp] theorem State.updQuad_retests (s : State) (k : Nat) (f : Quad → Quad) :
    (s.updQuad k f).retests = s.retests := rfl
@[simp] theorem State.updQuad_agentsOut (s : State) (k : Nat) (f : Quad → Quad) :
    (s.updQuad k f).agentsOut = s.agentsOut := rfl
@[simp] theorem State.updQuad_threads (s : State) (k : Nat) (f : Quad → Quad) :
    (s.updQuad k f).threads = s.threads := rfl
@[simp] theorem State.updQuad_slots (s : State) (k : Nat) (f : Quad → Quad) :
    (s.updQuad k f).slots = s.slots := rfl
@[simp] theorem State.updQuad_quads (s : State) (k : Nat) (f : Quad → Quad) :
    (s.updQuad k f).quads = s.quads.insert k (f (s.quadAt k)) := rfl
@[simp] theorem State.updQuad_cores (s : State) (k : Nat) (f : Quad → Quad) :
    (s.updQuad k f).cores = s.cores := rfl
@[simp] theorem State.updQuad_stands (s : State) (k : Nat) (f : Quad → Quad) :
    (s.updQuad k f).stands = s.stands := rfl
@[simp] theorem State.updQuad_remains (s : State) (k : Nat) (f : Quad → Quad) :
    (s.updQuad k f).remains = s.remains := rfl
@[simp] theorem State.updQuad_grids (s : State) (k : Nat) (f : Quad → Quad) :
    (s.updQuad k f).grids = s.grids := rfl
@[simp] theorem State.updQuad_functions (s : State) (k : Nat) (f : Quad → Quad) :
    (s.updQuad k f).functions = s.functions := rfl
@[simp] theorem State.updQuad_commands (s : State) (k : Nat) (f : Quad → Quad) :
    (s.updQuad k f).commands = s.commands := rfl
@[simp] theorem State.updQuad_bursts (s : State) (k : Nat) (f : Quad → Quad) :
    (s.updQuad k f).bursts = s.bursts := rfl
@[simp] theorem State.updQuad_portQueues (s : State) (k : Nat) (f : Quad → Quad) :
    (s.updQuad k f).portQueues = s.portQueues := rfl
@[simp] theorem State.updQuad_dstLost (s : State) (k : Nat) (f : Quad → Quad) :
    (s.updQuad k f).dstLost = s.dstLost := rfl
@[simp] theorem State.updQuad_dstDisc (s : State) (k : Nat) (f : Quad → Quad) :
    (s.updQuad k f).dstDisc = s.dstDisc := rfl
@[simp] theorem State.updQuad_policies (s : State) (k : Nat) (f : Quad → Quad) :
    (s.updQuad k f).policies = s.policies := rfl
@[simp] theorem State.updQuad_policyGens (s : State) (k : Nat) (f : Quad → Quad) :
    (s.updQuad k f).policyGens = s.policyGens := rfl
@[simp] theorem State.updQuad_originKeys (s : State) (k : Nat) (f : Quad → Quad) :
    (s.updQuad k f).originKeys = s.originKeys := rfl
@[simp] theorem State.updQuad_gate (s : State) (k : Nat) (f : Quad → Quad) :
    (s.updQuad k f).gate = s.gate := rfl
@[simp] theorem State.updQuad_streams (s : State) (k : Nat) (f : Quad → Quad) :
    (s.updQuad k f).streams = s.streams := rfl
@[simp] theorem State.updQuad_measures (s : State) (k : Nat) (f : Quad → Quad) :
    (s.updQuad k f).measures = s.measures := rfl
@[simp] theorem State.updQuad_flash (s : State) (k : Nat) (f : Quad → Quad) :
    (s.updQuad k f).flash = s.flash := rfl
@[simp] theorem State.updQuad_folds (s : State) (k : Nat) (f : Quad → Quad) :
    (s.updQuad k f).folds = s.folds := rfl
@[simp] theorem State.updQuad_fatals (s : State) (k : Nat) (f : Quad → Quad) :
    (s.updQuad k f).fatals = s.fatals := rfl
@[simp] theorem State.updQuad_rowErrors (s : State) (k : Nat) (f : Quad → Quad) :
    (s.updQuad k f).rowErrors = s.rowErrors := rfl
@[simp] theorem State.updQuad_rowSpares (s : State) (k : Nat) (f : Quad → Quad) :
    (s.updQuad k f).rowSpares = s.rowSpares := rfl
@[simp] theorem State.updQuad_channelErrors (s : State) (k : Nat) (f : Quad → Quad) :
    (s.updQuad k f).channelErrors = s.channelErrors := rfl
@[simp] theorem State.updQuad_failing (s : State) (k : Nat) (f : Quad → Quad) :
    (s.updQuad k f).failing = s.failing := rfl
@[simp] theorem State.updQuad_timeouts (s : State) (k : Nat) (f : Quad → Quad) :
    (s.updQuad k f).timeouts = s.timeouts := rfl
@[simp] theorem State.updQuad_linkRetries (s : State) (k : Nat) (f : Quad → Quad) :
    (s.updQuad k f).linkRetries = s.linkRetries := rfl
@[simp] theorem State.updQuad_hostHeld (s : State) (k : Nat) (f : Quad → Quad) :
    (s.updQuad k f).hostHeld = s.hostHeld := rfl
@[simp] theorem State.updQuad_mgmt (s : State) (k : Nat) (f : Quad → Quad) :
    (s.updQuad k f).mgmt = s.mgmt := rfl

/-! ### State.updCore -/

@[simp] theorem State.updCore_tick (s : State) (k : Nat) (f : Core → Core) :
    (s.updCore k f).tick = s.tick := rfl
@[simp] theorem State.updCore_cycles (s : State) (k : Nat) (f : Core → Core) :
    (s.updCore k f).cycles = s.cycles := rfl
@[simp] theorem State.updCore_inputs (s : State) (k : Nat) (f : Core → Core) :
    (s.updCore k f).inputs = s.inputs := rfl
@[simp] theorem State.updCore_stim (s : State) (k : Nat) (f : Core → Core) :
    (s.updCore k f).stim = s.stim := rfl
@[simp] theorem State.updCore_outputs (s : State) (k : Nat) (f : Core → Core) :
    (s.updCore k f).outputs = s.outputs := rfl
@[simp] theorem State.updCore_turn (s : State) (k : Nat) (f : Core → Core) :
    (s.updCore k f).turn = s.turn := rfl
@[simp] theorem State.updCore_auto (s : State) (k : Nat) (f : Core → Core) :
    (s.updCore k f).auto = s.auto := rfl
@[simp] theorem State.updCore_second (s : State) (k : Nat) (f : Core → Core) :
    (s.updCore k f).second = s.second := rfl
@[simp] theorem State.updCore_cur (s : State) (k : Nat) (f : Core → Core) :
    (s.updCore k f).cur = s.cur := rfl
@[simp] theorem State.updCore_holds (s : State) (k : Nat) (f : Core → Core) :
    (s.updCore k f).holds = s.holds := rfl
@[simp] theorem State.updCore_nextId (s : State) (k : Nat) (f : Core → Core) :
    (s.updCore k f).nextId = s.nextId := rfl
@[simp] theorem State.updCore_mem (s : State) (k : Nat) (f : Core → Core) :
    (s.updCore k f).mem = s.mem := rfl
@[simp] theorem State.updCore_vtags (s : State) (k : Nat) (f : Core → Core) :
    (s.updCore k f).vtags = s.vtags := rfl
@[simp] theorem State.updCore_vlabels (s : State) (k : Nat) (f : Core → Core) :
    (s.updCore k f).vlabels = s.vlabels := rfl
@[simp] theorem State.updCore_vmeta (s : State) (k : Nat) (f : Core → Core) :
    (s.updCore k f).vmeta = s.vmeta := rfl
@[simp] theorem State.updCore_badSectors (s : State) (k : Nat) (f : Core → Core) :
    (s.updCore k f).badSectors = s.badSectors := rfl
@[simp] theorem State.updCore_lines (s : State) (k : Nat) (f : Core → Core) :
    (s.updCore k f).lines = s.lines := rfl
@[simp] theorem State.updCore_l1 (s : State) (k : Nat) (f : Core → Core) :
    (s.updCore k f).l1 = s.l1 := rfl
@[simp] theorem State.updCore_reservations (s : State) (k : Nat) (f : Core → Core) :
    (s.updCore k f).reservations = s.reservations := rfl
@[simp] theorem State.updCore_backing (s : State) (k : Nat) (f : Core → Core) :
    (s.updCore k f).backing = s.backing := rfl
@[simp] theorem State.updCore_windowMsgs (s : State) (k : Nat) (f : Core → Core) :
    (s.updCore k f).windowMsgs = s.windowMsgs := rfl
@[simp] theorem State.updCore_keySlots (s : State) (k : Nat) (f : Core → Core) :
    (s.updCore k f).keySlots = s.keySlots := rfl
@[simp] theorem State.updCore_keyEpoch (s : State) (k : Nat) (f : Core → Core) :
    (s.updCore k f).keyEpoch = s.keyEpoch := rfl
@[simp] theorem State.updCore_keyDead (s : State) (k : Nat) (f : Core → Core) :
    (s.updCore k f).keyDead = s.keyDead := rfl
@[simp] theorem State.updCore_mmio (s : State) (k : Nat) (f : Core → Core) :
    (s.updCore k f).mmio = s.mmio := rfl
@[simp] theorem State.updCore_ignored (s : State) (k : Nat) (f : Core → Core) :
    (s.updCore k f).ignored = s.ignored := rfl
@[simp] theorem State.updCore_lhnd (s : State) (k : Nat) (f : Core → Core) :
    (s.updCore k f).lhnd = s.lhnd := rfl
@[simp] theorem State.updCore_ringRegs (s : State) (k : Nat) (f : Core → Core) :
    (s.updCore k f).ringRegs = s.ringRegs := rfl
@[simp] theorem State.updCore_sites (s : State) (k : Nat) (f : Core → Core) :
    (s.updCore k f).sites = s.sites := rfl
@[simp] theorem State.updCore_mapGen (s : State) (k : Nat) (f : Core → Core) :
    (s.updCore k f).mapGen = s.mapGen := rfl
@[simp] theorem State.updCore_retired (s : State) (k : Nat) (f : Core → Core) :
    (s.updCore k f).retired = s.retired := rfl
@[simp] theorem State.updCore_retests (s : State) (k : Nat) (f : Core → Core) :
    (s.updCore k f).retests = s.retests := rfl
@[simp] theorem State.updCore_agentsOut (s : State) (k : Nat) (f : Core → Core) :
    (s.updCore k f).agentsOut = s.agentsOut := rfl
@[simp] theorem State.updCore_threads (s : State) (k : Nat) (f : Core → Core) :
    (s.updCore k f).threads = s.threads := rfl
@[simp] theorem State.updCore_slots (s : State) (k : Nat) (f : Core → Core) :
    (s.updCore k f).slots = s.slots := rfl
@[simp] theorem State.updCore_quads (s : State) (k : Nat) (f : Core → Core) :
    (s.updCore k f).quads = s.quads := rfl
@[simp] theorem State.updCore_cores (s : State) (k : Nat) (f : Core → Core) :
    (s.updCore k f).cores = s.cores.insert k (f (s.coreAt k)) := rfl
@[simp] theorem State.updCore_stands (s : State) (k : Nat) (f : Core → Core) :
    (s.updCore k f).stands = s.stands := rfl
@[simp] theorem State.updCore_remains (s : State) (k : Nat) (f : Core → Core) :
    (s.updCore k f).remains = s.remains := rfl
@[simp] theorem State.updCore_grids (s : State) (k : Nat) (f : Core → Core) :
    (s.updCore k f).grids = s.grids := rfl
@[simp] theorem State.updCore_functions (s : State) (k : Nat) (f : Core → Core) :
    (s.updCore k f).functions = s.functions := rfl
@[simp] theorem State.updCore_commands (s : State) (k : Nat) (f : Core → Core) :
    (s.updCore k f).commands = s.commands := rfl
@[simp] theorem State.updCore_bursts (s : State) (k : Nat) (f : Core → Core) :
    (s.updCore k f).bursts = s.bursts := rfl
@[simp] theorem State.updCore_portQueues (s : State) (k : Nat) (f : Core → Core) :
    (s.updCore k f).portQueues = s.portQueues := rfl
@[simp] theorem State.updCore_dstLost (s : State) (k : Nat) (f : Core → Core) :
    (s.updCore k f).dstLost = s.dstLost := rfl
@[simp] theorem State.updCore_dstDisc (s : State) (k : Nat) (f : Core → Core) :
    (s.updCore k f).dstDisc = s.dstDisc := rfl
@[simp] theorem State.updCore_policies (s : State) (k : Nat) (f : Core → Core) :
    (s.updCore k f).policies = s.policies := rfl
@[simp] theorem State.updCore_policyGens (s : State) (k : Nat) (f : Core → Core) :
    (s.updCore k f).policyGens = s.policyGens := rfl
@[simp] theorem State.updCore_originKeys (s : State) (k : Nat) (f : Core → Core) :
    (s.updCore k f).originKeys = s.originKeys := rfl
@[simp] theorem State.updCore_gate (s : State) (k : Nat) (f : Core → Core) :
    (s.updCore k f).gate = s.gate := rfl
@[simp] theorem State.updCore_streams (s : State) (k : Nat) (f : Core → Core) :
    (s.updCore k f).streams = s.streams := rfl
@[simp] theorem State.updCore_measures (s : State) (k : Nat) (f : Core → Core) :
    (s.updCore k f).measures = s.measures := rfl
@[simp] theorem State.updCore_flash (s : State) (k : Nat) (f : Core → Core) :
    (s.updCore k f).flash = s.flash := rfl
@[simp] theorem State.updCore_folds (s : State) (k : Nat) (f : Core → Core) :
    (s.updCore k f).folds = s.folds := rfl
@[simp] theorem State.updCore_fatals (s : State) (k : Nat) (f : Core → Core) :
    (s.updCore k f).fatals = s.fatals := rfl
@[simp] theorem State.updCore_rowErrors (s : State) (k : Nat) (f : Core → Core) :
    (s.updCore k f).rowErrors = s.rowErrors := rfl
@[simp] theorem State.updCore_rowSpares (s : State) (k : Nat) (f : Core → Core) :
    (s.updCore k f).rowSpares = s.rowSpares := rfl
@[simp] theorem State.updCore_channelErrors (s : State) (k : Nat) (f : Core → Core) :
    (s.updCore k f).channelErrors = s.channelErrors := rfl
@[simp] theorem State.updCore_failing (s : State) (k : Nat) (f : Core → Core) :
    (s.updCore k f).failing = s.failing := rfl
@[simp] theorem State.updCore_timeouts (s : State) (k : Nat) (f : Core → Core) :
    (s.updCore k f).timeouts = s.timeouts := rfl
@[simp] theorem State.updCore_linkRetries (s : State) (k : Nat) (f : Core → Core) :
    (s.updCore k f).linkRetries = s.linkRetries := rfl
@[simp] theorem State.updCore_hostHeld (s : State) (k : Nat) (f : Core → Core) :
    (s.updCore k f).hostHeld = s.hostHeld := rfl
@[simp] theorem State.updCore_mgmt (s : State) (k : Nat) (f : Core → Core) :
    (s.updCore k f).mgmt = s.mgmt := rfl

/-! ### State.updFunction -/

@[simp] theorem State.updFunction_tick (s : State) (v : Nat) (f : Function → Function) :
    (s.updFunction v f).tick = s.tick := rfl
@[simp] theorem State.updFunction_cycles (s : State) (v : Nat) (f : Function → Function) :
    (s.updFunction v f).cycles = s.cycles := rfl
@[simp] theorem State.updFunction_inputs (s : State) (v : Nat) (f : Function → Function) :
    (s.updFunction v f).inputs = s.inputs := rfl
@[simp] theorem State.updFunction_stim (s : State) (v : Nat) (f : Function → Function) :
    (s.updFunction v f).stim = s.stim := rfl
@[simp] theorem State.updFunction_outputs (s : State) (v : Nat) (f : Function → Function) :
    (s.updFunction v f).outputs = s.outputs := rfl
@[simp] theorem State.updFunction_turn (s : State) (v : Nat) (f : Function → Function) :
    (s.updFunction v f).turn = s.turn := rfl
@[simp] theorem State.updFunction_auto (s : State) (v : Nat) (f : Function → Function) :
    (s.updFunction v f).auto = s.auto := rfl
@[simp] theorem State.updFunction_second (s : State) (v : Nat) (f : Function → Function) :
    (s.updFunction v f).second = s.second := rfl
@[simp] theorem State.updFunction_cur (s : State) (v : Nat) (f : Function → Function) :
    (s.updFunction v f).cur = s.cur := rfl
@[simp] theorem State.updFunction_holds (s : State) (v : Nat) (f : Function → Function) :
    (s.updFunction v f).holds = s.holds := rfl
@[simp] theorem State.updFunction_nextId (s : State) (v : Nat) (f : Function → Function) :
    (s.updFunction v f).nextId = s.nextId := rfl
@[simp] theorem State.updFunction_mem (s : State) (v : Nat) (f : Function → Function) :
    (s.updFunction v f).mem = s.mem := rfl
@[simp] theorem State.updFunction_vtags (s : State) (v : Nat) (f : Function → Function) :
    (s.updFunction v f).vtags = s.vtags := rfl
@[simp] theorem State.updFunction_vlabels (s : State) (v : Nat) (f : Function → Function) :
    (s.updFunction v f).vlabels = s.vlabels := rfl
@[simp] theorem State.updFunction_vmeta (s : State) (v : Nat) (f : Function → Function) :
    (s.updFunction v f).vmeta = s.vmeta := rfl
@[simp] theorem State.updFunction_badSectors (s : State) (v : Nat) (f : Function → Function) :
    (s.updFunction v f).badSectors = s.badSectors := rfl
@[simp] theorem State.updFunction_lines (s : State) (v : Nat) (f : Function → Function) :
    (s.updFunction v f).lines = s.lines := rfl
@[simp] theorem State.updFunction_l1 (s : State) (v : Nat) (f : Function → Function) :
    (s.updFunction v f).l1 = s.l1 := rfl
@[simp] theorem State.updFunction_reservations (s : State) (v : Nat) (f : Function → Function) :
    (s.updFunction v f).reservations = s.reservations := rfl
@[simp] theorem State.updFunction_backing (s : State) (v : Nat) (f : Function → Function) :
    (s.updFunction v f).backing = s.backing := rfl
@[simp] theorem State.updFunction_windowMsgs (s : State) (v : Nat) (f : Function → Function) :
    (s.updFunction v f).windowMsgs = s.windowMsgs := rfl
@[simp] theorem State.updFunction_keySlots (s : State) (v : Nat) (f : Function → Function) :
    (s.updFunction v f).keySlots = s.keySlots := rfl
@[simp] theorem State.updFunction_keyEpoch (s : State) (v : Nat) (f : Function → Function) :
    (s.updFunction v f).keyEpoch = s.keyEpoch := rfl
@[simp] theorem State.updFunction_keyDead (s : State) (v : Nat) (f : Function → Function) :
    (s.updFunction v f).keyDead = s.keyDead := rfl
@[simp] theorem State.updFunction_mmio (s : State) (v : Nat) (f : Function → Function) :
    (s.updFunction v f).mmio = s.mmio := rfl
@[simp] theorem State.updFunction_ignored (s : State) (v : Nat) (f : Function → Function) :
    (s.updFunction v f).ignored = s.ignored := rfl
@[simp] theorem State.updFunction_lhnd (s : State) (v : Nat) (f : Function → Function) :
    (s.updFunction v f).lhnd = s.lhnd := rfl
@[simp] theorem State.updFunction_ringRegs (s : State) (v : Nat) (f : Function → Function) :
    (s.updFunction v f).ringRegs = s.ringRegs := rfl
@[simp] theorem State.updFunction_sites (s : State) (v : Nat) (f : Function → Function) :
    (s.updFunction v f).sites = s.sites := rfl
@[simp] theorem State.updFunction_mapGen (s : State) (v : Nat) (f : Function → Function) :
    (s.updFunction v f).mapGen = s.mapGen := rfl
@[simp] theorem State.updFunction_retired (s : State) (v : Nat) (f : Function → Function) :
    (s.updFunction v f).retired = s.retired := rfl
@[simp] theorem State.updFunction_retests (s : State) (v : Nat) (f : Function → Function) :
    (s.updFunction v f).retests = s.retests := rfl
@[simp] theorem State.updFunction_agentsOut (s : State) (v : Nat) (f : Function → Function) :
    (s.updFunction v f).agentsOut = s.agentsOut := rfl
@[simp] theorem State.updFunction_threads (s : State) (v : Nat) (f : Function → Function) :
    (s.updFunction v f).threads = s.threads := rfl
@[simp] theorem State.updFunction_slots (s : State) (v : Nat) (f : Function → Function) :
    (s.updFunction v f).slots = s.slots := rfl
@[simp] theorem State.updFunction_quads (s : State) (v : Nat) (f : Function → Function) :
    (s.updFunction v f).quads = s.quads := rfl
@[simp] theorem State.updFunction_cores (s : State) (v : Nat) (f : Function → Function) :
    (s.updFunction v f).cores = s.cores := rfl
@[simp] theorem State.updFunction_stands (s : State) (v : Nat) (f : Function → Function) :
    (s.updFunction v f).stands = s.stands := rfl
@[simp] theorem State.updFunction_remains (s : State) (v : Nat) (f : Function → Function) :
    (s.updFunction v f).remains = s.remains := rfl
@[simp] theorem State.updFunction_grids (s : State) (v : Nat) (f : Function → Function) :
    (s.updFunction v f).grids = s.grids := rfl
@[simp] theorem State.updFunction_functions (s : State) (v : Nat) (f : Function → Function) :
    (s.updFunction v f).functions = s.functions.insert v (f (s.functionAt v)) := rfl
@[simp] theorem State.updFunction_commands (s : State) (v : Nat) (f : Function → Function) :
    (s.updFunction v f).commands = s.commands := rfl
@[simp] theorem State.updFunction_bursts (s : State) (v : Nat) (f : Function → Function) :
    (s.updFunction v f).bursts = s.bursts := rfl
@[simp] theorem State.updFunction_portQueues (s : State) (v : Nat) (f : Function → Function) :
    (s.updFunction v f).portQueues = s.portQueues := rfl
@[simp] theorem State.updFunction_dstLost (s : State) (v : Nat) (f : Function → Function) :
    (s.updFunction v f).dstLost = s.dstLost := rfl
@[simp] theorem State.updFunction_dstDisc (s : State) (v : Nat) (f : Function → Function) :
    (s.updFunction v f).dstDisc = s.dstDisc := rfl
@[simp] theorem State.updFunction_policies (s : State) (v : Nat) (f : Function → Function) :
    (s.updFunction v f).policies = s.policies := rfl
@[simp] theorem State.updFunction_policyGens (s : State) (v : Nat) (f : Function → Function) :
    (s.updFunction v f).policyGens = s.policyGens := rfl
@[simp] theorem State.updFunction_originKeys (s : State) (v : Nat) (f : Function → Function) :
    (s.updFunction v f).originKeys = s.originKeys := rfl
@[simp] theorem State.updFunction_gate (s : State) (v : Nat) (f : Function → Function) :
    (s.updFunction v f).gate = s.gate := rfl
@[simp] theorem State.updFunction_streams (s : State) (v : Nat) (f : Function → Function) :
    (s.updFunction v f).streams = s.streams := rfl
@[simp] theorem State.updFunction_measures (s : State) (v : Nat) (f : Function → Function) :
    (s.updFunction v f).measures = s.measures := rfl
@[simp] theorem State.updFunction_flash (s : State) (v : Nat) (f : Function → Function) :
    (s.updFunction v f).flash = s.flash := rfl
@[simp] theorem State.updFunction_folds (s : State) (v : Nat) (f : Function → Function) :
    (s.updFunction v f).folds = s.folds := rfl
@[simp] theorem State.updFunction_fatals (s : State) (v : Nat) (f : Function → Function) :
    (s.updFunction v f).fatals = s.fatals := rfl
@[simp] theorem State.updFunction_rowErrors (s : State) (v : Nat) (f : Function → Function) :
    (s.updFunction v f).rowErrors = s.rowErrors := rfl
@[simp] theorem State.updFunction_rowSpares (s : State) (v : Nat) (f : Function → Function) :
    (s.updFunction v f).rowSpares = s.rowSpares := rfl
@[simp] theorem State.updFunction_channelErrors (s : State) (v : Nat) (f : Function → Function) :
    (s.updFunction v f).channelErrors = s.channelErrors := rfl
@[simp] theorem State.updFunction_failing (s : State) (v : Nat) (f : Function → Function) :
    (s.updFunction v f).failing = s.failing := rfl
@[simp] theorem State.updFunction_timeouts (s : State) (v : Nat) (f : Function → Function) :
    (s.updFunction v f).timeouts = s.timeouts := rfl
@[simp] theorem State.updFunction_linkRetries (s : State) (v : Nat) (f : Function → Function) :
    (s.updFunction v f).linkRetries = s.linkRetries := rfl
@[simp] theorem State.updFunction_hostHeld (s : State) (v : Nat) (f : Function → Function) :
    (s.updFunction v f).hostHeld = s.hostHeld := rfl
@[simp] theorem State.updFunction_mgmt (s : State) (v : Nat) (f : Function → Function) :
    (s.updFunction v f).mgmt = s.mgmt := rfl

/-! ### State.updLane -/

@[simp] theorem State.updLane_tick (s : State) (l : Nat) (f : Thread → Thread) :
    (s.updLane l f).tick = s.tick := rfl
@[simp] theorem State.updLane_cycles (s : State) (l : Nat) (f : Thread → Thread) :
    (s.updLane l f).cycles = s.cycles := rfl
@[simp] theorem State.updLane_inputs (s : State) (l : Nat) (f : Thread → Thread) :
    (s.updLane l f).inputs = s.inputs := rfl
@[simp] theorem State.updLane_stim (s : State) (l : Nat) (f : Thread → Thread) :
    (s.updLane l f).stim = s.stim := rfl
@[simp] theorem State.updLane_outputs (s : State) (l : Nat) (f : Thread → Thread) :
    (s.updLane l f).outputs = s.outputs := rfl
@[simp] theorem State.updLane_turn (s : State) (l : Nat) (f : Thread → Thread) :
    (s.updLane l f).turn = s.turn := rfl
@[simp] theorem State.updLane_auto (s : State) (l : Nat) (f : Thread → Thread) :
    (s.updLane l f).auto = s.auto := rfl
@[simp] theorem State.updLane_second (s : State) (l : Nat) (f : Thread → Thread) :
    (s.updLane l f).second = s.second := rfl
@[simp] theorem State.updLane_cur (s : State) (l : Nat) (f : Thread → Thread) :
    (s.updLane l f).cur = s.cur := rfl
@[simp] theorem State.updLane_holds (s : State) (l : Nat) (f : Thread → Thread) :
    (s.updLane l f).holds = s.holds := rfl
@[simp] theorem State.updLane_nextId (s : State) (l : Nat) (f : Thread → Thread) :
    (s.updLane l f).nextId = s.nextId := rfl
@[simp] theorem State.updLane_mem (s : State) (l : Nat) (f : Thread → Thread) :
    (s.updLane l f).mem = s.mem := rfl
@[simp] theorem State.updLane_vtags (s : State) (l : Nat) (f : Thread → Thread) :
    (s.updLane l f).vtags = s.vtags := rfl
@[simp] theorem State.updLane_vlabels (s : State) (l : Nat) (f : Thread → Thread) :
    (s.updLane l f).vlabels = s.vlabels := rfl
@[simp] theorem State.updLane_vmeta (s : State) (l : Nat) (f : Thread → Thread) :
    (s.updLane l f).vmeta = s.vmeta := rfl
@[simp] theorem State.updLane_badSectors (s : State) (l : Nat) (f : Thread → Thread) :
    (s.updLane l f).badSectors = s.badSectors := rfl
@[simp] theorem State.updLane_lines (s : State) (l : Nat) (f : Thread → Thread) :
    (s.updLane l f).lines = s.lines := rfl
@[simp] theorem State.updLane_l1 (s : State) (l : Nat) (f : Thread → Thread) :
    (s.updLane l f).l1 = s.l1 := rfl
@[simp] theorem State.updLane_reservations (s : State) (l : Nat) (f : Thread → Thread) :
    (s.updLane l f).reservations = s.reservations := rfl
@[simp] theorem State.updLane_backing (s : State) (l : Nat) (f : Thread → Thread) :
    (s.updLane l f).backing = s.backing := rfl
@[simp] theorem State.updLane_windowMsgs (s : State) (l : Nat) (f : Thread → Thread) :
    (s.updLane l f).windowMsgs = s.windowMsgs := rfl
@[simp] theorem State.updLane_keySlots (s : State) (l : Nat) (f : Thread → Thread) :
    (s.updLane l f).keySlots = s.keySlots := rfl
@[simp] theorem State.updLane_keyEpoch (s : State) (l : Nat) (f : Thread → Thread) :
    (s.updLane l f).keyEpoch = s.keyEpoch := rfl
@[simp] theorem State.updLane_keyDead (s : State) (l : Nat) (f : Thread → Thread) :
    (s.updLane l f).keyDead = s.keyDead := rfl
@[simp] theorem State.updLane_mmio (s : State) (l : Nat) (f : Thread → Thread) :
    (s.updLane l f).mmio = s.mmio := rfl
@[simp] theorem State.updLane_ignored (s : State) (l : Nat) (f : Thread → Thread) :
    (s.updLane l f).ignored = s.ignored := rfl
@[simp] theorem State.updLane_lhnd (s : State) (l : Nat) (f : Thread → Thread) :
    (s.updLane l f).lhnd = s.lhnd := rfl
@[simp] theorem State.updLane_ringRegs (s : State) (l : Nat) (f : Thread → Thread) :
    (s.updLane l f).ringRegs = s.ringRegs := rfl
@[simp] theorem State.updLane_sites (s : State) (l : Nat) (f : Thread → Thread) :
    (s.updLane l f).sites = s.sites := rfl
@[simp] theorem State.updLane_mapGen (s : State) (l : Nat) (f : Thread → Thread) :
    (s.updLane l f).mapGen = s.mapGen := rfl
@[simp] theorem State.updLane_retired (s : State) (l : Nat) (f : Thread → Thread) :
    (s.updLane l f).retired = s.retired := rfl
@[simp] theorem State.updLane_retests (s : State) (l : Nat) (f : Thread → Thread) :
    (s.updLane l f).retests = s.retests := rfl
@[simp] theorem State.updLane_agentsOut (s : State) (l : Nat) (f : Thread → Thread) :
    (s.updLane l f).agentsOut = s.agentsOut := rfl
@[simp] theorem State.updLane_threads (s : State) (l : Nat) (f : Thread → Thread) :
    (s.updLane l f).threads = s.threads.modify (s.laneKey l) f := rfl
@[simp] theorem State.updLane_slots (s : State) (l : Nat) (f : Thread → Thread) :
    (s.updLane l f).slots = s.slots := rfl
@[simp] theorem State.updLane_quads (s : State) (l : Nat) (f : Thread → Thread) :
    (s.updLane l f).quads = s.quads := rfl
@[simp] theorem State.updLane_cores (s : State) (l : Nat) (f : Thread → Thread) :
    (s.updLane l f).cores = s.cores := rfl
@[simp] theorem State.updLane_stands (s : State) (l : Nat) (f : Thread → Thread) :
    (s.updLane l f).stands = s.stands := rfl
@[simp] theorem State.updLane_remains (s : State) (l : Nat) (f : Thread → Thread) :
    (s.updLane l f).remains = s.remains := rfl
@[simp] theorem State.updLane_grids (s : State) (l : Nat) (f : Thread → Thread) :
    (s.updLane l f).grids = s.grids := rfl
@[simp] theorem State.updLane_functions (s : State) (l : Nat) (f : Thread → Thread) :
    (s.updLane l f).functions = s.functions := rfl
@[simp] theorem State.updLane_commands (s : State) (l : Nat) (f : Thread → Thread) :
    (s.updLane l f).commands = s.commands := rfl
@[simp] theorem State.updLane_bursts (s : State) (l : Nat) (f : Thread → Thread) :
    (s.updLane l f).bursts = s.bursts := rfl
@[simp] theorem State.updLane_portQueues (s : State) (l : Nat) (f : Thread → Thread) :
    (s.updLane l f).portQueues = s.portQueues := rfl
@[simp] theorem State.updLane_dstLost (s : State) (l : Nat) (f : Thread → Thread) :
    (s.updLane l f).dstLost = s.dstLost := rfl
@[simp] theorem State.updLane_dstDisc (s : State) (l : Nat) (f : Thread → Thread) :
    (s.updLane l f).dstDisc = s.dstDisc := rfl
@[simp] theorem State.updLane_policies (s : State) (l : Nat) (f : Thread → Thread) :
    (s.updLane l f).policies = s.policies := rfl
@[simp] theorem State.updLane_policyGens (s : State) (l : Nat) (f : Thread → Thread) :
    (s.updLane l f).policyGens = s.policyGens := rfl
@[simp] theorem State.updLane_originKeys (s : State) (l : Nat) (f : Thread → Thread) :
    (s.updLane l f).originKeys = s.originKeys := rfl
@[simp] theorem State.updLane_gate (s : State) (l : Nat) (f : Thread → Thread) :
    (s.updLane l f).gate = s.gate := rfl
@[simp] theorem State.updLane_streams (s : State) (l : Nat) (f : Thread → Thread) :
    (s.updLane l f).streams = s.streams := rfl
@[simp] theorem State.updLane_measures (s : State) (l : Nat) (f : Thread → Thread) :
    (s.updLane l f).measures = s.measures := rfl
@[simp] theorem State.updLane_flash (s : State) (l : Nat) (f : Thread → Thread) :
    (s.updLane l f).flash = s.flash := rfl
@[simp] theorem State.updLane_folds (s : State) (l : Nat) (f : Thread → Thread) :
    (s.updLane l f).folds = s.folds := rfl
@[simp] theorem State.updLane_fatals (s : State) (l : Nat) (f : Thread → Thread) :
    (s.updLane l f).fatals = s.fatals := rfl
@[simp] theorem State.updLane_rowErrors (s : State) (l : Nat) (f : Thread → Thread) :
    (s.updLane l f).rowErrors = s.rowErrors := rfl
@[simp] theorem State.updLane_rowSpares (s : State) (l : Nat) (f : Thread → Thread) :
    (s.updLane l f).rowSpares = s.rowSpares := rfl
@[simp] theorem State.updLane_channelErrors (s : State) (l : Nat) (f : Thread → Thread) :
    (s.updLane l f).channelErrors = s.channelErrors := rfl
@[simp] theorem State.updLane_failing (s : State) (l : Nat) (f : Thread → Thread) :
    (s.updLane l f).failing = s.failing := rfl
@[simp] theorem State.updLane_timeouts (s : State) (l : Nat) (f : Thread → Thread) :
    (s.updLane l f).timeouts = s.timeouts := rfl
@[simp] theorem State.updLane_linkRetries (s : State) (l : Nat) (f : Thread → Thread) :
    (s.updLane l f).linkRetries = s.linkRetries := rfl
@[simp] theorem State.updLane_hostHeld (s : State) (l : Nat) (f : Thread → Thread) :
    (s.updLane l f).hostHeld = s.hostHeld := rfl
@[simp] theorem State.updLane_mgmt (s : State) (l : Nat) (f : Thread → Thread) :
    (s.updLane l f).mgmt = s.mgmt := rfl

/-! ### State.setReg -/

@[simp] theorem State.setReg_tick (s : State) (pa : Nat) (v : Double) :
    (s.setReg pa v).tick = s.tick := rfl
@[simp] theorem State.setReg_cycles (s : State) (pa : Nat) (v : Double) :
    (s.setReg pa v).cycles = s.cycles := rfl
@[simp] theorem State.setReg_inputs (s : State) (pa : Nat) (v : Double) :
    (s.setReg pa v).inputs = s.inputs := rfl
@[simp] theorem State.setReg_stim (s : State) (pa : Nat) (v : Double) :
    (s.setReg pa v).stim = s.stim := rfl
@[simp] theorem State.setReg_outputs (s : State) (pa : Nat) (v : Double) :
    (s.setReg pa v).outputs = s.outputs := rfl
@[simp] theorem State.setReg_turn (s : State) (pa : Nat) (v : Double) :
    (s.setReg pa v).turn = s.turn := rfl
@[simp] theorem State.setReg_auto (s : State) (pa : Nat) (v : Double) :
    (s.setReg pa v).auto = s.auto := rfl
@[simp] theorem State.setReg_second (s : State) (pa : Nat) (v : Double) :
    (s.setReg pa v).second = s.second := rfl
@[simp] theorem State.setReg_cur (s : State) (pa : Nat) (v : Double) :
    (s.setReg pa v).cur = s.cur := rfl
@[simp] theorem State.setReg_holds (s : State) (pa : Nat) (v : Double) :
    (s.setReg pa v).holds = s.holds := rfl
@[simp] theorem State.setReg_nextId (s : State) (pa : Nat) (v : Double) :
    (s.setReg pa v).nextId = s.nextId := rfl
@[simp] theorem State.setReg_mem (s : State) (pa : Nat) (v : Double) :
    (s.setReg pa v).mem = s.mem := rfl
@[simp] theorem State.setReg_vtags (s : State) (pa : Nat) (v : Double) :
    (s.setReg pa v).vtags = s.vtags := rfl
@[simp] theorem State.setReg_vlabels (s : State) (pa : Nat) (v : Double) :
    (s.setReg pa v).vlabels = s.vlabels := rfl
@[simp] theorem State.setReg_vmeta (s : State) (pa : Nat) (v : Double) :
    (s.setReg pa v).vmeta = s.vmeta := rfl
@[simp] theorem State.setReg_badSectors (s : State) (pa : Nat) (v : Double) :
    (s.setReg pa v).badSectors = s.badSectors := rfl
@[simp] theorem State.setReg_lines (s : State) (pa : Nat) (v : Double) :
    (s.setReg pa v).lines = s.lines := rfl
@[simp] theorem State.setReg_l1 (s : State) (pa : Nat) (v : Double) :
    (s.setReg pa v).l1 = s.l1 := rfl
@[simp] theorem State.setReg_reservations (s : State) (pa : Nat) (v : Double) :
    (s.setReg pa v).reservations = s.reservations := rfl
@[simp] theorem State.setReg_backing (s : State) (pa : Nat) (v : Double) :
    (s.setReg pa v).backing = s.backing := rfl
@[simp] theorem State.setReg_windowMsgs (s : State) (pa : Nat) (v : Double) :
    (s.setReg pa v).windowMsgs = s.windowMsgs := rfl
@[simp] theorem State.setReg_keySlots (s : State) (pa : Nat) (v : Double) :
    (s.setReg pa v).keySlots = s.keySlots := rfl
@[simp] theorem State.setReg_keyEpoch (s : State) (pa : Nat) (v : Double) :
    (s.setReg pa v).keyEpoch = s.keyEpoch := rfl
@[simp] theorem State.setReg_keyDead (s : State) (pa : Nat) (v : Double) :
    (s.setReg pa v).keyDead = s.keyDead := rfl
@[simp] theorem State.setReg_mmio (s : State) (pa : Nat) (v : Double) :
    (s.setReg pa v).mmio = s.mmio.put (mmioReset pa) pa v := rfl
@[simp] theorem State.setReg_ignored (s : State) (pa : Nat) (v : Double) :
    (s.setReg pa v).ignored = s.ignored := rfl
@[simp] theorem State.setReg_lhnd (s : State) (pa : Nat) (v : Double) :
    (s.setReg pa v).lhnd = s.lhnd := rfl
@[simp] theorem State.setReg_ringRegs (s : State) (pa : Nat) (v : Double) :
    (s.setReg pa v).ringRegs = s.ringRegs := rfl
@[simp] theorem State.setReg_sites (s : State) (pa : Nat) (v : Double) :
    (s.setReg pa v).sites = s.sites := rfl
@[simp] theorem State.setReg_mapGen (s : State) (pa : Nat) (v : Double) :
    (s.setReg pa v).mapGen = s.mapGen := rfl
@[simp] theorem State.setReg_retired (s : State) (pa : Nat) (v : Double) :
    (s.setReg pa v).retired = s.retired := rfl
@[simp] theorem State.setReg_retests (s : State) (pa : Nat) (v : Double) :
    (s.setReg pa v).retests = s.retests := rfl
@[simp] theorem State.setReg_agentsOut (s : State) (pa : Nat) (v : Double) :
    (s.setReg pa v).agentsOut = s.agentsOut := rfl
@[simp] theorem State.setReg_threads (s : State) (pa : Nat) (v : Double) :
    (s.setReg pa v).threads = s.threads := rfl
@[simp] theorem State.setReg_slots (s : State) (pa : Nat) (v : Double) :
    (s.setReg pa v).slots = s.slots := rfl
@[simp] theorem State.setReg_quads (s : State) (pa : Nat) (v : Double) :
    (s.setReg pa v).quads = s.quads := rfl
@[simp] theorem State.setReg_cores (s : State) (pa : Nat) (v : Double) :
    (s.setReg pa v).cores = s.cores := rfl
@[simp] theorem State.setReg_stands (s : State) (pa : Nat) (v : Double) :
    (s.setReg pa v).stands = s.stands := rfl
@[simp] theorem State.setReg_remains (s : State) (pa : Nat) (v : Double) :
    (s.setReg pa v).remains = s.remains := rfl
@[simp] theorem State.setReg_grids (s : State) (pa : Nat) (v : Double) :
    (s.setReg pa v).grids = s.grids := rfl
@[simp] theorem State.setReg_functions (s : State) (pa : Nat) (v : Double) :
    (s.setReg pa v).functions = s.functions := rfl
@[simp] theorem State.setReg_commands (s : State) (pa : Nat) (v : Double) :
    (s.setReg pa v).commands = s.commands := rfl
@[simp] theorem State.setReg_bursts (s : State) (pa : Nat) (v : Double) :
    (s.setReg pa v).bursts = s.bursts := rfl
@[simp] theorem State.setReg_portQueues (s : State) (pa : Nat) (v : Double) :
    (s.setReg pa v).portQueues = s.portQueues := rfl
@[simp] theorem State.setReg_dstLost (s : State) (pa : Nat) (v : Double) :
    (s.setReg pa v).dstLost = s.dstLost := rfl
@[simp] theorem State.setReg_dstDisc (s : State) (pa : Nat) (v : Double) :
    (s.setReg pa v).dstDisc = s.dstDisc := rfl
@[simp] theorem State.setReg_policies (s : State) (pa : Nat) (v : Double) :
    (s.setReg pa v).policies = s.policies := rfl
@[simp] theorem State.setReg_policyGens (s : State) (pa : Nat) (v : Double) :
    (s.setReg pa v).policyGens = s.policyGens := rfl
@[simp] theorem State.setReg_originKeys (s : State) (pa : Nat) (v : Double) :
    (s.setReg pa v).originKeys = s.originKeys := rfl
@[simp] theorem State.setReg_gate (s : State) (pa : Nat) (v : Double) :
    (s.setReg pa v).gate = s.gate := rfl
@[simp] theorem State.setReg_streams (s : State) (pa : Nat) (v : Double) :
    (s.setReg pa v).streams = s.streams := rfl
@[simp] theorem State.setReg_measures (s : State) (pa : Nat) (v : Double) :
    (s.setReg pa v).measures = s.measures := rfl
@[simp] theorem State.setReg_flash (s : State) (pa : Nat) (v : Double) :
    (s.setReg pa v).flash = s.flash := rfl
@[simp] theorem State.setReg_folds (s : State) (pa : Nat) (v : Double) :
    (s.setReg pa v).folds = s.folds := rfl
@[simp] theorem State.setReg_fatals (s : State) (pa : Nat) (v : Double) :
    (s.setReg pa v).fatals = s.fatals := rfl
@[simp] theorem State.setReg_rowErrors (s : State) (pa : Nat) (v : Double) :
    (s.setReg pa v).rowErrors = s.rowErrors := rfl
@[simp] theorem State.setReg_rowSpares (s : State) (pa : Nat) (v : Double) :
    (s.setReg pa v).rowSpares = s.rowSpares := rfl
@[simp] theorem State.setReg_channelErrors (s : State) (pa : Nat) (v : Double) :
    (s.setReg pa v).channelErrors = s.channelErrors := rfl
@[simp] theorem State.setReg_failing (s : State) (pa : Nat) (v : Double) :
    (s.setReg pa v).failing = s.failing := rfl
@[simp] theorem State.setReg_timeouts (s : State) (pa : Nat) (v : Double) :
    (s.setReg pa v).timeouts = s.timeouts := rfl
@[simp] theorem State.setReg_linkRetries (s : State) (pa : Nat) (v : Double) :
    (s.setReg pa v).linkRetries = s.linkRetries := rfl
@[simp] theorem State.setReg_hostHeld (s : State) (pa : Nat) (v : Double) :
    (s.setReg pa v).hostHeld = s.hostHeld := rfl
@[simp] theorem State.setReg_mgmt (s : State) (pa : Nat) (v : Double) :
    (s.setReg pa v).mgmt = s.mgmt := rfl

/-! ### State.hold -/

@[simp] theorem State.hold_tick (s : State) (r : Nat) :
    (s.hold r).tick = s.tick := rfl
@[simp] theorem State.hold_cycles (s : State) (r : Nat) :
    (s.hold r).cycles = s.cycles := rfl
@[simp] theorem State.hold_inputs (s : State) (r : Nat) :
    (s.hold r).inputs = s.inputs := rfl
@[simp] theorem State.hold_stim (s : State) (r : Nat) :
    (s.hold r).stim = s.stim := rfl
@[simp] theorem State.hold_outputs (s : State) (r : Nat) :
    (s.hold r).outputs = s.outputs := rfl
@[simp] theorem State.hold_turn (s : State) (r : Nat) :
    (s.hold r).turn = s.turn := rfl
@[simp] theorem State.hold_auto (s : State) (r : Nat) :
    (s.hold r).auto = s.auto := rfl
@[simp] theorem State.hold_second (s : State) (r : Nat) :
    (s.hold r).second = s.second := rfl
@[simp] theorem State.hold_cur (s : State) (r : Nat) :
    (s.hold r).cur = s.cur := rfl
@[simp] theorem State.hold_holds (s : State) (r : Nat) :
    (s.hold r).holds = s.holds.filter (fun h => h.slot ≠ s.cur.slotKey || h.pc ≠ s.cur.pc) ++ [⟨s.cur.slotKey, s.cur.pc, r⟩] := rfl
@[simp] theorem State.hold_nextId (s : State) (r : Nat) :
    (s.hold r).nextId = s.nextId := rfl
@[simp] theorem State.hold_mem (s : State) (r : Nat) :
    (s.hold r).mem = s.mem := rfl
@[simp] theorem State.hold_vtags (s : State) (r : Nat) :
    (s.hold r).vtags = s.vtags := rfl
@[simp] theorem State.hold_vlabels (s : State) (r : Nat) :
    (s.hold r).vlabels = s.vlabels := rfl
@[simp] theorem State.hold_vmeta (s : State) (r : Nat) :
    (s.hold r).vmeta = s.vmeta := rfl
@[simp] theorem State.hold_badSectors (s : State) (r : Nat) :
    (s.hold r).badSectors = s.badSectors := rfl
@[simp] theorem State.hold_lines (s : State) (r : Nat) :
    (s.hold r).lines = s.lines := rfl
@[simp] theorem State.hold_l1 (s : State) (r : Nat) :
    (s.hold r).l1 = s.l1 := rfl
@[simp] theorem State.hold_reservations (s : State) (r : Nat) :
    (s.hold r).reservations = s.reservations := rfl
@[simp] theorem State.hold_backing (s : State) (r : Nat) :
    (s.hold r).backing = s.backing := rfl
@[simp] theorem State.hold_windowMsgs (s : State) (r : Nat) :
    (s.hold r).windowMsgs = s.windowMsgs := rfl
@[simp] theorem State.hold_keySlots (s : State) (r : Nat) :
    (s.hold r).keySlots = s.keySlots := rfl
@[simp] theorem State.hold_keyEpoch (s : State) (r : Nat) :
    (s.hold r).keyEpoch = s.keyEpoch := rfl
@[simp] theorem State.hold_keyDead (s : State) (r : Nat) :
    (s.hold r).keyDead = s.keyDead := rfl
@[simp] theorem State.hold_mmio (s : State) (r : Nat) :
    (s.hold r).mmio = s.mmio := rfl
@[simp] theorem State.hold_ignored (s : State) (r : Nat) :
    (s.hold r).ignored = s.ignored := rfl
@[simp] theorem State.hold_lhnd (s : State) (r : Nat) :
    (s.hold r).lhnd = s.lhnd := rfl
@[simp] theorem State.hold_ringRegs (s : State) (r : Nat) :
    (s.hold r).ringRegs = s.ringRegs := rfl
@[simp] theorem State.hold_sites (s : State) (r : Nat) :
    (s.hold r).sites = s.sites := rfl
@[simp] theorem State.hold_mapGen (s : State) (r : Nat) :
    (s.hold r).mapGen = s.mapGen := rfl
@[simp] theorem State.hold_retired (s : State) (r : Nat) :
    (s.hold r).retired = s.retired := rfl
@[simp] theorem State.hold_retests (s : State) (r : Nat) :
    (s.hold r).retests = s.retests := rfl
@[simp] theorem State.hold_agentsOut (s : State) (r : Nat) :
    (s.hold r).agentsOut = s.agentsOut := rfl
@[simp] theorem State.hold_threads (s : State) (r : Nat) :
    (s.hold r).threads = s.threads := rfl
@[simp] theorem State.hold_slots (s : State) (r : Nat) :
    (s.hold r).slots = s.slots := rfl
@[simp] theorem State.hold_quads (s : State) (r : Nat) :
    (s.hold r).quads = s.quads := rfl
@[simp] theorem State.hold_cores (s : State) (r : Nat) :
    (s.hold r).cores = s.cores := rfl
@[simp] theorem State.hold_stands (s : State) (r : Nat) :
    (s.hold r).stands = s.stands := rfl
@[simp] theorem State.hold_remains (s : State) (r : Nat) :
    (s.hold r).remains = s.remains := rfl
@[simp] theorem State.hold_grids (s : State) (r : Nat) :
    (s.hold r).grids = s.grids := rfl
@[simp] theorem State.hold_functions (s : State) (r : Nat) :
    (s.hold r).functions = s.functions := rfl
@[simp] theorem State.hold_commands (s : State) (r : Nat) :
    (s.hold r).commands = s.commands := rfl
@[simp] theorem State.hold_bursts (s : State) (r : Nat) :
    (s.hold r).bursts = s.bursts := rfl
@[simp] theorem State.hold_portQueues (s : State) (r : Nat) :
    (s.hold r).portQueues = s.portQueues := rfl
@[simp] theorem State.hold_dstLost (s : State) (r : Nat) :
    (s.hold r).dstLost = s.dstLost := rfl
@[simp] theorem State.hold_dstDisc (s : State) (r : Nat) :
    (s.hold r).dstDisc = s.dstDisc := rfl
@[simp] theorem State.hold_policies (s : State) (r : Nat) :
    (s.hold r).policies = s.policies := rfl
@[simp] theorem State.hold_policyGens (s : State) (r : Nat) :
    (s.hold r).policyGens = s.policyGens := rfl
@[simp] theorem State.hold_originKeys (s : State) (r : Nat) :
    (s.hold r).originKeys = s.originKeys := rfl
@[simp] theorem State.hold_gate (s : State) (r : Nat) :
    (s.hold r).gate = s.gate := rfl
@[simp] theorem State.hold_streams (s : State) (r : Nat) :
    (s.hold r).streams = s.streams := rfl
@[simp] theorem State.hold_measures (s : State) (r : Nat) :
    (s.hold r).measures = s.measures := rfl
@[simp] theorem State.hold_flash (s : State) (r : Nat) :
    (s.hold r).flash = s.flash := rfl
@[simp] theorem State.hold_folds (s : State) (r : Nat) :
    (s.hold r).folds = s.folds := rfl
@[simp] theorem State.hold_fatals (s : State) (r : Nat) :
    (s.hold r).fatals = s.fatals := rfl
@[simp] theorem State.hold_rowErrors (s : State) (r : Nat) :
    (s.hold r).rowErrors = s.rowErrors := rfl
@[simp] theorem State.hold_rowSpares (s : State) (r : Nat) :
    (s.hold r).rowSpares = s.rowSpares := rfl
@[simp] theorem State.hold_channelErrors (s : State) (r : Nat) :
    (s.hold r).channelErrors = s.channelErrors := rfl
@[simp] theorem State.hold_failing (s : State) (r : Nat) :
    (s.hold r).failing = s.failing := rfl
@[simp] theorem State.hold_timeouts (s : State) (r : Nat) :
    (s.hold r).timeouts = s.timeouts := rfl
@[simp] theorem State.hold_linkRetries (s : State) (r : Nat) :
    (s.hold r).linkRetries = s.linkRetries := rfl
@[simp] theorem State.hold_hostHeld (s : State) (r : Nat) :
    (s.hold r).hostHeld = s.hostHeld := rfl
@[simp] theorem State.hold_mgmt (s : State) (r : Nat) :
    (s.hold r).mgmt = s.mgmt := rfl

end Sys2Proof.Machine
end

