-- ==== Sys2Proof/Laws/Table.lean ====
section
/-!
SUPPORT. Laws of the tables: reading after a change, and the canonical form.
-/

namespace Sys2Proof.Machine

variable {α β : Type}

/-! ### Reading after a change -/

@[simp] theorem Table.get?_nil (i : Nat) : Table.get? ([] : Table α) i = none := rfl

theorem Table.get?_insert (t : Table α) (i j : Nat) (v : α) :
    (t.insert i v).get? j = if j = i then some v else t.get? j := by
  induction t with
  | nil => simp [Table.insert, Table.get?]
  | cons p t ih =>
    obtain ⟨k, w⟩ := p
    simp only [Table.insert]
    split
    · simp [Table.get?]
    · split
      · simp only [Table.get?]; split <;> simp_all
      · simp only [Table.get?, ih]
        by_cases hjk : j = k
        · have : k ≠ i := by omega
          simp [hjk, this]
        · simp [hjk]

@[simp] theorem Table.get?_insert_self (t : Table α) (i : Nat) (v : α) : (t.insert i v).get? i = some v := by
  simp [Table.get?_insert]

theorem Table.get?_insert_ne (t : Table α) {i j : Nat} (v : α) (h : j ≠ i) : (t.insert i v).get? j = t.get? j := by
  simp [Table.get?_insert, h]

theorem Table.getD_insert (t : Table α) (i j : Nat) (v d : α) :
    (t.insert i v).getD j d = if j = i then v else t.getD j d := by
  simp only [Table.getD, Table.get?_insert]
  by_cases h : j = i <;> simp [h]

theorem Table.get?_modify (t : Table α) (i j : Nat) (f : α → α) :
    (t.modify i f).get? j = if j = i then (t.get? i).map f else t.get? j := by
  unfold Table.modify
  split
  · rename_i v h
    rw [Table.get?_insert]; split <;> simp_all
  · rename_i h
    split <;> simp_all

theorem Table.get?_modify_ne (t : Table α) {i j : Nat} (f : α → α) (h : j ≠ i) : (t.modify i f).get? j = t.get? j := by
  simp [Table.get?_modify, h]

theorem Table.getD_modify_ne (t : Table α) {i j : Nat} (f : α → α) (d : α) (h : j ≠ i) :
    (t.modify i f).getD j d = t.getD j d := by
  simp [Table.getD, Table.get?_modify, h]

theorem Table.get?_mapVals (f : Nat → α → β) (t : Table α) (i : Nat) :
    (t.mapVals f).get? i = (t.get? i).map (f i) := by
  induction t with
  | nil => rfl
  | cons p t ih =>
    obtain ⟨k, w⟩ := p
    simp only [Table.mapVals, List.map_cons, Table.get?]
    split
    · simp_all
    · simpa [Table.mapVals] using ih

/-! ### The canonical form -/

theorem Table.above_mono {b c : Nat} (h : c ≤ b) : ∀ {t : Table α}, t.above b = true → t.above c = true
  | [], _ => rfl
  | (k, _) :: t, ht => by
    simp only [Table.above, Bool.and_eq_true, decide_eq_true_eq] at *
    exact ⟨by omega, ht.2⟩

theorem Table.wf_of_above {b : Nat} : ∀ {t : Table α}, t.above b = true → t.wf = true
  | [], _ => rfl
  | (_, _) :: _, ht => by
    simp only [Table.above, Bool.and_eq_true] at ht
    exact ht.2

theorem Table.above_insert (b i : Nat) (v : α) : ∀ (t : Table α), b < i → t.above b = true → (t.insert i v).above b = true
  | [], h, _ => by simp [Table.insert, Table.above, h]
  | (k, w) :: t, h, ht => by
    simp only [Table.above, Bool.and_eq_true, decide_eq_true_eq] at ht
    simp only [Table.insert]
    split
    · simp [Table.above, *]
    · split
      · subst_vars; simp [Table.above, h, ht.2]
      · have : Table.above k (Table.insert t i v) = true := Table.above_insert k i v t (by omega) ht.2
        simp [Table.above, ht.1, this]

theorem Table.wf_insert (i : Nat) (v : α) : ∀ (t : Table α), t.wf = true → (t.insert i v).wf = true
  | [], _ => by simp [Table.insert, Table.wf, Table.above]
  | (k, w) :: t, ht => by
    simp only [Table.wf] at ht
    simp only [Table.insert]
    split
    · simp [Table.wf, Table.above, *]
    · split
      · subst_vars; simpa [Table.wf] using ht
      · simpa [Table.wf] using Table.above_insert k i v t (by omega) ht

theorem Table.above_erase (b i : Nat) : ∀ (t : Table α), t.above b = true → (t.erase i).above b = true
  | [], _ => rfl
  | (k, w) :: t, ht => by
    simp only [Table.above, Bool.and_eq_true, decide_eq_true_eq] at ht
    simp only [Table.erase]
    split
    · exact Table.above_erase b i t (Table.above_mono (by omega) ht.2)
    · simp [Table.above, ht.1, Table.above_erase k i t ht.2]

theorem Table.wf_erase (i : Nat) (t : Table α) (ht : t.wf = true) : (t.erase i).wf = true := by
  cases t with
  | nil => rfl
  | cons p t =>
    obtain ⟨k, w⟩ := p
    simp only [Table.wf] at ht
    simp only [Table.erase]
    split
    · exact Table.wf_of_above (Table.above_erase k i t ht)
    · simpa [Table.wf] using Table.above_erase k i t ht

theorem Table.wf_put [DecidableEq α] (d v : α) (i : Nat) (t : Table α) (h : t.wf = true) : (t.put d i v).wf = true := by
  unfold Table.put
  split
  · exact Table.wf_erase i t h
  · exact Table.wf_insert i v t h

theorem Table.get?_eq_none_of_above {b : Nat} : ∀ {t : Table α} {j : Nat}, t.above b = true → j ≤ b → t.get? j = none
  | [], _, _, _ => rfl
  | (k, w) :: t, j, ht, hj => by
    simp only [Table.above, Bool.and_eq_true, decide_eq_true_eq] at ht
    have hne : j ≠ k := by omega
    simpa [Table.get?, hne] using Table.get?_eq_none_of_above (j := j) ht.2 (by omega)

theorem Table.get?_erase (i j : Nat) (t : Table α) : (t.erase i).get? j = if j = i then none else t.get? j := by
  induction t with
  | nil => simp [Table.erase, Table.get?]
  | cons p t ih =>
    obtain ⟨k, w⟩ := p
    simp only [Table.erase]
    by_cases hik : i = k
    · subst hik
      by_cases hji : j = i
      · simpa [hji] using ih
      · simp [Table.get?, ih, hji]
    · rw [if_neg hik]
      simp only [Table.get?, ih]
      by_cases hjk : j = k
      · subst hjk; simp [Ne.symm hik]
      · simp [hjk]

theorem Table.getD_put [DecidableEq α] (d v : α) (i j : Nat) (t : Table α) :
    (t.put d i v).getD j d = if j = i then v else t.getD j d := by
  unfold Table.put
  split
  · rename_i hv
    simp only [Table.getD, Table.get?_erase i j t]
    split <;> simp_all
  · exact Table.getD_insert t i j v d

theorem Table.wfD_erase [DecidableEq α] (d : α) (i : Nat) (t : Table α) (h : Table.wfD d t = true) :
    Table.wfD d (t.erase i) = true := by
  simp only [Table.wfD, Bool.and_eq_true, List.all_eq_true] at *
  refine ⟨Table.wf_erase i t h.1, fun p hp => h.2 p ?_⟩
  clear h
  induction t with
  | nil => simp [Table.erase] at hp
  | cons q t ih =>
    obtain ⟨k, w⟩ := q
    simp only [Table.erase] at hp
    split at hp
    · exact List.mem_cons_of_mem _ (ih hp)
    · rcases List.mem_cons.1 hp with h | h
      · exact h ▸ List.mem_cons_self
      · exact List.mem_cons_of_mem _ (ih h)

theorem Table.mem_insert (t : Table α) (i : Nat) (v : α) (p : Nat × α) (hp : p ∈ t.insert i v) : p = (i, v) ∨ p ∈ t := by
  induction t with
  | nil => simpa [Table.insert] using hp
  | cons q t ih =>
    obtain ⟨k, w⟩ := q
    simp only [Table.insert] at hp
    split at hp
    · simpa using hp
    · split at hp
      · rcases List.mem_cons.1 hp with h | h
        · exact .inl h
        · exact .inr (List.mem_cons_of_mem _ h)
      · rcases List.mem_cons.1 hp with h | h
        · exact .inr (h ▸ List.mem_cons_self)
        · exact (ih h).imp id (List.mem_cons_of_mem _)

theorem Table.wfD_insert [DecidableEq α] (d v : α) (i : Nat) (t : Table α) (hv : v ≠ d) (h : Table.wfD d t = true) :
    Table.wfD d (t.insert i v) = true := by
  simp only [Table.wfD, Bool.and_eq_true, List.all_eq_true] at *
  refine ⟨Table.wf_insert i v t h.1, fun p hp => ?_⟩
  rcases Table.mem_insert t i v p hp with h' | h'
  · subst h'; simpa using hv
  · exact h.2 p h'

theorem Table.wfD_put [DecidableEq α] (d v : α) (i : Nat) (t : Table α) (h : Table.wfD d t = true) :
    Table.wfD d (t.put d i v) = true := by
  unfold Table.put
  split
  · exact Table.wfD_erase d i t h
  · exact Table.wfD_insert d v i t ‹_› h

theorem Table.above_filter (b : Nat) (p : Nat × α → Bool) : ∀ (t : Table α), t.above b = true → Table.above b (t.filter p) = true
  | [], _ => rfl
  | (k, w) :: t, ht => by
    simp only [Table.above, Bool.and_eq_true, decide_eq_true_eq] at ht
    simp only [List.filter_cons]
    split
    · simp [Table.above, ht.1, Table.above_filter k p t ht.2]
    · exact Table.above_mono (Nat.le_of_lt ht.1) (Table.above_filter k p t ht.2)

theorem Table.wf_filter (p : Nat × α → Bool) : ∀ (t : Table α), t.wf = true → Table.wf (t.filter p) = true
  | [], _ => rfl
  | (k, w) :: t, ht => by
    simp only [Table.wf] at ht
    simp only [List.filter_cons]
    split
    · simpa [Table.wf] using Table.above_filter k p t ht
    · exact Table.wf_of_above (Table.above_filter k p t ht)

theorem Table.wfD_filterT [DecidableEq α] (d : α) (p : Nat → α → Bool) (t : Table α) (h : Table.wfD d t = true) :
    Table.wfD d (t.filterT p) = true := by
  simp only [Table.wfD, Table.filterT, Bool.and_eq_true, List.all_eq_true, List.mem_filter] at *
  exact ⟨Table.wf_filter _ t h.1, fun q hq => h.2 q hq.1⟩

end Sys2Proof.Machine
end

