-- ==== Sys2Proof/Laws/Memory.lean ====
section
/-!
SUPPORT. Laws of memory: reading a byte after a store, and that every store of bytes keeps the canonical form.
-/

namespace Sys2Proof.Machine

/-! ### Bytes -/

theorem Memory.wf_table {m : Table Byte} (h : Memory.wf m = true) : Table.wf m = true := by
  simp only [Memory.wf, Table.wfD, Bool.and_eq_true] at h
  exact h.1

theorem Memory.wf_nil : Memory.wf [] = true := rfl

theorem Memory.wf_setByte (m : Table Byte) (a : Nat) (b : Byte) (h : Memory.wf m = true) : Memory.wf (setByte m a b) = true :=
  Table.wfD_put 0#8 b a m h

theorem Memory.wf_setBytes (bs : List Byte) : ∀ (m : Table Byte) (a : Nat), Memory.wf m = true → Memory.wf (setBytes m a bs) = true := by
  induction bs with
  | nil => exact fun _ _ h => h
  | cons b bs ih => exact fun m a h => ih _ _ (Memory.wf_setByte m a b h)

theorem Memory.wf_filterT (m : Table Byte) (p : Nat → Byte → Bool) (h : Memory.wf m = true) : Memory.wf (m.filterT p) = true :=
  Table.wfD_filterT 0#8 p m h

theorem rawByte_setByte (m : Table Byte) (a c : Nat) (b : Byte) : rawByte (setByte m a b) c = if c = a then b else rawByte m c :=
  Table.getD_put 0#8 b a c m

/-- A store of bytes changes the bytes from its address on, and no others. -/
theorem rawByte_setBytes (bs : List Byte) : ∀ (m : Table Byte) (a c : Nat),
    rawByte (setBytes m a bs) c = if a ≤ c ∧ c < a + bs.length then bs.getD (c - a) 0#8 else rawByte m c := by
  induction bs with
  | nil => intro m a c; rw [if_neg (by simp only [List.length_nil]; omega)]; rfl
  | cons b bs ih =>
    intro m a c
    rw [setBytes, ih, rawByte_setByte m a c b]
    by_cases hc : c = a
    · subst hc
      rw [if_neg (by omega), if_pos rfl, if_pos (by simp only [List.length_cons]; omega), Nat.sub_self]
      rfl
    · by_cases hl : a + 1 ≤ c ∧ c < a + 1 + bs.length
      · rw [if_pos hl, if_pos (by simp only [List.length_cons]; omega)]
        obtain ⟨k, rfl⟩ : ∃ k, c = a + 1 + k := ⟨c - (a + 1), by omega⟩
        rw [show a + 1 + k - (a + 1) = k by omega, show a + 1 + k - a = k + 1 by omega]
        rfl
      · rw [if_neg hl, if_neg hc, if_neg (by simp only [List.length_cons]; omega)]

/-- A store of bytes leaves every byte outside it as it was. -/
theorem rawByte_setBytes_other (bs : List Byte) (m : Table Byte) (a c : Nat) (hc : c < a ∨ a + bs.length ≤ c) :
    rawByte (setBytes m a bs) c = rawByte m c := by
  rw [rawByte_setBytes bs m a c, if_neg (by omega)]

end Sys2Proof.Machine
end

