-- ==== Sys2Proof/Laws/CanonicalOps.lean ====
section
/-!
SUPPORT. The canonical form of memory is kept: what it says, and the shared operations.
-/

namespace Sys2Proof.Machine

/-- The memory of a state has its canonical form. -/
def MemOk (s : State) : Prop := Memory.wf s.mem = true

theorem MemOk.of_eq {s t : State} (e : t.mem = s.mem) (h : MemOk s) : MemOk t := by
  unfold MemOk at *; rw [e]; exact h

theorem MemOk.lit {s : State} {x0 : Nat} {x1 : Nat} {x2 : List Input} {x3 : Stimulus} {x4 : List Output} {x5 : Nat} {x6 : Table Nat} {x7 : Option (Nat × PC × List Nat)} {x8 : Cur} {x9 : List Hold} {x10 : Nat} {x12 : Table Nat} {x13 : Table Label} {x14 : Table VaultMark} {x15 : List Nat} {x16 : Table Moesi} {x17 : List Nat} {x18 : Table Nat} {x19 : Table Backing} {x20 : List WinMsg} {x21 : Table (BitVec 256)} {x22 : Table Nat} {x23 : List Nat} {x24 : Table Double} {x25 : List Ignored} {x26 : Table Double} {x27 : Table Double} {x28 : Table Nat} {x29 : Nat} {x30 : List Nat} {x31 : List (Nat × Bool × Bool)} {x32 : List Nat} {x33 : Table Thread} {x34 : Table Slot} {x35 : Table Quad} {x36 : Table Core} {x37 : Table Stand} {x38 : Table Remains} {x39 : Table Grid} {x40 : Table Function} {x41 : Table Command} {x42 : Table Burst} {x43 : Table (List Nat)} {x44 : Table Nat} {x45 : Table Nat} {x46 : Table Policy} {x47 : Table Nat} {x48 : Table (List Byte)} {x49 : List Release} {x50 : Table (List Byte)} {x51 : List Measure} {x52 : List Byte} {x53 : Table Fold} {x54 : List (List Byte)} {x55 : Table Nat} {x56 : Table Nat} {x57 : Table Nat} {x58 : List Nat} {x59 : Table Nat} {x60 : Table Nat} {x61 : Bool} {x62 : Mgmt} (h : MemOk s) :
    MemOk (State.mk x0 x1 x2 x3 x4 x5 x6 x7 x8 x9 x10 s.mem x12 x13 x14 x15 x16 x17 x18 x19 x20 x21 x22 x23 x24 x25 x26 x27 x28 x29 x30 x31 x32 x33 x34 x35 x36 x37 x38 x39 x40 x41 x42 x43 x44 x45 x46 x47 x48 x49 x50 x51 x52 x53 x54 x55 x56 x57 x58 x59 x60 x61 x62) := h

theorem MemOk.put {m : Table Byte} {x0 : Nat} {x1 : Nat} {x2 : List Input} {x3 : Stimulus} {x4 : List Output} {x5 : Nat} {x6 : Table Nat} {x7 : Option (Nat × PC × List Nat)} {x8 : Cur} {x9 : List Hold} {x10 : Nat} {x12 : Table Nat} {x13 : Table Label} {x14 : Table VaultMark} {x15 : List Nat} {x16 : Table Moesi} {x17 : List Nat} {x18 : Table Nat} {x19 : Table Backing} {x20 : List WinMsg} {x21 : Table (BitVec 256)} {x22 : Table Nat} {x23 : List Nat} {x24 : Table Double} {x25 : List Ignored} {x26 : Table Double} {x27 : Table Double} {x28 : Table Nat} {x29 : Nat} {x30 : List Nat} {x31 : List (Nat × Bool × Bool)} {x32 : List Nat} {x33 : Table Thread} {x34 : Table Slot} {x35 : Table Quad} {x36 : Table Core} {x37 : Table Stand} {x38 : Table Remains} {x39 : Table Grid} {x40 : Table Function} {x41 : Table Command} {x42 : Table Burst} {x43 : Table (List Nat)} {x44 : Table Nat} {x45 : Table Nat} {x46 : Table Policy} {x47 : Table Nat} {x48 : Table (List Byte)} {x49 : List Release} {x50 : Table (List Byte)} {x51 : List Measure} {x52 : List Byte} {x53 : Table Fold} {x54 : List (List Byte)} {x55 : Table Nat} {x56 : Table Nat} {x57 : Table Nat} {x58 : List Nat} {x59 : Table Nat} {x60 : Table Nat} {x61 : Bool} {x62 : Mgmt} (h : Memory.wf m = true) :
    MemOk (State.mk x0 x1 x2 x3 x4 x5 x6 x7 x8 x9 x10 m x12 x13 x14 x15 x16 x17 x18 x19 x20 x21 x22 x23 x24 x25 x26 x27 x28 x29 x30 x31 x32 x33 x34 x35 x36 x37 x38 x39 x40 x41 x42 x43 x44 x45 x46 x47 x48 x49 x50 x51 x52 x53 x54 x55 x56 x57 x58 x59 x60 x61 x62) := h

/-- The canonical form after an outcome that goes on. -/
def OutOk (o : Host.Outcome State Fault Refusal) : Prop :=
  match o with
  | .next t => MemOk t
  | _ => True

theorem MemOk.foldl0 {α : Type} {f : State → α → State} {l : List α} {s : State} (hs : MemOk s)
    (h : ∀ s a, MemOk s → MemOk (f s a)) : MemOk (l.foldl f s) := by
  induction l generalizing s with
  | nil => exact hs
  | cons x xs ih => exact ih (h _ _ hs)

theorem MemOk.foldl1 {α β : Type} {f : β × State → α → β × State} {l : List α} {s : β × State} (hs : MemOk s.2)
    (h : ∀ s a, MemOk s.2 → MemOk (f s a).2) : MemOk (l.foldl f s).2 := by
  induction l generalizing s with
  | nil => exact hs
  | cons x xs ih => exact ih (h _ _ hs)

theorem MemOk.foldl2 {α β γ : Type} {f : β × γ × State → α → β × γ × State} {l : List α} {s : β × γ × State}
    (hs : MemOk s.2.2) (h : ∀ s a, MemOk s.2.2 → MemOk (f s a).2.2) : MemOk (l.foldl f s).2.2 := by
  induction l generalizing s with
  | nil => exact hs
  | cons x xs ih => exact ih (h _ _ hs)

theorem MemOk.foldl3 {α β γ δ : Type} {f : β × γ × δ × State → α → β × γ × δ × State} {l : List α}
    {s : β × γ × δ × State} (hs : MemOk s.2.2.2) (h : ∀ s a, MemOk s.2.2.2 → MemOk (f s a).2.2.2) :
    MemOk (l.foldl f s).2.2.2 := by
  induction l generalizing s with
  | nil => exact hs
  | cons x xs ih => exact ih (h _ _ hs)

theorem State.setReg_memOk (s : State) (pa : Nat) (v : Double) (hm : MemOk s) : MemOk (State.setReg s pa v) := by
  unfold State.setReg
  apply MemOk.lit
  with_reducible assumption

theorem State.setField_memOk (s : State) (pa : Nat) (lo : Nat) (n : Nat) (x : Nat) (hm : MemOk s) : MemOk (State.setField s pa lo n x) := by
  unfold State.setField
  apply State.setReg_memOk
  with_reducible assumption

theorem State.setRing_memOk (s : State) (node : Nat) (idx : Nat) (v : Double) (hm : MemOk s) : MemOk (State.setRing s node idx v) := by
  unfold State.setRing
  apply MemOk.lit
  with_reducible assumption

theorem State.setTagAt_memOk (s : State) (a : Nat) (t : Nat) (hm : MemOk s) : MemOk (State.setTagAt s a t) := by
  unfold State.setTagAt
  split
  · apply MemOk.lit
    with_reducible assumption
  · dsimp only
    apply MemOk.put
    apply Memory.wf_setByte
    show MemOk _
    with_reducible assumption

theorem State.setLabelAt_memOk (s : State) (a : Nat) (l : Label) (hm : MemOk s) : MemOk (State.setLabelAt s a l) := by
  unfold State.setLabelAt
  split
  · apply MemOk.lit
    with_reducible assumption
  · apply MemOk.put
    apply Memory.wf_setBytes
    show MemOk _
    with_reducible assumption

theorem State.updStand_memOk (s : State) (k : Nat) (f : Stand → Stand) (hm : MemOk s) : MemOk (State.updStand s k f) := by
  unfold State.updStand
  apply MemOk.lit
  with_reducible assumption

theorem State.raiseLabel_memOk (s : State) (l : Loc) (lab : Label) (hm : MemOk s) : MemOk (State.raiseLabel s l lab) := by
  unfold State.raiseLabel
  split
  · split
    · with_reducible assumption
    · apply State.setLabelAt_memOk
      with_reducible assumption
  · apply State.updStand_memOk
    with_reducible assumption

theorem State.raiseSpan_memOk (s : State) (l : Loc) (n : Nat) (lab : Label) (hm : MemOk s) : MemOk (State.raiseSpan s l n lab) := by
  unfold State.raiseSpan
  refine MemOk.foldl0 ?_ ?_
  · with_reducible assumption
  · intros
    apply State.raiseLabel_memOk
    with_reducible assumption

theorem State.setTagOf_memOk (s : State) (l : Loc) (t : Nat) (hm : MemOk s) : MemOk (State.setTagOf s l t) := by
  unfold State.setTagOf
  split
  · apply State.setTagAt_memOk
    with_reducible assumption
  · apply State.updStand_memOk
    with_reducible assumption

theorem State.clearBad_memOk (s : State) (l : Loc) (hm : MemOk s) : MemOk (State.clearBad s l) := by
  unfold State.clearBad
  split
  · apply MemOk.lit
    with_reducible assumption
  · apply State.updStand_memOk
    with_reducible assumption

theorem State.fillL1_memOk (s : State) (who : Nat) (line : Nat) (hm : MemOk s) : MemOk (State.fillL1 s who line) := by
  unfold State.fillL1
  split
  · apply MemOk.lit
    with_reducible assumption
  · with_reducible assumption

theorem State.dropL1_memOk (s : State) (agent : Nat) (line : Nat) (hm : MemOk s) : MemOk (State.dropL1 s agent line) := by
  unfold State.dropL1
  apply MemOk.lit
  with_reducible assumption

theorem State.setMoesi_memOk (s : State) (cluster : Nat) (line : Nat) (m : Option Moesi) (hm : MemOk s) : MemOk (State.setMoesi s cluster line m) := by
  unfold State.setMoesi
  split
  · apply MemOk.lit
    with_reducible assumption
  · dsimp only
    apply MemOk.lit
    apply State.dropL1_memOk
    with_reducible assumption

theorem flumeRdS_memOk (s : State) (cluster : Nat) (line : Nat) (hm : MemOk s) : MemOk (flumeRdS s cluster line) := by
  unfold flumeRdS
  dsimp only
  apply State.setMoesi_memOk
  refine MemOk.foldl0 ?_ ?_
  · with_reducible assumption
  · intros
    split
    · apply State.setMoesi_memOk
      with_reducible assumption
    · apply State.setMoesi_memOk
      with_reducible assumption
    · with_reducible assumption

theorem invalidateOthers_memOk (s : State) (cluster : Nat) (line : Nat) (hm : MemOk s) : MemOk (invalidateOthers s cluster line) := by
  unfold invalidateOthers
  refine MemOk.foldl0 ?_ ?_
  · with_reducible assumption
  · intros
    split
    · with_reducible assumption
    · apply State.setMoesi_memOk
      with_reducible assumption

theorem flumeRdX_memOk (s : State) (cluster : Nat) (line : Nat) (hm : MemOk s) : MemOk (flumeRdX s cluster line) := by
  unfold flumeRdX
  apply State.setMoesi_memOk
  apply invalidateOthers_memOk
  with_reducible assumption

theorem flumeUpg_memOk (s : State) (cluster : Nat) (line : Nat) (hm : MemOk s) : MemOk (flumeUpg s cluster line) := by
  unfold flumeUpg
  apply State.setMoesi_memOk
  apply invalidateOthers_memOk
  with_reducible assumption

theorem State.keepBacking_memOk (s : State) (line : Nat) (hm : MemOk s) : MemOk (State.keepBacking s line) := by
  unfold State.keepBacking
  split
  · with_reducible assumption
  · apply MemOk.lit
    with_reducible assumption

theorem flumeWb_memOk (s : State) (cluster : Nat) (line : Nat) (hm : MemOk s) : MemOk (flumeWb s cluster line) := by
  unfold flumeWb
  split
  · dsimp only
    apply MemOk.lit
    apply State.setMoesi_memOk
    with_reducible assumption
  · dsimp only
    apply MemOk.lit
    apply State.setMoesi_memOk
    with_reducible assumption
  · with_reducible assumption

theorem flushLine_memOk (s : State) (line : Nat) (hm : MemOk s) : MemOk (flushLine s line) := by
  unfold flushLine
  dsimp only
  apply MemOk.lit
  apply invalidateOthers_memOk
  with_reducible assumption

theorem discardLine_memOk (s : State) (line : Nat) (hm : MemOk s) : MemOk (discardLine s line) := by
  unfold discardLine
  dsimp only
  apply invalidateOthers_memOk
  split
  · apply MemOk.put
    apply Memory.wf_setBytes
    show MemOk _
    with_reducible assumption
  · with_reducible assumption

theorem ncRead_memOk (s : State) (line : Nat) (hm : MemOk s) : MemOk (ncRead s line) := by
  unfold ncRead
  refine MemOk.foldl0 ?_ ?_
  · with_reducible assumption
  · intros
    split
    · apply State.setMoesi_memOk
      with_reducible assumption
    · apply State.setMoesi_memOk
      with_reducible assumption
    · with_reducible assumption

theorem cachedRead_memOk (s : State) (who : Nat) (line : Nat) (hm : MemOk s) : MemOk (cachedRead s who line) := by
  unfold cachedRead
  dsimp only
  split
  · apply ncRead_memOk
    with_reducible assumption
  · apply State.fillL1_memOk
    split
    · with_reducible assumption
    · apply flumeRdS_memOk
      with_reducible assumption

theorem cachedWrite_memOk (s : State) (who : Nat) (line : Nat) (hm : MemOk s) : MemOk (cachedWrite s who line) := by
  unfold cachedWrite
  dsimp only
  split
  · apply flushLine_memOk
    with_reducible assumption
  · apply State.fillL1_memOk
    apply State.dropL1_memOk
    split
    · apply State.keepBacking_memOk
      with_reducible assumption
    · apply State.setMoesi_memOk
      apply State.keepBacking_memOk
      with_reducible assumption
    · apply flumeUpg_memOk
      apply State.keepBacking_memOk
      with_reducible assumption
    · apply flumeRdX_memOk
      apply State.keepBacking_memOk
      with_reducible assumption

theorem State.wakeLine_memOk (s : State) (l : Loc) (hm : MemOk s) : MemOk (State.wakeLine s l) := by
  unfold State.wakeLine
  apply MemOk.lit
  with_reducible assumption

theorem State.putBytes_memOk (s : State) (k : Nat) (l : Loc) (bs : List Byte) (hm : MemOk s) : MemOk (State.putBytes s k l bs) := by
  unfold State.putBytes
  cases l with
  | sp st o => exact hm
  | pa a =>
    dsimp only
    split
    · apply MemOk.put
      apply Memory.wf_setBytes
      split
      · exact hm
      · exact Memory.wf_setBytes _ _ _ hm
    · apply MemOk.put
      exact Memory.wf_setBytes _ _ _ hm

theorem State.breakReservations_memOk (s : State) (l : Loc) (hm : MemOk s) : MemOk (State.breakReservations s l) := by
  unfold State.breakReservations
  split
  · apply MemOk.lit
    with_reducible assumption
  · with_reducible assumption

theorem performPiece_memOk (s : State) (who : Option Nat) (k : Nat) (l : Loc) (bs : List Byte) (lab : Label) (hm : MemOk s) : MemOk (performPiece s who k l bs lab) := by
  unfold performPiece
  dsimp only
  apply State.wakeLine_memOk
  apply State.breakReservations_memOk
  split
  · refine MemOk.foldl0 ?_ ?_
    · apply State.raiseSpan_memOk
      apply State.putBytes_memOk
      split
      · apply cachedWrite_memOk
        with_reducible assumption
      · apply flushLine_memOk
        with_reducible assumption
      · with_reducible assumption
    · intros
      split
      · apply State.clearBad_memOk
        with_reducible assumption
      · with_reducible assumption
  · apply State.raiseSpan_memOk
    apply State.putBytes_memOk
    split
    · apply cachedWrite_memOk
      with_reducible assumption
    · apply flushLine_memOk
      with_reducible assumption
    · with_reducible assumption

theorem State.perform_memOk (s : State) (who : Option Nat) (k : Nat) (l : Loc) (bs : List Byte) (lab : Label) (hm : MemOk s) : MemOk (State.perform s who k l bs lab) := by
  unfold State.perform
  split
  · with_reducible assumption
  · refine MemOk.foldl0 ?_ ?_
    · with_reducible assumption
    · intros
      apply performPiece_memOk
      with_reducible assumption

theorem State.deviceStore_memOk (s : State) (k : Nat) (a : Nat) (bs : List Byte) (hm : MemOk s) : MemOk (State.deviceStore s k a bs) := by
  unfold State.deviceStore
  apply State.perform_memOk
  with_reducible assumption

theorem State.logError_memOk (s : State) (kind : Nat) (sev : Nat) (vf : Nat) (pa : Nat) (loc : Nat) (cnt : Nat) (info : Nat) (hm : MemOk s) : MemOk (State.logError s kind sev vf pa loc cnt info) := by
  unfold State.logError
  dsimp only
  split
  · apply State.setField_memOk
    split
    · apply MemOk.lit
      with_reducible assumption
    · with_reducible assumption
  · split
    · split
      · apply State.setField_memOk
        apply State.deviceStore_memOk
        apply MemOk.lit
        with_reducible assumption
      · apply State.deviceStore_memOk
        apply State.setField_memOk
        apply State.deviceStore_memOk
        apply MemOk.lit
        with_reducible assumption
    · split
      · apply State.setField_memOk
        apply State.deviceStore_memOk
        with_reducible assumption
      · apply State.deviceStore_memOk
        apply State.setField_memOk
        apply State.deviceStore_memOk
        with_reducible assumption

theorem State.logIgnored_memOk (s : State) (pa : Nat) (write : Bool) (agent : Agent) (hm : MemOk s) : MemOk (State.logIgnored s pa write agent) := by
  unfold State.logIgnored
  apply MemOk.lit
  with_reducible assumption

theorem State.logStim_memOk (s : State) (hm : MemOk s) : MemOk (State.logStim s) := by
  unfold State.logStim
  apply State.logIgnored_memOk
  with_reducible assumption

theorem State.foldError_memOk (s : State) (kind : Nat) (pa : Nat) (loc : Nat) (info : Nat) (hm : MemOk s) : MemOk (State.foldError s kind pa loc info) := by
  unfold State.foldError
  dsimp only
  split
  · apply MemOk.lit
    with_reducible assumption
  · apply MemOk.lit
    with_reducible assumption

theorem State.keyMismatch_memOk (s : State) (k : Nat) (hm : MemOk s) : MemOk (State.keyMismatch s k) := by
  unfold State.keyMismatch
  apply State.foldError_memOk
  with_reducible assumption

theorem State.noteMismatch_memOk (s : State) (k : Nat) (a : Nat) (hm : MemOk s) : MemOk (State.noteMismatch s k a) := by
  unfold State.noteMismatch
  split
  · apply State.keyMismatch_memOk
    with_reducible assumption
  · with_reducible assumption

theorem State.performRead_memOk (s : State) (who : Option Nat) (k : Nat) (l : Loc) (hm : MemOk s) : MemOk (State.performRead s who k l) := by
  unfold State.performRead
  split
  · apply State.noteMismatch_memOk
    split
    · apply cachedRead_memOk
      with_reducible assumption
    · apply ncRead_memOk
      with_reducible assumption
  · with_reducible assumption

theorem State.updThread_memOk (s : State) (k : Nat) (f : Thread → Thread) (hm : MemOk s) : MemOk (State.updThread s k f) := by
  unfold State.updThread
  apply MemOk.lit
  with_reducible assumption

theorem State.updSlot_memOk (s : State) (k : Nat) (f : Slot → Slot) (hm : MemOk s) : MemOk (State.updSlot s k f) := by
  unfold State.updSlot
  apply MemOk.lit
  with_reducible assumption

theorem State.updQuad_memOk (s : State) (k : Nat) (f : Quad → Quad) (hm : MemOk s) : MemOk (State.updQuad s k f) := by
  unfold State.updQuad
  apply MemOk.lit
  with_reducible assumption

theorem State.updCore_memOk (s : State) (k : Nat) (f : Core → Core) (hm : MemOk s) : MemOk (State.updCore s k f) := by
  unfold State.updCore
  apply MemOk.lit
  with_reducible assumption

theorem State.updFunction_memOk (s : State) (v : Nat) (f : Function → Function) (hm : MemOk s) : MemOk (State.updFunction s v f) := by
  unfold State.updFunction
  apply MemOk.lit
  with_reducible assumption

theorem State.updLane_memOk (s : State) (l : Nat) (f : Thread → Thread) (hm : MemOk s) : MemOk (State.updLane s l f) := by
  unfold State.updLane
  apply State.updThread_memOk
  with_reducible assumption

theorem State.adopt_memOk (s : State) (k : Nat) (t : Word) (copy : RingRec) (hm : MemOk s) : MemOk (State.adopt s k t copy).2 := by
  unfold State.adopt
  dsimp only
  split
  · with_reducible assumption
  · dsimp only
    apply State.updThread_memOk
    with_reducible assumption

theorem State.relocate_memOk (s : State) (owner : Nat) (k : Nat) (t : Word) (hm : MemOk s) : MemOk (State.relocate s owner k t).2 := by
  unfold State.relocate
  split
  · with_reducible assumption
  · apply State.adopt_memOk
    with_reducible assumption

theorem State.writeDst_memOk (s : State) (k : Nat) (d : Dst) (o : Out) (hm : MemOk s) : MemOk (State.writeDst s k d o) := by
  unfold State.writeDst
  split
  · apply State.updThread_memOk
    with_reducible assumption
  · apply State.updThread_memOk
    with_reducible assumption
  · dsimp only
    apply State.updThread_memOk
    apply State.relocate_memOk
    with_reducible assumption
  · dsimp only
    apply State.updThread_memOk
    split
    · with_reducible assumption
    · apply State.relocate_memOk
      with_reducible assumption

theorem State.labelDsts_memOk (s : State) (ls : List Nat) (ds : List Dst) (l : Label) (hm : MemOk s) : MemOk (State.labelDsts s ls ds l) := by
  unfold State.labelDsts
  split
  · with_reducible assumption
  · dsimp only
    apply State.updSlot_memOk
    with_reducible assumption

theorem State.sendLanes_memOk (s : State) (ls : List Nat) (pc : PC) (hm : MemOk s) : MemOk (State.sendLanes s ls pc) := by
  unfold State.sendLanes
  refine MemOk.foldl0 ?_ ?_
  · with_reducible assumption
  · intros
    apply State.updLane_memOk
    with_reducible assumption

theorem State.advance_memOk (s : State) (ls : List Nat) (hm : MemOk s) : MemOk (State.advance s ls) := by
  unfold State.advance
  apply State.sendLanes_memOk
  with_reducible assumption

theorem State.hold_memOk (s : State) (reason : Nat) (hm : MemOk s) : MemOk (State.hold s reason) := by
  unfold State.hold
  apply MemOk.lit
  with_reducible assumption

theorem State.tokenUp_memOk (s : State) (th : Nat) (k : Nat) (hm : MemOk s) : MemOk (State.tokenUp s th k) := by
  unfold State.tokenUp
  apply State.updThread_memOk
  with_reducible assumption

theorem State.tokenDown_memOk (s : State) (th : Nat) (k : Nat) (code : Byte) (ring : BitVec 2) (info : BitVec 16) (lab : Label) (hm : MemOk s) : MemOk (State.tokenDown s th k code ring info lab) := by
  unfold State.tokenDown
  apply State.updThread_memOk
  with_reducible assumption

theorem State.tokensDown_memOk (s : State) (ths : List Nat) (k : Nat) (code : Byte) (info : BitVec 16) (lab : Label) (hm : MemOk s) : MemOk (State.tokensDown s ths k code info lab) := by
  unfold State.tokensDown
  refine MemOk.foldl0 ?_ ?_
  · with_reducible assumption
  · intros
    apply State.tokenDown_memOk
    with_reducible assumption

theorem State.joinTrap_memOk (s : State) (core : Nat) (r : TrapRec) (hm : MemOk s) : MemOk (State.joinTrap s core r) := by
  unfold State.joinTrap
  apply State.updCore_memOk
  with_reducible assumption

theorem State.writeMig_memOk (s : State) (v : Nat) (m : MigRec) (hm : MemOk s) : MemOk (State.writeMig s v m) := by
  unfold State.writeMig
  dsimp only
  split
  · with_reducible assumption
  · apply State.updFunction_memOk
    apply State.setReg_memOk
    apply State.deviceStore_memOk
    with_reducible assumption

theorem State.settleMig_memOk (s : State) (v : Nat) (hm : MemOk s) : MemOk (State.settleMig s v) := by
  unfold State.settleMig
  refine MemOk.foldl0 ?_ ?_
  · with_reducible assumption
  · intros
    apply State.writeMig_memOk
    with_reducible assumption

theorem State.notePage_memOk (s : State) (v : Nat) (page : Nat) (site : Nat) (nl : Nat) (hm : MemOk s) : MemOk (State.notePage s v page site nl) := by
  unfold State.notePage
  split
  · dsimp only
    split
    · split
      · apply State.deviceStore_memOk
        apply State.updFunction_memOk
        with_reducible assumption
      · apply State.updFunction_memOk
        with_reducible assumption
    · apply State.updFunction_memOk
      with_reducible assumption
  · apply State.settleMig_memOk
    apply State.updFunction_memOk
    with_reducible assumption

theorem State.stopQuad_memOk (s : State) (core : Nat) (q : Nat) (cause : Nat) (code : Nat) (pc : Nat) (lane : Nat) (recs : List TrapRec) (hm : MemOk s) : MemOk (State.stopQuad s core q cause code pc lane recs) := by
  unfold State.stopQuad
  dsimp only
  apply State.setReg_memOk
  apply State.updQuad_memOk
  with_reducible assumption

theorem State.stopWith_memOk (s : State) (info : Nat) (ls : List Nat) (r : TrapRec) (hm : MemOk s) : MemOk (State.stopWith s info ls r) := by
  unfold State.stopWith
  split
  · apply State.updQuad_memOk
    with_reducible assumption
  · apply State.stopQuad_memOk
    with_reducible assumption

theorem State.parkGroup_memOk (s : State) (f : Flt) (page : Nat) (ls : List (Nat × Flt)) (hm : MemOk s) : MemOk (State.parkGroup s f page ls) := by
  unfold State.parkGroup
  dsimp only
  split
  · apply State.notePage_memOk
    refine MemOk.foldl0 ?_ ?_
    · apply State.updSlot_memOk
      with_reducible assumption
    · intros
      apply State.updLane_memOk
      with_reducible assumption
  · split
    · apply State.stopWith_memOk
      refine MemOk.foldl0 ?_ ?_
      · apply State.updSlot_memOk
        with_reducible assumption
      · intros
        apply State.updLane_memOk
        with_reducible assumption
    · apply State.joinTrap_memOk
      refine MemOk.foldl0 ?_ ?_
      · apply State.updSlot_memOk
        with_reducible assumption
      · intros
        apply State.updLane_memOk
        with_reducible assumption

theorem State.park_memOk (s : State) (fs : List (Nat × Flt)) (hm : MemOk s) : MemOk (State.park s fs) := by
  unfold State.park
  split
  · with_reducible assumption
  · split
    · apply State.logError_memOk
      refine MemOk.foldl0 ?_ ?_
      · with_reducible assumption
      · intros
        apply State.updLane_memOk
        with_reducible assumption
    · refine MemOk.foldl0 ?_ ?_
      · with_reducible assumption
      · intros
        split
        · with_reducible assumption
        · apply State.parkGroup_memOk
          with_reducible assumption

theorem State.parkAll_memOk (s : State) (ls : List Nat) (f : Flt) (hm : MemOk s) : MemOk (State.parkAll s ls f) := by
  unfold State.parkAll
  apply State.advance_memOk
  apply State.park_memOk
  with_reducible assumption

theorem State.updSub_memOk (s : State) (f : Found) (g : Parked → Option Parked) (hm : MemOk s) : MemOk (State.updSub s f g) := by
  unfold State.updSub
  dsimp only
  split
  · apply State.updStand_memOk
    with_reducible assumption
  · apply State.updSlot_memOk
    with_reducible assumption

theorem State.dropOps_memOk (s : State) (thread : Nat) (hm : MemOk s) : MemOk (State.dropOps s thread) := by
  unfold State.dropOps
  apply State.updStand_memOk
  with_reducible assumption

theorem State.resumeLanes_memOk (s : State) (sub : Parked) (skip : Bool) (hm : MemOk s) : MemOk (State.resumeLanes s sub skip) := by
  unfold State.resumeLanes
  refine MemOk.foldl0 ?_ ?_
  · with_reducible assumption
  · intros
    dsimp only
    split
    · apply State.dropOps_memOk
      apply State.updThread_memOk
      with_reducible assumption
    · apply State.updThread_memOk
      with_reducible assumption

theorem State.resumeSub_memOk (s : State) (f : Found) (skip : Bool) (hm : MemOk s) : MemOk (State.resumeSub s f skip) := by
  unfold State.resumeSub
  split
  · apply State.updSub_memOk
    with_reducible assumption
  · apply State.updSub_memOk
    apply State.resumeLanes_memOk
    with_reducible assumption

theorem State.issue_memOk (s : State) (gn : BitVec 1) (gp : BitVec 3) (bad : Option Flt) (body : List Nat → State) (hm : MemOk s) (h1 : ∀ v0, MemOk (body v0)) : MemOk (State.issue s gn gp bad body) := by
  unfold State.issue
  dsimp only
  split
  · apply State.advance_memOk
    with_reducible assumption
  · split
    · apply State.parkAll_memOk
      with_reducible assumption
    · apply_assumption

theorem State.writeOuts_memOk (s : State) (k : Nat) (x1 : List Dst) (x2 : List Out) (hm : MemOk s) : MemOk (State.writeOuts s k x1 x2) := by
  fun_induction State.writeOuts s k x1 x2
  · apply_assumption
    apply State.writeDst_memOk
    with_reducible assumption
  · with_reducible assumption

theorem State.commit_memOk (s : State) (ex : List Nat) (ds : List Dst) (L : Label) (outs : List (Nat × List Out)) (hm : MemOk s) : MemOk (State.commit s ex ds L outs) := by
  unfold State.commit
  apply State.labelDsts_memOk
  refine MemOk.foldl0 ?_ ?_
  · with_reducible assumption
  · intros
    apply State.writeOuts_memOk
    with_reducible assumption

theorem Alu.effect_memOk (op : Alu) (s0 : State) (s : State) (ex : List Nat) (hm : MemOk s) : MemOk (Alu.effect op s0 s ex) := by
  unfold Alu.effect
  apply State.commit_memOk
  with_reducible assumption

theorem State.runAlu_memOk (s : State) (op : Alu) (hm : MemOk s) : MemOk (State.runAlu s op) := by
  unfold State.runAlu
  apply State.issue_memOk
  · with_reducible assumption
  · intros
    apply State.advance_memOk
    apply Alu.effect_memOk
    with_reducible assumption

theorem execAdd_memOk (f : GFmt) (s : State) (hm : MemOk s) : OutOk (execAdd f s) := by
  unfold execAdd
  show MemOk _
  apply State.runAlu_memOk
  with_reducible assumption

theorem execSub_memOk (f : GFmt) (s : State) (hm : MemOk s) : OutOk (execSub f s) := by
  unfold execSub
  show MemOk _
  apply State.runAlu_memOk
  with_reducible assumption

theorem execNeg_memOk (f : GFmt) (s : State) (hm : MemOk s) : OutOk (execNeg f s) := by
  unfold execNeg
  show MemOk _
  apply State.runAlu_memOk
  with_reducible assumption

theorem execAbs_memOk (f : GFmt) (s : State) (hm : MemOk s) : OutOk (execAbs f s) := by
  unfold execAbs
  show MemOk _
  apply State.runAlu_memOk
  with_reducible assumption

theorem execMul_memOk (f : GFmt) (s : State) (hm : MemOk s) : OutOk (execMul f s) := by
  unfold execMul
  show MemOk _
  apply State.runAlu_memOk
  with_reducible assumption

theorem execMulh_memOk (f : GFmt) (s : State) (hm : MemOk s) : OutOk (execMulh f s) := by
  unfold execMulh
  show MemOk _
  apply State.runAlu_memOk
  with_reducible assumption

theorem execMad_memOk (f : GFmt) (s : State) (hm : MemOk s) : OutOk (execMad f s) := by
  unfold execMad
  show MemOk _
  apply State.runAlu_memOk
  with_reducible assumption

theorem execMadh_memOk (f : GFmt) (s : State) (hm : MemOk s) : OutOk (execMadh f s) := by
  unfold execMadh
  show MemOk _
  apply State.runAlu_memOk
  with_reducible assumption

theorem execDiv_memOk (f : GFmt) (s : State) (hm : MemOk s) : OutOk (execDiv f s) := by
  unfold execDiv
  show MemOk _
  apply State.runAlu_memOk
  with_reducible assumption

theorem execRem_memOk (f : GFmt) (s : State) (hm : MemOk s) : OutOk (execRem f s) := by
  unfold execRem
  show MemOk _
  apply State.runAlu_memOk
  with_reducible assumption

theorem execMin_memOk (f : GFmt) (s : State) (hm : MemOk s) : OutOk (execMin f s) := by
  unfold execMin
  show MemOk _
  apply State.runAlu_memOk
  with_reducible assumption

theorem execMax_memOk (f : GFmt) (s : State) (hm : MemOk s) : OutOk (execMax f s) := by
  unfold execMax
  show MemOk _
  apply State.runAlu_memOk
  with_reducible assumption

theorem execAnd_memOk (f : GFmt) (s : State) (hm : MemOk s) : OutOk (execAnd f s) := by
  unfold execAnd
  show MemOk _
  apply State.runAlu_memOk
  with_reducible assumption

theorem execOr_memOk (f : GFmt) (s : State) (hm : MemOk s) : OutOk (execOr f s) := by
  unfold execOr
  show MemOk _
  apply State.runAlu_memOk
  with_reducible assumption

theorem execXor_memOk (f : GFmt) (s : State) (hm : MemOk s) : OutOk (execXor f s) := by
  unfold execXor
  show MemOk _
  apply State.runAlu_memOk
  with_reducible assumption

theorem execNot_memOk (f : GFmt) (s : State) (hm : MemOk s) : OutOk (execNot f s) := by
  unfold execNot
  show MemOk _
  apply State.runAlu_memOk
  with_reducible assumption

theorem execAndn_memOk (f : GFmt) (s : State) (hm : MemOk s) : OutOk (execAndn f s) := by
  unfold execAndn
  show MemOk _
  apply State.runAlu_memOk
  with_reducible assumption

theorem execShl_memOk (f : GFmt) (s : State) (hm : MemOk s) : OutOk (execShl f s) := by
  unfold execShl
  show MemOk _
  apply State.runAlu_memOk
  with_reducible assumption

theorem execShr_memOk (f : GFmt) (s : State) (hm : MemOk s) : OutOk (execShr f s) := by
  unfold execShr
  show MemOk _
  apply State.runAlu_memOk
  with_reducible assumption

theorem execSar_memOk (f : GFmt) (s : State) (hm : MemOk s) : OutOk (execSar f s) := by
  unfold execSar
  show MemOk _
  apply State.runAlu_memOk
  with_reducible assumption

theorem execRol_memOk (f : GFmt) (s : State) (hm : MemOk s) : OutOk (execRol f s) := by
  unfold execRol
  show MemOk _
  apply State.runAlu_memOk
  with_reducible assumption

theorem execPopc_memOk (f : GFmt) (s : State) (hm : MemOk s) : OutOk (execPopc f s) := by
  unfold execPopc
  show MemOk _
  apply State.runAlu_memOk
  with_reducible assumption

theorem execClz_memOk (f : GFmt) (s : State) (hm : MemOk s) : OutOk (execClz f s) := by
  unfold execClz
  show MemOk _
  apply State.runAlu_memOk
  with_reducible assumption

theorem execCtz_memOk (f : GFmt) (s : State) (hm : MemOk s) : OutOk (execCtz f s) := by
  unfold execCtz
  show MemOk _
  apply State.runAlu_memOk
  with_reducible assumption

theorem execBrev_memOk (f : GFmt) (s : State) (hm : MemOk s) : OutOk (execBrev f s) := by
  unfold execBrev
  show MemOk _
  apply State.runAlu_memOk
  with_reducible assumption

theorem execMov_memOk (f : GFmt) (s : State) (hm : MemOk s) : OutOk (execMov f s) := by
  unfold execMov
  show MemOk _
  apply State.runAlu_memOk
  with_reducible assumption

theorem execAddc_memOk (f : GFmt) (s : State) (hm : MemOk s) : OutOk (execAddc f s) := by
  unfold execAddc
  show MemOk _
  apply State.runAlu_memOk
  with_reducible assumption

theorem execSubb_memOk (f : GFmt) (s : State) (hm : MemOk s) : OutOk (execSubb f s) := by
  unfold execSubb
  show MemOk _
  apply State.runAlu_memOk
  with_reducible assumption

theorem execMulw_memOk (f : GFmt) (s : State) (hm : MemOk s) : OutOk (execMulw f s) := by
  unfold execMulw
  show MemOk _
  apply State.runAlu_memOk
  with_reducible assumption

theorem execMadw_memOk (f : GFmt) (s : State) (hm : MemOk s) : OutOk (execMadw f s) := by
  unfold execMadw
  show MemOk _
  apply State.runAlu_memOk
  with_reducible assumption

theorem execFshl_memOk (f : GFmt) (s : State) (hm : MemOk s) : OutOk (execFshl f s) := by
  unfold execFshl
  show MemOk _
  apply State.runAlu_memOk
  with_reducible assumption

theorem execBfx_memOk (f : GFmt) (s : State) (hm : MemOk s) : OutOk (execBfx f s) := by
  unfold execBfx
  show MemOk _
  apply State.runAlu_memOk
  with_reducible assumption

theorem execBfi_memOk (f : GFmt) (s : State) (hm : MemOk s) : OutOk (execBfi f s) := by
  unfold execBfi
  show MemOk _
  apply State.runAlu_memOk
  with_reducible assumption

theorem execPerm_memOk (f : GFmt) (s : State) (hm : MemOk s) : OutOk (execPerm f s) := by
  unfold execPerm
  show MemOk _
  apply State.runAlu_memOk
  with_reducible assumption

theorem execSel_memOk (f : GFmt) (s : State) (hm : MemOk s) : OutOk (execSel f s) := by
  unfold execSel
  show MemOk _
  apply State.runAlu_memOk
  with_reducible assumption

theorem execIset_memOk (f : GFmt) (s : State) (hm : MemOk s) : OutOk (execIset f s) := by
  unfold execIset
  show MemOk _
  apply State.runAlu_memOk
  with_reducible assumption

theorem execLea_memOk (f : GFmt) (s : State) (hm : MemOk s) : OutOk (execLea f s) := by
  unfold execLea
  show MemOk _
  apply State.runAlu_memOk
  with_reducible assumption

theorem execSad_memOk (f : GFmt) (s : State) (hm : MemOk s) : OutOk (execSad f s) := by
  unfold execSad
  show MemOk _
  apply State.runAlu_memOk
  with_reducible assumption

theorem execDot4_memOk (f : GFmt) (s : State) (hm : MemOk s) : OutOk (execDot4 f s) := by
  unfold execDot4
  show MemOk _
  apply State.runAlu_memOk
  with_reducible assumption

theorem execDot8_memOk (f : GFmt) (s : State) (hm : MemOk s) : OutOk (execDot8 f s) := by
  unfold execDot8
  show MemOk _
  apply State.runAlu_memOk
  with_reducible assumption

theorem execMovi_memOk (f : IFmt) (s : State) (hm : MemOk s) : OutOk (execMovi f s) := by
  unfold execMovi
  show MemOk _
  apply State.runAlu_memOk
  with_reducible assumption

theorem execMovh_memOk (f : IFmt) (s : State) (hm : MemOk s) : OutOk (execMovh f s) := by
  unfold execMovh
  show MemOk _
  apply State.runAlu_memOk
  with_reducible assumption

theorem execFadd_memOk (f : GFmt) (s : State) (hm : MemOk s) : OutOk (execFadd f s) := by
  unfold execFadd
  show MemOk _
  apply State.runAlu_memOk
  with_reducible assumption

theorem execFsub_memOk (f : GFmt) (s : State) (hm : MemOk s) : OutOk (execFsub f s) := by
  unfold execFsub
  show MemOk _
  apply State.runAlu_memOk
  with_reducible assumption

theorem execFmul_memOk (f : GFmt) (s : State) (hm : MemOk s) : OutOk (execFmul f s) := by
  unfold execFmul
  show MemOk _
  apply State.runAlu_memOk
  with_reducible assumption

theorem execFrnd_memOk (f : GFmt) (s : State) (hm : MemOk s) : OutOk (execFrnd f s) := by
  unfold execFrnd
  show MemOk _
  apply State.runAlu_memOk
  with_reducible assumption

theorem execFscale_memOk (f : GFmt) (s : State) (hm : MemOk s) : OutOk (execFscale f s) := by
  unfold execFscale
  show MemOk _
  apply State.runAlu_memOk
  with_reducible assumption

theorem execFma_memOk (f : GFmt) (s : State) (hm : MemOk s) : OutOk (execFma f s) := by
  unfold execFma
  show MemOk _
  apply State.runAlu_memOk
  with_reducible assumption

theorem execFmin_memOk (f : GFmt) (s : State) (hm : MemOk s) : OutOk (execFmin f s) := by
  unfold execFmin
  show MemOk _
  apply State.runAlu_memOk
  with_reducible assumption

theorem execFmax_memOk (f : GFmt) (s : State) (hm : MemOk s) : OutOk (execFmax f s) := by
  unfold execFmax
  show MemOk _
  apply State.runAlu_memOk
  with_reducible assumption

theorem execFset_memOk (f : GFmt) (s : State) (hm : MemOk s) : OutOk (execFset f s) := by
  unfold execFset
  show MemOk _
  apply State.runAlu_memOk
  with_reducible assumption

theorem execFclass_memOk (f : GFmt) (s : State) (hm : MemOk s) : OutOk (execFclass f s) := by
  unfold execFclass
  show MemOk _
  apply State.runAlu_memOk
  with_reducible assumption

theorem execFexpn_memOk (f : GFmt) (s : State) (hm : MemOk s) : OutOk (execFexpn f s) := by
  unfold execFexpn
  show MemOk _
  apply State.runAlu_memOk
  with_reducible assumption

theorem execFmant_memOk (f : GFmt) (s : State) (hm : MemOk s) : OutOk (execFmant f s) := by
  unfold execFmant
  show MemOk _
  apply State.runAlu_memOk
  with_reducible assumption

theorem execFcopys_memOk (f : GFmt) (s : State) (hm : MemOk s) : OutOk (execFcopys f s) := by
  unfold execFcopys
  show MemOk _
  apply State.runAlu_memOk
  with_reducible assumption

theorem execFrcp_memOk (f : GFmt) (s : State) (hm : MemOk s) : OutOk (execFrcp f s) := by
  unfold execFrcp
  show MemOk _
  apply State.runAlu_memOk
  with_reducible assumption

theorem execFrsq_memOk (f : GFmt) (s : State) (hm : MemOk s) : OutOk (execFrsq f s) := by
  unfold execFrsq
  show MemOk _
  apply State.runAlu_memOk
  with_reducible assumption

theorem execFsqrt_memOk (f : GFmt) (s : State) (hm : MemOk s) : OutOk (execFsqrt f s) := by
  unfold execFsqrt
  show MemOk _
  apply State.runAlu_memOk
  with_reducible assumption

theorem execFdiv_memOk (f : GFmt) (s : State) (hm : MemOk s) : OutOk (execFdiv f s) := by
  unfold execFdiv
  show MemOk _
  apply State.runAlu_memOk
  with_reducible assumption

theorem execFexp2_memOk (f : GFmt) (s : State) (hm : MemOk s) : OutOk (execFexp2 f s) := by
  unfold execFexp2
  show MemOk _
  apply State.runAlu_memOk
  with_reducible assumption

theorem execFlog2_memOk (f : GFmt) (s : State) (hm : MemOk s) : OutOk (execFlog2 f s) := by
  unfold execFlog2
  show MemOk _
  apply State.runAlu_memOk
  with_reducible assumption

theorem execFsin_memOk (f : GFmt) (s : State) (hm : MemOk s) : OutOk (execFsin f s) := by
  unfold execFsin
  show MemOk _
  apply State.runAlu_memOk
  with_reducible assumption

theorem execFcos_memOk (f : GFmt) (s : State) (hm : MemOk s) : OutOk (execFcos f s) := by
  unfold execFcos
  show MemOk _
  apply State.runAlu_memOk
  with_reducible assumption

theorem execFtanh_memOk (f : GFmt) (s : State) (hm : MemOk s) : OutOk (execFtanh f s) := by
  unfold execFtanh
  show MemOk _
  apply State.runAlu_memOk
  with_reducible assumption

theorem execFsigm_memOk (f : GFmt) (s : State) (hm : MemOk s) : OutOk (execFsigm f s) := by
  unfold execFsigm
  show MemOk _
  apply State.runAlu_memOk
  with_reducible assumption

theorem execFdot2_memOk (f : GFmt) (s : State) (hm : MemOk s) : OutOk (execFdot2 f s) := by
  unfold execFdot2
  show MemOk _
  apply State.runAlu_memOk
  with_reducible assumption

theorem execFdot4_memOk (f : GFmt) (s : State) (hm : MemOk s) : OutOk (execFdot4 f s) := by
  unfold execFdot4
  show MemOk _
  apply State.runAlu_memOk
  with_reducible assumption

theorem execAddmin_memOk (f : GFmt) (s : State) (hm : MemOk s) : OutOk (execAddmin f s) := by
  unfold execAddmin
  show MemOk _
  apply State.runAlu_memOk
  with_reducible assumption

theorem execAddmax_memOk (f : GFmt) (s : State) (hm : MemOk s) : OutOk (execAddmax f s) := by
  unfold execAddmax
  show MemOk _
  apply State.runAlu_memOk
  with_reducible assumption

theorem execFmini_memOk (f : GFmt) (s : State) (hm : MemOk s) : OutOk (execFmini f s) := by
  unfold execFmini
  show MemOk _
  apply State.runAlu_memOk
  with_reducible assumption

theorem execFmaxi_memOk (f : GFmt) (s : State) (hm : MemOk s) : OutOk (execFmaxi f s) := by
  unfold execFmaxi
  show MemOk _
  apply State.runAlu_memOk
  with_reducible assumption

theorem execImini_memOk (f : GFmt) (s : State) (hm : MemOk s) : OutOk (execImini f s) := by
  unfold execImini
  show MemOk _
  apply State.runAlu_memOk
  with_reducible assumption

theorem execImaxi_memOk (f : GFmt) (s : State) (hm : MemOk s) : OutOk (execImaxi f s) := by
  unfold execImaxi
  show MemOk _
  apply State.runAlu_memOk
  with_reducible assumption

theorem execCvt_memOk (f : GFmt) (s : State) (hm : MemOk s) : OutOk (execCvt f s) := by
  unfold execCvt
  show MemOk _
  apply State.runAlu_memOk
  with_reducible assumption

theorem execCvts_memOk (f : GFmt) (s : State) (hm : MemOk s) : OutOk (execCvts f s) := by
  unfold execCvts
  show MemOk _
  apply State.runAlu_memOk
  with_reducible assumption

theorem execCvti_memOk (f : GFmt) (s : State) (hm : MemOk s) : OutOk (execCvti f s) := by
  unfold execCvti
  show MemOk _
  apply State.runAlu_memOk
  with_reducible assumption

theorem execPack_memOk (f : GFmt) (s : State) (hm : MemOk s) : OutOk (execPack f s) := by
  unfold execPack
  show MemOk _
  apply State.runAlu_memOk
  with_reducible assumption

theorem execUnpack_memOk (f : GFmt) (s : State) (hm : MemOk s) : OutOk (execUnpack f s) := by
  unfold execUnpack
  show MemOk _
  apply State.runAlu_memOk
  with_reducible assumption

theorem State.runXLane_memOk (s : State) (op : XLane) (hm : MemOk s) : MemOk (State.runXLane s op) := by
  unfold State.runXLane
  apply State.issue_memOk
  · with_reducible assumption
  · intros
    apply State.advance_memOk
    apply State.commit_memOk
    with_reducible assumption

theorem execShfl_memOk (f : GFmt) (s : State) (hm : MemOk s) : OutOk (execShfl f s) := by
  unfold execShfl
  show MemOk _
  apply State.runXLane_memOk
  with_reducible assumption

theorem execSlide_memOk (f : GFmt) (s : State) (hm : MemOk s) : OutOk (execSlide f s) := by
  unfold execSlide
  show MemOk _
  apply State.runXLane_memOk
  with_reducible assumption

theorem execBcastl_memOk (f : GFmt) (s : State) (hm : MemOk s) : OutOk (execBcastl f s) := by
  unfold execBcastl
  show MemOk _
  apply State.runXLane_memOk
  with_reducible assumption

theorem execVote_memOk (f : GFmt) (s : State) (hm : MemOk s) : OutOk (execVote f s) := by
  unfold execVote
  show MemOk _
  apply State.runXLane_memOk
  with_reducible assumption

theorem execMatchLanes_memOk (f : GFmt) (s : State) (hm : MemOk s) : OutOk (execMatchLanes f s) := by
  unfold execMatchLanes
  show MemOk _
  apply State.runXLane_memOk
  with_reducible assumption

theorem execRedux_memOk (f : GFmt) (s : State) (hm : MemOk s) : OutOk (execRedux f s) := by
  unfold execRedux
  show MemOk _
  apply State.runXLane_memOk
  with_reducible assumption

theorem execScan_memOk (f : GFmt) (s : State) (hm : MemOk s) : OutOk (execScan f s) := by
  unfold execScan
  show MemOk _
  apply State.runXLane_memOk
  with_reducible assumption

theorem execLmask_memOk (f : GFmt) (s : State) (hm : MemOk s) : OutOk (execLmask f s) := by
  unfold execLmask
  show MemOk _
  apply State.runXLane_memOk
  with_reducible assumption

theorem State.runPair_memOk (s : State) (a : Alu) (b : Alu) (ok : Bool) (hm : MemOk s) : MemOk (State.runPair s a b ok) := by
  unfold State.runPair
  dsimp only
  split
  · apply State.advance_memOk
    with_reducible assumption
  · split
    · apply State.parkAll_memOk
      with_reducible assumption
    · apply State.advance_memOk
      apply Alu.effect_memOk
      apply Alu.effect_memOk
      with_reducible assumption

theorem execPairWord_memOk (x : CFmt) (y : CFmt) (s : State) (hm : MemOk s) : OutOk (execPairWord x y s) := by
  unfold execPairWord
  dsimp only
  show MemOk _
  apply State.runPair_memOk
  with_reducible assumption

theorem execPand_memOk (f : GFmt) (s : State) (hm : MemOk s) : OutOk (execPand f s) := by
  unfold execPand
  show MemOk _
  apply State.runAlu_memOk
  with_reducible assumption

theorem execPor_memOk (f : GFmt) (s : State) (hm : MemOk s) : OutOk (execPor f s) := by
  unfold execPor
  show MemOk _
  apply State.runAlu_memOk
  with_reducible assumption

theorem execPxor_memOk (f : GFmt) (s : State) (hm : MemOk s) : OutOk (execPxor f s) := by
  unfold execPxor
  show MemOk _
  apply State.runAlu_memOk
  with_reducible assumption

theorem execPnot_memOk (f : GFmt) (s : State) (hm : MemOk s) : OutOk (execPnot f s) := by
  unfold execPnot
  show MemOk _
  apply State.runAlu_memOk
  with_reducible assumption

theorem execPmov_memOk (f : GFmt) (s : State) (hm : MemOk s) : OutOk (execPmov f s) := by
  unfold execPmov
  show MemOk _
  apply State.runAlu_memOk
  with_reducible assumption

theorem execIdx_memOk (f : GFmt) (s : State) (hm : MemOk s) : OutOk (execIdx f s) := by
  unfold execIdx
  show MemOk _
  apply State.runAlu_memOk
  with_reducible assumption

theorem State.translate_memOk (s : State) (core : Nat) (v : Nat) (va : Nat) (hm : MemOk s) : MemOk (State.translate s core v va).2 := by
  unfold State.translate
  split
  · with_reducible assumption
  · split
    · with_reducible assumption
    · dsimp only
      apply State.updCore_memOk
      with_reducible assumption

theorem State.markLeaf_memOk (s : State) (at_ : Nat) (leaf : Nat) (mask : Nat) (hm : MemOk s) : MemOk (State.markLeaf s at_ leaf mask) := by
  unfold State.markLeaf
  dsimp only
  split
  · apply MemOk.put
    apply Memory.wf_setBytes
    show MemOk _
    with_reducible assumption
  · with_reducible assumption

theorem State.markAccess_memOk (s : State) (core : Nat) (e : TlbEntry) (write : Bool) (hm : MemOk s) : MemOk (State.markAccess s core e write) := by
  unfold State.markAccess
  dsimp only
  split
  · split
    · apply State.updCore_memOk
      split
      · apply State.markLeaf_memOk
        split
        · apply State.markLeaf_memOk
          with_reducible assumption
        · with_reducible assumption
      · split
        · apply State.markLeaf_memOk
          with_reducible assumption
        · with_reducible assumption
    · split
      · apply State.markLeaf_memOk
        split
        · apply State.markLeaf_memOk
          with_reducible assumption
        · with_reducible assumption
      · split
        · apply State.markLeaf_memOk
          with_reducible assumption
        · with_reducible assumption
  · split
    · apply State.updCore_memOk
      split
      · apply State.markLeaf_memOk
        split
        · apply State.markLeaf_memOk
          with_reducible assumption
        · with_reducible assumption
      · split
        · apply State.markLeaf_memOk
          with_reducible assumption
        · with_reducible assumption
    · split
      · apply State.markLeaf_memOk
        split
        · apply State.markLeaf_memOk
          with_reducible assumption
        · with_reducible assumption
      · split
        · apply State.markLeaf_memOk
          with_reducible assumption
        · with_reducible assumption

theorem Ans.bind_memOk {α β : Type} (a : Ans α × State) (next : α → State → Ans β × State) (hm : MemOk a.2)
    (h1 : ∀ x s, MemOk s → MemOk (next x s).2) : MemOk (Ans.bind a next).2 := by
  unfold Ans.bind
  split
  · exact h1 _ _ hm
  · exact hm
  · exact hm

theorem State.checkGlobal_memOk (s : State) (w : Who) (r : Req) (hm : MemOk s) : MemOk (State.checkGlobal s w r).2 := by
  have ht := State.translate_memOk s w.core w.vf (r.formed % 2 ^ 56) hm
  unfold State.checkGlobal
  dsimp only
  split
  · exact hm
  split
  · exact hm
  split
  · exact hm
  split
  · split <;> exact hm
  split
  · rename_i he
    rw [he] at ht
    exact ht
  · rename_i he
    rw [he] at ht
    split
    · exact ht
    · split <;> exact ht

theorem State.check_memOk (s : State) (w : Who) (r : Req) (hm : MemOk s) : MemOk (State.check s w r).2 := by
  unfold State.check
  split
  · apply State.checkGlobal_memOk
    with_reducible assumption
  · with_reducible assumption

theorem State.checkEach_memOk (w : Who) (x1 : State) (x2 : List Req) (hm : MemOk x1) : MemOk (State.checkEach w x1 x2).2 := by
  induction x2 generalizing x1 <;> unfold State.checkEach
  · with_reducible assumption
  · dsimp only
    apply_assumption
    apply State.check_memOk
    with_reducible assumption

theorem State.fetchAt_memOk (s : State) (w : Who) (va : Nat) (hm : MemOk s) : MemOk (State.fetchAt s w va).2 := by
  have ht := State.translate_memOk s w.core w.vf va hm
  unfold State.fetchAt
  split
  · exact hm
  split
  · rename_i he
    rw [he] at ht
    exact ht
  · rename_i he
    rw [he] at ht
    dsimp only
    split
    · exact ht
    split
    · exact ht
    split
    · exact ht
    · exact State.markAccess_memOk _ _ _ _ ht

theorem State.dropRecord_memOk (s : State) (v : Nat) (n : Nat) (hm : MemOk s) : MemOk (State.dropRecord s v n) := by
  unfold State.dropRecord
  apply State.setField_memOk
  with_reducible assumption

theorem State.ringRecord_memOk (s : State) (v : Nat) (n : Nat) (bs : List Byte) (hm : MemOk s) : MemOk (State.ringRecord s v n bs).2 := by
  unfold State.ringRecord
  dsimp only
  split
  · split
    · dsimp only
      apply State.setField_memOk
      apply State.deviceStore_memOk
      with_reducible assumption
    · dsimp only
      apply State.dropRecord_memOk
      with_reducible assumption
  · dsimp only
    apply State.dropRecord_memOk
    with_reducible assumption

theorem State.traceRecord_memOk (s : State) (v : Nat) (core : Nat) (marker : Nat) (kind : Nat) (val : Nat) (hm : MemOk s) : MemOk (State.traceRecord s v core marker kind val) := by
  unfold State.traceRecord
  split
  · with_reducible assumption
  · split
    · apply State.dropRecord_memOk
      with_reducible assumption
    · dsimp only
      split
      · apply State.updCore_memOk
        apply State.ringRecord_memOk
        with_reducible assumption
      · apply State.ringRecord_memOk
        with_reducible assumption

theorem State.foldSlot_memOk (s : State) (sk : Nat) (hm : MemOk s) : MemOk (State.foldSlot s sk) := by
  unfold State.foldSlot
  dsimp only
  apply State.updSlot_memOk
  apply State.updStand_memOk
  with_reducible assumption

theorem State.noteSusp_memOk (s : State) (hm : MemOk s) : MemOk (State.noteSusp s) := by
  unfold State.noteSusp
  apply MemOk.lit
  with_reducible assumption

theorem State.countStall_memOk (s : State) (sk : Nat) (k : Nat) (hm : MemOk s) : MemOk (State.countStall s sk k) := by
  unfold State.countStall
  apply State.updSlot_memOk
  with_reducible assumption

theorem State.standRecord_memOk (s : State) (k : Nat) (hm : MemOk s) : MemOk (State.standRecord s k) := by
  unfold State.standRecord
  split
  · with_reducible assumption
  · split
    · with_reducible assumption
    · dsimp only
      apply State.ringRecord_memOk
      with_reducible assumption

theorem State.finishStop_memOk (s : State) (core : Nat) (q : Nat) (hm : MemOk s) : MemOk (State.finishStop s core q) := by
  unfold State.finishStop
  dsimp only
  split
  · with_reducible assumption
  · refine MemOk.foldl0 ?_ ?_
    · split
      · with_reducible assumption
      · apply State.deviceStore_memOk
        with_reducible assumption
    · intros
      apply State.traceRecord_memOk
      with_reducible assumption

theorem State.afterStop_memOk (s0 : State) (s : State) (hm : MemOk s) : MemOk (State.afterStop s0 s) := by
  unfold State.afterStop
  dsimp only
  split
  · apply State.finishStop_memOk
    with_reducible assumption
  · with_reducible assumption

theorem State.mapStand_memOk (s : State) (stand : Nat) (f : Nat → Thread → Thread) (hm : MemOk s) : MemOk (State.mapStand s stand f) := by
  unfold State.mapStand
  apply MemOk.lit
  with_reducible assumption

theorem State.arriveJoin_memOk (s : State) (stand : Nat) (member : Nat) (k : Nat) (hm : MemOk s) : MemOk (State.arriveJoin s stand member k) := by
  unfold State.arriveJoin
  apply State.mapStand_memOk
  with_reducible assumption

theorem State.leaveJoins_memOk (s : State) (stand : Nat) (member : Nat) (hm : MemOk s) : MemOk (State.leaveJoins s stand member) := by
  unfold State.leaveJoins
  apply State.mapStand_memOk
  with_reducible assumption

theorem State.completePhase_memOk (s : State) (stand : Nat) (b : Nat) (hm : MemOk s) : MemOk (State.completePhase s stand b) := by
  unfold State.completePhase
  dsimp only
  apply State.mapStand_memOk
  apply State.updStand_memOk
  with_reducible assumption

theorem State.testBarrier_memOk (s : State) (stand : Nat) (b : Nat) (hm : MemOk s) : MemOk (State.testBarrier s stand b) := by
  unfold State.testBarrier
  split
  · split
    · split
      · apply State.completePhase_memOk
        with_reducible assumption
      · with_reducible assumption
    · with_reducible assumption
  · with_reducible assumption

theorem State.setLinkRecord_memOk (s : State) (stand : Nat) (rcd : Nat) (exps : Nat) (arrs : Nat) (ph : Nat) (hm : MemOk s) : MemOk (State.setLinkRecord s stand rcd exps arrs ph) := by
  unfold State.setLinkRecord
  dsimp only
  apply State.perform_memOk
  with_reducible assumption

theorem State.linkStep_memOk (s : State) (stand : Nat) (b : Nat) (hm : MemOk s) : MemOk (State.linkStep s stand b) := by
  unfold State.linkStep
  split
  · with_reducible assumption
  · split
    · with_reducible assumption
    · split
      · with_reducible assumption
      · split
        · dsimp only
          apply State.updStand_memOk
          apply State.setLinkRecord_memOk
          with_reducible assumption
        · split
          · apply State.completePhase_memOk
            with_reducible assumption
          · with_reducible assumption

theorem State.withdrawLink_memOk (s : State) (stand : Nat) (b : Nat) (hm : MemOk s) : MemOk (State.withdrawLink s stand b) := by
  unfold State.withdrawLink
  split
  · with_reducible assumption
  · split
    · with_reducible assumption
    · split
      · with_reducible assumption
      · dsimp only
        apply State.setLinkRecord_memOk
        with_reducible assumption

theorem State.lowerExp_memOk (s : State) (stand : Nat) (stage : Nat) (crew : Nat) (hm : MemOk s) : MemOk (State.lowerExp s stand stage crew) := by
  unfold State.lowerExp
  dsimp only
  refine MemOk.foldl0 ?_ ?_
  · apply State.updStand_memOk
    with_reducible assumption
  · intros
    apply State.testBarrier_memOk
    with_reducible assumption

theorem State.dcCommit_memOk (s : State) (stand : Nat) (q : Nat × Nat) (hm : MemOk s) : MemOk (State.dcCommit s stand q) := by
  unfold State.dcCommit
  split
  · with_reducible assumption
  · dsimp only
    apply State.updStand_memOk
    refine MemOk.foldl0 ?_ ?_
    · with_reducible assumption
    · intros
      apply State.perform_memOk
      with_reducible assumption

theorem State.dcCommitAll_memOk (s : State) (stand : Nat) (x1 : Nat) (hm : MemOk s) : MemOk (State.dcCommitAll s stand x1) := by
  fun_induction State.dcCommitAll s stand x1
  · with_reducible assumption
  · apply_assumption
    apply State.dcCommit_memOk
    with_reducible assumption
  · with_reducible assumption
  · with_reducible assumption

theorem State.freeSlot_memOk (s : State) (sk : Nat) (hm : MemOk s) : MemOk (State.freeSlot s sk) := by
  unfold State.freeSlot
  apply State.updSlot_memOk
  apply State.foldSlot_memOk
  with_reducible assumption

theorem State.dropLane_memOk (s : State) (thread : Nat) (hm : MemOk s) : MemOk (State.dropLane s thread) := by
  unfold State.dropLane
  split
  · with_reducible assumption
  · dsimp only
    split
    · apply State.freeSlot_memOk
      apply State.updSlot_memOk
      with_reducible assumption
    · apply State.updSlot_memOk
      with_reducible assumption

theorem State.freeSlots_memOk (s : State) (stand : Nat) (hm : MemOk s) : MemOk (State.freeSlots s stand) := by
  unfold State.freeSlots
  refine MemOk.foldl0 ?_ ?_
  · with_reducible assumption
  · intros
    apply State.freeSlot_memOk
    with_reducible assumption

theorem State.releaseStand_memOk (s : State) (stand : Nat) (hm : MemOk s) : MemOk (State.releaseStand s stand) := by
  unfold State.releaseStand
  dsimp only
  apply MemOk.lit
  apply State.freeSlots_memOk
  with_reducible assumption

theorem State.addExitLabel_memOk (s : State) (stand : Nat) (l : Label) (hm : MemOk s) : MemOk (State.addExitLabel s stand l) := by
  unfold State.addExitLabel
  apply MemOk.lit
  with_reducible assumption

theorem State.standExit_memOk (s : State) (stand : Nat) (hm : MemOk s) : MemOk (State.standExit s stand) := by
  unfold State.standExit
  split
  · with_reducible assumption
  · dsimp only
    apply State.releaseStand_memOk
    apply State.traceRecord_memOk
    apply State.standRecord_memOk
    apply State.updStand_memOk
    apply State.freeSlots_memOk
    refine MemOk.foldl0 ?_ ?_
    · apply State.dcCommitAll_memOk
      with_reducible assumption
    · intros
      apply State.withdrawLink_memOk
      with_reducible assumption

theorem State.exitThread_memOk (s : State) (key : Nat) (hm : MemOk s) : MemOk (State.exitThread s key) := by
  unfold State.exitThread
  dsimp only
  split
  · apply State.lowerExp_memOk
    apply State.dropLane_memOk
    apply State.leaveJoins_memOk
    apply State.updThread_memOk
    apply State.addExitLabel_memOk
    with_reducible assumption
  · apply State.standExit_memOk
    apply State.lowerExp_memOk
    apply State.dropLane_memOk
    apply State.leaveJoins_memOk
    apply State.updThread_memOk
    apply State.addExitLabel_memOk
    with_reducible assumption

theorem State.tearGrid_memOk (s : State) (g : Nat) (hm : MemOk s) : MemOk (State.tearGrid s g) := by
  unfold State.tearGrid
  refine MemOk.foldl0 ?_ ?_
  · with_reducible assumption
  · intros
    apply State.releaseStand_memOk
    apply State.addExitLabel_memOk
    with_reducible assumption

theorem State.failOne_memOk (s : State) (g : Nat) (f : Failure) (hm : MemOk s) : MemOk (State.failOne s g f) := by
  unfold State.failOne
  split
  · split
    · with_reducible assumption
    · split
      · split
        · apply MemOk.lit
          with_reducible assumption
        · with_reducible assumption
      · dsimp only
        apply MemOk.lit
        apply State.tearGrid_memOk
        with_reducible assumption
  · with_reducible assumption

theorem State.failGrid_memOk (s : State) (g : Nat) (f : Failure) (hm : MemOk s) : MemOk (State.failGrid s g f) := by
  unfold State.failGrid
  dsimp only
  refine MemOk.foldl0 ?_ ?_
  · apply State.failOne_memOk
    with_reducible assumption
  · intros
    apply State.failOne_memOk
    with_reducible assumption

theorem State.dropHandler_memOk (s : State) (v : Nat) (hm : MemOk s) : MemOk (State.dropHandler s v) := by
  unfold State.dropHandler
  dsimp only
  apply State.setField_memOk
  apply State.updFunction_memOk
  apply MemOk.lit
  apply State.releaseStand_memOk
  with_reducible assumption

theorem State.failStandAt_memOk (s : State) (stand : Nat) (code : Byte) (rcd : Option Nat) (due : Bool) (arrival : Nat) (hm : MemOk s) : MemOk (State.failStandAt s stand code rcd due arrival) := by
  unfold State.failStandAt
  split
  · apply State.logError_memOk
    apply State.updThread_memOk
    with_reducible assumption
  · split
    · apply State.dropHandler_memOk
      with_reducible assumption
    · apply State.failGrid_memOk
      with_reducible assumption

theorem State.failStand_memOk (s : State) (stand : Nat) (code : Byte) (rcd : Option Nat) (due : Bool) (hm : MemOk s) : MemOk (State.failStand s stand code rcd due) := by
  unfold State.failStand
  apply State.failStandAt_memOk
  with_reducible assumption

end Sys2Proof.Machine
end

