-- ==== Sys2Proof/Laws/CanonicalLanes.lean ====
section
/-!
SUPPORT. The canonical form of memory is kept: supervisor entry, lane checks and the memory family.
-/

namespace Sys2Proof.Machine

theorem State.noteRead_memOk (s : State) (a : Agent) (pa : Nat) (n : Nat) (hm : MemOk s) : MemOk (State.noteRead s a pa n) := by
  unfold State.noteRead
  split
  · with_reducible assumption
  · apply State.logIgnored_memOk
    with_reducible assumption

theorem State.postWrites_memOk (s : State) (ws : List RegWrite) (hm : MemOk s) : MemOk (State.postWrites s ws) := by
  unfold State.postWrites
  dsimp only
  apply MemOk.lit
  with_reducible assumption

theorem State.postWrite_memOk (s : State) (w : RegWrite) (hm : MemOk s) : MemOk (State.postWrite s w) := by
  unfold State.postWrite
  apply State.postWrites_memOk
  with_reducible assumption

theorem State.deviceWrite_memOk (s : State) (a : Agent) (pa : Nat) (bs : List Byte) (lab : Label) (hm : MemOk s) : MemOk (State.deviceWrite s a pa bs lab) := by
  unfold State.deviceWrite
  split
  · apply State.logIgnored_memOk
    with_reducible assumption
  · apply State.postWrites_memOk
    with_reducible assumption

theorem checkLanes_memOk {α : Type} (chk : State → Nat → Ans α × State) (x1 : State) (x2 : List Nat) (hm : MemOk x1) (h1 : ∀ v0 v1, MemOk v0 → MemOk (chk v0 v1).2) : MemOk (checkLanes chk x1 x2).2 := by
  fun_induction checkLanes chk x1 x2
  · with_reducible assumption
  · dsimp only
    apply_assumption
    apply_assumption
    with_reducible assumption

theorem State.settleLanes_memOk {α : Type} (s : State) (r : List (Nat × Ans α) × State)
    (act : State → List (Nat × α) → State × List Nat) (hr : MemOk r.2) (h1 : ∀ v0 v1, MemOk v0 → MemOk (act v0 v1).1) :
    MemOk (State.settleLanes s r act) := by
  have hp : MemOk (r.2.afterStop (r.2.park (badLanes r.1))) := State.afterStop_memOk _ _ (State.park_memOk _ _ hr)
  unfold State.settleLanes
  dsimp only
  split
  · exact State.hold_memOk _ _ hp
  · apply State.advance_memOk
    split
    · exact hp
    · exact h1 _ _ hp

theorem State.eachLaneStay_memOk {α : Type} (s : State) (ex : List Nat) (chk : State → Nat → Ans α × State) (act : State → List (Nat × α) → State × List Nat) (hm : MemOk s) (h1 : ∀ v0 v1, MemOk v0 → MemOk (chk v0 v1).2) (h2 : ∀ v0 v1, MemOk v0 → MemOk (act v0 v1).1) : MemOk (State.eachLaneStay s ex chk act) := by
  unfold State.eachLaneStay
  apply State.settleLanes_memOk
  · apply checkLanes_memOk
    · with_reducible assumption
    · intros
      apply_assumption
      with_reducible assumption
  · intros
    apply_assumption
    with_reducible assumption

theorem State.eachLane_memOk {α : Type} (s : State) (ex : List Nat) (chk : State → Nat → Ans α × State) (act : State → List (Nat × α) → State) (hm : MemOk s) (h1 : ∀ v0 v1, MemOk v0 → MemOk (chk v0 v1).2) (h2 : ∀ v0 v1, MemOk v0 → MemOk (act v0 v1)) : MemOk (State.eachLane s ex chk act) := by
  unfold State.eachLane
  apply State.eachLaneStay_memOk
  · with_reducible assumption
  · intros
    apply_assumption
    with_reducible assumption
  · intros
    dsimp only
    apply_assumption
    with_reducible assumption

theorem State.raiseOnly_memOk (gp : BitVec 3) (srcs : List Src) (s : State) (l : Nat) (hm : MemOk s) : MemOk (State.raiseOnly gp srcs s l).2 := by
  unfold State.raiseOnly
  split
  · with_reducible assumption
  · with_reducible assumption

theorem State.afterRaise_memOk {α : Type} (gp : BitVec 3) (srcs : List Src) (chk : State → Nat → Ans α × State) (s : State) (l : Nat) (hm : MemOk s) (h1 : ∀ v0 v1, MemOk v0 → MemOk (chk v0 v1).2) : MemOk (State.afterRaise gp srcs chk s l).2 := by
  unfold State.afterRaise
  split
  · with_reducible assumption
  · apply_assumption
    with_reducible assumption

theorem Ans.relabel_memOk {α : Type} (lab : Label) (a : Ans α × State) (hm : MemOk a.2) : MemOk (Ans.relabel lab a).2 := hm

theorem State.performWindow_memOk (s : State) (v : Nat) (sset : Nat) (wrc : Nat) (pa : Nat) (bs : List Byte) (lab : Label) (hm : MemOk s) : MemOk (State.performWindow s v sset wrc pa bs lab) := by
  unfold State.performWindow
  refine MemOk.foldl0 ?_ ?_
  · with_reducible assumption
  · intros
    apply State.perform_memOk
    with_reducible assumption

theorem State.tagWindow_memOk (s : State) (v : Nat) (sset : Nat) (wrc : Nat) (pa : Nat) (tag : Nat) (lab : Label) (hm : MemOk s) : MemOk (State.tagWindow s v sset wrc pa tag lab) := by
  unfold State.tagWindow
  refine MemOk.foldl0 ?_ ?_
  · with_reducible assumption
  · intros
    dsimp only
    apply State.raiseLabel_memOk
    apply State.setTagAt_memOk
    with_reducible assumption

theorem State.raiseWindow_memOk (s : State) (v : Nat) (sset : Nat) (wrc : Nat) (pa : Nat) (lab : Label) (hm : MemOk s) : MemOk (State.raiseWindow s v sset wrc pa lab) := by
  unfold State.raiseWindow
  refine MemOk.foldl0 ?_ ?_
  · with_reducible assumption
  · intros
    apply State.raiseLabel_memOk
    with_reducible assumption

theorem State.applyWindow_memOk (s : State) (v : Nat) (sset : Nat) (wrc : Nat) (pa : Nat) (bs : List Byte) (tag : Option Nat) (lab : Label) (hm : MemOk s) : MemOk (State.applyWindow s v sset wrc pa bs tag lab) := by
  unfold State.applyWindow
  split
  · apply State.tagWindow_memOk
    with_reducible assumption
  · split
    · apply State.raiseWindow_memOk
      with_reducible assumption
    · apply State.performWindow_memOk
      with_reducible assumption

theorem State.lapOne_memOk (s : State) (cluster : Nat) (hm : MemOk s) : MemOk (State.lapOne s cluster) := by
  unfold State.lapOne
  split
  · with_reducible assumption
  · dsimp only
    split
    · apply State.failStand_memOk
      apply State.updThread_memOk
      apply MemOk.lit
      with_reducible assumption
    · apply State.applyWindow_memOk
      apply State.updThread_memOk
      apply MemOk.lit
      with_reducible assumption

theorem State.lapAll_memOk (s : State) (cluster : Nat) (hm : MemOk s) : MemOk (State.lapAll s cluster) := by
  unfold State.lapAll
  refine MemOk.foldl0 ?_ ?_
  · with_reducible assumption
  · intros
    apply State.lapOne_memOk
    with_reducible assumption

theorem State.performStore_memOk (s : State) (stand : Nat) (nc : Bool) (e : StoreEnt) (hm : MemOk s) : MemOk (State.performStore s stand nc e) := by
  unfold State.performStore
  dsimp only
  split
  · with_reducible assumption
  · split
    · apply State.failStand_memOk
      with_reducible assumption
    · split
      · apply State.applyWindow_memOk
        apply State.lapAll_memOk
        with_reducible assumption
      · apply State.perform_memOk
        with_reducible assumption

theorem State.drainOne_memOk (s : State) (thread : Nat) (hm : MemOk s) : MemOk (State.drainOne s thread) := by
  unfold State.drainOne
  dsimp only
  split
  · with_reducible assumption
  · split
    · apply State.lapAll_memOk
      with_reducible assumption
    · apply State.performStore_memOk
      apply State.updThread_memOk
      with_reducible assumption

theorem State.sendOne_memOk (s : State) (thread : Nat) (hm : MemOk s) : MemOk (State.sendOne s thread) := by
  unfold State.sendOne
  dsimp only
  split
  · with_reducible assumption
  · split
    · split
      · with_reducible assumption
      · apply MemOk.lit
        apply State.updThread_memOk
        with_reducible assumption
    · apply State.drainOne_memOk
      with_reducible assumption

theorem State.drainQ_memOk (s : State) (thread : Nat) (hm : MemOk s) : MemOk (State.drainQ s thread) := by
  unfold State.drainQ
  refine MemOk.foldl0 ?_ ?_
  · with_reducible assumption
  · intros
    apply State.drainOne_memOk
    with_reducible assumption

theorem State.drainLanes_memOk (s : State) (ls : List Nat) (hm : MemOk s) : MemOk (State.drainLanes s ls) := by
  unfold State.drainLanes
  refine MemOk.foldl0 ?_ ?_
  · with_reducible assumption
  · intros
    apply State.drainQ_memOk
    with_reducible assumption

theorem State.laneCheck_memOk (req : Thread → Req) (addr : List Src) (s : State) (l : Nat) (hm : MemOk s) : MemOk (State.laneCheck req addr s l).2 := by
  unfold State.laneCheck
  dsimp only
  apply State.check_memOk
  split
  · apply State.drainQ_memOk
    with_reducible assumption
  · with_reducible assumption

theorem State.enqueue_memOk (s : State) (thread : Nat) (e : StoreEnt) (hm : MemOk s) : MemOk (State.enqueue s thread e) := by
  unfold State.enqueue
  apply State.updThread_memOk
  with_reducible assumption

theorem State.loadMem_memOk (s0 : State) (w : Who) (t : Target) (n : Nat) (th : Thread) (hm : MemOk s0) : MemOk (State.loadMem s0 w t n th).2 := by
  unfold State.loadMem
  dsimp only
  apply State.performRead_memOk
  split
  · with_reducible assumption
  · apply State.drainQ_memOk
    with_reducible assumption

theorem State.loadAt_memOk (s : State) (w : Who) (t : Target) (n : Nat) (hm : MemOk s) : MemOk (State.loadAt s w t n).2 := by
  unfold State.loadAt
  dsimp only
  split
  · split
    · dsimp only
      apply State.noteRead_memOk
      apply State.drainQ_memOk
      split
      · apply State.markAccess_memOk
        with_reducible assumption
      · with_reducible assumption
    · apply State.loadMem_memOk
      split
      · apply State.markAccess_memOk
        with_reducible assumption
      · with_reducible assumption
  · apply State.loadMem_memOk
    split
    · apply State.markAccess_memOk
      with_reducible assumption
    · with_reducible assumption

theorem State.setShadow_memOk (s : State) (w : Who) (l : Loc) (n : Nat) (hm : MemOk s) : MemOk (State.setShadow s w l n) := by
  unfold State.setShadow
  split
  · with_reducible assumption
  · apply State.updStand_memOk
    with_reducible assumption

theorem State.unlessBad_memOk (s : State) (w : Who) (l : Loc) (n : Nat) (k : State → State) (hm : MemOk s) (h1 : ∀ v0, MemOk v0 → MemOk (k v0)) : MemOk (State.unlessBad s w l n k) := by
  unfold State.unlessBad
  split
  · apply State.failStand_memOk
    with_reducible assumption
  · apply_assumption
    with_reducible assumption

theorem State.makePoison_memOk (s : State) (l : Nat) (f : Flt) (wload : Bool) (hm : MemOk s) : MemOk (State.makePoison s l f wload).2 := by
  unfold State.makePoison
  dsimp only
  apply State.updLane_memOk
  with_reducible assumption

theorem State.ldCheck_memOk (f : MFmt) (spec : Bool) (s : State) (l : Nat) (hm : MemOk s) : MemOk (State.ldCheck f spec s l).2 := by
  unfold State.ldCheck
  dsimp only
  split
  · with_reducible assumption
  · with_reducible assumption
  · split
    · split
      · dsimp only
        apply State.laneCheck_memOk
        with_reducible assumption
      · dsimp only
        apply State.laneCheck_memOk
        with_reducible assumption
    · dsimp only
      apply State.laneCheck_memOk
      with_reducible assumption
    · split
      · dsimp only
        apply State.laneCheck_memOk
        with_reducible assumption
      · split
        · dsimp only
          apply State.laneCheck_memOk
          with_reducible assumption
        · dsimp only
          apply State.laneCheck_memOk
          with_reducible assumption

theorem State.ldAct_memOk (f : MFmt) (s : State) (x1 : List (Nat × LdAns)) (hm : MemOk s) : MemOk (State.ldAct f s x1).2.2 := by
  induction x1 generalizing s <;> unfold State.ldAct
  · with_reducible assumption
  · dsimp only
    apply_assumption
    split
    · with_reducible assumption
    · dsimp only
      apply State.makePoison_memOk
      with_reducible assumption
    · split
      · dsimp only
        apply State.failStand_memOk
        with_reducible assumption
      · dsimp only
        apply State.loadAt_memOk
        with_reducible assumption

theorem State.runLd_memOk (s : State) (f : MFmt) (spec : Bool) (hm : MemOk s) : MemOk (State.runLd s f spec) := by
  unfold State.runLd
  dsimp only
  apply State.issue_memOk
  · with_reducible assumption
  · intros
    apply State.eachLane_memOk
    · with_reducible assumption
    · intros
      apply State.ldCheck_memOk
      with_reducible assumption
    · intros
      apply State.commit_memOk
      apply State.ldAct_memOk
      with_reducible assumption

theorem execLd_memOk (f : MFmt) (s : State) (hm : MemOk s) : OutOk (execLd f s) := by
  unfold execLd
  show MemOk _
  apply State.runLd_memOk
  with_reducible assumption

theorem execLdS_memOk (f : MFmt) (s : State) (hm : MemOk s) : OutOk (execLdS f s) := by
  unfold execLdS
  show MemOk _
  apply State.runLd_memOk
  with_reducible assumption

theorem State.dcPush_memOk (s : State) (w : Who) (loc : Loc) (bs : List Byte) (lab : Label) (hm : MemOk s) : MemOk (State.dcPush s w loc bs lab) := by
  unfold State.dcPush
  dsimp only
  apply State.updThread_memOk
  apply State.updStand_memOk
  with_reducible assumption

theorem State.dcStore_memOk (s : State) (w : Who) (tg : Target) (pieces : List (Loc × List Byte)) (lab : Label) (hm : MemOk s) : MemOk (State.dcStore s w tg pieces lab) := by
  unfold State.dcStore
  dsimp only
  refine MemOk.foldl0 ?_ ?_
  · apply MemOk.lit
    with_reducible assumption
  · intros
    apply State.dcPush_memOk
    with_reducible assumption

theorem State.storeAt_memOk (s : State) (w : Who) (tg : Target) (bs : List Byte) (lab : Label) (slot : Nat) (hm : MemOk s) : MemOk (State.storeAt s w tg bs lab slot) := by
  unfold State.storeAt
  dsimp only
  split
  · apply State.dcStore_memOk
    split
    · apply State.markAccess_memOk
      with_reducible assumption
    · with_reducible assumption
  · split
    · split
      · apply State.deviceWrite_memOk
        apply State.drainQ_memOk
        split
        · apply State.markAccess_memOk
          with_reducible assumption
        · with_reducible assumption
      · split
        · refine MemOk.foldl0 ?_ ?_
          · apply State.drainQ_memOk
            split
            · apply State.markAccess_memOk
              with_reducible assumption
            · with_reducible assumption
          · intros
            apply State.performStore_memOk
            with_reducible assumption
        · refine MemOk.foldl0 ?_ ?_
          · split
            · apply State.markAccess_memOk
              with_reducible assumption
            · with_reducible assumption
          · intros
            apply State.enqueue_memOk
            with_reducible assumption
    · refine MemOk.foldl0 ?_ ?_
      · split
        · apply State.markAccess_memOk
          with_reducible assumption
        · with_reducible assumption
      · intros
        apply State.enqueue_memOk
        with_reducible assumption

theorem State.stCheck_memOk (f : MFmt) (x1 : State) (x2 : Nat) (hm : MemOk x1) : MemOk (State.stCheck f x1 x2).2 := by
  unfold State.stCheck
  apply State.afterRaise_memOk
  · with_reducible assumption
  · intros
    dsimp only
    split
    · dsimp only
      apply State.laneCheck_memOk
      with_reducible assumption
    · dsimp only
      apply State.laneCheck_memOk
      with_reducible assumption

theorem State.stVerdicts_memOk (s : State) (f : MFmt) (ex : List Nat) (hm : MemOk s) : MemOk (State.stVerdicts s f ex).2 := by
  unfold State.stVerdicts
  dsimp only
  apply checkLanes_memOk
  · with_reducible assumption
  · intros
    apply State.stCheck_memOk
    with_reducible assumption

theorem State.stLane_memOk (f : MFmt) (s : State) (p : Nat × Target) (hm : MemOk s) : MemOk (State.stLane f s p) := by
  unfold State.stLane
  dsimp only
  apply State.storeAt_memOk
  split
  · apply State.setShadow_memOk
    with_reducible assumption
  · with_reducible assumption

theorem State.stAct_memOk (f : MFmt) (s : State) (goods : List (Nat × Target)) (hm : MemOk s) : MemOk (State.stAct f s goods) := by
  unfold State.stAct
  apply State.drainLanes_memOk
  refine MemOk.foldl0 ?_ ?_
  · with_reducible assumption
  · intros
    apply State.stLane_memOk
    with_reducible assumption

theorem execSt_memOk (f : MFmt) (s : State) (hm : MemOk s) : OutOk (execSt f s) := by
  unfold execSt
  show MemOk _
  apply State.issue_memOk
  · with_reducible assumption
  · intros
    apply State.settleLanes_memOk
    · apply State.stVerdicts_memOk
      with_reducible assumption
    · intros
      dsimp only
      apply State.stAct_memOk
      with_reducible assumption

theorem State.atomCheck_memOk (s : State) (r : Req) (addr : List Src) (l : Nat) (hm : MemOk s) : MemOk (State.atomCheck s r addr l).2 := by
  unfold State.atomCheck
  dsimp only
  split
  · dsimp only
    apply State.laneCheck_memOk
    with_reducible assumption
  · dsimp only
    apply State.laneCheck_memOk
    with_reducible assumption

theorem State.touch_memOk (s : State) (w : Who) (tg : Target) (write : Bool) (hm : MemOk s) : MemOk (State.touch s w tg write) := by
  unfold State.touch
  split
  · apply State.markAccess_memOk
    with_reducible assumption
  · with_reducible assumption

theorem State.atomAt_memOk (s : State) (w : Who) (tg : Target) (n : Nat) (new : Nat → Option Nat) (lab : Label) (hm : MemOk s) : MemOk (State.atomAt s w tg n new lab).2 := by
  unfold State.atomAt
  dsimp only
  split
  · dsimp only
    apply State.setShadow_memOk
    apply State.perform_memOk
    apply State.touch_memOk
    apply State.performRead_memOk
    apply State.touch_memOk
    apply State.drainQ_memOk
    with_reducible assumption
  · dsimp only
    apply State.performRead_memOk
    apply State.touch_memOk
    apply State.drainQ_memOk
    with_reducible assumption

theorem State.atomLanes_memOk (n : Nat) (new : Thread → Nat → Option Nat) (gp : BitVec 3) (srcs : List Src) (s : State) (x1 : List (Nat × Target)) (hm : MemOk s) : MemOk (State.atomLanes n new gp srcs s x1).2.2 := by
  induction x1 generalizing s <;> unfold State.atomLanes
  · with_reducible assumption
  · dsimp only
    apply_assumption
    split
    · dsimp only
      apply State.failStand_memOk
      with_reducible assumption
    · apply State.atomAt_memOk
      with_reducible assumption

theorem State.atomicCheck_memOk (f : MFmt) (bRegs : Nat) (x1 : State) (x2 : Nat) (hm : MemOk x1) : MemOk (State.atomicCheck f bRegs x1 x2).2 := by
  unfold State.atomicCheck
  apply State.afterRaise_memOk
  · with_reducible assumption
  · intros
    apply State.atomCheck_memOk
    with_reducible assumption

theorem State.runAtom_memOk (s : State) (f : MFmt) (bad : Option Flt) (bRegs : Nat) (dsts : List Dst) (new : Thread → Nat → Option Nat) (hm : MemOk s) : MemOk (State.runAtom s f bad bRegs dsts new) := by
  unfold State.runAtom
  dsimp only
  apply State.issue_memOk
  · with_reducible assumption
  · intros
    apply State.eachLane_memOk
    · with_reducible assumption
    · intros
      apply State.atomicCheck_memOk
      with_reducible assumption
    · intros
      split
      · apply State.atomLanes_memOk
        with_reducible assumption
      · apply State.commit_memOk
        apply State.atomLanes_memOk
        with_reducible assumption

theorem execAtom_memOk (f : MFmt) (s : State) (hm : MemOk s) : OutOk (execAtom f s) := by
  unfold execAtom
  dsimp only
  show MemOk _
  apply State.runAtom_memOk
  with_reducible assumption

theorem execAtomc_memOk (f : MFmt) (s : State) (hm : MemOk s) : OutOk (execAtomc f s) := by
  unfold execAtomc
  dsimp only
  show MemOk _
  apply State.runAtom_memOk
  with_reducible assumption

theorem execRed_memOk (f : MFmt) (s : State) (hm : MemOk s) : OutOk (execRed f s) := by
  unfold execRed
  dsimp only
  show MemOk _
  apply State.runAtom_memOk
  with_reducible assumption

theorem execFence_memOk (f : MFmt) (s : State) (hm : MemOk s) : OutOk (execFence f s) := by
  unfold execFence
  show MemOk _
  apply State.issue_memOk
  · with_reducible assumption
  · intros
    apply State.eachLane_memOk
    · with_reducible assumption
    · intros
      apply State.raiseOnly_memOk
      with_reducible assumption
    · intros
      split
      · apply State.drainLanes_memOk
        with_reducible assumption
      · with_reducible assumption

theorem State.prefetch_memOk (s : State) (core : Nat) (var : Nat) (line : Nat) (hm : MemOk s) : MemOk (State.prefetch s core var line) := by
  unfold State.prefetch
  dsimp only
  split
  · split
    · split
      · apply State.fillL1_memOk
        with_reducible assumption
      · apply State.fillL1_memOk
        split
        · apply flumeUpg_memOk
          apply State.keepBacking_memOk
          with_reducible assumption
        · apply flumeRdX_memOk
          apply State.keepBacking_memOk
          with_reducible assumption
    · split
      · split
        · with_reducible assumption
        · apply flumeRdS_memOk
          with_reducible assumption
      · apply cachedRead_memOk
        with_reducible assumption
  · with_reducible assumption

theorem State.evictL1_memOk (s : State) (core : Nat) (line : Nat) (hm : MemOk s) : MemOk (State.evictL1 s core line) := by
  unfold State.evictL1
  apply MemOk.lit
  with_reducible assumption

theorem State.evict_memOk (s : State) (c : Nat) (line : Nat) (hm : MemOk s) : MemOk (State.evict s c line) := by
  unfold State.evict
  split
  · apply flumeWb_memOk
    with_reducible assumption
  · apply flumeWb_memOk
    with_reducible assumption
  · apply State.setMoesi_memOk
    with_reducible assumption
  · with_reducible assumption

theorem State.hinted_memOk (s : State) (f : MFmt) (ex : List Nat) (act : State → Nat → State) (hm : MemOk s) (h1 : ∀ v0 v1, MemOk v0 → MemOk (act v0 v1)) : MemOk (State.hinted s f ex act) := by
  unfold State.hinted
  refine MemOk.foldl0 ?_ ?_
  · with_reducible assumption
  · intros
    split
    · apply_assumption
      with_reducible assumption
    · with_reducible assumption

theorem execPref_memOk (f : MFmt) (s : State) (hm : MemOk s) : OutOk (execPref f s) := by
  unfold execPref
  show MemOk _
  apply State.issue_memOk
  · with_reducible assumption
  · intros
    apply State.advance_memOk
    apply State.hinted_memOk
    · with_reducible assumption
    · intros
      apply State.prefetch_memOk
      with_reducible assumption

theorem execEvict_memOk (f : MFmt) (s : State) (hm : MemOk s) : OutOk (execEvict f s) := by
  unfold execEvict
  show MemOk _
  apply State.issue_memOk
  · with_reducible assumption
  · intros
    apply State.advance_memOk
    apply State.hinted_memOk
    · with_reducible assumption
    · intros
      split
      · apply State.evict_memOk
        with_reducible assumption
      · apply State.evictL1_memOk
        with_reducible assumption

theorem State.checkSpans_memOk (w : Who) (s : State) (rs : List Req) (hm : MemOk s) : MemOk (State.checkSpans w s rs).2 := by
  unfold State.checkSpans
  dsimp only
  apply State.checkEach_memOk
  with_reducible assumption

theorem State.markTarget_memOk (s : State) (w : Who) (tg : Target) (tag : Option Nat) (lab : Label) (hm : MemOk s) : MemOk (State.markTarget s w tg tag lab) := by
  unfold State.markTarget
  dsimp only
  split
  · apply State.enqueue_memOk
    apply State.touch_memOk
    with_reducible assumption
  · apply State.raiseLabel_memOk
    split
    · apply State.setTagOf_memOk
      apply State.drainQ_memOk
      apply State.touch_memOk
      with_reducible assumption
    · apply State.drainQ_memOk
      apply State.touch_memOk
      with_reducible assumption

theorem State.tagsetCheck_memOk (f : MFmt) (x1 : State) (x2 : Nat) (hm : MemOk x1) : MemOk (State.tagsetCheck f x1 x2).2 := by
  unfold State.tagsetCheck
  apply State.afterRaise_memOk
  · with_reducible assumption
  · intros
    dsimp only
    apply State.checkSpans_memOk
    with_reducible assumption

theorem State.orWait_memOk (w : Who) (c : Ans Target × State) (g0 : MemOk c.2) : MemOk (State.orWait w c).2 := by
  unfold State.orWait
  split
  · split
    · with_reducible assumption
    · with_reducible assumption
  · with_reducible assumption
  · with_reducible assumption

theorem State.byteLanes_memOk (out : State → Target → Label → Nat) (s : State) (x1 : List (Nat × (Word ⊕ Target))) (hm : MemOk s) : MemOk (State.byteLanes out s x1).2.2 := by
  induction x1 generalizing s <;> unfold State.byteLanes
  · with_reducible assumption
  · dsimp only
    apply_assumption
    split
    · with_reducible assumption
    · split
      · dsimp only
        apply State.failStand_memOk
        with_reducible assumption
      · dsimp only
        apply State.loadAt_memOk
        with_reducible assumption

theorem execTagset_memOk (f : MFmt) (s : State) (hm : MemOk s) : OutOk (execTagset f s) := by
  unfold execTagset
  show MemOk _
  apply State.issue_memOk
  · with_reducible assumption
  · intros
    apply State.eachLane_memOk
    · with_reducible assumption
    · intros
      apply State.tagsetCheck_memOk
      with_reducible assumption
    · intros
      refine MemOk.foldl0 ?_ ?_
      · with_reducible assumption
      · intros
        dsimp only
        refine MemOk.foldl0 ?_ ?_
        · with_reducible assumption
        · intros
          apply State.markTarget_memOk
          with_reducible assumption

theorem State.taggetCheck_memOk (f : MFmt) (s : State) (l : Nat) (hm : MemOk s) : MemOk (State.taggetCheck f s l).2 := by
  unfold State.taggetCheck
  split
  · with_reducible assumption
  · dsimp only
    split
    · split
      · dsimp only
        apply State.laneCheck_memOk
        with_reducible assumption
      · apply State.orWait_memOk
        apply State.laneCheck_memOk
        with_reducible assumption
    · apply State.orWait_memOk
      apply State.laneCheck_memOk
      with_reducible assumption

theorem execTagget_memOk (f : MFmt) (s : State) (hm : MemOk s) : OutOk (execTagget f s) := by
  unfold execTagget
  dsimp only
  show MemOk _
  apply State.issue_memOk
  · with_reducible assumption
  · intros
    apply State.eachLane_memOk
    · with_reducible assumption
    · intros
      apply State.taggetCheck_memOk
      with_reducible assumption
    · intros
      apply State.commit_memOk
      apply State.byteLanes_memOk
      with_reducible assumption

theorem State.bcstDest_memOk (w : Who) (r : Req) (s : State) (hm : MemOk s) : MemOk (State.bcstDest w r s).2 := by
  unfold State.bcstDest
  apply Ans.bind_memOk
  · apply State.checkGlobal_memOk
    with_reducible assumption
  · intros
    apply Ans.bind_memOk
    · with_reducible assumption
    · intros
      apply State.checkGlobal_memOk
      with_reducible assumption

theorem State.bcstCheck_memOk (f : MFmt) (s : State) (l : Nat) (hm : MemOk s) : MemOk (State.bcstCheck f s l).2 := by
  unfold State.bcstCheck
  apply Ans.bind_memOk
  · apply Ans.relabel_memOk
    apply State.checkSpans_memOk
    with_reducible assumption
  · intros
    apply Ans.relabel_memOk
    apply Ans.bind_memOk
    · apply State.bcstDest_memOk
      with_reducible assumption
    · intros
      with_reducible assumption

theorem execBcst_memOk (f : MFmt) (s : State) (hm : MemOk s) : OutOk (execBcst f s) := by
  unfold execBcst
  dsimp only
  show MemOk _
  apply State.issue_memOk
  · with_reducible assumption
  · intros
    apply State.eachLane_memOk
    · with_reducible assumption
    · intros
      apply State.afterRaise_memOk
      · with_reducible assumption
      · intros
        apply State.bcstCheck_memOk
        with_reducible assumption
    · intros
      refine MemOk.foldl0 ?_ ?_
      · with_reducible assumption
      · intros
        split
        · with_reducible assumption
        · split
          · apply State.failStand_memOk
            with_reducible assumption
          · apply State.enqueue_memOk
            apply State.touch_memOk
            apply State.loadAt_memOk
            with_reducible assumption

theorem State.presCheck_memOk (f : MFmt) (x1 : State) (x2 : Nat) (hm : MemOk x1) : MemOk (State.presCheck f x1 x2).2 := by
  unfold State.presCheck
  apply State.afterRaise_memOk
  · with_reducible assumption
  · intros
    dsimp only
    split
    · split
      · split
        · dsimp only
          apply State.check_memOk
          with_reducible assumption
        · dsimp only
          apply State.check_memOk
          with_reducible assumption
      · dsimp only
        apply State.check_memOk
        with_reducible assumption
    · dsimp only
      apply State.check_memOk
      with_reducible assumption

theorem State.runPresence_memOk (s : State) (f : MFmt) (set : Bool) (hm : MemOk s) : MemOk (State.runPresence s f set) := by
  unfold State.runPresence
  apply State.issue_memOk
  · with_reducible assumption
  · intros
    apply State.eachLane_memOk
    · with_reducible assumption
    · intros
      apply State.presCheck_memOk
      with_reducible assumption
    · intros
      refine MemOk.foldl0 ?_ ?_
      · with_reducible assumption
      · intros
        dsimp only
        split
        · apply State.updStand_memOk
          apply State.drainQ_memOk
          with_reducible assumption
        · with_reducible assumption

theorem execPres_memOk (f : MFmt) (s : State) (hm : MemOk s) : OutOk (execPres f s) := by
  unfold execPres
  show MemOk _
  apply State.runPresence_memOk
  with_reducible assumption

theorem execPclr_memOk (f : MFmt) (s : State) (hm : MemOk s) : OutOk (execPclr f s) := by
  unfold execPclr
  show MemOk _
  apply State.runPresence_memOk
  with_reducible assumption

theorem execDcq_memOk (f : GFmt) (s : State) (hm : MemOk s) : OutOk (execDcq f s) := by
  unfold execDcq
  show MemOk _
  apply State.issue_memOk
  · with_reducible assumption
  · intros
    apply State.eachLane_memOk
    · with_reducible assumption
    · intros
      apply State.raiseOnly_memOk
      with_reducible assumption
    · intros
      refine MemOk.foldl0 ?_ ?_
      · with_reducible assumption
      · intros
        split
        · apply State.updLane_memOk
          with_reducible assumption
        · with_reducible assumption

theorem execQuantumCommit_memOk (stand : Nat) (s : State) (hm : MemOk s) : OutOk (execQuantumCommit stand s) := by
  unfold execQuantumCommit
  show MemOk _
  split
  · apply State.dcCommit_memOk
    with_reducible assumption
  · with_reducible assumption

theorem execStoreDrain_memOk (thread : Nat) (s : State) (hm : MemOk s) : OutOk (execStoreDrain thread s) := by
  unfold execStoreDrain
  show MemOk _
  apply State.sendOne_memOk
  with_reducible assumption

theorem State.lbrdCheck_memOk (f : GFmt) (s : State) (l : Nat) (hm : MemOk s) : MemOk (State.lbrdCheck f s l).2 := by
  unfold State.lbrdCheck
  split
  · with_reducible assumption
  · apply State.orWait_memOk
    apply State.laneCheck_memOk
    with_reducible assumption

theorem execLbrd_memOk (f : GFmt) (s : State) (hm : MemOk s) : OutOk (execLbrd f s) := by
  unfold execLbrd
  dsimp only
  show MemOk _
  apply State.issue_memOk
  · with_reducible assumption
  · intros
    split
    · apply State.advance_memOk
      apply State.commit_memOk
      with_reducible assumption
    · apply State.eachLane_memOk
      · with_reducible assumption
      · intros
        apply State.lbrdCheck_memOk
        with_reducible assumption
      · intros
        apply State.commit_memOk
        apply State.byteLanes_memOk
        with_reducible assumption

theorem State.lborCheck_memOk (f : GFmt) (x1 : State) (x2 : Nat) (hm : MemOk x1) : MemOk (State.lborCheck f x1 x2).2 := by
  unfold State.lborCheck
  apply State.afterRaise_memOk
  · with_reducible assumption
  · intros
    apply State.laneCheck_memOk
    with_reducible assumption

theorem execLbor_memOk (f : GFmt) (s : State) (hm : MemOk s) : OutOk (execLbor f s) := by
  unfold execLbor
  dsimp only
  show MemOk _
  apply State.issue_memOk
  · with_reducible assumption
  · intros
    split
    · apply State.eachLane_memOk
      · with_reducible assumption
      · intros
        apply State.raiseOnly_memOk
        with_reducible assumption
      · intros
        apply State.updSlot_memOk
        with_reducible assumption
    · apply State.eachLane_memOk
      · with_reducible assumption
      · intros
        apply State.lborCheck_memOk
        with_reducible assumption
      · intros
        refine MemOk.foldl0 ?_ ?_
        · with_reducible assumption
        · intros
          apply State.markTarget_memOk
          with_reducible assumption

theorem State.clearSegment_memOk (s : State) (who : Option Nat) (key : Nat) (l : Loc) (n : Nat) (tag : Nat) (lab : Label) (hm : MemOk s) : MemOk (State.clearSegment s who key l n tag lab) := by
  unfold State.clearSegment
  dsimp only
  split
  · apply State.setLabelAt_memOk
    refine MemOk.foldl0 ?_ ?_
    · refine MemOk.foldl0 ?_ ?_
      · with_reducible assumption
      · intros
        apply State.perform_memOk
        with_reducible assumption
    · intros
      apply State.setTagOf_memOk
      with_reducible assumption
  · apply State.updStand_memOk
    refine MemOk.foldl0 ?_ ?_
    · refine MemOk.foldl0 ?_ ?_
      · with_reducible assumption
      · intros
        apply State.perform_memOk
        with_reducible assumption
    · intros
      apply State.setTagOf_memOk
      with_reducible assumption

theorem State.clrsegCheck_memOk (f : MFmt) (x1 : State) (x2 : Nat) (hm : MemOk x1) : MemOk (State.clrsegCheck f x1 x2).2 := by
  unfold State.clrsegCheck
  apply State.afterRaise_memOk
  · with_reducible assumption
  · intros
    dsimp only
    split
    · split
      · dsimp only
        apply State.laneCheck_memOk
        with_reducible assumption
      · split
        · dsimp only
          apply State.laneCheck_memOk
          with_reducible assumption
        · dsimp only
          apply State.laneCheck_memOk
          with_reducible assumption
    · dsimp only
      apply State.laneCheck_memOk
      with_reducible assumption

theorem execClrseg_memOk (f : MFmt) (s : State) (hm : MemOk s) : OutOk (execClrseg f s) := by
  unfold execClrseg
  dsimp only
  show MemOk _
  apply State.issue_memOk
  · with_reducible assumption
  · intros
    apply State.eachLane_memOk
    · with_reducible assumption
    · intros
      apply State.clrsegCheck_memOk
      with_reducible assumption
    · intros
      refine MemOk.foldl0 ?_ ?_
      · with_reducible assumption
      · intros
        apply State.clearSegment_memOk
        apply State.touch_memOk
        apply State.drainQ_memOk
        with_reducible assumption

end Sys2Proof.Machine
end

