-- ==== Sys2Proof/Laws/CanonicalSync.lean ====
section
/-!
SUPPORT. The canonical form of memory is kept: the integer to control families that write state, synchronisation, system.
-/

namespace Sys2Proof.Machine

theorem State.onceLane_memOk {α : Type} (s : State) (gp : BitVec 3) (srcs : List Src) (ex : List Nat) (chk : State → Nat → Ans α × State) (act : State → Nat → α → State) (hm : MemOk s) (h1 : ∀ v0 v1, MemOk v0 → MemOk (chk v0 v1).2) (h2 : ∀ v0 v1 v2, MemOk v0 → MemOk (act v0 v1 v2)) : MemOk (State.onceLane s gp srcs ex chk act) := by
  unfold State.onceLane
  dsimp only
  split
  · apply State.advance_memOk
    apply State.park_memOk
    apply checkLanes_memOk
    · with_reducible assumption
    · intros
      apply State.raiseOnly_memOk
      with_reducible assumption
  · split
    · apply State.hold_memOk
      apply_assumption
      apply State.park_memOk
      apply checkLanes_memOk
      · with_reducible assumption
      · intros
        apply State.raiseOnly_memOk
        with_reducible assumption
    · apply State.advance_memOk
      apply State.afterStop_memOk
      apply State.park_memOk
      apply_assumption
      apply State.park_memOk
      apply checkLanes_memOk
      · with_reducible assumption
      · intros
        apply State.raiseOnly_memOk
        with_reducible assumption
    · apply State.advance_memOk
      apply_assumption
      apply_assumption
      apply State.park_memOk
      apply checkLanes_memOk
      · with_reducible assumption
      · intros
        apply State.raiseOnly_memOk
        with_reducible assumption

theorem State.queCheck_memOk (s : State) (w : Who) (r : Req) (hm : MemOk s) : MemOk (State.queCheck s w r).2 := by
  unfold State.queCheck
  dsimp only
  split
  · split
    · dsimp only
      apply State.check_memOk
      with_reducible assumption
    · dsimp only
      apply State.check_memOk
      with_reducible assumption
  · dsimp only
    apply State.check_memOk
    with_reducible assumption

theorem State.queOpen_memOk (s : State) (f : MFmt) (disp : Int) (write : Bool) (kind : Nat) (l : Nat) (cfg : Option Nat) (hm : MemOk s) : MemOk (State.queOpen s f disp write kind l cfg).2 := by
  unfold State.queOpen
  dsimp only
  split
  · dsimp only
    apply State.queCheck_memOk
    with_reducible assumption
  · dsimp only
    apply State.queCheck_memOk
    with_reducible assumption
  · split
    · dsimp only
      apply State.queCheck_memOk
      with_reducible assumption
    · dsimp only
      apply State.queCheck_memOk
      with_reducible assumption

theorem State.quePut_memOk (s : State) (w : Who) (q : Que) (cfg : Nat) (head : Nat) (tail : Nat) (lab : Label) (hm : MemOk s) : MemOk (State.quePut s w q cfg head tail lab) := by
  unfold State.quePut
  apply State.perform_memOk
  with_reducible assumption

theorem queLanes_memOk (dst : Option Dst) (one : State → Nat → QAns × State) (x1 : State) (x2 : List Nat) (x3 : QRun) (hm : MemOk x1) (h1 : ∀ v0 v1, MemOk v0 → MemOk (one v0 v1).2) : MemOk (queLanes dst one x1 x2 x3).2 := by
  induction x2 generalizing x1 x3 <;> unfold queLanes
  · with_reducible assumption
  · dsimp only
    split
    · dsimp only
      apply_assumption
      with_reducible assumption
    · apply_assumption
      apply_assumption
      with_reducible assumption
    · apply_assumption
      apply_assumption
      with_reducible assumption
    · apply_assumption
      apply State.updLane_memOk
      split
      · apply State.writeDst_memOk
        apply_assumption
        with_reducible assumption
      · apply_assumption
        with_reducible assumption

theorem State.queLane_memOk (gp : BitVec 3) (srcs : List Src) (one : State → Nat → QAns × State) (s : State) (l : Nat) (hm : MemOk s) (h1 : ∀ v0 v1, MemOk v0 → MemOk (one v0 v1).2) : MemOk (State.queLane gp srcs one s l).2 := by
  unfold State.queLane
  split
  · with_reducible assumption
  · apply_assumption
    with_reducible assumption

theorem State.queRanks_memOk (s : State) (ex : List Nat) (hm : MemOk s) : MemOk (State.queRanks s ex) := by
  unfold State.queRanks
  refine MemOk.foldl0 ?_ ?_
  · with_reducible assumption
  · intros
    apply State.updLane_memOk
    with_reducible assumption

theorem State.queEnd_memOk (s : State) (gp : BitVec 3) (srcs : List Src) (dst : Option Dst) (ls : List Nat) (hm : MemOk s) : MemOk (State.queEnd s gp srcs dst ls) := by
  unfold State.queEnd
  dsimp only
  refine MemOk.foldl0 ?_ ?_
  · apply State.labelDsts_memOk
    with_reducible assumption
  · intros
    apply State.updLane_memOk
    with_reducible assumption

theorem State.runQueue_memOk (s : State) (f : MFmt) (srcs : List Src) (dst : Option Dst) (ex : List Nat) (one : State → Nat → QAns × State) (hm : MemOk s) (h1 : ∀ v0 v1, MemOk v0 → MemOk (one v0 v1).2) : MemOk (State.runQueue s f srcs dst ex one) := by
  unfold State.runQueue
  dsimp only
  split
  · apply State.hold_memOk
    apply State.afterStop_memOk
    apply State.park_memOk
    refine MemOk.foldl0 ?_ ?_
    · apply queLanes_memOk
      · apply State.queRanks_memOk
        with_reducible assumption
      · intros
        apply State.queLane_memOk
        · with_reducible assumption
        · intros
          apply_assumption
          with_reducible assumption
    · intros
      apply State.updLane_memOk
      with_reducible assumption
  · apply State.advance_memOk
    apply State.queEnd_memOk
    apply State.afterStop_memOk
    apply State.park_memOk
    refine MemOk.foldl0 ?_ ?_
    · apply queLanes_memOk
      · apply State.queRanks_memOk
        with_reducible assumption
      · intros
        apply State.queLane_memOk
        · with_reducible assumption
        · intros
          apply_assumption
          with_reducible assumption
    · intros
      apply State.updLane_memOk
      with_reducible assumption

theorem State.qinitCheck_memOk (f : MFmt) (s : State) (l : Nat) (hm : MemOk s) : MemOk (State.qinitCheck f s l).2 := by
  unfold State.qinitCheck
  dsimp only
  split
  · split
    · dsimp only
      apply State.queOpen_memOk
      with_reducible assumption
    · dsimp only
      apply State.queOpen_memOk
      with_reducible assumption
  · dsimp only
    apply State.queOpen_memOk
    with_reducible assumption
  · dsimp only
    apply State.queOpen_memOk
    with_reducible assumption

theorem execQinit_memOk (f : MFmt) (s : State) (hm : MemOk s) : OutOk (execQinit f s) := by
  unfold execQinit
  dsimp only
  show MemOk _
  apply State.issue_memOk
  · with_reducible assumption
  · intros
    apply State.onceLane_memOk
    · with_reducible assumption
    · intros
      apply State.qinitCheck_memOk
      with_reducible assumption
    · intros
      apply State.quePut_memOk
      apply State.touch_memOk
      apply State.drainQ_memOk
      with_reducible assumption

theorem State.quePush_memOk (s : State) (f : MFmt) (w : Who) (q : Que) (t : Target) (v : Nat) (lab : Label) (hm : MemOk s) : MemOk (State.quePush s f w q t v lab) := by
  unfold State.quePush
  apply State.quePut_memOk
  apply State.perform_memOk
  apply State.touch_memOk
  apply State.drainQ_memOk
  with_reducible assumption

theorem State.qenqLane_memOk (f : MFmt) (s : State) (l : Nat) (hm : MemOk s) : MemOk (State.qenqLane f s l).2 := by
  unfold State.qenqLane
  dsimp only
  split
  · dsimp only
    apply State.queOpen_memOk
    with_reducible assumption
  · dsimp only
    apply State.queOpen_memOk
    with_reducible assumption
  · split
    · dsimp only
      apply State.queOpen_memOk
      with_reducible assumption
    · split
      · dsimp only
        apply State.queOpen_memOk
        with_reducible assumption
      · split
        · dsimp only
          apply State.queCheck_memOk
          apply State.queOpen_memOk
          with_reducible assumption
        · dsimp only
          apply State.queCheck_memOk
          apply State.queOpen_memOk
          with_reducible assumption
        · dsimp only
          apply State.quePush_memOk
          apply State.queCheck_memOk
          apply State.queOpen_memOk
          with_reducible assumption

theorem execQenq_memOk (f : MFmt) (s : State) (hm : MemOk s) : OutOk (execQenq f s) := by
  unfold execQenq
  show MemOk _
  apply State.issue_memOk
  · with_reducible assumption
  · intros
    apply State.runQueue_memOk
    · with_reducible assumption
    · intros
      apply State.qenqLane_memOk
      with_reducible assumption

theorem State.toYard_memOk (s : State) (l : Nat) (n : Nat) (target : PC) (atQueue : Bool) (lab : Label) (hm : MemOk s) : MemOk (State.toYard s l n target atQueue lab) := by
  unfold State.toYard
  dsimp only
  apply State.dropLane_memOk
  apply State.updStand_memOk
  apply State.leaveJoins_memOk
  apply State.updThread_memOk
  apply State.drainQ_memOk
  with_reducible assumption

theorem State.quePop_memOk (s : State) (f : MFmt) (w : Who) (q : Que) (t : Target) (hm : MemOk s) : MemOk (State.quePop s f w q t).2 := by
  unfold State.quePop
  dsimp only
  apply State.quePut_memOk
  apply State.loadAt_memOk
  apply State.touch_memOk
  apply State.drainQ_memOk
  with_reducible assumption

theorem State.qdeqLane_memOk (f : MFmt) (s : State) (l : Nat) (hm : MemOk s) : MemOk (State.qdeqLane f s l).2 := by
  unfold State.qdeqLane
  dsimp only
  split
  · dsimp only
    apply State.queOpen_memOk
    with_reducible assumption
  · dsimp only
    apply State.queOpen_memOk
    with_reducible assumption
  · split
    · dsimp only
      apply State.queOpen_memOk
      with_reducible assumption
    · split
      · split
        · dsimp only
          apply State.toYard_memOk
          apply State.queOpen_memOk
          with_reducible assumption
        · dsimp only
          apply State.queOpen_memOk
          with_reducible assumption
      · split
        · dsimp only
          apply State.queCheck_memOk
          apply State.queOpen_memOk
          with_reducible assumption
        · dsimp only
          apply State.queCheck_memOk
          apply State.queOpen_memOk
          with_reducible assumption
        · split
          · dsimp only
            apply State.failStand_memOk
            apply State.queCheck_memOk
            apply State.queOpen_memOk
            with_reducible assumption
          · dsimp only
            apply State.quePop_memOk
            apply State.queCheck_memOk
            apply State.queOpen_memOk
            with_reducible assumption

theorem execQdeq_memOk (f : MFmt) (s : State) (hm : MemOk s) : OutOk (execQdeq f s) := by
  unfold execQdeq
  show MemOk _
  apply State.issue_memOk
  · with_reducible assumption
  · intros
    apply State.runQueue_memOk
    · with_reducible assumption
    · intros
      apply State.qdeqLane_memOk
      with_reducible assumption

theorem State.qpeekLane_memOk (f : MFmt) (s : State) (l : Nat) (hm : MemOk s) : MemOk (State.qpeekLane f s l).2 := by
  unfold State.qpeekLane
  dsimp only
  split
  · dsimp only
    apply State.queOpen_memOk
    with_reducible assumption
  · dsimp only
    apply State.queOpen_memOk
    with_reducible assumption
  · split
    · split
      · dsimp only
        apply State.queOpen_memOk
        with_reducible assumption
      · dsimp only
        apply State.touch_memOk
        apply State.queOpen_memOk
        with_reducible assumption
    · split
      · dsimp only
        apply State.queOpen_memOk
        with_reducible assumption
      · split
        · dsimp only
          apply State.queOpen_memOk
          with_reducible assumption
        · split
          · dsimp only
            apply State.queCheck_memOk
            apply State.queOpen_memOk
            with_reducible assumption
          · dsimp only
            apply State.queCheck_memOk
            apply State.queOpen_memOk
            with_reducible assumption
          · split
            · dsimp only
              apply State.failStand_memOk
              apply State.queCheck_memOk
              apply State.queOpen_memOk
              with_reducible assumption
            · dsimp only
              apply State.loadAt_memOk
              apply State.touch_memOk
              apply State.queCheck_memOk
              apply State.queOpen_memOk
              with_reducible assumption

theorem execQpeek_memOk (f : MFmt) (s : State) (hm : MemOk s) : OutOk (execQpeek f s) := by
  unfold execQpeek
  show MemOk _
  apply State.issue_memOk
  · with_reducible assumption
  · intros
    apply State.runQueue_memOk
    · with_reducible assumption
    · intros
      apply State.qpeekLane_memOk
      with_reducible assumption

theorem State.waitwCheck_memOk (f : MFmt) (x1 : State) (x2 : Nat) (hm : MemOk x1) : MemOk (State.waitwCheck f x1 x2).2 := by
  unfold State.waitwCheck
  apply State.afterRaise_memOk
  · with_reducible assumption
  · intros
    dsimp only
    split
    · split
      · dsimp only
        apply State.laneCheck_memOk
        with_reducible assumption
      · dsimp only
        apply State.laneCheck_memOk
        with_reducible assumption
    · dsimp only
      apply State.laneCheck_memOk
      with_reducible assumption

theorem State.waitwLane_memOk (f : MFmt) (s : State) (l : Nat) (tg : Target) (hm : MemOk s) : MemOk (State.waitwLane f s l tg).2 := by
  unfold State.waitwLane
  dsimp only
  split
  · dsimp only
    apply State.loadAt_memOk
    with_reducible assumption
  · dsimp only
    apply State.updLane_memOk
    apply State.loadAt_memOk
    with_reducible assumption

theorem execWaitw_memOk (f : MFmt) (s : State) (hm : MemOk s) : OutOk (execWaitw f s) := by
  unfold execWaitw
  dsimp only
  show MemOk _
  apply State.issue_memOk
  · with_reducible assumption
  · intros
    apply State.eachLaneStay_memOk
    · with_reducible assumption
    · intros
      apply State.waitwCheck_memOk
      with_reducible assumption
    · intros
      dsimp only
      apply State.commit_memOk
      refine MemOk.foldl3 ?_ ?_
      · with_reducible assumption
      · intros
        split
        · dsimp only
          apply State.failStand_memOk
          with_reducible assumption
        · split
          · dsimp only
            apply State.waitwLane_memOk
            with_reducible assumption
          · dsimp only
            apply State.waitwLane_memOk
            with_reducible assumption

theorem execWaitwReread_memOk (thread : Nat) (s : State) (hm : MemOk s) : OutOk (execWaitwReread thread s) := by
  unfold execWaitwReread
  show MemOk _
  split
  · apply State.updThread_memOk
    with_reducible assumption
  · with_reducible assumption

theorem State.updBarrier_memOk (s : State) (stand : Nat) (b : Nat) (f : Barrier → Barrier) (hm : MemOk s) : MemOk (State.updBarrier s stand b f) := by
  unfold State.updBarrier
  apply State.updStand_memOk
  with_reducible assumption

theorem State.bariCheck_memOk (f : MFmt) (s : State) (l : Nat) (hm : MemOk s) : MemOk (State.bariCheck f s l).2 := by
  unfold State.bariCheck
  dsimp only
  split
  · split
    · split
      · split
        · with_reducible assumption
        · with_reducible assumption
      · split
        · with_reducible assumption
        · with_reducible assumption
    · split
      · split
        · with_reducible assumption
        · with_reducible assumption
      · split
        · with_reducible assumption
        · with_reducible assumption
  · split
    · dsimp only
      apply State.checkGlobal_memOk
      apply State.drainQ_memOk
      with_reducible assumption
    · dsimp only
      apply State.checkGlobal_memOk
      apply State.drainQ_memOk
      with_reducible assumption
    · split
      · dsimp only
        apply State.checkGlobal_memOk
        apply State.drainQ_memOk
        with_reducible assumption
      · split
        · split
          · split
            · dsimp only
              apply State.checkGlobal_memOk
              apply State.drainQ_memOk
              with_reducible assumption
            · dsimp only
              apply State.checkGlobal_memOk
              apply State.drainQ_memOk
              with_reducible assumption
          · split
            · dsimp only
              apply State.checkGlobal_memOk
              apply State.drainQ_memOk
              with_reducible assumption
            · dsimp only
              apply State.checkGlobal_memOk
              apply State.drainQ_memOk
              with_reducible assumption
        · split
          · split
            · dsimp only
              apply State.checkGlobal_memOk
              apply State.drainQ_memOk
              with_reducible assumption
            · dsimp only
              apply State.checkGlobal_memOk
              apply State.drainQ_memOk
              with_reducible assumption
          · split
            · dsimp only
              apply State.checkGlobal_memOk
              apply State.drainQ_memOk
              with_reducible assumption
            · dsimp only
              apply State.checkGlobal_memOk
              apply State.drainQ_memOk
              with_reducible assumption

theorem execBari_memOk (f : MFmt) (s : State) (hm : MemOk s) : OutOk (execBari f s) := by
  unfold execBari
  show MemOk _
  apply State.issue_memOk
  · with_reducible assumption
  · intros
    apply State.onceLane_memOk
    · with_reducible assumption
    · intros
      apply State.bariCheck_memOk
      with_reducible assumption
    · intros
      dsimp only
      apply State.updBarrier_memOk
      with_reducible assumption

theorem State.barCheck_memOk (f : MFmt) (arrive : Bool) (s : State) (l : Nat) (hm : MemOk s) : MemOk (State.barCheck f arrive s l).2 := by
  unfold State.barCheck
  split
  · split
    · with_reducible assumption
    · split
      · with_reducible assumption
      · with_reducible assumption
  · with_reducible assumption

theorem State.arriveAt_memOk (s : State) (b : Nat) (l : Nat) (hm : MemOk s) : MemOk (State.arriveAt s b l) := by
  unfold State.arriveAt
  dsimp only
  apply State.testBarrier_memOk
  apply State.updBarrier_memOk
  split
  · apply State.updThread_memOk
    apply State.drainQ_memOk
    with_reducible assumption
  · apply State.drainQ_memOk
    with_reducible assumption

theorem execBara_memOk (f : MFmt) (s : State) (hm : MemOk s) : OutOk (execBara f s) := by
  unfold execBara
  dsimp only
  show MemOk _
  apply State.issue_memOk
  · with_reducible assumption
  · intros
    apply State.eachLaneStay_memOk
    · with_reducible assumption
    · intros
      apply State.afterRaise_memOk
      · with_reducible assumption
      · intros
        apply State.barCheck_memOk
        with_reducible assumption
    · intros
      dsimp only
      apply State.commit_memOk
      refine MemOk.foldl2 ?_ ?_
      · with_reducible assumption
      · intros
        split
        · dsimp only
          apply State.updLane_memOk
          with_reducible assumption
        · dsimp only
          apply State.arriveAt_memOk
          with_reducible assumption

theorem execBarw_memOk (f : MFmt) (s : State) (hm : MemOk s) : OutOk (execBarw f s) := by
  unfold execBarw
  dsimp only
  show MemOk _
  apply State.issue_memOk
  · with_reducible assumption
  · intros
    apply State.eachLaneStay_memOk
    · with_reducible assumption
    · intros
      apply State.afterRaise_memOk
      · with_reducible assumption
      · intros
        apply State.barCheck_memOk
        with_reducible assumption
    · intros
      dsimp only
      refine MemOk.foldl0 ?_ ?_
      · with_reducible assumption
      · intros
        apply State.updLane_memOk
        with_reducible assumption

theorem execBars_memOk (f : MFmt) (s : State) (hm : MemOk s) : OutOk (execBars f s) := by
  unfold execBars
  show MemOk _
  apply State.issue_memOk
  · with_reducible assumption
  · intros
    apply State.eachLaneStay_memOk
    · with_reducible assumption
    · intros
      apply State.afterRaise_memOk
      · with_reducible assumption
      · intros
        apply State.barCheck_memOk
        with_reducible assumption
    · intros
      dsimp only
      refine MemOk.foldl0 ?_ ?_
      · with_reducible assumption
      · intros
        split
        · apply State.updLane_memOk
          with_reducible assumption
        · apply State.arriveAt_memOk
          apply State.updLane_memOk
          with_reducible assumption

theorem execLinkedArrival_memOk (stand : Nat) (bar : Nat) (s : State) (hm : MemOk s) : OutOk (execLinkedArrival stand bar s) := by
  unfold execLinkedArrival
  show MemOk _
  apply State.linkStep_memOk
  with_reducible assumption

theorem State.tbarWake_memOk (s : State) (stand : Nat) (off : Nat) (hm : MemOk s) : MemOk (State.tbarWake s stand off) := by
  unfold State.tbarWake
  apply State.mapStand_memOk
  with_reducible assumption

theorem State.storeTbar_memOk (s : State) (stand : Nat) (off : Nat) (t : TBar) (u : TBar) (lab : Label) (hm : MemOk s) : MemOk (State.storeTbar s stand off t u lab) := by
  unfold State.storeTbar
  dsimp only
  split
  · apply State.tbarWake_memOk
    apply State.perform_memOk
    with_reducible assumption
  · apply State.perform_memOk
    with_reducible assumption

theorem State.putTbar_memOk (s : State) (stand : Nat) (off : Nat) (t : TBar) (lab : Label) (hm : MemOk s) : MemOk (State.putTbar s stand off t lab) := by
  unfold State.putTbar
  apply State.storeTbar_memOk
  with_reducible assumption

theorem State.tbarCredit_memOk (s : State) (stand : Nat) (off : Nat) (n : Nat) (lab : Label) (hm : MemOk s) : MemOk (State.tbarCredit s stand off n lab) := by
  unfold State.tbarCredit
  dsimp only
  apply State.storeTbar_memOk
  with_reducible assumption

theorem State.tbariCheck_memOk (f : MFmt) (s : State) (l : Nat) (hm : MemOk s) : MemOk (State.tbariCheck f s l).2 := by
  unfold State.tbariCheck
  dsimp only
  split
  · split
    · dsimp only
      apply State.laneCheck_memOk
      apply State.drainQ_memOk
      with_reducible assumption
    · dsimp only
      apply State.laneCheck_memOk
      apply State.drainQ_memOk
      with_reducible assumption
  · dsimp only
    apply State.laneCheck_memOk
    apply State.drainQ_memOk
    with_reducible assumption
  · dsimp only
    apply State.laneCheck_memOk
    apply State.drainQ_memOk
    with_reducible assumption

theorem execTbari_memOk (f : MFmt) (s : State) (hm : MemOk s) : OutOk (execTbari f s) := by
  unfold execTbari
  show MemOk _
  apply State.issue_memOk
  · with_reducible assumption
  · intros
    apply State.onceLane_memOk
    · with_reducible assumption
    · intros
      apply State.tbariCheck_memOk
      with_reducible assumption
    · intros
      apply State.perform_memOk
      with_reducible assumption

theorem State.tbareLane_memOk (f : MFmt) (srcs : List Src) (s0 : State) (l : Nat) (tg : Target) (hm : MemOk s0) : MemOk (State.tbareLane f srcs s0 l tg).2.2.2 := by
  unfold State.tbareLane
  dsimp only
  split
  · dsimp only
    apply State.drainQ_memOk
    with_reducible assumption
  · split
    · split
      · dsimp only
        apply State.updLane_memOk
        apply State.drainQ_memOk
        with_reducible assumption
      · dsimp only
        apply State.drainQ_memOk
        with_reducible assumption
    · split
      · dsimp only
        apply State.updLane_memOk
        apply State.drainQ_memOk
        with_reducible assumption
      · dsimp only
        apply State.putTbar_memOk
        apply State.drainQ_memOk
        with_reducible assumption

theorem State.tbareCheck_memOk (f : MFmt) (x1 : State) (x2 : Nat) (hm : MemOk x1) : MemOk (State.tbareCheck f x1 x2).2 := by
  unfold State.tbareCheck
  apply State.afterRaise_memOk
  · with_reducible assumption
  · intros
    apply State.laneCheck_memOk
    with_reducible assumption

theorem execTbare_memOk (f : MFmt) (s : State) (hm : MemOk s) : OutOk (execTbare f s) := by
  unfold execTbare
  dsimp only
  show MemOk _
  apply State.issue_memOk
  · with_reducible assumption
  · intros
    apply State.eachLaneStay_memOk
    · with_reducible assumption
    · intros
      apply State.tbareCheck_memOk
      with_reducible assumption
    · intros
      dsimp only
      apply State.commit_memOk
      refine MemOk.foldl3 ?_ ?_
      · with_reducible assumption
      · intros
        dsimp only
        apply State.tbareLane_memOk
        with_reducible assumption

theorem execNop_memOk (f : GFmt) (s : State) (hm : MemOk s) : OutOk (execNop f s) := by
  unfold execNop
  show MemOk _
  apply State.issue_memOk
  · with_reducible assumption
  · intros
    apply State.advance_memOk
    with_reducible assumption

theorem State.takeTransfer_memOk (s : State) (l : Nat) (t : Nat) (lab : Label) (hm : MemOk s) : MemOk (State.takeTransfer s l t lab) := by
  unfold State.takeTransfer
  apply State.updLane_memOk
  with_reducible assumption

theorem State.transferCheck_memOk (gp : BitVec 3) (srcs : List Src) (target : Thread → Int × Option Flt) (x1 : State) (x2 : Nat) (hm : MemOk x1) : MemOk (State.transferCheck gp srcs target x1 x2).2 := by
  unfold State.transferCheck
  apply State.afterRaise_memOk
  · with_reducible assumption
  · intros
    split
    · with_reducible assumption
    · with_reducible assumption

theorem State.runTransfer_memOk (s : State) (gn : BitVec 1) (gp : BitVec 3) (bad : Option Flt) (srcs : List Src) (link : Option Nat) (target : Thread → Int × Option Flt) (hm : MemOk s) : MemOk (State.runTransfer s gn gp bad srcs link target) := by
  unfold State.runTransfer
  apply State.issue_memOk
  · with_reducible assumption
  · intros
    dsimp only
    apply State.eachLaneStay_memOk
    · with_reducible assumption
    · intros
      apply State.transferCheck_memOk
      with_reducible assumption
    · intros
      dsimp only
      refine MemOk.foldl0 ?_ ?_
      · split
        · apply State.commit_memOk
          with_reducible assumption
        · with_reducible assumption
      · intros
        apply State.takeTransfer_memOk
        with_reducible assumption

theorem execBra_memOk (f : IFmt) (s : State) (hm : MemOk s) : OutOk (execBra f s) := by
  unfold execBra
  dsimp only
  show MemOk _
  apply State.runTransfer_memOk
  with_reducible assumption

theorem execCall_memOk (f : IFmt) (s : State) (hm : MemOk s) : OutOk (execCall f s) := by
  unfold execCall
  dsimp only
  show MemOk _
  apply State.runTransfer_memOk
  with_reducible assumption

theorem State.runIndirect_memOk (s : State) (f : GFmt) (link : Bool) (hm : MemOk s) : MemOk (State.runIndirect s f link) := by
  unfold State.runIndirect
  apply State.runTransfer_memOk
  with_reducible assumption

theorem execBrx_memOk (f : GFmt) (s : State) (hm : MemOk s) : OutOk (execBrx f s) := by
  unfold execBrx
  show MemOk _
  apply State.runIndirect_memOk
  with_reducible assumption

theorem execCallx_memOk (f : GFmt) (s : State) (hm : MemOk s) : OutOk (execCallx f s) := by
  unfold execCallx
  show MemOk _
  apply State.runIndirect_memOk
  with_reducible assumption

theorem execRet_memOk (f : GFmt) (s : State) (hm : MemOk s) : OutOk (execRet f s) := by
  unfold execRet
  show MemOk _
  apply State.runIndirect_memOk
  with_reducible assumption

theorem State.divergentBranch_memOk (s : State) (taken : List Nat) (others : List Nat) (t : Nat) (lab : Label) (hm : MemOk s) : MemOk (State.divergentBranch s taken others t lab) := by
  unfold State.divergentBranch
  apply State.sendLanes_memOk
  refine MemOk.foldl0 ?_ ?_
  · with_reducible assumption
  · intros
    apply State.takeTransfer_memOk
    with_reducible assumption

theorem State.regroup_memOk (s : State) (taken : List Nat) (others : List Nat) (t : Nat) (n : Nat) (lab : Label) (hm : MemOk s) : MemOk (State.regroup s taken others t n lab) := by
  unfold State.regroup
  split
  · apply State.divergentBranch_memOk
    with_reducible assumption
  · dsimp only
    split
    · split
      · apply State.divergentBranch_memOk
        with_reducible assumption
      · refine MemOk.foldl0 ?_ ?_
        · apply State.divergentBranch_memOk
          with_reducible assumption
        · intros
          apply State.toYard_memOk
          with_reducible assumption
    · split
      · apply State.divergentBranch_memOk
        with_reducible assumption
      · refine MemOk.foldl0 ?_ ?_
        · apply State.divergentBranch_memOk
          with_reducible assumption
        · intros
          apply State.toYard_memOk
          with_reducible assumption

theorem State.rgrpCheck_memOk (f : IFmt) (c : Nat) (x1 : State) (x2 : Nat) (hm : MemOk x1) : MemOk (State.rgrpCheck f c x1 x2).2 := by
  unfold State.rgrpCheck
  apply State.afterRaise_memOk
  · with_reducible assumption
  · intros
    split
    · split
      · with_reducible assumption
      · with_reducible assumption
    · with_reducible assumption

theorem execRgrp_memOk (f : IFmt) (s : State) (hm : MemOk s) : OutOk (execRgrp f s) := by
  unfold execRgrp
  dsimp only
  show MemOk _
  apply State.issue_memOk
  · with_reducible assumption
  · intros
    apply State.eachLaneStay_memOk
    · with_reducible assumption
    · intros
      apply State.rgrpCheck_memOk
      with_reducible assumption
    · intros
      dsimp only
      apply State.regroup_memOk
      with_reducible assumption

theorem execExit_memOk (f : GFmt) (s : State) (hm : MemOk s) : OutOk (execExit f s) := by
  unfold execExit
  show MemOk _
  apply State.issue_memOk
  · with_reducible assumption
  · intros
    apply State.eachLaneStay_memOk
    · with_reducible assumption
    · intros
      apply State.raiseOnly_memOk
      with_reducible assumption
    · intros
      dsimp only
      refine MemOk.foldl0 ?_ ?_
      · refine MemOk.foldl0 ?_ ?_
        · apply State.drainLanes_memOk
          with_reducible assumption
        · intros
          apply State.updLane_memOk
          with_reducible assumption
      · intros
        apply State.exitThread_memOk
        with_reducible assumption

theorem execJset_memOk (f : GFmt) (s : State) (hm : MemOk s) : OutOk (execJset f s) := by
  unfold execJset
  show MemOk _
  apply State.issue_memOk
  · with_reducible assumption
  · intros
    apply State.eachLane_memOk
    · with_reducible assumption
    · intros
      apply State.raiseOnly_memOk
      with_reducible assumption
    · intros
      dsimp only
      refine MemOk.foldl0 ?_ ?_
      · with_reducible assumption
      · intros
        apply State.updLane_memOk
        with_reducible assumption

theorem execJwait_memOk (f : GFmt) (s : State) (hm : MemOk s) : OutOk (execJwait f s) := by
  unfold execJwait
  show MemOk _
  apply State.issue_memOk
  · with_reducible assumption
  · intros
    apply State.eachLaneStay_memOk
    · with_reducible assumption
    · intros
      apply State.raiseOnly_memOk
      with_reducible assumption
    · intros
      dsimp only
      refine MemOk.foldl0 ?_ ?_
      · refine MemOk.foldl0 ?_ ?_
        · with_reducible assumption
        · intros
          apply State.updLane_memOk
          with_reducible assumption
      · intros
        apply State.arriveJoin_memOk
        with_reducible assumption

theorem execJclr_memOk (f : GFmt) (s : State) (hm : MemOk s) : OutOk (execJclr f s) := by
  unfold execJclr
  show MemOk _
  apply State.issue_memOk
  · with_reducible assumption
  · intros
    apply State.eachLane_memOk
    · with_reducible assumption
    · intros
      apply State.raiseOnly_memOk
      with_reducible assumption
    · intros
      dsimp only
      refine MemOk.foldl0 ?_ ?_
      · with_reducible assumption
      · intros
        apply State.arriveJoin_memOk
        apply State.updLane_memOk
        with_reducible assumption

theorem execElect_memOk (f : GFmt) (s : State) (hm : MemOk s) : OutOk (execElect f s) := by
  unfold execElect
  show MemOk _
  apply State.issue_memOk
  · with_reducible assumption
  · intros
    dsimp only
    apply State.advance_memOk
    apply State.commit_memOk
    with_reducible assumption

theorem execYield_memOk (f : GFmt) (s : State) (hm : MemOk s) : OutOk (execYield f s) := by
  unfold execYield
  show MemOk _
  apply State.issue_memOk
  · with_reducible assumption
  · intros
    dsimp only
    split
    · apply State.updSlot_memOk
      apply State.advance_memOk
      with_reducible assumption
    · apply State.advance_memOk
      with_reducible assumption

theorem execChk_memOk (f : GFmt) (s : State) (hm : MemOk s) : OutOk (execChk f s) := by
  unfold execChk
  show MemOk _
  apply State.issue_memOk
  · with_reducible assumption
  · intros
    apply State.eachLane_memOk
    · with_reducible assumption
    · intros
      apply State.raiseOnly_memOk
      with_reducible assumption
    · intros
      with_reducible assumption

theorem execTrap_memOk (f : SFmt) (s : State) (hm : MemOk s) : OutOk (execTrap f s) := by
  unfold execTrap
  show MemOk _
  apply State.issue_memOk
  · with_reducible assumption
  · intros
    apply State.eachLane_memOk
    · with_reducible assumption
    · intros
      apply State.afterRaise_memOk
      · with_reducible assumption
      · intros
        with_reducible assumption
    · intros
      with_reducible assumption

theorem State.iretOne_memOk (s : State) (skip : Bool) (v : Nat) (h : Word) (hm : MemOk s) : MemOk (State.iretOne s skip v h).2 := by
  unfold State.iretOne
  split
  · split
    · dsimp only
      apply State.resumeSub_memOk
      with_reducible assumption
    · with_reducible assumption
  · with_reducible assumption

theorem execIret_memOk (f : SFmt) (s : State) (hm : MemOk s) : OutOk (execIret f s) := by
  unfold execIret
  dsimp only
  show MemOk _
  apply State.issue_memOk
  · with_reducible assumption
  · intros
    apply State.eachLane_memOk
    · with_reducible assumption
    · intros
      apply State.raiseOnly_memOk
      with_reducible assumption
    · intros
      apply State.commit_memOk
      refine MemOk.foldl1 ?_ ?_
      · dsimp only
        apply State.drainLanes_memOk
        with_reducible assumption
      · intros
        dsimp only
        apply State.iretOne_memOk
        with_reducible assumption

theorem execTrig_memOk (f : SFmt) (s : State) (hm : MemOk s) : OutOk (execTrig f s) := by
  unfold execTrig
  show MemOk _
  apply State.issue_memOk
  · with_reducible assumption
  · intros
    apply State.eachLane_memOk
    · with_reducible assumption
    · intros
      apply State.raiseOnly_memOk
      with_reducible assumption
    · intros
      dsimp only
      split
      · apply State.drainLanes_memOk
        with_reducible assumption
      · apply State.updStand_memOk
        apply State.drainLanes_memOk
        with_reducible assumption

theorem execSrd_memOk (f : SFmt) (s : State) (hm : MemOk s) : OutOk (execSrd f s) := by
  unfold execSrd
  dsimp only
  show MemOk _
  apply State.issue_memOk
  · with_reducible assumption
  · intros
    apply State.advance_memOk
    apply State.commit_memOk
    with_reducible assumption

theorem State.setRmode_memOk (s : State) (v : Nat) (hm : MemOk s) : MemOk (State.setRmode s v) := by
  unfold State.setRmode
  dsimp only
  split
  · apply MemOk.lit
    with_reducible assumption
  · apply State.updStand_memOk
    with_reducible assumption

theorem State.swrSup_memOk (s : State) (n : Nat) (vals : List (Nat × Nat)) (lab : Label) (hm : MemOk s) : MemOk (State.swrSup s n vals lab) := by
  unfold State.swrSup
  dsimp only
  split
  · refine MemOk.foldl0 ?_ ?_
    · with_reducible assumption
    · intros
      apply State.updLane_memOk
      with_reducible assumption
  · split
    · refine MemOk.foldl0 ?_ ?_
      · with_reducible assumption
      · intros
        apply State.updLane_memOk
        with_reducible assumption
    · split
      · refine MemOk.foldl0 ?_ ?_
        · with_reducible assumption
        · intros
          apply State.updLane_memOk
          with_reducible assumption
      · split
        · apply State.postWrites_memOk
          with_reducible assumption
        · apply State.postWrites_memOk
          with_reducible assumption

theorem State.swrMgmt_memOk (s : State) (n : Nat) (v : Nat) (hm : MemOk s) : MemOk (State.swrMgmt s n v) := by
  unfold State.swrMgmt
  split
  · apply State.postWrite_memOk
    with_reducible assumption
  · apply MemOk.lit
    with_reducible assumption
  · apply MemOk.lit
    with_reducible assumption
  · with_reducible assumption

theorem execSwr_memOk (f : SFmt) (s : State) (hm : MemOk s) : OutOk (execSwr f s) := by
  unfold execSwr
  dsimp only
  show MemOk _
  apply State.issue_memOk
  · with_reducible assumption
  · intros
    apply State.eachLane_memOk
    · with_reducible assumption
    · intros
      apply State.raiseOnly_memOk
      with_reducible assumption
    · intros
      split
      · with_reducible assumption
      · split
        · apply State.setRmode_memOk
          apply State.drainLanes_memOk
          with_reducible assumption
        · split
          · apply State.swrSup_memOk
            apply State.drainLanes_memOk
            with_reducible assumption
          · apply State.swrMgmt_memOk
            apply State.drainLanes_memOk
            with_reducible assumption

theorem execDbgbrk_memOk (f : SFmt) (s : State) (hm : MemOk s) : OutOk (execDbgbrk f s) := by
  unfold execDbgbrk
  show MemOk _
  apply State.issue_memOk
  · with_reducible assumption
  · intros
    dsimp only
    split
    · split
      · apply State.finishStop_memOk
        apply State.stopQuad_memOk
        apply State.eachLane_memOk
        · with_reducible assumption
        · intros
          apply State.raiseOnly_memOk
          with_reducible assumption
        · intros
          with_reducible assumption
      · apply State.eachLane_memOk
        · with_reducible assumption
        · intros
          apply State.raiseOnly_memOk
          with_reducible assumption
        · intros
          with_reducible assumption
    · apply State.eachLane_memOk
      · with_reducible assumption
      · intros
        apply State.raiseOnly_memOk
        with_reducible assumption
      · intros
        with_reducible assumption

theorem execMark_memOk (f : SFmt) (s : State) (hm : MemOk s) : OutOk (execMark f s) := by
  unfold execMark
  dsimp only
  show MemOk _
  apply State.issue_memOk
  · with_reducible assumption
  · intros
    apply State.eachLane_memOk
    · with_reducible assumption
    · intros
      apply State.raiseOnly_memOk
      with_reducible assumption
    · intros
      apply State.traceRecord_memOk
      apply State.commit_memOk
      with_reducible assumption

theorem execHalt_memOk (f : SFmt) (s : State) (hm : MemOk s) : OutOk (execHalt f s) := by
  unfold execHalt
  show MemOk _
  apply State.issue_memOk
  · with_reducible assumption
  · intros
    apply State.eachLane_memOk
    · with_reducible assumption
    · intros
      apply State.raiseOnly_memOk
      with_reducible assumption
    · intros
      split
      · with_reducible assumption
      · apply MemOk.lit
        with_reducible assumption

end Sys2Proof.Machine
end

