-- ==== Sys2Proof/Laws/CanonicalEngine.lean ====
section
/-!
SUPPORT. The canonical form of memory is kept: the engines (matrix, asynchronous commands).
-/

namespace Sys2Proof.Machine

theorem State.raiseTogether_memOk (s : State) (ex : List Nat) (l0 : Nat) (k0 : Word × Label) (own : Nat → Option (Word × Label)) (hm : MemOk s) : MemOk (State.raiseTogether s ex l0 k0 own) := by
  unfold State.raiseTogether
  dsimp only
  apply State.advance_memOk
  apply State.park_memOk
  with_reducible assumption

theorem State.runGroup_memOk {α : Type} (s : State) (gn : BitVec 1) (gp : BitVec 3) (bad : Option Flt) (low : List Src) (each : List Src) (chk : State → Nat → List Nat → Ans α × State) (act : State → Nat → List Nat → α → State) (hm : MemOk s) (h1 : ∀ v0 v1 v2, MemOk v0 → MemOk (chk v0 v1 v2).2) (h2 : ∀ v0 v1 v2 v3, MemOk v0 → MemOk (act v0 v1 v2 v3)) : MemOk (State.runGroup s gn gp bad low each chk act) := by
  unfold State.runGroup
  apply State.issue_memOk
  · with_reducible assumption
  · intros
    dsimp only
    split
    · apply State.raiseTogether_memOk
      with_reducible assumption
    · split
      · with_reducible assumption
      · split
        · apply State.advance_memOk
          apply State.afterStop_memOk
          apply State.park_memOk
          apply_assumption
          with_reducible assumption
        · apply State.hold_memOk
          apply_assumption
          with_reducible assumption
        · apply_assumption
          apply_assumption
          with_reducible assumption

theorem State.dcNote_memOk (s : State) (w : Who) (t : Target) (hm : MemOk s) : MemOk (State.dcNote s w t) := by
  unfold State.dcNote
  split
  · apply MemOk.lit
    with_reducible assumption
  · with_reducible assumption

theorem State.checkPiece_memOk (s : State) (w : Who) (r : Req) (off : Nat) (n : Nat) (hm : MemOk s) : MemOk (State.checkPiece s w r off n).2 := by
  unfold State.checkPiece
  apply Ans.bind_memOk
  · apply State.check_memOk
    with_reducible assumption
  · intros
    split
    · with_reducible assumption
    · with_reducible assumption

theorem State.checkPieces_memOk (w : Who) (r : Req) (x1 : State) (x2 : List (Nat × Nat)) (hm : MemOk x1) : MemOk (State.checkPieces w r x1 x2).2 := by
  induction x2 generalizing x1 <;> unfold State.checkPieces
  · with_reducible assumption
  · dsimp only
    apply_assumption
    apply State.checkPiece_memOk
    with_reducible assumption

theorem State.checkSpan_memOk (s : State) (w : Who) (r : Req) (hm : MemOk s) : MemOk (State.checkSpan s w r).2 := by
  unfold State.checkSpan
  dsimp only
  apply State.checkPieces_memOk
  with_reducible assumption

theorem State.checkLists_memOk (w : Who) (x1 : State) (x2 : List Req) (hm : MemOk x1) : MemOk (State.checkLists w x1 x2).2 := by
  induction x2 generalizing x1 <;> unfold State.checkLists
  · with_reducible assumption
  · dsimp only
    apply_assumption
    apply State.checkPieces_memOk
    with_reducible assumption

theorem State.checkAll_memOk (w : Who) (s : State) (rs : List Req) (hm : MemOk s) : MemOk (State.checkAll w s rs).2 := by
  unfold State.checkAll
  dsimp only
  apply Ans.bind_memOk
  · dsimp only
    apply State.checkLists_memOk
    with_reducible assumption
  · intros
    with_reducible assumption

theorem State.touchAll_memOk (s : State) (w : Who) (ts : List (Target × Nat)) (write : Bool) (hm : MemOk s) : MemOk (State.touchAll s w ts write) := by
  unfold State.touchAll
  refine MemOk.foldl0 ?_ ?_
  · with_reducible assumption
  · intros
    apply State.touch_memOk
    split
    · apply State.dcNote_memOk
      with_reducible assumption
    · with_reducible assumption

theorem State.logEngine_memOk (s : State) (l : Loc) (write : Bool) (stand : Nat) (hm : MemOk s) : MemOk (State.logEngine s l write stand) := by
  unfold State.logEngine
  split
  · apply State.logIgnored_memOk
    with_reducible assumption
  · with_reducible assumption

theorem State.readSpans_memOk (s : State) (stand : Nat) (sp : List Span) (hm : MemOk s) : MemOk (State.readSpans s stand sp).2 := by
  unfold State.readSpans
  dsimp only
  refine MemOk.foldl1 ?_ ?_
  · with_reducible assumption
  · intros
    split
    · dsimp only
      apply State.logEngine_memOk
      with_reducible assumption
    · dsimp only
      refine MemOk.foldl0 ?_ ?_
      · with_reducible assumption
      · intros
        split
        · apply State.performRead_memOk
          with_reducible assumption
        · with_reducible assumption

theorem State.writeSpans_memOk (s : State) (stand : Nat) (thread : Nat) (x1 : List Span) (x2 : List Byte) (x3 : Label) (hm : MemOk s) : MemOk (State.writeSpans s stand thread x1 x2 x3) := by
  induction x1 generalizing s x2 x3 <;> unfold State.writeSpans
  · with_reducible assumption
  · dsimp only
    split
    · split
      · with_reducible assumption
      · apply State.setShadow_memOk
        split
        · apply State.logEngine_memOk
          with_reducible assumption
        · apply State.performStore_memOk
          with_reducible assumption
    · apply_assumption
      split
      · with_reducible assumption
      · apply State.setShadow_memOk
        split
        · apply State.logEngine_memOk
          with_reducible assumption
        · apply State.performStore_memOk
          with_reducible assumption

theorem State.tokensUp_memOk (s : State) (ex : List Nat) (tok : Nat) (hm : MemOk s) : MemOk (State.tokensUp s ex tok) := by
  unfold State.tokensUp
  refine MemOk.foldl0 ?_ ?_
  · with_reducible assumption
  · intros
    apply State.tokenUp_memOk
    with_reducible assumption

theorem State.setPresence_memOk (s : State) (line : Nat) (present : Bool) (hm : MemOk s) : MemOk (State.setPresence s line present) := by
  unfold State.setPresence
  apply State.updStand_memOk
  with_reducible assumption

theorem State.updMx_memOk (s : State) (q : Nat) (f : Matrix → Matrix) (hm : MemOk s) : MemOk (State.updMx s q f) := by
  unfold State.updMx
  apply State.updQuad_memOk
  with_reducible assumption

theorem State.blockCheck_memOk (f : XFmt) (s : State) (l : Nat) (hm : MemOk s) : MemOk (State.blockCheck f s l).2 := by
  unfold State.blockCheck
  dsimp only
  split
  · split
    · split
      · dsimp only
        apply State.laneCheck_memOk
        with_reducible assumption
      · dsimp only
        apply State.laneCheck_memOk
        with_reducible assumption
    · split
      · dsimp only
        apply State.laneCheck_memOk
        with_reducible assumption
      · dsimp only
        apply State.laneCheck_memOk
        with_reducible assumption
  · dsimp only
    apply State.laneCheck_memOk
    with_reducible assumption

theorem State.withBlock_memOk (s : State) (f : XFmt) (l : Nat) (ex : List Nat) (t : Target) (k : State → Block → State) (hm : MemOk s) (h1 : ∀ v0 v1, MemOk v0 → MemOk (k v0 v1)) : MemOk (State.withBlock s f l ex t k) := by
  unfold State.withBlock
  dsimp only
  split
  · apply State.failStand_memOk
    with_reducible assumption
  · apply_assumption
    apply State.loadAt_memOk
    with_reducible assumption

theorem State.mcfgCheck_memOk (f : XFmt) (s : State) (l : Nat) (_ex : List Nat) (hm : MemOk s) : MemOk (State.mcfgCheck f s l _ex).2 := by
  unfold State.mcfgCheck
  split
  · with_reducible assumption
  · apply State.blockCheck_memOk
    with_reducible assumption

theorem State.epcfgCheck_memOk (f : XFmt) (s : State) (l : Nat) (_ex : List Nat) (hm : MemOk s) : MemOk (State.epcfgCheck f s l _ex).2 := by
  unfold State.epcfgCheck
  apply Ans.bind_memOk
  · apply State.blockCheck_memOk
    with_reducible assumption
  · intros
    split
    · with_reducible assumption
    · with_reducible assumption

theorem execMcfg_memOk (f : XFmt) (s : State) (hm : MemOk s) : OutOk (execMcfg f s) := by
  unfold execMcfg
  show MemOk _
  apply State.runGroup_memOk
  · with_reducible assumption
  · intros
    apply State.mcfgCheck_memOk
    with_reducible assumption
  · intros
    apply State.withBlock_memOk
    · with_reducible assumption
    · intros
      split
      · apply State.advance_memOk
        apply State.updMx_memOk
        with_reducible assumption
      · apply State.parkAll_memOk
        with_reducible assumption

theorem execEpcfg_memOk (f : XFmt) (s : State) (hm : MemOk s) : OutOk (execEpcfg f s) := by
  unfold execEpcfg
  show MemOk _
  apply State.runGroup_memOk
  · with_reducible assumption
  · intros
    apply State.epcfgCheck_memOk
    with_reducible assumption
  · intros
    apply State.withBlock_memOk
    · with_reducible assumption
    · intros
      split
      · apply State.advance_memOk
        apply State.updMx_memOk
        with_reducible assumption
      · apply State.parkAll_memOk
        with_reducible assumption

theorem State.enterEngine_memOk (s : State) (ex : List Nat) (o : MOp) (hm : MemOk s) : MemOk (State.enterEngine s ex o) := by
  unfold State.enterEngine
  dsimp only
  apply State.updMx_memOk
  refine MemOk.foldl0 ?_ ?_
  · split
    · apply State.tokensUp_memOk
      apply State.drainLanes_memOk
      with_reducible assumption
    · apply State.drainLanes_memOk
      with_reducible assumption
  · intros
    apply State.setPresence_memOk
    with_reducible assumption

theorem State.wloadCheck_memOk (f : XFmt) (s : State) (l : Nat) (ex : List Nat) (hm : MemOk s) : MemOk (State.wloadCheck f s l ex).2 := by
  unfold State.wloadCheck
  dsimp only
  split
  · with_reducible assumption
  · with_reducible assumption
  · apply Ans.relabel_memOk
    apply Ans.bind_memOk
    · apply State.checkAll_memOk
      with_reducible assumption
    · intros
      split
      · with_reducible assumption
      · with_reducible assumption

theorem execWload_memOk (f : XFmt) (s : State) (hm : MemOk s) : OutOk (execWload f s) := by
  unfold execWload
  show MemOk _
  apply State.runGroup_memOk
  · with_reducible assumption
  · intros
    apply State.wloadCheck_memOk
    with_reducible assumption
  · intros
    dsimp only
    apply State.advance_memOk
    apply State.enterEngine_memOk
    refine MemOk.foldl0 ?_ ?_
    · with_reducible assumption
    · intros
      apply State.touchAll_memOk
      with_reducible assumption

theorem State.popEngine_memOk (s : State) (q : Nat) (hm : MemOk s) : MemOk (State.popEngine s q) := by
  unfold State.popEngine
  apply State.updMx_memOk
  with_reducible assumption

theorem State.finishOp_memOk (s : State) (q : Nat) (o : MOp) (hm : MemOk s) : MemOk (State.finishOp s q o) := by
  unfold State.finishOp
  dsimp only
  split
  · apply State.tokensDown_memOk
    refine MemOk.foldl0 ?_ ?_
    · apply State.popEngine_memOk
      with_reducible assumption
    · intros
      apply State.setPresence_memOk
      with_reducible assumption
  · refine MemOk.foldl0 ?_ ?_
    · apply State.popEngine_memOk
      with_reducible assumption
    · intros
      apply State.setPresence_memOk
      with_reducible assumption

theorem State.loadPieces_memOk (q : Nat) (o : MOp) (x1 : State) (x2 : List ((Nat × Nat × Nat × Nat) × List Span)) (hm : MemOk x1) : MemOk (State.loadPieces q o x1 x2) := by
  induction x2 generalizing x1 <;> unfold State.loadPieces
  · with_reducible assumption
  · dsimp only
    split
    · apply State.failStand_memOk
      apply State.readSpans_memOk
      with_reducible assumption
    · apply_assumption
      apply State.updMx_memOk
      apply State.readSpans_memOk
      with_reducible assumption

theorem execWloadComplete_memOk (quad : Nat) (s : State) (hm : MemOk s) : OutOk (execWloadComplete quad s) := by
  unfold execWloadComplete
  show MemOk _
  split
  · with_reducible assumption
  · split
    · with_reducible assumption
    · dsimp only
      split
      · apply State.loadPieces_memOk
        apply State.updMx_memOk
        with_reducible assumption
      · apply State.finishOp_memOk
        apply State.loadPieces_memOk
        apply State.updMx_memOk
        with_reducible assumption

theorem State.colCheck_memOk (f : XFmt) (c : Block) (col : Nat) (s : State) (l : Nat) (hm : MemOk s) : MemOk (State.colCheck f c col s l).2 := by
  unfold State.colCheck
  dsimp only
  split
  · with_reducible assumption
  · split
    · with_reducible assumption
    · split
      · split
        · dsimp only
          apply State.checkSpan_memOk
          with_reducible assumption
        · dsimp only
          apply State.checkSpan_memOk
          with_reducible assumption
      · split
        · dsimp only
          apply State.checkSpan_memOk
          with_reducible assumption
        · dsimp only
          apply State.checkSpan_memOk
          with_reducible assumption
      · dsimp only
        apply State.checkSpan_memOk
        with_reducible assumption

theorem State.loadColumn_memOk (f : XFmt) (c : Block) (lab : Label) (s : State) (l : Nat) (col : Nat) (a : ColAns) (hm : MemOk s) : MemOk (State.loadColumn f c lab s l col a) := by
  unfold State.loadColumn
  dsimp only
  split
  · with_reducible assumption
  · apply State.updMx_memOk
    with_reducible assumption
  · apply State.updMx_memOk
    apply State.makePoison_memOk
    with_reducible assumption
  · split
    · apply State.failStand_memOk
      apply State.readSpans_memOk
      apply State.touchAll_memOk
      with_reducible assumption
    · apply State.updMx_memOk
      apply State.readSpans_memOk
      apply State.touchAll_memOk
      with_reducible assumption

theorem State.wloadrCheck_memOk (f : XFmt) (c : Block) (base : Nat) (x1 : State) (x2 : Nat) (hm : MemOk x1) : MemOk (State.wloadrCheck f c base x1 x2).2 := by
  unfold State.wloadrCheck
  apply State.afterRaise_memOk
  · with_reducible assumption
  · intros
    apply State.colCheck_memOk
    with_reducible assumption

theorem State.bareColumn_memOk (f : XFmt) (s : State) (l : Nat) (hm : MemOk s) : MemOk (State.bareColumn f s l).2 := by
  unfold State.bareColumn
  dsimp only
  split
  · with_reducible assumption
  · split
    · with_reducible assumption
    · with_reducible assumption

theorem execWloadr_memOk (f : XFmt) (s : State) (hm : MemOk s) : OutOk (execWloadr f s) := by
  unfold execWloadr
  show MemOk _
  apply State.issue_memOk
  · with_reducible assumption
  · intros
    dsimp only
    split
    · apply State.eachLane_memOk
      · with_reducible assumption
      · intros
        apply State.afterRaise_memOk
        · with_reducible assumption
        · intros
          apply State.bareColumn_memOk
          with_reducible assumption
      · intros
        with_reducible assumption
    · split
      · apply State.hold_memOk
        with_reducible assumption
      · apply State.eachLane_memOk
        · with_reducible assumption
        · intros
          apply State.wloadrCheck_memOk
          with_reducible assumption
        · intros
          refine MemOk.foldl0 ?_ ?_
          · apply State.drainLanes_memOk
            with_reducible assumption
          · intros
            apply State.loadColumn_memOk
            with_reducible assumption

theorem State.wclrCheck_memOk (s : State) (_l : Nat) (_ex : List Nat) (hm : MemOk s) : MemOk (State.wclrCheck s _l _ex).2 := by
  unfold State.wclrCheck
  split
  · with_reducible assumption
  · split
    · with_reducible assumption
    · with_reducible assumption

theorem execWclr_memOk (f : XFmt) (s : State) (hm : MemOk s) : OutOk (execWclr f s) := by
  unfold execWclr
  show MemOk _
  apply State.runGroup_memOk
  · with_reducible assumption
  · intros
    apply State.wclrCheck_memOk
    with_reducible assumption
  · intros
    dsimp only
    apply State.advance_memOk
    apply State.updMx_memOk
    with_reducible assumption

theorem State.mmaSpans_memOk (s : State) (l : Nat) (c : Block) (e : Option Block) (rows : List Nat) (hm : MemOk s) : MemOk (State.mmaSpans s l c e rows).2 := by
  unfold State.mmaSpans
  dsimp only
  split
  · dsimp only
    apply State.checkAll_memOk
    with_reducible assumption
  · dsimp only
    apply State.checkAll_memOk
    with_reducible assumption
  · split
    · split
      · dsimp only
        apply State.checkAll_memOk
        with_reducible assumption
      · dsimp only
        apply State.checkAll_memOk
        with_reducible assumption
    · split
      · dsimp only
        apply State.checkAll_memOk
        with_reducible assumption
      · dsimp only
        apply State.checkAll_memOk
        with_reducible assumption

theorem State.operandSpans_memOk (f : XFmt) (kind : MKind) (s : State) (l : Nat) (c : Block) (e : Option Block) (rows : List Nat) (hm : MemOk s) : MemOk (State.operandSpans f kind s l c e rows).2 := by
  unfold State.operandSpans
  split
  · with_reducible assumption
  · apply State.mmaSpans_memOk
    with_reducible assumption

theorem State.shapePlace_memOk (f : XFmt) (s : State) (l : Nat) (hm : MemOk s) : MemOk (State.shapePlace f s l).2 := by
  unfold State.shapePlace
  apply State.laneCheck_memOk
  with_reducible assumption

theorem State.convSpans_memOk (f : XFmt) (s : State) (l : Nat) (c : Block) (e : Option Block) (rows : List Nat) (hm : MemOk s) : MemOk (State.convSpans f s l c e rows).2 := by
  unfold State.convSpans
  apply Ans.bind_memOk
  · apply State.shapePlace_memOk
    with_reducible assumption
  · intros
    apply Ans.bind_memOk
    · apply State.mmaSpans_memOk
      with_reducible assumption
    · intros
      dsimp only
      split
      · with_reducible assumption
      · with_reducible assumption

theorem State.kindSpans_memOk (f : XFmt) (kind : MKind) (s : State) (l : Nat) (c : Block) (e : Option Block) (rows : List Nat) (hm : MemOk s) : MemOk (State.kindSpans f kind s l c e rows).2 := by
  unfold State.kindSpans
  split
  · apply State.operandSpans_memOk
    with_reducible assumption
  · apply State.operandSpans_memOk
    with_reducible assumption
  · apply State.convSpans_memOk
    with_reducible assumption
  · apply State.mmaSpans_memOk
    with_reducible assumption

theorem State.bareSpans_memOk (f : XFmt) (kind : MKind) (s : State) (l : Nat) (hm : MemOk s) : MemOk (State.bareSpans f kind s l).2 := by
  unfold State.bareSpans
  split
  · split
    · with_reducible assumption
    · with_reducible assumption
  · split
    · with_reducible assumption
    · with_reducible assumption
  · apply Ans.bind_memOk
    · apply State.shapePlace_memOk
      with_reducible assumption
    · intros
      with_reducible assumption
  · with_reducible assumption

theorem State.mmaCheck_memOk (f : XFmt) (kind : MKind) (s : State) (l : Nat) (ex : List Nat) (hm : MemOk s) : MemOk (State.mmaCheck f kind s l ex).2 := by
  unfold State.mmaCheck
  dsimp only
  split
  · apply State.bareSpans_memOk
    with_reducible assumption
  · split
    · split
      · with_reducible assumption
      · apply Ans.bind_memOk
        · apply State.kindSpans_memOk
          apply State.drainLanes_memOk
          with_reducible assumption
        · intros
          split
          · with_reducible assumption
          · split
            · with_reducible assumption
            · with_reducible assumption
    · split
      · with_reducible assumption
      · apply Ans.bind_memOk
        · apply State.kindSpans_memOk
          apply State.drainLanes_memOk
          with_reducible assumption
        · intros
          split
          · with_reducible assumption
          · split
            · with_reducible assumption
            · with_reducible assumption

theorem State.readVec_memOk (s : State) (stand : Nat) (ts : List (Target × Nat)) (hm : MemOk s) : MemOk (State.readVec s stand ts).2 := by
  unfold State.readVec
  dsimp only
  apply State.readSpans_memOk
  with_reducible assumption

theorem State.mmaAccept_memOk (f : XFmt) (kind : MKind) (s : State) (l : Nat) (ex : List Nat) (a : Accepted) (hm : MemOk s) : MemOk (State.mmaAccept f kind s l ex a) := by
  unfold State.mmaAccept
  dsimp only
  split
  · apply State.failStand_memOk
    apply State.readVec_memOk
    apply State.readVec_memOk
    refine MemOk.foldl0 ?_ ?_
    · refine MemOk.foldl0 ?_ ?_
      · with_reducible assumption
      · intros
        apply State.touchAll_memOk
        with_reducible assumption
    · intros
      apply State.touchAll_memOk
      with_reducible assumption
  · split
    · apply State.enterEngine_memOk
      apply State.updStand_memOk
      apply State.readVec_memOk
      apply State.readVec_memOk
      refine MemOk.foldl0 ?_ ?_
      · refine MemOk.foldl0 ?_ ?_
        · with_reducible assumption
        · intros
          apply State.touchAll_memOk
          with_reducible assumption
      · intros
        apply State.touchAll_memOk
        with_reducible assumption
    · apply State.enterEngine_memOk
      apply State.readVec_memOk
      apply State.readVec_memOk
      refine MemOk.foldl0 ?_ ?_
      · refine MemOk.foldl0 ?_ ?_
        · with_reducible assumption
        · intros
          apply State.touchAll_memOk
          with_reducible assumption
      · intros
        apply State.touchAll_memOk
        with_reducible assumption

theorem State.runMma_memOk (s : State) (f : XFmt) (kind : MKind) (hm : MemOk s) : MemOk (State.runMma s f kind) := by
  unfold State.runMma
  dsimp only
  apply State.issue_memOk
  · with_reducible assumption
  · intros
    split
    · apply State.hold_memOk
      with_reducible assumption
    · split
      · split
        · apply State.advance_memOk
          apply State.park_memOk
          with_reducible assumption
        · split
          · apply State.advance_memOk
            apply State.afterStop_memOk
            apply State.park_memOk
            apply State.mmaCheck_memOk
            apply State.park_memOk
            with_reducible assumption
          · apply State.hold_memOk
            apply State.mmaCheck_memOk
            apply State.park_memOk
            with_reducible assumption
          · apply State.mmaAccept_memOk
            apply State.mmaCheck_memOk
            apply State.park_memOk
            with_reducible assumption
      · apply State.runGroup_memOk
        · with_reducible assumption
        · intros
          apply State.mmaCheck_memOk
          with_reducible assumption
        · intros
          apply State.mmaAccept_memOk
          with_reducible assumption

theorem execMma_memOk (f : XFmt) (s : State) (hm : MemOk s) : OutOk (execMma f s) := by
  unfold execMma
  show MemOk _
  apply State.runMma_memOk
  with_reducible assumption

theorem execMmasp_memOk (f : XFmt) (s : State) (hm : MemOk s) : OutOk (execMmasp f s) := by
  unfold execMmasp
  show MemOk _
  apply State.runMma_memOk
  with_reducible assumption

theorem execMconv_memOk (f : XFmt) (s : State) (hm : MemOk s) : OutOk (execMconv f s) := by
  unfold execMconv
  show MemOk _
  apply State.runMma_memOk
  with_reducible assumption

theorem execMmar_memOk (f : XFmt) (s : State) (hm : MemOk s) : OutOk (execMmar f s) := by
  unfold execMmar
  show MemOk _
  apply State.runMma_memOk
  with_reducible assumption

theorem State.convElem_memOk (s : State) (o : MOp) (w : Who) (m : Nat) (k : Nat) (hm : MemOk s) : MemOk (State.convElem s o w m k).2 := by
  unfold State.convElem
  split
  · with_reducible assumption
  · extract_lets +onlyGivenNames y0
    clear_value y0
    apply Ans.bind_memOk
    · apply State.checkSpan_memOk
      with_reducible assumption
    · intros
      extract_lets +onlyGivenNames y1
      have hy1 : MemOk y1.2 := by
        dsimp only [y1]
        apply State.readSpans_memOk
        with_reducible assumption
      clear_value y1
      with_reducible assumption

theorem State.convRow_memOk (o : MOp) (w : Who) (m : Nat) (x1 : State) (x2 : List Nat) (hm : MemOk x1) : MemOk (State.convRow o w m x1 x2).2 := by
  fun_induction State.convRow o w m x1 x2
  · with_reducible assumption
  · apply Ans.bind_memOk
    · apply State.convElem_memOk
      with_reducible assumption
    · intros
      apply Ans.bind_memOk
      · apply_assumption
        with_reducible assumption
      · intros
        with_reducible assumption

theorem State.fetchRow_memOk (s : State) (o : MOp) (w : Who) (m : Nat) (hm : MemOk s) : MemOk (State.fetchRow s o w m).2 := by
  unfold State.fetchRow
  dsimp only
  split
  · split
    · with_reducible assumption
    · with_reducible assumption
  · apply State.convRow_memOk
    with_reducible assumption
  · with_reducible assumption
  · split
    · dsimp only
      apply State.checkSpan_memOk
      with_reducible assumption
    · dsimp only
      apply State.checkSpan_memOk
      with_reducible assumption
    · dsimp only
      apply State.readSpans_memOk
      apply State.touchAll_memOk
      apply State.checkSpan_memOk
      with_reducible assumption
  · split
    · dsimp only
      apply State.checkSpan_memOk
      with_reducible assumption
    · dsimp only
      apply State.checkSpan_memOk
      with_reducible assumption
    · dsimp only
      apply State.readSpans_memOk
      apply State.touchAll_memOk
      apply State.checkSpan_memOk
      with_reducible assumption

theorem State.fetchScales_memOk (s : State) (o : MOp) (w : Who) (m : Nat) (hm : MemOk s) : MemOk (State.fetchScales s o w m).2 := by
  unfold State.fetchScales
  split
  · with_reducible assumption
  · apply Ans.bind_memOk
    · apply State.checkSpan_memOk
      with_reducible assumption
    · intros
      dsimp only
      apply State.readSpans_memOk
      with_reducible assumption

theorem State.interruptOp_memOk (s : State) (q : Nat) (o : MOp) (hm : MemOk s) : MemOk (State.interruptOp s q o) := by
  unfold State.interruptOp
  dsimp only
  apply State.updStand_memOk
  split
  · apply State.tokensDown_memOk
    refine MemOk.foldl0 ?_ ?_
    · apply State.updMx_memOk
      apply State.updMx_memOk
      with_reducible assumption
    · intros
      apply State.setPresence_memOk
      with_reducible assumption
  · refine MemOk.foldl0 ?_ ?_
    · apply State.updMx_memOk
      apply State.updMx_memOk
      with_reducible assumption
    · intros
      apply State.setPresence_memOk
      with_reducible assumption

theorem State.rowFault_memOk (s : State) (q : Nat) (o : MOp) (x : Flt) (hm : MemOk s) : MemOk (State.rowFault s q o x) := by
  unfold State.rowFault
  dsimp only
  apply State.afterStop_memOk
  apply State.park_memOk
  apply MemOk.lit
  apply State.interruptOp_memOk
  with_reducible assumption

theorem State.rowTaken_memOk (s : State) (q : Nat) (o : MOp) (row : Option ARow) (hm : MemOk s) : MemOk (State.rowTaken s q o row) := by
  unfold State.rowTaken
  dsimp only
  refine MemOk.foldl0 ?_ ?_
  · apply State.updMx_memOk
    with_reducible assumption
  · intros
    apply State.updThread_memOk
    with_reducible assumption

theorem execRowAccept_memOk (quad : Nat) (s : State) (hm : MemOk s) : OutOk (execRowAccept quad s) := by
  unfold execRowAccept
  dsimp only
  show MemOk _
  split
  · with_reducible assumption
  · split
    · with_reducible assumption
    · split
      · apply State.rowTaken_memOk
        apply MemOk.lit
        with_reducible assumption
      · split
        · with_reducible assumption
        · apply State.rowFault_memOk
          apply State.fetchScales_memOk
          apply MemOk.lit
          with_reducible assumption
        · split
          · with_reducible assumption
          · apply State.rowFault_memOk
            apply State.fetchRow_memOk
            apply State.fetchScales_memOk
            apply MemOk.lit
            with_reducible assumption
          · split
            · apply State.failStand_memOk
              apply State.fetchRow_memOk
              apply State.fetchScales_memOk
              apply MemOk.lit
              with_reducible assumption
            · apply State.rowTaken_memOk
              apply State.fetchRow_memOk
              apply State.fetchScales_memOk
              apply MemOk.lit
              with_reducible assumption

theorem State.moveBit_memOk (s : State) (th : Nat) (p : MPoison) (hm : MemOk s) : MemOk (State.moveBit s th p).2 := by
  unfold State.moveBit
  split
  · with_reducible assumption
  · dsimp only
    apply State.adopt_memOk
    with_reducible assumption

theorem State.takeCols_memOk (s : State) (q : Nat) (o : MOp) (hm : MemOk s) : MemOk (State.takeCols s q o) := by
  unfold State.takeCols
  refine MemOk.foldl0 ?_ ?_
  · with_reducible assumption
  · intros
    dsimp only
    split
    · apply State.updMx_memOk
      apply State.moveBit_memOk
      with_reducible assumption
    · with_reducible assumption

theorem execRowWrite_memOk (quad : Nat) (s : State) (hm : MemOk s) : OutOk (execRowWrite quad s) := by
  unfold execRowWrite
  show MemOk _
  split
  · with_reducible assumption
  · split
    · with_reducible assumption
    · split
      · dsimp only
        split
        · split
          · apply State.popEngine_memOk
            apply State.updMx_memOk
            apply State.takeCols_memOk
            apply State.updMx_memOk
            with_reducible assumption
          · split
            · apply State.finishOp_memOk
              apply State.updMx_memOk
              apply State.takeCols_memOk
              apply State.updMx_memOk
              with_reducible assumption
            · apply State.updMx_memOk
              apply State.takeCols_memOk
              apply State.updMx_memOk
              with_reducible assumption
        · apply State.updMx_memOk
          apply State.takeCols_memOk
          apply State.updMx_memOk
          with_reducible assumption
      · split
        · apply State.popEngine_memOk
          apply State.updMx_memOk
          with_reducible assumption
        · split
          · apply State.finishOp_memOk
            apply State.updMx_memOk
            with_reducible assumption
          · with_reducible assumption

theorem State.outRegs_memOk (s : State) (th : Nat) (d : Nat) (wo : Nat) (els : List OutElem) (n : Nat) (hm : MemOk s) : MemOk (State.outRegs s th d wo els n) := by
  unfold State.outRegs
  dsimp only
  refine MemOk.foldl0 ?_ ?_
  · with_reducible assumption
  · intros
    split
    · apply State.updThread_memOk
      apply State.moveBit_memOk
      with_reducible assumption
    · apply State.updThread_memOk
      with_reducible assumption

theorem State.outElem_memOk (s : State) (stand : Nat) (th : Nat) (wo : Nat) (sp : List Span) (lab : Label) (j : Nat) (v : Nat) (hm : MemOk s) : MemOk (State.outElem s stand th wo sp lab j v) := by
  unfold State.outElem
  dsimp only
  apply State.writeSpans_memOk
  with_reducible assumption

theorem State.outMem_memOk (s : State) (stand : Nat) (th : Nat) (wo : Nat) (sp : List Span) (lab : Label) (els : List OutElem) (hm : MemOk s) : MemOk (State.outMem s stand th wo sp lab els) := by
  unfold State.outMem
  split
  · apply State.writeSpans_memOk
    with_reducible assumption
  · refine MemOk.foldl0 ?_ ?_
    · with_reducible assumption
    · intros
      split
      · with_reducible assumption
      · apply State.outElem_memOk
        with_reducible assumption

theorem State.deferToken_memOk (s : State) (ths : List Nat) (tok : Nat) (p : MPoison) (lab : Label) (hm : MemOk s) : MemOk (State.deferToken s ths tok p lab) := by
  unfold State.deferToken
  refine MemOk.foldl0 ?_ ?_
  · with_reducible assumption
  · intros
    dsimp only
    apply State.tokenDown_memOk
    apply State.updThread_memOk
    with_reducible assumption

theorem execEpilogue_memOk (quad : Nat) (s : State) (hm : MemOk s) : OutOk (execEpilogue quad s) := by
  unfold execEpilogue
  show MemOk _
  split
  · with_reducible assumption
  · split
    · with_reducible assumption
    · split
      · with_reducible assumption
      · dsimp only
        split
        · split
          · refine MemOk.foldl0 ?_ ?_
            · apply State.updMx_memOk
              apply State.updMx_memOk
              apply MemOk.lit
              with_reducible assumption
            · intros
              apply State.outMem_memOk
              with_reducible assumption
          · split
            · apply State.deferToken_memOk
              refine MemOk.foldl0 ?_ ?_
              · apply State.popEngine_memOk
                refine MemOk.foldl0 ?_ ?_
                · apply State.updMx_memOk
                  apply State.updMx_memOk
                  apply MemOk.lit
                  with_reducible assumption
                · intros
                  apply State.outMem_memOk
                  with_reducible assumption
              · intros
                apply State.setPresence_memOk
                with_reducible assumption
            · apply State.finishOp_memOk
              refine MemOk.foldl0 ?_ ?_
              · apply State.updMx_memOk
                apply State.updMx_memOk
                apply MemOk.lit
                with_reducible assumption
              · intros
                apply State.outMem_memOk
                with_reducible assumption
        · apply State.finishOp_memOk
          apply State.labelDsts_memOk
          refine MemOk.foldl0 ?_ ?_
          · apply State.updMx_memOk
            apply State.updMx_memOk
            apply MemOk.lit
            with_reducible assumption
          · intros
            split
            · apply State.outRegs_memOk
              with_reducible assumption
            · with_reducible assumption

theorem execMstat_memOk (f : XFmt) (s : State) (hm : MemOk s) : OutOk (execMstat f s) := by
  unfold execMstat
  dsimp only
  show MemOk _
  apply State.issue_memOk
  · with_reducible assumption
  · intros
    apply State.advance_memOk
    apply State.commit_memOk
    with_reducible assumption

theorem execMdrain_memOk (f : XFmt) (s : State) (hm : MemOk s) : OutOk (execMdrain f s) := by
  unfold execMdrain
  show MemOk _
  apply State.runGroup_memOk
  · with_reducible assumption
  · intros
    split
    · with_reducible assumption
    · with_reducible assumption
  · intros
    apply State.advance_memOk
    with_reducible assumption

theorem State.readAcc_memOk (f : XFmt) (x : Matrix) (k : Nat) (cols : Nat) (s : State) (l : Nat) (hm : MemOk s) : MemOk (State.readAcc f x k cols s l) := by
  unfold State.readAcc
  dsimp only
  split
  · apply State.writeDst_memOk
    with_reducible assumption
  · refine MemOk.foldl0 ?_ ?_
    · with_reducible assumption
    · intros
      split
      · apply State.updThread_memOk
        apply State.moveBit_memOk
        with_reducible assumption
      · apply State.updThread_memOk
        with_reducible assumption

theorem execMrdacc_memOk (f : XFmt) (s : State) (hm : MemOk s) : OutOk (execMrdacc f s) := by
  unfold execMrdacc
  dsimp only
  show MemOk _
  apply State.issue_memOk
  · with_reducible assumption
  · intros
    split
    · apply State.parkAll_memOk
      with_reducible assumption
    · split
      · apply State.hold_memOk
        with_reducible assumption
      · apply State.advance_memOk
        apply State.labelDsts_memOk
        refine MemOk.foldl0 ?_ ?_
        · with_reducible assumption
        · intros
          apply State.readAcc_memOk
          with_reducible assumption

theorem State.writeAcc_memOk (f : XFmt) (k : Nat) (cols : Nat) (s : State) (l : Nat) (hm : MemOk s) : MemOk (State.writeAcc f k cols s l) := by
  unfold State.writeAcc
  dsimp only
  apply State.updMx_memOk
  with_reducible assumption

theorem execMwracc_memOk (f : XFmt) (s : State) (hm : MemOk s) : OutOk (execMwracc f s) := by
  unfold execMwracc
  dsimp only
  show MemOk _
  apply State.issue_memOk
  · with_reducible assumption
  · intros
    split
    · apply State.eachLane_memOk
      · with_reducible assumption
      · intros
        apply State.afterRaise_memOk
        · with_reducible assumption
        · intros
          with_reducible assumption
      · intros
        with_reducible assumption
    · split
      · apply State.hold_memOk
        with_reducible assumption
      · apply State.eachLane_memOk
        · with_reducible assumption
        · intros
          apply State.raiseOnly_memOk
          with_reducible assumption
        · intros
          apply State.updMx_memOk
          refine MemOk.foldl0 ?_ ?_
          · with_reducible assumption
          · intros
            apply State.writeAcc_memOk
            with_reducible assumption

theorem State.sideCheck_memOk (s : State) (w : Who) (x : Nat × Nat × Nat) (n : Nat) (write : Bool) (hm : MemOk s) : MemOk (State.sideCheck s w x n write).2 := by
  unfold State.sideCheck
  split
  · with_reducible assumption
  · dsimp only
    split
    · dsimp only
      apply State.checkSpan_memOk
      with_reducible assumption
    · dsimp only
      apply State.checkSpan_memOk
      with_reducible assumption
    · dsimp only
      apply State.checkSpan_memOk
      with_reducible assumption

theorem State.pieceCheck_memOk (s : State) (w : Who) (p : Piece) (hm : MemOk s) : MemOk (State.pieceCheck s w p).2 := by
  unfold State.pieceCheck
  dsimp only
  apply Ans.bind_memOk
  · dsimp only
    apply State.sideCheck_memOk
    split
    · apply State.sideCheck_memOk
      with_reducible assumption
    · with_reducible assumption
  · intros
    split
    · split
      · with_reducible assumption
      · with_reducible assumption
    · with_reducible assumption

theorem State.checkCopies_memOk (w : Who) (x1 : State) (x2 : List Piece) (hm : MemOk x1) : MemOk (State.checkCopies w x1 x2).2 := by
  induction x2 generalizing x1 <;> unfold State.checkCopies
  · with_reducible assumption
  · dsimp only
    apply_assumption
    apply State.pieceCheck_memOk
    with_reducible assumption

theorem State.piecesCheck_memOk (w : Who) (s : State) (ps : List Piece) (hm : MemOk s) : MemOk (State.piecesCheck w s ps).2 := by
  unfold State.piecesCheck
  dsimp only
  apply Ans.bind_memOk
  · dsimp only
    apply State.checkCopies_memOk
    with_reducible assumption
  · intros
    with_reducible assumption

theorem State.submit_memOk (s : State) (l : Nat) (ex : List Nat) (tok : Nat) (c : Copied) (lab : Label) (hm : MemOk s) : MemOk (State.submit s l ex tok c lab) := by
  unfold State.submit
  dsimp only
  apply MemOk.lit
  refine MemOk.foldl0 ?_ ?_
  · apply State.tokensUp_memOk
    apply State.touchAll_memOk
    apply State.touchAll_memOk
    apply State.drainLanes_memOk
    with_reducible assumption
  · intros
    apply State.setPresence_memOk
    with_reducible assumption

theorem State.prepLinear_memOk (s : State) (f : YFmt) (w : Who) (t : Thread) (src : Nat × Nat) (dst : Nat × Nat) (hm : MemOk s) : MemOk (State.prepLinear s f w t src dst).2 := by
  unfold State.prepLinear
  dsimp only
  split
  · with_reducible assumption
  · split
    · with_reducible assumption
    · with_reducible assumption

theorem State.prepShaped_memOk (s : State) (f : YFmt) (w : Who) (t : Thread) (src : Nat × Nat) (dst : Nat × Nat) (hm : MemOk s) : MemOk (State.prepShaped s f w t src dst).2 := by
  unfold State.prepShaped
  dsimp only
  split
  · with_reducible assumption
  · apply Ans.bind_memOk
    · apply State.checkSpan_memOk
      with_reducible assumption
    · intros
      split
      · with_reducible assumption
      · split
        · split
          · split
            · with_reducible assumption
            · split
              · with_reducible assumption
              · split
                · with_reducible assumption
                · split
                  · with_reducible assumption
                  · with_reducible assumption
          · split
            · with_reducible assumption
            · split
              · with_reducible assumption
              · split
                · with_reducible assumption
                · split
                  · with_reducible assumption
                  · with_reducible assumption
        · split
          · split
            · with_reducible assumption
            · split
              · with_reducible assumption
              · split
                · with_reducible assumption
                · split
                  · with_reducible assumption
                  · with_reducible assumption
          · split
            · with_reducible assumption
            · split
              · with_reducible assumption
              · split
                · with_reducible assumption
                · split
                  · with_reducible assumption
                  · with_reducible assumption

theorem State.copyCheck_memOk (f : YFmt) (srcs : List Src) (prep : State → Who → Thread → Ans Prepared × State) (s : State) (l : Nat) (ex : List Nat) (hm : MemOk s) (h1 : ∀ v0 v1 v2, MemOk v0 → MemOk (prep v0 v1 v2).2) : MemOk (State.copyCheck f srcs prep s l ex).2 := by
  unfold State.copyCheck
  split
  · with_reducible assumption
  · apply Ans.relabel_memOk
    apply Ans.bind_memOk
    · apply_assumption
      apply State.drainLanes_memOk
      with_reducible assumption
    · intros
      apply Ans.bind_memOk
      · apply State.piecesCheck_memOk
        with_reducible assumption
      · intros
        with_reducible assumption

theorem State.runCopy_memOk (s : State) (f : YFmt) (bad : Option Flt) (srcs : List Src) (prep : State → Who → Thread → Ans Prepared × State) (hm : MemOk s) (h1 : ∀ v0 v1 v2, MemOk v0 → MemOk (prep v0 v1 v2).2) : MemOk (State.runCopy s f bad srcs prep) := by
  unfold State.runCopy
  apply State.runGroup_memOk
  · with_reducible assumption
  · intros
    apply State.copyCheck_memOk
    · with_reducible assumption
    · intros
      apply_assumption
      with_reducible assumption
  · intros
    split
    · apply State.failStand_memOk
      with_reducible assumption
    · dsimp only
      apply State.advance_memOk
      apply State.submit_memOk
      apply State.touchAll_memOk
      with_reducible assumption

theorem State.xcopyPrep_memOk (f : YFmt) (s : State) (w : Who) (t : Thread) (hm : MemOk s) : MemOk (State.xcopyPrep f s w t).2 := by
  unfold State.xcopyPrep
  dsimp only
  split
  · apply State.prepShaped_memOk
    with_reducible assumption
  · apply State.prepLinear_memOk
    with_reducible assumption

theorem execXcopy_memOk (f : YFmt) (s : State) (hm : MemOk s) : OutOk (execXcopy f s) := by
  unfold execXcopy
  show MemOk _
  apply State.runCopy_memOk
  · with_reducible assumption
  · intros
    apply State.xcopyPrep_memOk
    with_reducible assumption

theorem State.xkickPrep_memOk (f : YFmt) (s : State) (w : Who) (t : Thread) (hm : MemOk s) : MemOk (State.xkickPrep f s w t).2 := by
  unfold State.xkickPrep
  dsimp only
  split
  · with_reducible assumption
  · apply Ans.bind_memOk
    · apply State.checkSpan_memOk
      with_reducible assumption
    · intros
      split
      · with_reducible assumption
      · split
        · with_reducible assumption
        · with_reducible assumption

theorem execXkick_memOk (f : YFmt) (s : State) (hm : MemOk s) : OutOk (execXkick f s) := by
  unfold execXkick
  show MemOk _
  apply State.runCopy_memOk
  · with_reducible assumption
  · intros
    apply State.xkickPrep_memOk
    with_reducible assumption

theorem State.updCmd_memOk (s : State) (k : Nat) (f : Command → Command) (hm : MemOk s) : MemOk (State.updCmd s k f) := by
  unfold State.updCmd
  apply MemOk.lit
  with_reducible assumption

theorem State.settleLines_memOk (s : State) (k : Nat) (hm : MemOk s) : MemOk (State.settleLines s k) := by
  unfold State.settleLines
  split
  · with_reducible assumption
  · dsimp only
    apply State.updCmd_memOk
    refine MemOk.foldl0 ?_ ?_
    · with_reducible assumption
    · intros
      apply State.setPresence_memOk
      with_reducible assumption

theorem State.moveBytes_memOk (s : State) (c : Command) (m : Move) (p : Span) (n : Nat) (data : List Byte) (hm : MemOk s) : MemOk (State.moveBytes s c m p n data).2 := by
  unfold State.moveBytes
  dsimp only
  split
  · with_reducible assumption
  · apply State.readSpans_memOk
    with_reducible assumption

theorem State.creditMove_memOk (s : State) (stand : Nat) (m : Move) (n : Nat) (lab : Label) (hm : MemOk s) : MemOk (State.creditMove s stand m n lab) := by
  unfold State.creditMove
  split
  · apply State.tbarCredit_memOk
    with_reducible assumption
  · with_reducible assumption

theorem execCopyLineArrival_memOk (cmd : Nat) (data : List Byte) (s : State) (hm : MemOk s) : OutOk (execCopyLineArrival cmd data s) := by
  unfold execCopyLineArrival
  show MemOk _
  split
  · with_reducible assumption
  · split
    · split
      · split
        · apply State.updCmd_memOk
          with_reducible assumption
        · dsimp only
          split
          · apply State.failStand_memOk
            apply State.readSpans_memOk
            with_reducible assumption
          · split
            · apply State.updCmd_memOk
              apply State.readSpans_memOk
              with_reducible assumption
            · apply State.creditMove_memOk
              apply MemOk.lit
              apply State.updCmd_memOk
              apply State.readSpans_memOk
              with_reducible assumption
      · dsimp only
        split
        · split
          · split
            · with_reducible assumption
            · split
              · apply State.failStand_memOk
                apply State.moveBytes_memOk
                with_reducible assumption
              · apply State.creditMove_memOk
                apply State.settleLines_memOk
                apply State.updCmd_memOk
                apply State.writeSpans_memOk
                apply State.moveBytes_memOk
                with_reducible assumption
          · split
            · with_reducible assumption
            · split
              · apply State.failStand_memOk
                apply State.moveBytes_memOk
                with_reducible assumption
              · apply State.creditMove_memOk
                apply State.settleLines_memOk
                apply State.updCmd_memOk
                apply State.writeSpans_memOk
                apply State.moveBytes_memOk
                with_reducible assumption
        · split
          · split
            · with_reducible assumption
            · split
              · apply State.failStand_memOk
                apply State.moveBytes_memOk
                with_reducible assumption
              · apply State.creditMove_memOk
                apply State.settleLines_memOk
                apply State.updCmd_memOk
                apply State.writeSpans_memOk
                apply State.moveBytes_memOk
                with_reducible assumption
          · split
            · with_reducible assumption
            · split
              · apply State.failStand_memOk
                apply State.moveBytes_memOk
                with_reducible assumption
              · apply State.creditMove_memOk
                apply State.settleLines_memOk
                apply State.updCmd_memOk
                apply State.writeSpans_memOk
                apply State.moveBytes_memOk
                with_reducible assumption
    · with_reducible assumption

theorem execCopyComplete_memOk (cmd : Nat) (s : State) (hm : MemOk s) : OutOk (execCopyComplete cmd s) := by
  unfold execCopyComplete
  show MemOk _
  split
  · with_reducible assumption
  · split
    · with_reducible assumption
    · dsimp only
      apply MemOk.lit
      apply State.tokensDown_memOk
      apply State.settleLines_memOk
      with_reducible assumption

theorem State.statusRaise_memOk (s : State) (l : Nat) (k : Nat) (hm : MemOk s) : MemOk (State.statusRaise s l k).2 := by
  unfold State.statusRaise
  dsimp only
  apply State.updLane_memOk
  with_reducible assumption

theorem State.waitLane_memOk (s : State) (gp : BitVec 3) (k : Nat) (trap : Bool) (l : Nat) (hm : MemOk s) : MemOk (State.waitLane s gp k trap l).2 := by
  unfold State.waitLane
  split
  · with_reducible assumption
  · dsimp only
    split
    · with_reducible assumption
    · split
      · dsimp only
        apply State.statusRaise_memOk
        with_reducible assumption
      · split
        · dsimp only
          apply State.updLane_memOk
          with_reducible assumption
        · dsimp only
          apply State.updLane_memOk
          with_reducible assumption

theorem waitLanes_memOk (go : State → Nat → WaitAns × State) (x1 : State) (x2 : List Nat) (hm : MemOk x1) (h1 : ∀ v0 v1, MemOk v0 → MemOk (go v0 v1).2) : MemOk (waitLanes go x1 x2).2 := by
  fun_induction waitLanes go x1 x2
  · with_reducible assumption
  · dsimp only
    apply_assumption
    apply_assumption
    with_reducible assumption

theorem execXwait_memOk (f : YFmt) (s : State) (hm : MemOk s) : OutOk (execXwait f s) := by
  unfold execXwait
  dsimp only
  show MemOk _
  apply State.issue_memOk
  · with_reducible assumption
  · intros
    apply State.advance_memOk
    apply State.park_memOk
    split
    · refine MemOk.foldl0 ?_ ?_
      · apply waitLanes_memOk
        · with_reducible assumption
        · intros
          apply State.waitLane_memOk
          with_reducible assumption
      · intros
        apply State.updLane_memOk
        with_reducible assumption
    · apply State.commit_memOk
      refine MemOk.foldl0 ?_ ?_
      · apply waitLanes_memOk
        · with_reducible assumption
        · intros
          apply State.waitLane_memOk
          with_reducible assumption
      · intros
        apply State.updLane_memOk
        with_reducible assumption

theorem execXtest_memOk (f : YFmt) (s : State) (hm : MemOk s) : OutOk (execXtest f s) := by
  unfold execXtest
  dsimp only
  show MemOk _
  apply State.issue_memOk
  · with_reducible assumption
  · intros
    apply State.advance_memOk
    apply State.commit_memOk
    with_reducible assumption

theorem State.updCircuit_memOk (s : State) (stand : Nat) (k : Nat) (f : Circuit → Circuit) (hm : MemOk s) : MemOk (State.updCircuit s stand k f) := by
  unfold State.updCircuit
  apply State.updStand_memOk
  with_reducible assumption

theorem State.sendCheck_memOk (f : YFmt) (s : State) (_l : Nat) (_ex : List Nat) (hm : MemOk s) : MemOk (State.sendCheck f s _l _ex).2 := by
  unfold State.sendCheck
  split
  · with_reducible assumption
  · split
    · with_reducible assumption
    · with_reducible assumption

theorem execSend_memOk (f : YFmt) (s : State) (hm : MemOk s) : OutOk (execSend f s) := by
  unfold execSend
  show MemOk _
  apply State.runGroup_memOk
  · with_reducible assumption
  · intros
    apply State.sendCheck_memOk
    with_reducible assumption
  · intros
    dsimp only
    apply State.advance_memOk
    apply State.updCircuit_memOk
    split
    · apply State.drainLanes_memOk
      with_reducible assumption
    · with_reducible assumption

theorem execMessageArrival_memOk (stand : Nat) (route : Nat) (s : State) (hm : MemOk s) : OutOk (execMessageArrival stand route s) := by
  unfold execMessageArrival
  show MemOk _
  split
  · with_reducible assumption
  · apply State.updCircuit_memOk
    with_reducible assumption

theorem State.circuitCheck_memOk (f : YFmt) (s : State) (_l : Nat) (_ex : List Nat) (hm : MemOk s) : MemOk (State.circuitCheck f s _l _ex).2 := by
  unfold State.circuitCheck
  split
  · with_reducible assumption
  · split
    · with_reducible assumption
    · with_reducible assumption

theorem execRecv_memOk (f : YFmt) (s : State) (hm : MemOk s) : OutOk (execRecv f s) := by
  unfold execRecv
  dsimp only
  show MemOk _
  apply State.runGroup_memOk
  · with_reducible assumption
  · intros
    apply State.circuitCheck_memOk
    with_reducible assumption
  · intros
    apply State.advance_memOk
    apply State.commit_memOk
    apply State.updCircuit_memOk
    with_reducible assumption

theorem execRtest_memOk (f : YFmt) (s : State) (hm : MemOk s) : OutOk (execRtest f s) := by
  unfold execRtest
  dsimp only
  show MemOk _
  apply State.issue_memOk
  · with_reducible assumption
  · intros
    apply State.advance_memOk
    apply State.commit_memOk
    with_reducible assumption

theorem State.queueBurst_memOk (s : State) (b : Burst) (hm : MemOk s) : MemOk (State.queueBurst s b) := by
  unfold State.queueBurst
  split
  · apply State.tokensDown_memOk
    with_reducible assumption
  · apply MemOk.lit
    with_reducible assumption

theorem State.checkVault_memOk (s : State) (w : Who) (r : Req) (hm : MemOk s) : MemOk (State.checkVault s w r).2 := by
  unfold State.checkVault
  dsimp only
  apply State.checkSpan_memOk
  with_reducible assumption

theorem State.obsendCheck_memOk (f : YFmt) (s : State) (l : Nat) (ex : List Nat) (hm : MemOk s) : MemOk (State.obsendCheck f s l ex).2 := by
  unfold State.obsendCheck
  dsimp only
  split
  · with_reducible assumption
  · split
    · with_reducible assumption
    · split
      · with_reducible assumption
      · apply Ans.bind_memOk
        · apply Ans.relabel_memOk
          apply State.checkVault_memOk
          with_reducible assumption
        · intros
          with_reducible assumption

theorem execObsend_memOk (f : YFmt) (s : State) (hm : MemOk s) : OutOk (execObsend f s) := by
  unfold execObsend
  show MemOk _
  apply State.runGroup_memOk
  · with_reducible assumption
  · intros
    apply State.obsendCheck_memOk
    with_reducible assumption
  · intros
    dsimp only
    split
    · apply State.failStand_memOk
      apply State.readSpans_memOk
      apply State.touchAll_memOk
      apply State.drainLanes_memOk
      with_reducible assumption
    · apply State.advance_memOk
      split
      · apply State.tokensDown_memOk
        apply State.tokensUp_memOk
        apply State.readSpans_memOk
        apply State.touchAll_memOk
        apply State.drainLanes_memOk
        with_reducible assumption
      · apply State.queueBurst_memOk
        apply State.tokensUp_memOk
        apply State.readSpans_memOk
        apply State.touchAll_memOk
        apply State.drainLanes_memOk
        with_reducible assumption

theorem execBurstTransmit_memOk (port : Nat) (s : State) (hm : MemOk s) : OutOk (execBurstTransmit port s) := by
  unfold execBurstTransmit
  show MemOk _
  split
  · with_reducible assumption
  · split
    · with_reducible assumption
    · dsimp only
      split
      · apply MemOk.lit
        with_reducible assumption
      · apply MemOk.lit
        with_reducible assumption

theorem State.endBurst_memOk (s : State) (k : Nat) (code : Byte) (info : BitVec 16) (hm : MemOk s) : MemOk (State.endBurst s k code info) := by
  unfold State.endBurst
  split
  · with_reducible assumption
  · dsimp only
    apply MemOk.lit
    apply State.tokensDown_memOk
    with_reducible assumption

theorem execBurstAck_memOk (burst : Nat) (refused : Bool) (s : State) (hm : MemOk s) : OutOk (execBurstAck burst refused s) := by
  unfold execBurstAck
  show MemOk _
  split
  · with_reducible assumption
  · split
    · with_reducible assumption
    · split
      · apply State.endBurst_memOk
        with_reducible assumption
      · apply State.endBurst_memOk
        with_reducible assumption

theorem execAckTimeout_memOk (burst : Nat) (s : State) (hm : MemOk s) : OutOk (execAckTimeout burst s) := by
  unfold execAckTimeout
  show MemOk _
  split
  · with_reducible assumption
  · split
    · dsimp only
      apply MemOk.lit
      apply State.endBurst_memOk
      with_reducible assumption
    · with_reducible assumption

theorem recvThen_memOk (f : YFmt) (lab : Label) (w : Who) (t : Thread) (ts : List (Target × Nat)) (s : State) (hm : MemOk s) : MemOk (recvThen f lab w t ts s).2 := by
  unfold recvThen
  apply Ans.bind_memOk
  · apply Ans.relabel_memOk
    apply State.checkSpan_memOk
    with_reducible assumption
  · intros
    split
    · with_reducible assumption
    · with_reducible assumption

theorem State.recvCheck_memOk (f : YFmt) (s : State) (l : Nat) (ex : List Nat) (hm : MemOk s) : MemOk (State.recvCheck f s l ex).2 := by
  unfold State.recvCheck
  split
  · with_reducible assumption
  · split
    · with_reducible assumption
    · apply Ans.bind_memOk
      · apply Ans.relabel_memOk
        apply State.checkVault_memOk
        with_reducible assumption
      · intros
        apply recvThen_memOk
        with_reducible assumption

theorem execObrecv_memOk (f : YFmt) (s : State) (hm : MemOk s) : OutOk (execObrecv f s) := by
  unfold execObrecv
  show MemOk _
  apply State.runGroup_memOk
  · with_reducible assumption
  · intros
    apply State.recvCheck_memOk
    with_reducible assumption
  · intros
    dsimp only
    apply State.advance_memOk
    apply MemOk.lit
    refine MemOk.foldl0 ?_ ?_
    · apply State.tokensUp_memOk
      apply State.touchAll_memOk
      apply State.touchAll_memOk
      apply State.drainLanes_memOk
      with_reducible assumption
    · intros
      apply State.setPresence_memOk
      with_reducible assumption

theorem State.refuseBurst_memOk (s : State) (port : Nat) (peer : BitVec 16) (v : Option Nat) (hm : MemOk s) : MemOk (State.refuseBurst s port peer v) := by
  unfold State.refuseBurst
  dsimp only
  apply MemOk.lit
  split
  · split
    · with_reducible assumption
    · apply State.setField_memOk
      with_reducible assumption
  · with_reducible assumption

theorem execBurstArrival_memOk (port : Nat) (peer : BitVec 16) (tag : BitVec 6) (data : List Byte) (s : State) (hm : MemOk s) : OutOk (execBurstArrival port peer tag data s) := by
  unfold execBurstArrival
  show MemOk _
  split
  · with_reducible assumption
  · split
    · apply State.refuseBurst_memOk
      with_reducible assumption
    · dsimp only
      split
      · with_reducible assumption
      · split
        · apply State.refuseBurst_memOk
          with_reducible assumption
        · split
          · apply State.refuseBurst_memOk
            with_reducible assumption
          · apply State.updCmd_memOk
            with_reducible assumption

theorem execReceiveComplete_memOk (cmd : Nat) (s : State) (hm : MemOk s) : OutOk (execReceiveComplete cmd s) := by
  unfold execReceiveComplete
  show MemOk _
  split
  · with_reducible assumption
  · split
    · dsimp only
      split
      · refine MemOk.foldl0 ?_ ?_
        · with_reducible assumption
        · intros
          apply State.writeSpans_memOk
          with_reducible assumption
      · apply MemOk.lit
        apply State.tokensDown_memOk
        apply State.writeSpans_memOk
        refine MemOk.foldl0 ?_ ?_
        · refine MemOk.foldl0 ?_ ?_
          · with_reducible assumption
          · intros
            apply State.writeSpans_memOk
            with_reducible assumption
        · intros
          apply State.setPresence_memOk
          with_reducible assumption
    · with_reducible assumption

theorem execResetNotice_memOk (port : Nat) (peer : BitVec 16) (len : Nat) (s : State) (hm : MemOk s) : OutOk (execResetNotice port peer len s) := by
  unfold execResetNotice
  show MemOk _
  split
  · with_reducible assumption
  · apply MemOk.lit
    with_reducible assumption

theorem execObstat_memOk (f : YFmt) (s : State) (hm : MemOk s) : OutOk (execObstat f s) := by
  unfold execObstat
  dsimp only
  show MemOk _
  apply State.runGroup_memOk
  · with_reducible assumption
  · intros
    with_reducible assumption
  · intros
    apply State.advance_memOk
    apply State.commit_memOk
    with_reducible assumption

theorem State.relCheck_memOk (f : YFmt) (s : State) (l : Nat) (ex : List Nat) (hm : MemOk s) : MemOk (State.relCheck f s l ex).2 := by
  unfold State.relCheck
  dsimp only
  split
  · with_reducible assumption
  · split
    · with_reducible assumption
    · apply Ans.bind_memOk
      · apply Ans.relabel_memOk
        apply State.checkSpan_memOk
        with_reducible assumption
      · intros
        split
        · apply Ans.bind_memOk
          · apply State.checkSpan_memOk
            with_reducible assumption
          · intros
            with_reducible assumption
        · with_reducible assumption

theorem execRel_memOk (f : YFmt) (s : State) (hm : MemOk s) : OutOk (execRel f s) := by
  unfold execRel
  show MemOk _
  apply State.runGroup_memOk
  · with_reducible assumption
  · intros
    apply State.relCheck_memOk
    with_reducible assumption
  · intros
    dsimp only
    split
    · apply State.failStand_memOk
      apply State.readSpans_memOk
      apply State.touchAll_memOk
      apply State.touchAll_memOk
      apply State.drainLanes_memOk
      with_reducible assumption
    · apply State.advance_memOk
      apply MemOk.lit
      apply State.tokensUp_memOk
      apply State.readSpans_memOk
      apply State.touchAll_memOk
      apply State.touchAll_memOk
      apply State.drainLanes_memOk
      with_reducible assumption

end Sys2Proof.Machine
end

