-- ==== Sys2Proof/Laws/CanonicalManage.lean ====
section
/-!
SUPPORT. The canonical form of memory is kept: debug, launch, management and device events.
-/

namespace Sys2Proof.Machine

theorem State.setWatch_memOk (s : State) (l : Nat) (scope : Nat) (idx : Nat) (w : Option Watchpoint) (hm : MemOk s) : MemOk (State.setWatch s l scope idx w) := by
  unfold State.setWatch
  dsimp only
  split
  · apply State.updStand_memOk
    with_reducible assumption
  · apply State.updStand_memOk
    with_reducible assumption
  · split
    · apply MemOk.lit
      with_reducible assumption
    · with_reducible assumption

theorem State.runWatch_memOk (s : State) (f : SFmt) (set : Bool) (hm : MemOk s) : MemOk (State.runWatch s f set) := by
  unfold State.runWatch
  dsimp only
  split
  · apply State.issue_memOk
    · with_reducible assumption
    · intros
      apply State.eachLane_memOk
      · with_reducible assumption
      · intros
        apply State.raiseOnly_memOk
        with_reducible assumption
      · intros
        refine MemOk.foldl0 ?_ ?_
        · with_reducible assumption
        · intros
          apply State.updLane_memOk
          with_reducible assumption
  · apply State.runGroup_memOk
    · with_reducible assumption
    · intros
      with_reducible assumption
    · intros
      apply State.advance_memOk
      apply State.setWatch_memOk
      with_reducible assumption

theorem execWpset_memOk (f : SFmt) (s : State) (hm : MemOk s) : OutOk (execWpset f s) := by
  unfold execWpset
  show MemOk _
  apply State.runWatch_memOk
  with_reducible assumption

theorem execWpclr_memOk (f : SFmt) (s : State) (hm : MemOk s) : OutOk (execWpclr f s) := by
  unfold execWpclr
  show MemOk _
  apply State.runWatch_memOk
  with_reducible assumption

theorem execProfrd_memOk (f : SFmt) (s : State) (hm : MemOk s) : OutOk (execProfrd f s) := by
  unfold execProfrd
  dsimp only
  show MemOk _
  apply State.issue_memOk
  · with_reducible assumption
  · intros
    apply State.advance_memOk
    apply State.commit_memOk
    with_reducible assumption

theorem State.stallCycle_memOk (s : State) (quad : Nat) (issued : Option Nat) (hm : MemOk s) : MemOk (State.stallCycle s quad issued) := by
  unfold State.stallCycle
  split
  · with_reducible assumption
  · dsimp only
    apply MemOk.lit
    refine MemOk.foldl0 ?_ ?_
    · with_reducible assumption
    · intros
      split
      · with_reducible assumption
      · split
        · apply State.countStall_memOk
          with_reducible assumption
        · with_reducible assumption

theorem execStallReasonCount_memOk (quad : Nat) (s : State) (hm : MemOk s) : OutOk (execStallReasonCount quad s) := by
  unfold execStallReasonCount
  show MemOk _
  apply State.stallCycle_memOk
  with_reducible assumption

theorem State.writeQdbg_memOk (s : State) (hm : MemOk s) : MemOk (State.writeQdbg s) := by
  unfold State.writeQdbg
  dsimp only
  apply State.setReg_memOk
  with_reducible assumption

theorem State.stopRequested_memOk (s : State) (k : Nat) (hm : MemOk s) : MemOk (State.stopRequested s k) := by
  unfold State.stopRequested
  split
  · with_reducible assumption
  · apply State.finishStop_memOk
    apply State.stopQuad_memOk
    with_reducible assumption

theorem State.resumeQuad_memOk (s : State) (k : Nat) (hm : MemOk s) : MemOk (State.resumeQuad s k) := by
  unfold State.resumeQuad
  split
  · with_reducible assumption
  · dsimp only
    refine MemOk.foldl0 ?_ ?_
    · apply State.setField_memOk
      apply State.updQuad_memOk
      with_reducible assumption
    · intros
      apply State.joinTrap_memOk
      with_reducible assumption

theorem execDebugStopRequest_memOk (s : State) (hm : MemOk s) : OutOk (execDebugStopRequest s) := by
  unfold execDebugStopRequest
  show MemOk _
  split
  · with_reducible assumption
  · apply State.stopRequested_memOk
    apply State.writeQdbg_memOk
    with_reducible assumption

theorem execDebugResume_memOk (s : State) (hm : MemOk s) : OutOk (execDebugResume s) := by
  unfold execDebugResume
  show MemOk _
  split
  · with_reducible assumption
  · dsimp only
    split
    · apply State.stopRequested_memOk
      apply State.writeQdbg_memOk
      apply State.resumeQuad_memOk
      with_reducible assumption
    · apply State.writeQdbg_memOk
      apply State.resumeQuad_memOk
      with_reducible assumption

theorem State.writeHclm_memOk (s : State) (hm : MemOk s) : MemOk (State.writeHclm s) := by
  unfold State.writeHclm
  dsimp only
  split
  · with_reducible assumption
  · apply State.noteSusp_memOk
    apply State.setReg_memOk
    with_reducible assumption

theorem execClaimSuspend_memOk (s : State) (hm : MemOk s) : OutOk (execClaimSuspend s) := by
  unfold execClaimSuspend
  show MemOk _
  apply State.writeHclm_memOk
  with_reducible assumption

theorem execClaimResume_memOk (s : State) (hm : MemOk s) : OutOk (execClaimResume s) := by
  unfold execClaimResume
  show MemOk _
  apply State.writeHclm_memOk
  with_reducible assumption

theorem State.tlbiCheck_memOk (f : SFmt) (s : State) (l : Nat) (_ex : List Nat) (hm : MemOk s) : MemOk (State.tlbiCheck f s l _ex).2 := by
  unfold State.tlbiCheck
  dsimp only
  split
  · with_reducible assumption
  · with_reducible assumption

theorem execTlbi_memOk (f : SFmt) (s : State) (hm : MemOk s) : OutOk (execTlbi f s) := by
  unfold execTlbi
  show MemOk _
  apply State.runGroup_memOk
  · with_reducible assumption
  · intros
    apply State.tlbiCheck_memOk
    with_reducible assumption
  · intros
    dsimp only
    apply State.advance_memOk
    apply State.updCore_memOk
    with_reducible assumption

theorem State.updFound_memOk (s : State) (f : Found) (g : Slot → Slot) (hm : MemOk s) : MemOk (State.updFound s f g) := by
  unfold State.updFound
  split
  · apply State.updStand_memOk
    with_reducible assumption
  · apply State.updSlot_memOk
    with_reducible assumption

theorem State.ctxCheck_memOk (s : State) (f : SFmt) (save : Bool) (l : Nat) (hm : MemOk s) : MemOk (State.ctxCheck s f save l).2 := by
  unfold State.ctxCheck
  dsimp only
  split
  · with_reducible assumption
  · split
    · with_reducible assumption
    · apply Ans.relabel_memOk
      apply Ans.bind_memOk
      · apply State.checkSpan_memOk
        with_reducible assumption
      · intros
        split
        · with_reducible assumption
        · with_reducible assumption

theorem State.ctxStatus_memOk (s : State) (f : SFmt) (ex : List Nat) (lab : Label) (v : Nat) (hm : MemOk s) : MemOk (State.ctxStatus s f ex lab v) := by
  unfold State.ctxStatus
  apply State.advance_memOk
  apply State.commit_memOk
  with_reducible assumption

theorem State.runCtx_memOk (s : State) (f : SFmt) (save : Bool) (act : State → Nat → List Nat → CtxAns → State) (hm : MemOk s) (h1 : ∀ v0 v1 v2 v3, MemOk v0 → MemOk (act v0 v1 v2 v3)) : MemOk (State.runCtx s f save act) := by
  unfold State.runCtx
  apply State.runGroup_memOk
  · with_reducible assumption
  · intros
    apply State.ctxCheck_memOk
    with_reducible assumption
  · intros
    apply_assumption
    with_reducible assumption

theorem execCtxsv_memOk (f : SFmt) (s : State) (hm : MemOk s) : OutOk (execCtxsv f s) := by
  unfold execCtxsv
  show MemOk _
  apply State.runCtx_memOk
  · with_reducible assumption
  · intros
    dsimp only
    split
    · apply State.ctxStatus_memOk
      with_reducible assumption
    · apply State.ctxStatus_memOk
      refine MemOk.foldl0 ?_ ?_
      · with_reducible assumption
      · intros
        apply State.storeAt_memOk
        with_reducible assumption

theorem execCtxld_memOk (f : SFmt) (s : State) (hm : MemOk s) : OutOk (execCtxld f s) := by
  unfold execCtxld
  show MemOk _
  apply State.runCtx_memOk
  · with_reducible assumption
  · intros
    dsimp only
    split
    · apply State.ctxStatus_memOk
      with_reducible assumption
    · split
      · apply State.failStand_memOk
        apply State.readSpans_memOk
        apply State.touchAll_memOk
        apply State.drainQ_memOk
        with_reducible assumption
      · split
        · apply State.advance_memOk
          apply State.park_memOk
          apply State.readSpans_memOk
          apply State.touchAll_memOk
          apply State.drainQ_memOk
          with_reducible assumption
        · apply State.ctxStatus_memOk
          apply State.updFound_memOk
          apply State.updThread_memOk
          apply State.readSpans_memOk
          apply State.touchAll_memOk
          apply State.drainQ_memOk
          with_reducible assumption

theorem State.distMark_memOk (s : State) (v : Nat) (ptr : Nat) (n : Nat) (write : Bool) (hm : MemOk s) : MemOk (State.distMark s v ptr n write) := by
  unfold State.distMark
  split
  · with_reducible assumption
  · split
    · with_reducible assumption
    · refine MemOk.foldl0 ?_ ?_
      · with_reducible assumption
      · intros
        dsimp only
        split
        · apply State.markAccess_memOk
          with_reducible assumption
        · refine MemOk.foldl0 ?_ ?_
          · apply State.markAccess_memOk
            with_reducible assumption
          · intros
            apply State.noteMismatch_memOk
            with_reducible assumption

theorem State.distPut_memOk (s : State) (v : Nat) (x1 : List (TlbEntry × Nat × Nat)) (x2 : List Byte) (x3 : Label) (hm : MemOk s) : MemOk (State.distPut s v x1 x2 x3) := by
  fun_induction State.distPut s v x1 x2 x3
  · with_reducible assumption
  · apply_assumption
    apply State.perform_memOk
    with_reducible assumption

theorem State.distWrite_memOk (s : State) (v : Nat) (ptr : Nat) (bs : List Byte) (lab : Label) (hm : MemOk s) : MemOk (State.distWrite s v ptr bs lab) := by
  unfold State.distWrite
  split
  · with_reducible assumption
  · apply State.distPut_memOk
    apply State.distMark_memOk
    with_reducible assumption

theorem State.endGrid_memOk (s : State) (k : Nat) (hm : MemOk s) : MemOk (State.endGrid s k) := by
  unfold State.endGrid
  split
  · with_reducible assumption
  · dsimp only
    apply MemOk.lit
    split
    · apply MemOk.lit
      with_reducible assumption
    · apply State.distWrite_memOk
      apply MemOk.lit
      with_reducible assumption

theorem State.rejectGrid_memOk (s : State) (k : Nat) (rsn : Nat) (hm : MemOk s) : MemOk (State.rejectGrid s k rsn) := by
  unfold State.rejectGrid
  apply State.endGrid_memOk
  apply MemOk.lit
  with_reducible assumption

theorem execGridEnd_memOk (grid : Nat) (s : State) (hm : MemOk s) : OutOk (execGridEnd grid s) := by
  unfold execGridEnd
  show MemOk _
  split
  · apply State.endGrid_memOk
    with_reducible assumption
  · with_reducible assumption

theorem State.submitGrid_memOk (s : State) (v : Nat) (parent : Nat) (hart : Option Nat) (rcd : Nat) (carried : Label) (n : Nat) (hm : MemOk s) : MemOk (State.submitGrid s v parent hart rcd carried n).2.2.2 := by
  unfold State.submitGrid
  dsimp only
  split
  · dsimp only
    apply MemOk.lit
    apply State.distMark_memOk
    apply State.distMark_memOk
    with_reducible assumption
  · dsimp only
    apply State.rejectGrid_memOk
    apply MemOk.lit
    apply State.distMark_memOk
    apply State.distMark_memOk
    with_reducible assumption

theorem execLaunchSubmit_memOk (hart : Nat) (vf : Nat) (data : List Byte) (s : State) (hm : MemOk s) : OutOk (execLaunchSubmit hart vf data s) := by
  unfold execLaunchSubmit
  dsimp only
  show MemOk _
  split
  · apply State.logIgnored_memOk
    with_reducible assumption
  · split
    · apply MemOk.lit
      with_reducible assumption
    · apply MemOk.lit
      apply State.submitGrid_memOk
      with_reducible assumption

theorem State.launchCheck_memOk (f : SFmt) (used : Nat) (ex : List Nat) (x1 : State) (x2 : Nat) (hm : MemOk x1) : MemOk (State.launchCheck f used ex x1 x2).2 := by
  unfold State.launchCheck
  apply State.afterRaise_memOk
  · with_reducible assumption
  · intros
    split
    · with_reducible assumption
    · dsimp only
      split
      · split
        · dsimp only
          apply State.laneCheck_memOk
          with_reducible assumption
        · dsimp only
          apply State.laneCheck_memOk
          with_reducible assumption
      · dsimp only
        apply State.laneCheck_memOk
        with_reducible assumption

theorem execLaunch_memOk (f : SFmt) (s : State) (hm : MemOk s) : OutOk (execLaunch f s) := by
  unfold execLaunch
  dsimp only
  show MemOk _
  apply State.issue_memOk
  · with_reducible assumption
  · intros
    apply State.eachLane_memOk
    · with_reducible assumption
    · intros
      apply State.launchCheck_memOk
      with_reducible assumption
    · intros
      apply State.commit_memOk
      refine MemOk.foldl2 ?_ ?_
      · with_reducible assumption
      · intros
        split
        · dsimp only
          apply State.failStand_memOk
          with_reducible assumption
        · dsimp only
          apply State.submitGrid_memOk
          apply State.loadAt_memOk
          apply State.drainQ_memOk
          with_reducible assumption

theorem State.joinCheck_memOk (f : SFmt) (x1 : State) (x2 : Nat) (hm : MemOk x1) : MemOk (State.joinCheck f x1 x2).2 := by
  unfold State.joinCheck
  apply State.afterRaise_memOk
  · with_reducible assumption
  · intros
    split
    · with_reducible assumption
    · split
      · with_reducible assumption
      · with_reducible assumption

theorem execJoin_memOk (f : SFmt) (s : State) (hm : MemOk s) : OutOk (execJoin f s) := by
  unfold execJoin
  dsimp only
  show MemOk _
  apply State.issue_memOk
  · with_reducible assumption
  · intros
    apply State.eachLaneStay_memOk
    · with_reducible assumption
    · intros
      apply State.joinCheck_memOk
      with_reducible assumption
    · intros
      dsimp only
      split
      · refine MemOk.foldl0 ?_ ?_
        · with_reducible assumption
        · intros
          apply MemOk.lit
          apply State.updLane_memOk
          with_reducible assumption
      · apply State.commit_memOk
        refine MemOk.foldl0 ?_ ?_
        · with_reducible assumption
        · intros
          apply MemOk.lit
          apply State.updLane_memOk
          with_reducible assumption

theorem State.without_memOk (s : State) (gone : List Nat) (hm : MemOk s) : MemOk (State.without s gone) := by
  unfold State.without
  apply MemOk.lit
  with_reducible assumption

theorem State.addStands_memOk (s : State) (k : Nat) (g : Grid) (hm : MemOk s) : MemOk (State.addStands s k g) := by
  unfold State.addStands
  refine MemOk.foldl0 ?_ ?_
  · with_reducible assumption
  · intros
    dsimp only
    apply MemOk.lit
    with_reducible assumption

theorem execLaunchClaim_memOk (grid : Nat) (s : State) (hm : MemOk s) : OutOk (execLaunchClaim grid s) := by
  unfold execLaunchClaim
  show MemOk _
  split
  · with_reducible assumption
  · split
    · with_reducible assumption
    · dsimp only
      split
      · apply State.rejectGrid_memOk
        with_reducible assumption
      · split
        · apply State.rejectGrid_memOk
          with_reducible assumption
        · split
          · apply State.rejectGrid_memOk
            with_reducible assumption
          · split
            · apply State.rejectGrid_memOk
              with_reducible assumption
            · apply State.addStands_memOk
              apply State.distWrite_memOk
              apply MemOk.lit
              apply State.distMark_memOk
              with_reducible assumption

theorem State.setCur_memOk (s : State) (part : Nat) (v : Nat) (hm : MemOk s) : MemOk (State.setCur s part v) := by
  unfold State.setCur
  apply State.setField_memOk
  apply State.setField_memOk
  with_reducible assumption

theorem State.callSave_memOk (s : State) (ks : List Nat) (hm : MemOk s) : MemOk (State.callSave s ks) := by
  unfold State.callSave
  refine MemOk.foldl0 ?_ ?_
  · with_reducible assumption
  · intros
    apply State.updStand_memOk
    with_reducible assumption

theorem State.preemptFor_memOk (s : State) (part : Nat) (hm : MemOk s) : MemOk (State.preemptFor s part) := by
  unfold State.preemptFor
  refine MemOk.foldl0 ?_ ?_
  · with_reducible assumption
  · intros
    split
    · with_reducible assumption
    · split
      · with_reducible assumption
      · apply State.callSave_memOk
        with_reducible assumption

theorem State.reserve_memOk (s : State) (k : Nat) (hm : MemOk s) : MemOk (State.reserve s k) := by
  unfold State.reserve
  split
  · with_reducible assumption
  · dsimp only
    split
    · apply State.updStand_memOk
      with_reducible assumption
    · refine MemOk.foldl0 ?_ ?_
      · apply State.updStand_memOk
        with_reducible assumption
      · intros
        apply State.updQuad_memOk
        with_reducible assumption

theorem State.recall_memOk (s : State) (v : Nat) (hm : MemOk s) : MemOk (State.recall s v) := by
  unfold State.recall
  dsimp only
  refine MemOk.foldl0 ?_ ?_
  · with_reducible assumption
  · intros
    split
    · apply State.reserve_memOk
      with_reducible assumption
    · with_reducible assumption

theorem State.beginTurns_memOk (s : State) (part : Nat) (hm : MemOk s) : MemOk (State.beginTurns s part) := by
  unfold State.beginTurns
  split
  · with_reducible assumption
  · split
    · apply State.recall_memOk
      apply State.setCur_memOk
      with_reducible assumption
    · with_reducible assumption

theorem execStandPlace_memOk (part : Nat) (s : State) (hm : MemOk s) : OutOk (execStandPlace part s) := by
  unfold execStandPlace
  dsimp only
  show MemOk _
  split
  · apply State.preemptFor_memOk
    apply State.beginTurns_memOk
    with_reducible assumption
  · split
    · apply State.preemptFor_memOk
      apply State.beginTurns_memOk
      with_reducible assumption
    · apply State.reserve_memOk
      apply State.preemptFor_memOk
      apply State.beginTurns_memOk
      with_reducible assumption

theorem State.startVaultQueues_memOk (s : State) (k : Nat) (hm : MemOk s) : MemOk (State.startVaultQueues s k) := by
  unfold State.startVaultQueues
  split
  · dsimp only
    split
    · with_reducible assumption
    · refine MemOk.foldl0 ?_ ?_
      · apply MemOk.lit
        with_reducible assumption
      · intros
        split
        · with_reducible assumption
        · split
          · apply State.distWrite_memOk
            with_reducible assumption
          · with_reducible assumption
  · with_reducible assumption

theorem State.settlePlaced_memOk (s : State) (grid : Nat) (hm : MemOk s) : MemOk (State.settlePlaced s grid) := by
  unfold State.settlePlaced
  split
  · apply MemOk.lit
    with_reducible assumption
  · with_reducible assumption

theorem State.classifyStand_memOk (s : State) (k : Nat) (hm : MemOk s) : MemOk (State.classifyStand s k) := by
  unfold State.classifyStand
  split
  · with_reducible assumption
  · dsimp only
    apply State.updStand_memOk
    with_reducible assumption

theorem State.settleGang_memOk (s : State) (grid : Nat) (num : Nat) (hm : MemOk s) : MemOk (State.settleGang s grid num) := by
  unfold State.settleGang
  split
  · with_reducible assumption
  · split
    · apply MemOk.lit
      with_reducible assumption
    · with_reducible assumption

theorem execStandStart_memOk (stand : Nat) (s : State) (hm : MemOk s) : OutOk (execStandStart stand s) := by
  unfold execStandStart
  show MemOk _
  split
  · with_reducible assumption
  · split
    · with_reducible assumption
    · dsimp only
      apply State.traceRecord_memOk
      apply State.noteSusp_memOk
      apply State.settlePlaced_memOk
      apply State.settleGang_memOk
      apply State.classifyStand_memOk
      apply State.startVaultQueues_memOk
      apply MemOk.lit
      apply State.updStand_memOk
      with_reducible assumption

theorem State.noteLack_memOk (s : State) (hm : MemOk s) : MemOk (State.noteLack s) := by
  unfold State.noteLack
  split
  · with_reducible assumption
  · apply MemOk.lit
    with_reducible assumption

theorem execGangPatienceExpire_memOk (grid : Nat) (gang : Nat) (s : State) (hm : MemOk s) : OutOk (execGangPatienceExpire grid gang s) := by
  unfold execGangPatienceExpire
  show MemOk _
  split
  · with_reducible assumption
  · split
    · with_reducible assumption
    · apply State.noteLack_memOk
      apply State.preemptFor_memOk
      apply MemOk.lit
      with_reducible assumption

theorem execGangRelief_memOk (part : Nat) (s : State) (hm : MemOk s) : OutOk (execGangRelief part s) := by
  unfold execGangRelief
  dsimp only
  show MemOk _
  split
  · with_reducible assumption
  · split
    · with_reducible assumption
    · split
      · with_reducible assumption
      · apply State.callSave_memOk
        apply MemOk.lit
        with_reducible assumption

theorem State.unyard_memOk (s : State) (r : YardRec) (q : Nat) (lane : Nat) (hm : MemOk s) : MemOk (State.unyard s r q lane) := by
  unfold State.unyard
  apply State.updThread_memOk
  with_reducible assumption

theorem State.seat_memOk (s : State) (f : Forming) (g : Grid) (q : Nat) (lane : Nat) (w : Waiter) (hm : MemOk s) : MemOk (State.seat s f g q lane w) := by
  unfold State.seat
  split
  · apply State.unyard_memOk
    with_reducible assumption
  · dsimp only
    apply MemOk.lit
    with_reducible assumption

theorem State.formWarp_memOk (s : State) (quad : Nat) (sk : Nat) (f : Forming) (hm : MemOk s) : MemOk (State.formWarp s quad sk f) := by
  unfold State.formWarp
  split
  · dsimp only
    split
    · apply State.countStall_memOk
      apply State.updStand_memOk
      apply MemOk.lit
      refine MemOk.foldl0 ?_ ?_
      · with_reducible assumption
      · intros
        apply State.seat_memOk
        with_reducible assumption
    · apply State.updStand_memOk
      apply MemOk.lit
      refine MemOk.foldl0 ?_ ?_
      · with_reducible assumption
      · intros
        apply State.seat_memOk
        with_reducible assumption
  · with_reducible assumption

theorem execWarpForm_memOk (quad : Nat) (s : State) (hm : MemOk s) : OutOk (execWarpForm quad s) := by
  unfold execWarpForm
  show MemOk _
  split
  · apply State.formWarp_memOk
    with_reducible assumption
  · with_reducible assumption

theorem execBalancerPass_memOk (core : Nat) (s : State) (hm : MemOk s) : OutOk (execBalancerPass core s) := by
  unfold execBalancerPass
  dsimp only
  show MemOk _
  apply State.updCore_memOk
  refine MemOk.foldl0 ?_ ?_
  · with_reducible assumption
  · intros
    apply State.classifyStand_memOk
    with_reducible assumption

theorem State.resetNotice_memOk (s : State) (v : Nat) (dst : Nat) (n : Nat) (hm : MemOk s) : MemOk (State.resetNotice s v dst n) := by
  unfold State.resetNotice
  dsimp only
  split
  · with_reducible assumption
  · apply MemOk.lit
    with_reducible assumption

theorem State.stopEgress_memOk (s : State) (v : Nat) (p : Burst → Bool) (hm : MemOk s) : MemOk (State.stopEgress s v p).2.2 := by
  unfold State.stopEgress
  dsimp only
  apply MemOk.lit
  refine MemOk.foldl0 ?_ ?_
  · with_reducible assumption
  · intros
    apply State.resetNotice_memOk
    with_reducible assumption

theorem State.resetRegs_memOk (s : State) (rs : List Nat) (hm : MemOk s) : MemOk (State.resetRegs s rs) := by
  unfold State.resetRegs
  refine MemOk.foldl0 ?_ ?_
  · with_reducible assumption
  · intros
    apply State.setReg_memOk
    with_reducible assumption

theorem State.takeIn_memOk (s : State) (core : Nat) (hm : MemOk s) : MemOk (State.takeIn s core) := by
  unfold State.takeIn
  split
  · with_reducible assumption
  · refine MemOk.foldl0 ?_ ?_
    · apply State.updCore_memOk
      with_reducible assumption
    · intros
      apply State.joinTrap_memOk
      with_reducible assumption

theorem State.endClaims_memOk (s : State) (v : Nat) (hm : MemOk s) : MemOk (State.endClaims s v) := by
  unfold State.endClaims
  apply State.setField_memOk
  apply State.setField_memOk
  with_reducible assumption

theorem State.endTurn_memOk (s : State) (v : Nat) (hm : MemOk s) : MemOk (State.endTurn s v) := by
  unfold State.endTurn
  dsimp only
  split
  · apply State.setField_memOk
    apply State.setField_memOk
    with_reducible assumption
  · with_reducible assumption

theorem State.tearDown_memOk (s : State) (v : Nat) (hm : MemOk s) : MemOk (State.tearDown s v) := by
  unfold State.tearDown
  split
  · with_reducible assumption
  · dsimp only
    apply State.setField_memOk
    apply State.setField_memOk
    apply State.setField_memOk
    apply State.setField_memOk
    apply State.endTurn_memOk
    apply State.setField_memOk
    apply State.setField_memOk
    apply State.endClaims_memOk
    refine MemOk.foldl0 ?_ ?_
    · apply MemOk.lit
      refine MemOk.foldl0 ?_ ?_
      · apply State.stopEgress_memOk
        apply MemOk.lit
        refine MemOk.foldl0 ?_ ?_
        · refine MemOk.foldl0 ?_ ?_
          · with_reducible assumption
          · intros
            apply State.releaseStand_memOk
            with_reducible assumption
        · intros
          apply State.updSlot_memOk
          with_reducible assumption
      · intros
        apply discardLine_memOk
        with_reducible assumption
    · intros
      apply State.takeIn_memOk
      with_reducible assumption

theorem State.tearPartition_memOk (s : State) (p : Nat) (hm : MemOk s) : MemOk (State.tearPartition s p) := by
  unfold State.tearPartition
  refine MemOk.foldl0 ?_ ?_
  · with_reducible assumption
  · intros
    split
    · apply State.tearDown_memOk
      with_reducible assumption
    · with_reducible assumption

theorem State.signal_memOk (s : State) (pa : Nat) (w : Word) (hm : MemOk s) : MemOk (State.signal s pa w) := by
  unfold State.signal
  split
  · apply State.deviceStore_memOk
    with_reducible assumption
  · apply MemOk.lit
    with_reducible assumption

theorem State.settleKill_memOk (s : State) (r : TrapRec) (n : Option Nat) (hm : MemOk s) : MemOk (State.settleKill s r n) := by
  unfold State.settleKill
  split
  · with_reducible assumption
  · apply MemOk.lit
    with_reducible assumption

theorem State.writeTrap_memOk (s : State) (core : Nat) (r : TrapRec) (n : Nat) (header : Nat) (entry : Nat) (hm : MemOk s) : MemOk (State.writeTrap s core r n header entry) := by
  unfold State.writeTrap
  dsimp only
  apply State.settleKill_memOk
  split
  · apply State.signal_memOk
    refine MemOk.foldl0 ?_ ?_
    · apply State.deviceStore_memOk
      apply State.deviceStore_memOk
      refine MemOk.foldl0 ?_ ?_
      · with_reducible assumption
      · intros
        apply State.drainQ_memOk
        with_reducible assumption
    · intros
      apply State.updSub_memOk
      with_reducible assumption
  · refine MemOk.foldl0 ?_ ?_
    · apply State.deviceStore_memOk
      apply State.deviceStore_memOk
      refine MemOk.foldl0 ?_ ?_
      · with_reducible assumption
      · intros
        apply State.drainQ_memOk
        with_reducible assumption
    · intros
      apply State.updSub_memOk
      with_reducible assumption

theorem State.failTrap_memOk (s : State) (r : TrapRec) (hm : MemOk s) : MemOk (State.failTrap s r) := by
  unfold State.failTrap
  split
  · apply State.tearDown_memOk
    with_reducible assumption
  · apply State.failStandAt_memOk
    apply State.settleKill_memOk
    with_reducible assumption

theorem execTrapRecordClose_memOk (core : Nat) (s : State) (hm : MemOk s) : OutOk (execTrapRecordClose core s) := by
  unfold execTrapRecordClose
  show MemOk _
  split
  · apply State.takeIn_memOk
    with_reducible assumption
  · dsimp only
    split
    · with_reducible assumption
    · apply State.takeIn_memOk
      apply State.updCore_memOk
      apply State.failTrap_memOk
      with_reducible assumption
    · apply State.takeIn_memOk
      apply State.updCore_memOk
      apply State.writeTrap_memOk
      with_reducible assumption

theorem execPresRetry_memOk (s : State) (hm : MemOk s) : OutOk (execPresRetry s) := by
  unfold execPresRetry
  show MemOk _
  split
  · apply State.resumeSub_memOk
    with_reducible assumption
  · with_reducible assumption

theorem execPresSkip_memOk (s : State) (hm : MemOk s) : OutOk (execPresSkip s) := by
  unfold execPresSkip
  show MemOk _
  split
  · apply State.resumeSub_memOk
    with_reducible assumption
  · with_reducible assumption

theorem State.killRecord_memOk (s : State) (f : Found) (hm : MemOk s) : MemOk (State.killRecord s f) := by
  unfold State.killRecord
  dsimp only
  apply MemOk.lit
  with_reducible assumption

theorem execPresKill_memOk (s : State) (hm : MemOk s) : OutOk (execPresKill s) := by
  unfold execPresKill
  show MemOk _
  split
  · with_reducible assumption
  · split
    · apply State.failStandAt_memOk
      with_reducible assumption
    · split
      · apply State.failStandAt_memOk
        apply State.killRecord_memOk
        with_reducible assumption
      · apply State.failStandAt_memOk
        with_reducible assumption

theorem State.writePval_memOk (s : State) (v : Nat) (x : Sel) (hm : MemOk s) : MemOk (State.writePval s v x) := by
  unfold State.writePval
  split
  · with_reducible assumption
  · dsimp only
    split
    · split
      · with_reducible assumption
      · apply State.updFound_memOk
        apply State.updThread_memOk
        with_reducible assumption
    · apply State.updFound_memOk
      apply State.updThread_memOk
      with_reducible assumption

theorem execPvalWrite_memOk (s : State) (hm : MemOk s) : OutOk (execPvalWrite s) := by
  unfold execPvalWrite
  show MemOk _
  split
  · with_reducible assumption
  · split
    · apply State.writePval_memOk
      with_reducible assumption
    · apply State.writePval_memOk
      with_reducible assumption

theorem execHpvalWrite_memOk (s : State) (hm : MemOk s) : OutOk (execHpvalWrite s) := by
  unfold execHpvalWrite
  show MemOk _
  split
  · with_reducible assumption
  · apply State.writePval_memOk
    with_reducible assumption

theorem execForwardEvent_memOk (s : State) (hm : MemOk s) : OutOk (execForwardEvent s) := by
  unfold execForwardEvent
  show MemOk _
  split
  · with_reducible assumption
  · split
    · with_reducible assumption
    · apply State.signal_memOk
      with_reducible assumption

theorem State.seatHandler_memOk (s : State) (v : Nat) (sk : Nat) (hm : MemOk s) : MemOk (State.seatHandler s v sk) := by
  unfold State.seatHandler
  dsimp only
  apply MemOk.lit
  refine MemOk.foldl0 ?_ ?_
  · with_reducible assumption
  · intros
    apply MemOk.lit
    with_reducible assumption

theorem execHandlerCreate_memOk (s : State) (hm : MemOk s) : OutOk (execHandlerCreate s) := by
  unfold execHandlerCreate
  show MemOk _
  split
  · with_reducible assumption
  · dsimp only
    split
    · apply State.setField_memOk
      apply State.setField_memOk
      apply State.setReg_memOk
      with_reducible assumption
    · split
      · apply State.setField_memOk
        apply State.setField_memOk
        apply State.setReg_memOk
        with_reducible assumption
      · apply State.noteSusp_memOk
        apply State.updFunction_memOk
        apply State.seatHandler_memOk
        apply MemOk.lit
        apply State.setReg_memOk
        with_reducible assumption

theorem execHandlerTeardown_memOk (s : State) (hm : MemOk s) : OutOk (execHandlerTeardown s) := by
  unfold execHandlerTeardown
  show MemOk _
  split
  · with_reducible assumption
  · apply State.setReg_memOk
    apply State.dropHandler_memOk
    with_reducible assumption

theorem State.dropFrame_memOk (s : State) (v : Nat) (page : Nat) (hm : MemOk s) : MemOk (State.dropFrame s v page) := by
  unfold State.dropFrame
  apply MemOk.lit
  with_reducible assumption

theorem execMigrationReplay_memOk (s : State) (hm : MemOk s) : OutOk (execMigrationReplay s) := by
  unfold execMigrationReplay
  show MemOk _
  split
  · with_reducible assumption
  · dsimp only
    split
    · apply State.logStim_memOk
      with_reducible assumption
    · refine MemOk.foldl0 ?_ ?_
      · apply State.updFunction_memOk
        apply State.dropFrame_memOk
        with_reducible assumption
      · intros
        apply State.resumeSub_memOk
        with_reducible assumption

theorem State.noteIssue_memOk (s : State) (stand : Nat) (hm : MemOk s) : MemOk (State.noteIssue s stand) := by
  unfold State.noteIssue
  dsimp only
  split
  · with_reducible assumption
  · apply State.updFunction_memOk
    with_reducible assumption

theorem State.settleSwitch_memOk (s : State) (part : Nat) (hm : MemOk s) : MemOk (State.settleSwitch s part) := by
  unfold State.settleSwitch
  split
  · with_reducible assumption
  · split
    · with_reducible assumption
    · split
      · dsimp only
        split
        · apply State.callSave_memOk
          with_reducible assumption
        · split
          · apply State.setField_memOk
            apply State.updFunction_memOk
            apply State.callSave_memOk
            with_reducible assumption
          · split
            · apply State.recall_memOk
              apply State.setCur_memOk
              apply State.updFunction_memOk
              apply State.updFunction_memOk
              apply State.callSave_memOk
              with_reducible assumption
            · apply State.setField_memOk
              apply State.recall_memOk
              apply State.setCur_memOk
              apply State.updFunction_memOk
              apply State.updFunction_memOk
              apply State.callSave_memOk
              with_reducible assumption
      · split
        · with_reducible assumption
        · apply State.setField_memOk
          with_reducible assumption

theorem execSliceEnd_memOk (part : Nat) (s : State) (hm : MemOk s) : OutOk (execSliceEnd part s) := by
  unfold execSliceEnd
  show MemOk _
  split
  · apply State.settleSwitch_memOk
    with_reducible assumption
  · split
    · with_reducible assumption
    · split
      · with_reducible assumption
      · split
        · with_reducible assumption
        · split
          · apply State.updFunction_memOk
            with_reducible assumption
          · apply State.settleSwitch_memOk
            apply State.setField_memOk
            apply State.updFunction_memOk
            with_reducible assumption

theorem State.saveWrite_memOk (s : State) (v : Nat) (frames : List Nat) (hm : MemOk s) : MemOk (State.saveWrite s v frames) := by
  unfold State.saveWrite
  dsimp only
  apply MemOk.lit
  refine MemOk.foldl0 ?_ ?_
  · with_reducible assumption
  · intros
    apply State.deviceStore_memOk
    with_reducible assumption

theorem State.settleFrz_memOk (s : State) (v : Nat) (hm : MemOk s) : MemOk (State.settleFrz s v) := by
  unfold State.settleFrz
  split
  · with_reducible assumption
  · apply State.setField_memOk
    with_reducible assumption

theorem State.freeze_memOk (s : State) (k : Nat) (st : Stand) (restore : Bool) (ipa : Nat) (page : Nat) (hm : MemOk s) : MemOk (State.freeze s k st restore ipa page) := by
  unfold State.freeze
  dsimp only
  split
  · apply State.tearDown_memOk
    with_reducible assumption
  · apply State.setReg_memOk
    apply State.joinTrap_memOk
    apply State.updStand_memOk
    with_reducible assumption

theorem State.interruptAll_memOk (s : State) (k : Nat) (quad : Nat) (x1 : Nat) (hm : MemOk s) : MemOk (State.interruptAll s k quad x1) := by
  fun_induction State.interruptAll s k quad x1
  · with_reducible assumption
  · apply_assumption
    apply State.interruptOp_memOk
    with_reducible assumption
  · with_reducible assumption
  · with_reducible assumption

theorem State.withdrawPosts_memOk (s : State) (k : Nat) (hm : MemOk s) : MemOk (State.withdrawPosts s k) := by
  unfold State.withdrawPosts
  refine MemOk.foldl0 ?_ ?_
  · with_reducible assumption
  · intros
    dsimp only
    apply MemOk.lit
    apply State.tokensDown_memOk
    refine MemOk.foldl0 ?_ ?_
    · with_reducible assumption
    · intros
      apply State.setPresence_memOk
      with_reducible assumption

theorem State.leaveSite_memOk (s : State) (k : Nat) (hm : MemOk s) : MemOk (State.leaveSite s k) := by
  unfold State.leaveSite
  dsimp only
  apply MemOk.lit
  apply State.freeSlots_memOk
  with_reducible assumption

theorem State.foldSlots_memOk (s : State) (k : Nat) (hm : MemOk s) : MemOk (State.foldSlots s k) := by
  unfold State.foldSlots
  refine MemOk.foldl0 ?_ ?_
  · with_reducible assumption
  · intros
    apply State.foldSlot_memOk
    with_reducible assumption

theorem execContextSave_memOk (stand : Nat) (s : State) (hm : MemOk s) : OutOk (execContextSave stand s) := by
  unfold execContextSave
  show MemOk _
  split
  · with_reducible assumption
  · split
    · with_reducible assumption
    · dsimp only
      split
      · apply State.withdrawPosts_memOk
        refine MemOk.foldl0 ?_ ?_
        · refine MemOk.foldl0 ?_ ?_
          · with_reducible assumption
          · intros
            apply State.interruptAll_memOk
            with_reducible assumption
        · intros
          apply State.drainQ_memOk
          with_reducible assumption
      · split
        · apply State.withdrawPosts_memOk
          refine MemOk.foldl0 ?_ ?_
          · refine MemOk.foldl0 ?_ ?_
            · with_reducible assumption
            · intros
              apply State.interruptAll_memOk
              with_reducible assumption
          · intros
            apply State.drainQ_memOk
            with_reducible assumption
        · split
          · apply State.freeze_memOk
            apply State.saveWrite_memOk
            apply State.withdrawPosts_memOk
            refine MemOk.foldl0 ?_ ?_
            · refine MemOk.foldl0 ?_ ?_
              · with_reducible assumption
              · intros
                apply State.interruptAll_memOk
                with_reducible assumption
            · intros
              apply State.drainQ_memOk
              with_reducible assumption
          · apply State.settleSwitch_memOk
            apply State.settleFrz_memOk
            apply State.updStand_memOk
            apply State.leaveSite_memOk
            apply State.foldSlots_memOk
            apply State.saveWrite_memOk
            apply State.withdrawPosts_memOk
            refine MemOk.foldl0 ?_ ?_
            · refine MemOk.foldl0 ?_ ?_
              · with_reducible assumption
              · intros
                apply State.interruptAll_memOk
                with_reducible assumption
            · intros
              apply State.drainQ_memOk
              with_reducible assumption

theorem State.returnSlot_memOk (s : State) (sk : Nat) (sl : Slot) (hm : MemOk s) : MemOk (State.returnSlot s sk sl) := by
  unfold State.returnSlot
  dsimp only
  apply MemOk.lit
  with_reducible assumption

theorem State.applyMarks_memOk (s : State) (sk : Nat) (sl : Slot) (hm : MemOk s) : MemOk (State.applyMarks s sk sl) := by
  unfold State.applyMarks
  dsimp only
  apply State.updSlot_memOk
  refine MemOk.foldl0 ?_ ?_
  · with_reducible assumption
  · intros
    split
    · apply State.resumeLanes_memOk
      with_reducible assumption
    · with_reducible assumption

theorem State.putBack_memOk (s : State) (k : Nat) (st : Stand) (sv : SavedState) (hm : MemOk s) : MemOk (State.putBack s k st sv) := by
  unfold State.putBack
  dsimp only
  apply State.mapStand_memOk
  refine MemOk.foldl0 ?_ ?_
  · apply State.updStand_memOk
    refine MemOk.foldl0 ?_ ?_
    · refine MemOk.foldl0 ?_ ?_
      · refine MemOk.foldl0 ?_ ?_
        · with_reducible assumption
        · intros
          apply State.returnSlot_memOk
          with_reducible assumption
      · intros
        apply State.updQuad_memOk
        with_reducible assumption
    · intros
      apply State.updQuad_memOk
      with_reducible assumption
  · intros
    apply State.applyMarks_memOk
    with_reducible assumption

theorem execContextRestore_memOk (stand : Nat) (s : State) (hm : MemOk s) : OutOk (execContextRestore stand s) := by
  unfold execContextRestore
  show MemOk _
  split
  · with_reducible assumption
  · split
    · with_reducible assumption
    · split
      · with_reducible assumption
      · split
        · apply State.failStand_memOk
          with_reducible assumption
        · split
          · apply State.freeze_memOk
            with_reducible assumption
          · dsimp only
            apply State.settleSwitch_memOk
            apply State.settleFrz_memOk
            apply State.settlePlaced_memOk
            apply MemOk.lit
            apply State.putBack_memOk
            with_reducible assumption

theorem execSaveReplay_memOk (s : State) (hm : MemOk s) : OutOk (execSaveReplay s) := by
  unfold execSaveReplay
  show MemOk _
  split
  · apply State.logStim_memOk
    with_reducible assumption
  · dsimp only
    apply MemOk.lit
    refine MemOk.foldl0 ?_ ?_
    · with_reducible assumption
    · intros
      apply State.updCore_memOk
      with_reducible assumption

theorem execSaveKill_memOk (s : State) (hm : MemOk s) : OutOk (execSaveKill s) := by
  unfold execSaveKill
  show MemOk _
  split
  · apply State.logStim_memOk
    with_reducible assumption
  · apply State.tearDown_memOk
    with_reducible assumption

theorem State.setBringUp_memOk (s : State) (n : Nat) (hm : MemOk s) : MemOk (State.setBringUp s n) := by
  unfold State.setBringUp
  apply MemOk.lit
  with_reducible assumption

theorem State.setRerr_memOk (s : State) (hm : MemOk s) : MemOk (State.setRerr s) := by
  unfold State.setRerr
  apply MemOk.lit
  with_reducible assumption

theorem State.wakeMgmt_memOk (s : State) (src : WakeSource) (hm : MemOk s) : MemOk (State.wakeMgmt s src) := by
  unfold State.wakeMgmt
  dsimp only
  split
  · split
    · apply MemOk.lit
      with_reducible assumption
    · with_reducible assumption
  · split
    · apply MemOk.lit
      with_reducible assumption
    · with_reducible assumption
  · split
    · apply MemOk.lit
      with_reducible assumption
    · with_reducible assumption

theorem execWakeEvent_memOk (source : WakeSource) (s : State) (hm : MemOk s) : OutOk (execWakeEvent source s) := by
  unfold execWakeEvent
  show MemOk _
  apply State.wakeMgmt_memOk
  with_reducible assumption

theorem State.measure_memOk (s : State) (kind : Byte) (data : List Byte) (hm : MemOk s) : MemOk (State.measure s kind data) := by
  unfold State.measure
  apply MemOk.lit
  with_reducible assumption

theorem State.dropCaches_memOk (s : State) (hm : MemOk s) : MemOk (State.dropCaches s) := by
  unfold State.dropCaches
  dsimp only
  apply MemOk.lit
  refine MemOk.foldl0 ?_ ?_
  · with_reducible assumption
  · intros
    apply discardLine_memOk
    with_reducible assumption

theorem State.fatalStop_memOk (s : State) (hm : MemOk s) : MemOk (State.fatalStop s) := by
  unfold State.fatalStop
  dsimp only
  apply MemOk.lit
  apply State.setBringUp_memOk
  apply State.dropCaches_memOk
  refine MemOk.foldl0 ?_ ?_
  · with_reducible assumption
  · intros
    apply State.setField_memOk
    apply State.tearPartition_memOk
    with_reducible assumption

theorem State.publish_memOk (s : State) (hm : MemOk s) : MemOk (State.publish s) := by
  unfold State.publish
  apply MemOk.lit
  with_reducible assumption

theorem State.setSite_memOk (s : State) (site : Nat) (st : Nat) (hm : MemOk s) : MemOk (State.setSite s site st) := by
  unfold State.setSite
  dsimp only
  apply MemOk.lit
  with_reducible assumption

theorem State.retire_memOk (s : State) (site : Nat) (st : Nat) (hm : MemOk s) : MemOk (State.retire s site st) := by
  unfold State.retire
  dsimp only
  split
  · apply State.publish_memOk
    apply State.setSite_memOk
    with_reducible assumption
  · apply State.fatalStop_memOk
    apply State.logError_memOk
    with_reducible assumption

theorem execRetest_memOk (site : Nat) (coreOk : Bool) (routerOk : Bool) (s : State) (hm : MemOk s) : OutOk (execRetest site coreOk routerOk s) := by
  unfold execRetest
  dsimp only
  show MemOk _
  split
  · with_reducible assumption
  · split
    · apply MemOk.lit
      with_reducible assumption
    · split
      · apply State.publish_memOk
        apply MemOk.lit
        with_reducible assumption
      · apply State.retire_memOk
        apply MemOk.lit
        with_reducible assumption

theorem State.settleGuarantee_memOk (before : State) (port : Nat) (s : State) (hm : MemOk s) : MemOk (State.settleGuarantee before port s) := by
  unfold State.settleGuarantee
  dsimp only
  split
  · with_reducible assumption
  · split
    · apply State.logError_memOk
      with_reducible assumption
    · split
      · apply State.logError_memOk
        with_reducible assumption
      · with_reducible assumption

theorem execCrrd_memOk (f : SFmt) (s : State) (hm : MemOk s) : OutOk (execCrrd f s) := by
  unfold execCrrd
  dsimp only
  show MemOk _
  apply State.issue_memOk
  · with_reducible assumption
  · intros
    apply State.eachLane_memOk
    · with_reducible assumption
    · intros
      apply State.raiseOnly_memOk
      with_reducible assumption
    · intros
      apply State.commit_memOk
      split
      · apply State.setRerr_memOk
        apply State.drainLanes_memOk
        with_reducible assumption
      · apply State.drainLanes_memOk
        with_reducible assumption

theorem execCrwr_memOk (f : SFmt) (s : State) (hm : MemOk s) : OutOk (execCrwr f s) := by
  unfold execCrwr
  dsimp only
  show MemOk _
  apply State.issue_memOk
  · with_reducible assumption
  · intros
    apply State.eachLane_memOk
    · with_reducible assumption
    · intros
      apply State.raiseOnly_memOk
      with_reducible assumption
    · intros
      refine MemOk.foldl0 ?_ ?_
      · apply State.drainLanes_memOk
        with_reducible assumption
      · intros
        split
        · apply State.postWrite_memOk
          with_reducible assumption
        · apply State.setRerr_memOk
          with_reducible assumption

theorem State.writeWlc_memOk (s : State) (node : Nat) (idx : Nat) (v : Nat) (hm : MemOk s) : MemOk (State.writeWlc s node idx v) := by
  unfold State.writeWlc
  dsimp only
  apply State.settleGuarantee_memOk
  apply State.setRing_memOk
  with_reducible assumption

theorem execRingSearch_memOk (node : Nat) (index : Nat) (locked : Bool) (heat : Byte) (s : State) (hm : MemOk s) : OutOk (execRingSearch node index locked heat s) := by
  unfold execRingSearch
  dsimp only
  show MemOk _
  split
  · with_reducible assumption
  · split
    · apply State.wakeMgmt_memOk
      apply State.setRing_memOk
      with_reducible assumption
    · apply State.wakeMgmt_memOk
      apply State.setRing_memOk
      with_reducible assumption

theorem execEyeTraining_memOk (node : Nat) (index : Nat) (eyeh : Byte) (eyew : Byte) (s : State) (hm : MemOk s) : OutOk (execEyeTraining node index eyeh eyew s) := by
  unfold execEyeTraining
  dsimp only
  show MemOk _
  split
  · with_reducible assumption
  · apply State.wakeMgmt_memOk
    apply State.settleGuarantee_memOk
    apply State.setRing_memOk
    with_reducible assumption

theorem execLmapWrite_memOk (s : State) (hm : MemOk s) : OutOk (execLmapWrite s) := by
  unfold execLmapWrite
  dsimp only
  show MemOk _
  split
  · with_reducible assumption
  · split
    · apply State.setRerr_memOk
      with_reducible assumption
    · apply State.settleGuarantee_memOk
      apply State.setRing_memOk
      with_reducible assumption

theorem State.setFmap_memOk (s : State) (node : Nat) (m : Nat) (hm : MemOk s) : MemOk (State.setFmap s node m) := by
  unfold State.setFmap
  apply State.setRing_memOk
  apply State.setRing_memOk
  apply State.setRing_memOk
  with_reducible assumption

theorem execFmapWrite_memOk (s : State) (hm : MemOk s) : OutOk (execFmapWrite s) := by
  unfold execFmapWrite
  dsimp only
  show MemOk _
  split
  · with_reducible assumption
  · split
    · apply State.setRing_memOk
      with_reducible assumption
    · apply State.setRerr_memOk
      with_reducible assumption

theorem State.releaseHosts_memOk (s : State) (hm : MemOk s) : MemOk (State.releaseHosts s) := by
  unfold State.releaseHosts
  split
  · dsimp only
    apply MemOk.lit
    apply State.measure_memOk
    with_reducible assumption
  · with_reducible assumption

theorem State.endStep_memOk (s : State) (n : Nat) (hm : MemOk s) : MemOk (State.endStep s n) := by
  unfold State.endStep
  dsimp only
  split
  · apply State.publish_memOk
    apply MemOk.lit
    with_reducible assumption
  · split
    · apply State.releaseHosts_memOk
      apply MemOk.lit
      with_reducible assumption
    · apply MemOk.lit
      with_reducible assumption

theorem execMstateWrite_memOk (s : State) (hm : MemOk s) : OutOk (execMstateWrite s) := by
  unfold execMstateWrite
  dsimp only
  show MemOk _
  split
  · apply State.fatalStop_memOk
    split
    · apply MemOk.lit
      with_reducible assumption
    · with_reducible assumption
  · split
    · split
      · apply MemOk.lit
        with_reducible assumption
      · with_reducible assumption
    · apply State.setBringUp_memOk
      apply State.endStep_memOk
      split
      · apply MemOk.lit
        with_reducible assumption
      · with_reducible assumption

theorem execFeatureConfirm_memOk (s : State) (hm : MemOk s) : OutOk (execFeatureConfirm s) := by
  unfold execFeatureConfirm
  show MemOk _
  split
  · apply State.logStim_memOk
    with_reducible assumption
  · dsimp only
    apply State.setReg_memOk
    with_reducible assumption

theorem State.startMgmt_memOk (s : State) (hm : MemOk s) : MemOk (State.startMgmt s) := by
  unfold State.startMgmt
  apply MemOk.lit
  with_reducible assumption

theorem State.atRom_memOk (s : State) (_hm : MemOk s) : MemOk (State.atRom s) := by
  unfold State.atRom
  dsimp only
  apply MemOk.lit
  apply_assumption

theorem State.rom_memOk (s : State) (image : List Byte) (hm : MemOk s) : MemOk (State.rom s image) := by
  unfold State.rom
  dsimp only
  split
  · apply State.measure_memOk
    apply MemOk.lit
    with_reducible assumption
  · apply State.setBringUp_memOk
    apply State.updThread_memOk
    apply State.measure_memOk
    apply MemOk.lit
    with_reducible assumption

theorem State.withFound_memOk (s : State) (found : List (Nat × Bool)) (hm : MemOk s) : MemOk (State.withFound s found) := by
  unfold State.withFound
  refine MemOk.foldl0 ?_ ?_
  · with_reducible assumption
  · intros
    split
    · apply State.setSite_memOk
      with_reducible assumption
    · with_reducible assumption

theorem execPowerOn_memOk (found : List (Nat × Bool)) (image : List Byte) (s : State) (hm : MemOk s) : OutOk (execPowerOn found image s) := by
  unfold execPowerOn
  show MemOk _
  apply State.rom_memOk
  apply State.withFound_memOk
  apply State.atRom_memOk
  with_reducible assumption

theorem State.restart_memOk (s : State) (image : List Byte) (hm : MemOk s) : MemOk (State.restart s image) := by
  unfold State.restart
  dsimp only
  apply State.rom_memOk
  apply MemOk.lit
  apply State.dropCaches_memOk
  refine MemOk.foldl0 ?_ ?_
  · with_reducible assumption
  · intros
    apply State.tearPartition_memOk
    with_reducible assumption

theorem execWatchdogRestart_memOk (image : List Byte) (s : State) (hm : MemOk s) : OutOk (execWatchdogRestart image s) := by
  unfold execWatchdogRestart
  show MemOk _
  split
  · apply State.fatalStop_memOk
    with_reducible assumption
  · dsimp only
    apply State.logError_memOk
    apply State.measure_memOk
    apply MemOk.lit
    apply State.startMgmt_memOk
    with_reducible assumption

theorem State.reply_memOk (s : State) (bs : List Byte) (hm : MemOk s) : MemOk (State.reply s bs) := by
  unfold State.reply
  apply MemOk.lit
  with_reducible assumption

theorem State.serve_memOk (s : State) (when_ : Bool) (f : State → State) (hm : MemOk s) (h1 : ∀ v0, MemOk v0 → MemOk (f v0)) : OutOk (State.serve s when_ f) := by
  unfold State.serve
  dsimp only
  show MemOk _
  split
  · apply_assumption
    apply State.wakeMgmt_memOk
    with_reducible assumption
  · apply State.wakeMgmt_memOk
    with_reducible assumption

theorem execStatus_memOk (s : State) (hm : MemOk s) : OutOk (execStatus s) := by
  unfold execStatus
  apply State.serve_memOk
  · with_reducible assumption
  · intros
    apply State.reply_memOk
    with_reducible assumption

theorem execLog_memOk (s : State) (hm : MemOk s) : OutOk (execLog s) := by
  unfold execLog
  apply State.serve_memOk
  · with_reducible assumption
  · intros
    apply State.reply_memOk
    with_reducible assumption

theorem execReport_memOk (s : State) (hm : MemOk s) : OutOk (execReport s) := by
  unfold execReport
  apply State.serve_memOk
  · with_reducible assumption
  · intros
    dsimp only
    apply State.reply_memOk
    with_reducible assumption

theorem execFwload_memOk (s : State) (hm : MemOk s) : OutOk (execFwload s) := by
  unfold execFwload
  apply State.serve_memOk
  · with_reducible assumption
  · intros
    dsimp only
    split
    · apply MemOk.lit
      with_reducible assumption
    · apply State.restart_memOk
      with_reducible assumption

theorem execStream_memOk (s : State) (hm : MemOk s) : OutOk (execStream s) := by
  unfold execStream
  apply State.serve_memOk
  · with_reducible assumption
  · intros
    dsimp only
    apply MemOk.lit
    apply State.reply_memOk
    with_reducible assumption

theorem execUnknownRequest_memOk (s : State) (hm : MemOk s) : OutOk (execUnknownRequest s) := by
  unfold execUnknownRequest
  apply State.serve_memOk
  · with_reducible assumption
  · intros
    apply State.logIgnored_memOk
    apply State.reply_memOk
    with_reducible assumption

theorem State.gateStatus_memOk (s : State) (res : Nat) (org : Nat) (hnd : Nat) (hm : MemOk s) : MemOk (State.gateStatus s res org hnd) := by
  unfold State.gateStatus
  apply State.setReg_memOk
  with_reducible assumption

theorem State.dropPolicy_memOk (s : State) (slot : Nat) (hm : MemOk s) : MemOk (State.dropPolicy s slot) := by
  unfold State.dropPolicy
  apply MemOk.lit
  with_reducible assumption

theorem State.turnedAway_memOk (s : State) (hm : MemOk s) : MemOk (State.turnedAway s) := by
  unfold State.turnedAway
  split
  · apply State.logStim_memOk
    with_reducible assumption
  · with_reducible assumption

theorem execPolicyInstall_memOk (s : State) (hm : MemOk s) : OutOk (execPolicyInstall s) := by
  unfold execPolicyInstall
  show MemOk _
  split
  · apply State.turnedAway_memOk
    with_reducible assumption
  · dsimp only
    split
    · apply State.gateStatus_memOk
      with_reducible assumption
    · split
      · apply State.gateStatus_memOk
        with_reducible assumption
      · split
        · apply State.gateStatus_memOk
          with_reducible assumption
        · apply State.gateStatus_memOk
          apply MemOk.lit
          with_reducible assumption

theorem execPolicyRemove_memOk (s : State) (hm : MemOk s) : OutOk (execPolicyRemove s) := by
  unfold execPolicyRemove
  dsimp only
  show MemOk _
  split
  · apply State.turnedAway_memOk
    with_reducible assumption
  · split
    · apply State.gateStatus_memOk
      apply State.dropPolicy_memOk
      with_reducible assumption
    · apply State.gateStatus_memOk
      with_reducible assumption

theorem execKeyRegister_memOk (s : State) (hm : MemOk s) : OutOk (execKeyRegister s) := by
  unfold execKeyRegister
  dsimp only
  show MemOk _
  split
  · apply State.turnedAway_memOk
    with_reducible assumption
  · apply State.gateStatus_memOk
    refine MemOk.foldl0 ?_ ?_
    · apply State.measure_memOk
      apply MemOk.lit
      with_reducible assumption
    · intros
      apply State.dropPolicy_memOk
      with_reducible assumption

theorem execPolicyCheckFail_memOk (handle : BitVec 16) (s : State) (hm : MemOk s) : OutOk (execPolicyCheckFail handle s) := by
  unfold execPolicyCheckFail
  show MemOk _
  split
  · apply State.logError_memOk
    apply State.dropPolicy_memOk
    with_reducible assumption
  · with_reducible assumption

theorem State.gateLog_memOk (s : State) (r : Release) (res : Nat) (hm : MemOk s) : MemOk (State.gateLog s r res) := by
  unfold State.gateLog
  dsimp only
  apply State.setReg_memOk
  apply State.deviceStore_memOk
  with_reducible assumption

theorem State.emit_memOk (s : State) (r : Release) (info : BitVec 16) (hm : MemOk s) : MemOk (State.emit s r info) := by
  unfold State.emit
  split
  · split
    · apply State.queueBurst_memOk
      with_reducible assumption
    · with_reducible assumption
  · dsimp only
    apply MemOk.lit
    apply State.tokensDown_memOk
    with_reducible assumption
  · dsimp only
    apply State.tokensDown_memOk
    apply State.writeSpans_memOk
    with_reducible assumption

theorem execGateRelease_memOk (s : State) (hm : MemOk s) : OutOk (execGateRelease s) := by
  unfold execGateRelease
  show MemOk _
  split
  · with_reducible assumption
  · split
    · with_reducible assumption
    · dsimp only
      split
      · apply State.tokensDown_memOk
        apply State.gateLog_memOk
        apply MemOk.lit
        with_reducible assumption
      · apply State.emit_memOk
        apply State.gateLog_memOk
        apply MemOk.lit
        with_reducible assumption

theorem State.logIf_memOk (s : State) (c : Bool) (hm : MemOk s) : MemOk (State.logIf s c) := by
  unfold State.logIf
  split
  · apply State.logStim_memOk
    with_reducible assumption
  · with_reducible assumption

theorem State.writeVctl_memOk (s : State) (v : Nat) (x : Double) (hm : MemOk s) : MemOk (State.writeVctl s v x) := by
  unfold State.writeVctl
  dsimp only
  apply State.setReg_memOk
  apply State.logIf_memOk
  with_reducible assumption

theorem State.writePctl_memOk (s : State) (p : Nat) (x : Double) (hm : MemOk s) : MemOk (State.writePctl s p x) := by
  unfold State.writePctl
  split
  · apply State.logStim_memOk
    with_reducible assumption
  · apply State.setField_memOk
    with_reducible assumption

theorem State.writeSup_memOk (s : State) (v : Nat) (n : Nat) (x : Double) (hm : MemOk s) : MemOk (State.writeSup s v n x) := by
  unfold State.writeSup
  dsimp only
  split
  · split
    · apply State.setReg_memOk
      apply State.logIf_memOk
      with_reducible assumption
    · apply State.setReg_memOk
      with_reducible assumption
  · split
    · with_reducible assumption
    · apply State.setReg_memOk
      with_reducible assumption
  · apply State.setReg_memOk
    with_reducible assumption
  · apply State.setReg_memOk
    with_reducible assumption
  · apply State.setReg_memOk
    with_reducible assumption
  · apply State.setReg_memOk
    with_reducible assumption
  · split
    · with_reducible assumption
    · apply State.setReg_memOk
      with_reducible assumption
  · apply State.noteSusp_memOk
    apply State.setReg_memOk
    with_reducible assumption
  · apply State.setReg_memOk
    with_reducible assumption
  · with_reducible assumption

theorem State.writeOther_memOk (s : State) (pa : Nat) (x : Double) (hm : MemOk s) : MemOk (State.writeOther s pa x) := by
  unfold State.writeOther
  dsimp only
  split
  · apply State.setReg_memOk
    with_reducible assumption
  · split
    · apply State.setReg_memOk
      with_reducible assumption
    · split
      · apply State.setReg_memOk
        with_reducible assumption
      · split
        · apply State.setReg_memOk
          with_reducible assumption
        · split
          · apply State.setReg_memOk
            with_reducible assumption
          · split
            · split
              · with_reducible assumption
              · apply State.setReg_memOk
                with_reducible assumption
            · split
              · apply State.setReg_memOk
                with_reducible assumption
              · split
                · apply State.setReg_memOk
                  with_reducible assumption
                · split
                  · apply State.setReg_memOk
                    with_reducible assumption
                  · with_reducible assumption

theorem State.writePort_memOk (s : State) (pa : Nat) (x : Double) (hm : MemOk s) : MemOk (State.writePort s pa x) := by
  unfold State.writePort
  dsimp only
  split
  · with_reducible assumption
  · split
    · split
      · apply State.logStim_memOk
        with_reducible assumption
      · apply State.setReg_memOk
        with_reducible assumption
    · split
      · apply State.settleGuarantee_memOk
        apply State.setReg_memOk
        with_reducible assumption
      · split
        · with_reducible assumption
        · split
          · apply State.setReg_memOk
            with_reducible assumption
          · split
            · apply State.logStim_memOk
              with_reducible assumption
            · apply State.setReg_memOk
              with_reducible assumption

theorem State.writeCtx_memOk (s : State) (v : Nat) (off : Nat) (x : Double) (hm : MemOk s) : MemOk (State.writeCtx s v off x) := by
  unfold State.writeCtx
  split
  · apply State.writeVctl_memOk
    with_reducible assumption
  · split
    · apply State.logStim_memOk
      with_reducible assumption
    · dsimp only
      split
      · apply State.settleMig_memOk
        apply State.setReg_memOk
        with_reducible assumption
      · apply State.setReg_memOk
        with_reducible assumption

theorem State.writeOwner_memOk (s : State) (pa : Nat) (x : Double) (hm : MemOk s) : MemOk (State.writeOwner s pa x) := by
  unfold State.writeOwner
  split
  · dsimp only
    split
    · with_reducible assumption
    · split
      · apply State.logStim_memOk
        with_reducible assumption
      · apply State.setReg_memOk
        with_reducible assumption
  · split
    · apply State.setReg_memOk
      with_reducible assumption
    · with_reducible assumption

theorem execRegisterWrite_memOk (s : State) (hm : MemOk s) : OutOk (execRegisterWrite s) := by
  unfold execRegisterWrite
  dsimp only
  show MemOk _
  split
  · with_reducible assumption
  · split
    · split
      · apply State.writeWlc_memOk
        with_reducible assumption
      · with_reducible assumption
    · split
      · split
        · apply State.writeSup_memOk
          with_reducible assumption
        · with_reducible assumption
      · split
        · split
          · apply State.writeQdbg_memOk
            with_reducible assumption
          · apply State.writeHclm_memOk
            with_reducible assumption
        · split
          · apply State.writeOther_memOk
            with_reducible assumption
          · split
            · split
              · apply State.writeCtx_memOk
                with_reducible assumption
              · with_reducible assumption
            · split
              · split
                · apply State.writePctl_memOk
                  with_reducible assumption
                · with_reducible assumption
              · split
                · apply State.writePort_memOk
                  with_reducible assumption
                · split
                  · apply State.writeOwner_memOk
                    with_reducible assumption
                  · apply State.logStim_memOk
                    with_reducible assumption

theorem execPartitionEnable_memOk (s : State) (hm : MemOk s) : OutOk (execPartitionEnable s) := by
  unfold execPartitionEnable
  show MemOk _
  split
  · with_reducible assumption
  · split
    · apply State.setField_memOk
      apply State.writePctl_memOk
      with_reducible assumption
    · apply State.logStim_memOk
      with_reducible assumption

theorem execPartitionDisable_memOk (s : State) (hm : MemOk s) : OutOk (execPartitionDisable s) := by
  unfold execPartitionDisable
  show MemOk _
  split
  · with_reducible assumption
  · apply State.setField_memOk
    apply State.tearPartition_memOk
    apply State.writePctl_memOk
    with_reducible assumption

theorem State.sweep_memOk (s : State) (k : Nat) (hm : MemOk s) : MemOk (State.sweep s k) := by
  unfold State.sweep
  dsimp only
  apply MemOk.put
  apply Memory.wf_filterT
  show MemOk _
  with_reducible assumption

theorem State.fillKey_memOk (s : State) (k : Nat) (hm : MemOk s) : MemOk (State.fillKey s k) := by
  unfold State.fillKey
  dsimp only
  apply MemOk.lit
  split
  · apply State.sweep_memOk
    with_reducible assumption
  · with_reducible assumption

theorem execVfEnable_memOk (s : State) (hm : MemOk s) : OutOk (execVfEnable s) := by
  unfold execVfEnable
  show MemOk _
  split
  · with_reducible assumption
  · split
    · apply MemOk.lit
      with_reducible assumption
    · dsimp only
      split
      · apply State.logStim_memOk
        with_reducible assumption
      · apply State.setField_memOk
        apply MemOk.lit
        apply State.fillKey_memOk
        apply State.resetRegs_memOk
        apply State.writeVctl_memOk
        with_reducible assumption

theorem execVfTeardown_memOk (s : State) (hm : MemOk s) : OutOk (execVfTeardown s) := by
  unfold execVfTeardown
  show MemOk _
  split
  · with_reducible assumption
  · apply State.tearDown_memOk
    apply State.writeVctl_memOk
    with_reducible assumption

theorem execCircuitDisable_memOk (s : State) (hm : MemOk s) : OutOk (execCircuitDisable s) := by
  unfold execCircuitDisable
  dsimp only
  show MemOk _
  split
  · with_reducible assumption
  · split
    · apply State.logStim_memOk
      with_reducible assumption
    · apply State.writePort_memOk
      apply State.stopEgress_memOk
      refine MemOk.foldl0 ?_ ?_
      · with_reducible assumption
      · intros
        apply State.tokensDown_memOk
        with_reducible assumption

theorem execFrameZero_memOk (s : State) (hm : MemOk s) : OutOk (execFrameZero s) := by
  unfold execFrameZero
  dsimp only
  show MemOk _
  split
  · with_reducible assumption
  · split
    · apply State.logStim_memOk
      with_reducible assumption
    · split
      · apply MemOk.put
        apply Memory.wf_filterT
        show MemOk _
        with_reducible assumption
      · apply State.setLabelAt_memOk
        apply MemOk.put
        apply Memory.wf_filterT
        show MemOk _
        with_reducible assumption

theorem execFlumeRds_memOk (cluster : Nat) (line : Nat) (s : State) (hm : MemOk s) : OutOk (execFlumeRds cluster line s) := by
  unfold execFlumeRds
  show MemOk _
  split
  · with_reducible assumption
  · apply flumeRdS_memOk
    with_reducible assumption

theorem execFlumeRdx_memOk (cluster : Nat) (line : Nat) (s : State) (hm : MemOk s) : OutOk (execFlumeRdx cluster line s) := by
  unfold execFlumeRdx
  show MemOk _
  split
  · with_reducible assumption
  · apply flumeRdX_memOk
    apply State.keepBacking_memOk
    with_reducible assumption

theorem execFlumeUpg_memOk (cluster : Nat) (line : Nat) (s : State) (hm : MemOk s) : OutOk (execFlumeUpg cluster line s) := by
  unfold execFlumeUpg
  show MemOk _
  split
  · apply flumeUpg_memOk
    apply State.keepBacking_memOk
    with_reducible assumption
  · apply flumeUpg_memOk
    apply State.keepBacking_memOk
    with_reducible assumption
  · with_reducible assumption

theorem execFlumeWb_memOk (cluster : Nat) (line : Nat) (s : State) (hm : MemOk s) : OutOk (execFlumeWb cluster line s) := by
  unfold execFlumeWb
  show MemOk _
  apply flumeWb_memOk
  with_reducible assumption

theorem execFlumeWst_memOk (cluster : Nat) (s : State) (hm : MemOk s) : OutOk (execFlumeWst cluster s) := by
  unfold execFlumeWst
  show MemOk _
  apply State.lapOne_memOk
  with_reducible assumption

theorem execCoherenceTimeout_memOk (requester : Requester) (tag : Nat) (home : Nat) (s : State) (hm : MemOk s) : OutOk (execCoherenceTimeout requester tag home s) := by
  unfold execCoherenceTimeout
  dsimp only
  show MemOk _
  split
  · with_reducible assumption
  · split
    · apply MemOk.lit
      with_reducible assumption
    · apply State.logError_memOk
      split
      · apply State.failStand_memOk
        apply MemOk.lit
        with_reducible assumption
      · apply MemOk.lit
        with_reducible assumption

theorem State.markBad_memOk (s : State) (l : Loc) (hm : MemOk s) : MemOk (State.markBad s l) := by
  unfold State.markBad
  split
  · split
    · with_reducible assumption
    · apply MemOk.lit
      with_reducible assumption
  · split
    · with_reducible assumption
    · apply State.updStand_memOk
      with_reducible assumption

theorem State.logContained_memOk (s : State) (kind : Nat) (vf : Nat) (pa : Nat) (loc : Nat) (hm : MemOk s) : MemOk (State.logContained s kind vf pa loc) := by
  unfold State.logContained
  apply State.logError_memOk
  with_reducible assumption

theorem State.writeBackBad_memOk (s : State) (agent : Nat) (line : Nat) (bad : List (Fin 2)) (hm : MemOk s) : MemOk (State.writeBackBad s agent line bad) := by
  unfold State.writeBackBad
  split
  · refine MemOk.foldl0 ?_ ?_
    · apply flumeWb_memOk
      with_reducible assumption
    · intros
      apply State.markBad_memOk
      with_reducible assumption
  · refine MemOk.foldl0 ?_ ?_
    · apply flumeWb_memOk
      with_reducible assumption
    · intros
      apply State.markBad_memOk
      with_reducible assumption
  · apply State.setMoesi_memOk
    with_reducible assumption

theorem State.channelFailing_memOk (s : State) (ch : Nat) (hm : MemOk s) : MemOk (State.channelFailing s ch) := by
  unfold State.channelFailing
  split
  · with_reducible assumption
  · split
    · apply MemOk.lit
      with_reducible assumption
    · dsimp only
      apply State.logError_memOk
      apply State.setReg_memOk
      with_reducible assumption

theorem State.channelLost_memOk (s : State) (ch : Nat) (hm : MemOk s) : MemOk (State.channelLost s ch) := by
  unfold State.channelLost
  dsimp only
  split
  · with_reducible assumption
  · apply State.channelFailing_memOk
    apply MemOk.lit
    with_reducible assumption

theorem execUncorrectableError_memOk (place : ErrorPlace) (s : State) (hm : MemOk s) : OutOk (execUncorrectableError place s) := by
  unfold execUncorrectableError
  show MemOk _
  split
  · split
    · apply State.logContained_memOk
      apply State.markBad_memOk
      with_reducible assumption
    · with_reducible assumption
  · split
    · apply State.logContained_memOk
      apply State.writeBackBad_memOk
      with_reducible assumption
    · with_reducible assumption
  · split
    · apply State.logContained_memOk
      apply State.writeBackBad_memOk
      with_reducible assumption
    · with_reducible assumption
  · apply State.logContained_memOk
    apply State.markBad_memOk
    with_reducible assumption
  · dsimp only
    apply State.logContained_memOk
    refine MemOk.foldl0 ?_ ?_
    · with_reducible assumption
    · intros
      apply State.markBad_memOk
      with_reducible assumption
  · split
    · apply State.logContained_memOk
      apply State.setLabelAt_memOk
      with_reducible assumption
    · with_reducible assumption
  · apply State.logContained_memOk
    apply State.raiseLabel_memOk
    with_reducible assumption
  · dsimp only
    apply State.logContained_memOk
    apply State.failStand_memOk
    with_reducible assumption
  · split
    · apply State.logContained_memOk
      apply State.failStand_memOk
      with_reducible assumption
    · with_reducible assumption
  · apply State.logContained_memOk
    apply State.updSlot_memOk
    with_reducible assumption
  · dsimp only
    apply State.logError_memOk
    apply MemOk.lit
    refine MemOk.foldl0 ?_ ?_
    · with_reducible assumption
    · intros
      apply State.tearDown_memOk
      with_reducible assumption
  · apply State.channelLost_memOk
    with_reducible assumption

theorem execErrorFoldExpire_memOk (fold : Nat) (s : State) (hm : MemOk s) : OutOk (execErrorFoldExpire fold s) := by
  unfold execErrorFoldExpire
  show MemOk _
  split
  · with_reducible assumption
  · apply State.logError_memOk
    apply MemOk.lit
    with_reducible assumption

theorem execDramScrub_memOk (channel : Nat) (sector : Nat) (corrected : Bool) (lastOfPass : Bool) (s : State) (hm : MemOk s) : OutOk (execDramScrub channel sector corrected lastOfPass s) := by
  unfold execDramScrub
  show MemOk _
  split
  · with_reducible assumption
  · dsimp only
    split
    · split
      · apply State.channelFailing_memOk
        apply MemOk.lit
        apply State.foldError_memOk
        with_reducible assumption
      · apply MemOk.lit
        apply State.foldError_memOk
        with_reducible assumption
    · split
      · apply State.channelFailing_memOk
        apply MemOk.lit
        with_reducible assumption
      · apply MemOk.lit
        with_reducible assumption

theorem State.remapRow_memOk (s : State) (cluster : Nat) (row : Nat) (hm : MemOk s) : MemOk (State.remapRow s cluster row) := by
  unfold State.remapRow
  split
  · with_reducible assumption
  · dsimp only
    apply State.foldError_memOk
    apply MemOk.lit
    with_reducible assumption

theorem execVaultScrub_memOk (cluster : Nat) (line : Nat) (corrected : Bool) (lastOfPass : Bool) (s : State) (hm : MemOk s) : OutOk (execVaultScrub cluster line corrected lastOfPass s) := by
  unfold execVaultScrub
  show MemOk _
  split
  · with_reducible assumption
  · dsimp only
    split
    · apply MemOk.lit
      split
      · apply State.remapRow_memOk
        split
        · apply MemOk.lit
          apply State.foldError_memOk
          with_reducible assumption
        · with_reducible assumption
      · split
        · apply MemOk.lit
          apply State.foldError_memOk
          with_reducible assumption
        · with_reducible assumption
    · split
      · apply State.remapRow_memOk
        split
        · apply MemOk.lit
          apply State.foldError_memOk
          with_reducible assumption
        · with_reducible assumption
      · split
        · apply MemOk.lit
          apply State.foldError_memOk
          with_reducible assumption
        · with_reducible assumption

theorem execScratchpadScrub_memOk (core : Nat) (bank : Nat) (line : Nat) (corrected : Bool) (s : State) (hm : MemOk s) : OutOk (execScratchpadScrub core bank line corrected s) := by
  unfold execScratchpadScrub
  show MemOk _
  split
  · with_reducible assumption
  · apply State.foldError_memOk
    with_reducible assumption

theorem execChannelAck_memOk (s : State) (hm : MemOk s) : OutOk (execChannelAck s) := by
  unfold execChannelAck
  show MemOk _
  split
  · with_reducible assumption
  · split
    · apply State.logStim_memOk
      with_reducible assumption
    · apply State.setField_memOk
      apply State.setField_memOk
      with_reducible assumption

theorem execRelocationComplete_memOk (s : State) (hm : MemOk s) : OutOk (execRelocationComplete s) := by
  unfold execRelocationComplete
  show MemOk _
  split
  · with_reducible assumption
  · dsimp only
    split
    · apply State.logError_memOk
      apply State.publish_memOk
      apply State.setField_memOk
      apply MemOk.lit
      with_reducible assumption
    · apply State.channelFailing_memOk
      apply MemOk.lit
      apply State.logError_memOk
      apply State.publish_memOk
      apply State.setField_memOk
      apply MemOk.lit
      with_reducible assumption

theorem execLinkRetry_memOk (site : Nat) (port : MeshPort) (s : State) (hm : MemOk s) : OutOk (execLinkRetry site port s) := by
  unfold execLinkRetry
  dsimp only
  show MemOk _
  split
  · with_reducible assumption
  · apply State.foldError_memOk
    apply MemOk.lit
    with_reducible assumption

theorem execLinkDown_memOk (site : Nat) (port : MeshPort) (okHere : Bool) (okThere : Bool) (s : State) (hm : MemOk s) : OutOk (execLinkDown site port okHere okThere s) := by
  unfold execLinkDown
  show MemOk _
  split
  · with_reducible assumption
  · split
    · with_reducible assumption
    · dsimp only
      split
      · apply State.publish_memOk
        split
        · split
          · apply State.logError_memOk
            apply MemOk.lit
            refine MemOk.foldl0 ?_ ?_
            · with_reducible assumption
            · intros
              apply State.failGrid_memOk
              with_reducible assumption
          · apply State.retire_memOk
            apply State.logError_memOk
            apply MemOk.lit
            refine MemOk.foldl0 ?_ ?_
            · with_reducible assumption
            · intros
              apply State.failGrid_memOk
              with_reducible assumption
        · apply State.retire_memOk
          apply State.logError_memOk
          split
          · apply State.logError_memOk
            apply MemOk.lit
            refine MemOk.foldl0 ?_ ?_
            · with_reducible assumption
            · intros
              apply State.failGrid_memOk
              with_reducible assumption
          · apply State.retire_memOk
            apply State.logError_memOk
            apply MemOk.lit
            refine MemOk.foldl0 ?_ ?_
            · with_reducible assumption
            · intros
              apply State.failGrid_memOk
              with_reducible assumption
      · split
        · split
          · apply State.logError_memOk
            apply MemOk.lit
            refine MemOk.foldl0 ?_ ?_
            · with_reducible assumption
            · intros
              apply State.failGrid_memOk
              with_reducible assumption
          · apply State.retire_memOk
            apply State.logError_memOk
            apply MemOk.lit
            refine MemOk.foldl0 ?_ ?_
            · with_reducible assumption
            · intros
              apply State.failGrid_memOk
              with_reducible assumption
        · apply State.retire_memOk
          apply State.logError_memOk
          split
          · apply State.logError_memOk
            apply MemOk.lit
            refine MemOk.foldl0 ?_ ?_
            · with_reducible assumption
            · intros
              apply State.failGrid_memOk
              with_reducible assumption
          · apply State.retire_memOk
            apply State.logError_memOk
            apply MemOk.lit
            refine MemOk.foldl0 ?_ ?_
            · with_reducible assumption
            · intros
              apply State.failGrid_memOk
              with_reducible assumption

theorem State.light_memOk (s : State) (w : Nat) (wl : Nat) (hm : MemOk s) : MemOk (State.light s w wl) := by
  unfold State.light
  dsimp only
  refine MemOk.foldl0 ?_ ?_
  · with_reducible assumption
  · intros
    apply State.setRing_memOk
    with_reducible assumption

theorem execMarginAlarm_memOk (waveguide : Nat) (wavelength : Nat) (heater : Byte) (s : State) (hm : MemOk s) : OutOk (execMarginAlarm waveguide wavelength heater s) := by
  unfold execMarginAlarm
  show MemOk _
  split
  · with_reducible assumption
  · split
    · apply State.logError_memOk
      with_reducible assumption
    · dsimp only
      apply State.foldError_memOk
      apply State.setFmap_memOk
      apply State.setRing_memOk
      apply State.light_memOk
      with_reducible assumption

theorem execLockLost_memOk (node : Nat) (wavelength : Nat) (s : State) (hm : MemOk s) : OutOk (execLockLost node wavelength s) := by
  unfold execLockLost
  show MemOk _
  apply State.fatalStop_memOk
  apply State.logError_memOk
  with_reducible assumption

theorem State.untrain_memOk (s : State) (port : Nat) (wl : Nat) (hm : MemOk s) : MemOk (State.untrain s port wl) := by
  unfold State.untrain
  apply State.setRing_memOk
  with_reducible assumption

theorem State.mapLane_memOk (s : State) (port : Nat) (lane : Nat) (wl : Nat) (hm : MemOk s) : MemOk (State.mapLane s port lane wl) := by
  unfold State.mapLane
  apply State.setRing_memOk
  with_reducible assumption

theorem execGuaranteeLapse_memOk (port : Nat) (control : Bool) (lane : Nat) (s : State) (hm : MemOk s) : OutOk (execGuaranteeLapse port control lane s) := by
  unfold execGuaranteeLapse
  show MemOk _
  split
  · with_reducible assumption
  · dsimp only
    split
    · apply State.settleGuarantee_memOk
      apply State.untrain_memOk
      with_reducible assumption
    · split
      · apply State.mapLane_memOk
        apply State.untrain_memOk
        with_reducible assumption
      · apply MemOk.lit
        refine MemOk.foldl0 ?_ ?_
        · apply State.logError_memOk
          apply State.untrain_memOk
          with_reducible assumption
        · intros
          apply State.endBurst_memOk
          with_reducible assumption

theorem State.retrainLane_memOk (s : State) (port : Nat) (lane : Nat) (hm : MemOk s) : MemOk (State.retrainLane s port lane) := by
  unfold State.retrainLane
  split
  · with_reducible assumption
  · dsimp only
    apply State.mapLane_memOk
    apply State.setRing_memOk
    with_reducible assumption

theorem execGuaranteeRestored_memOk (port : Nat) (s : State) (hm : MemOk s) : OutOk (execGuaranteeRestored port s) := by
  unfold execGuaranteeRestored
  show MemOk _
  split
  · with_reducible assumption
  · apply State.settleGuarantee_memOk
    refine MemOk.foldl0 ?_ ?_
    · with_reducible assumption
    · intros
      apply State.retrainLane_memOk
      with_reducible assumption

theorem State.answerHost_memOk (s : State) (h : Nat) (d : Option (List Byte)) (hm : MemOk s) : MemOk (State.answerHost s h d) := by
  unfold State.answerHost
  apply MemOk.lit
  with_reducible assumption

theorem State.hostReads_memOk (s : State) (who : Option Nat) (key : Nat) (pa : Nat) (size : Nat) (hm : MemOk s) : MemOk (State.hostReads s who key pa size) := by
  unfold State.hostReads
  refine MemOk.foldl0 ?_ ?_
  · with_reducible assumption
  · intros
    apply State.performRead_memOk
    with_reducible assumption

theorem State.hostAfterRead_memOk (s : State) (h : Nat) (pa : Nat) (size : Nat) (mode : HostMode) (old : Nat) (r : HostRead) (hm : MemOk s) : MemOk (State.hostAfterRead s h pa size mode old r) := by
  unfold State.hostAfterRead
  split
  · with_reducible assumption
  · apply MemOk.lit
    with_reducible assumption
  · dsimp only
    apply State.perform_memOk
    with_reducible assumption

theorem State.hostStarts_memOk (s : State) (hm : MemOk s) : MemOk (State.hostStarts s) := by
  unfold State.hostStarts
  split
  · apply State.releaseHosts_memOk
    with_reducible assumption
  · with_reducible assumption

theorem execHostLoad_memOk (hart : Nat) (op : HostLoadOp) (size : Nat) (s : State) (hm : MemOk s) : OutOk (execHostLoad hart op size s) := by
  unfold execHostLoad
  dsimp only
  show MemOk _
  split
  · apply State.hostStarts_memOk
    with_reducible assumption
  · split
    · apply State.answerHost_memOk
      apply State.hostStarts_memOk
      with_reducible assumption
    · split
      · split
        · apply State.answerHost_memOk
          apply State.hostStarts_memOk
          with_reducible assumption
        · apply State.answerHost_memOk
          apply State.noteRead_memOk
          apply State.hostStarts_memOk
          with_reducible assumption
      · split
        · apply State.answerHost_memOk
          apply State.hostStarts_memOk
          with_reducible assumption
        · apply State.answerHost_memOk
          apply State.hostAfterRead_memOk
          apply State.hostReads_memOk
          apply State.hostStarts_memOk
          with_reducible assumption

theorem State.hostLaunch_memOk (s : State) (hart : Nat) (pa : Nat) (data : List Byte) (hm : MemOk s) : MemOk (State.hostLaunch s hart pa data) := by
  unfold State.hostLaunch
  dsimp only
  split
  · apply MemOk.lit
    with_reducible assumption
  · apply State.logIgnored_memOk
    with_reducible assumption

theorem State.answerSc_memOk (s : State) (h : Nat) (ok : Bool) (hm : MemOk s) : MemOk (State.answerSc s h ok) := by
  unfold State.answerSc
  apply State.answerHost_memOk
  apply MemOk.lit
  with_reducible assumption

theorem execHostStore_memOk (hart : Nat) (op : HostStoreOp) (data : List Byte) (s : State) (hm : MemOk s) : OutOk (execHostStore hart op data s) := by
  unfold execHostStore
  dsimp only
  show MemOk _
  split
  · apply State.hostStarts_memOk
    with_reducible assumption
  · split
    · apply State.answerHost_memOk
      apply State.hostStarts_memOk
      with_reducible assumption
    · split
      · split
        · apply State.answerHost_memOk
          apply State.hostStarts_memOk
          with_reducible assumption
        · split
          · apply State.hostLaunch_memOk
            apply State.hostStarts_memOk
            with_reducible assumption
          · apply State.deviceWrite_memOk
            apply State.hostStarts_memOk
            with_reducible assumption
      · split
        · apply State.answerHost_memOk
          apply State.hostStarts_memOk
          with_reducible assumption
        · split
          · apply State.perform_memOk
            apply State.hostStarts_memOk
            with_reducible assumption
          · split
            · apply State.answerSc_memOk
              apply State.perform_memOk
              apply State.hostStarts_memOk
              with_reducible assumption
            · apply State.answerSc_memOk
              apply State.hostStarts_memOk
              with_reducible assumption

theorem execUnassignedOpcode_memOk (word : BitVec 64) (s : State) (hm : MemOk s) : OutOk (execUnassignedOpcode word s) := by
  unfold execUnassignedOpcode
  show MemOk _
  apply State.issue_memOk
  · with_reducible assumption
  · intros
    with_reducible assumption

theorem execClauseNotWellFormed_memOk (s : State) (hm : MemOk s) : OutOk (execClauseNotWellFormed s) := by
  unfold execClauseNotWellFormed
  show MemOk _
  apply State.parkAll_memOk
  with_reducible assumption

end Sys2Proof.Machine
end

