-- ==== Sys2Proof/Laws/CanonicalStep.lean ====
section
/-!
SUPPORT. The canonical form of memory is kept: fetching, choosing, and every instruction through exec.
-/

namespace Sys2Proof.Machine

theorem State.fetchPart_memOk (s : State) (w : Who) (va : Nat) (n : Nat) (hm : MemOk s) : MemOk (State.fetchPart s w va n).2 := by
  unfold State.fetchPart
  dsimp only
  split
  · dsimp only
    apply State.fetchAt_memOk
    with_reducible assumption
  · split
    · dsimp only
      apply State.fetchAt_memOk
      with_reducible assumption
    · dsimp only
      refine MemOk.foldl0 ?_ ?_
      · apply State.fetchAt_memOk
        with_reducible assumption
      · intros
        apply State.noteMismatch_memOk
        with_reducible assumption

theorem State.fetchBytes_memOk (s : State) (w : Who) (va : Nat) (n : Nat) (hm : MemOk s) : MemOk (State.fetchBytes s w va n).2 := by
  unfold State.fetchBytes
  dsimp only
  split
  · apply State.fetchPart_memOk
    with_reducible assumption
  · split
    · dsimp only
      apply State.fetchPart_memOk
      with_reducible assumption
    · split
      · dsimp only
        apply State.fetchPart_memOk
        apply State.fetchPart_memOk
        with_reducible assumption
      · dsimp only
        apply State.fetchPart_memOk
        apply State.fetchPart_memOk
        with_reducible assumption

theorem State.fetchClause_memOk (s : State) (w : Who) (va : Nat) (hm : MemOk s) : MemOk (State.fetchClause s w va).2 := by
  unfold State.fetchClause
  dsimp only
  split
  · dsimp only
    apply State.fetchBytes_memOk
    with_reducible assumption
  · split
    · dsimp only
      apply State.fetchBytes_memOk
      with_reducible assumption
    · split
      · dsimp only
        apply State.fetchBytes_memOk
        apply State.fetchBytes_memOk
        with_reducible assumption
      · dsimp only
        apply State.fetchBytes_memOk
        apply State.fetchBytes_memOk
        with_reducible assumption

theorem State.missSecond_memOk (s : State) (x : Nat × PC × List Nat) (hm : MemOk s) : MemOk (State.missSecond s x) := by
  unfold State.missSecond
  apply State.updSlot_memOk
  with_reducible assumption

theorem State.tickOn_memOk (s : State) (hm : MemOk s) : MemOk (State.tickOn s) := by
  unfold State.tickOn
  dsimp only
  split
  · apply MemOk.lit
    with_reducible assumption
  · split
    · apply MemOk.lit
      with_reducible assumption
    · apply MemOk.lit
      with_reducible assumption

theorem State.closeEvent_memOk (s : State) (hm : MemOk s) : MemOk (State.closeEvent s) := by
  unfold State.closeEvent
  apply State.tickOn_memOk
  apply MemOk.lit
  with_reducible assumption

theorem State.closeIssue_memOk (p : Plan) (s : State) (hm : MemOk s) : MemOk (State.closeIssue p s) := by
  unfold State.closeIssue
  dsimp only
  apply State.tickOn_memOk
  apply MemOk.lit
  apply State.updSlot_memOk
  apply State.updQuad_memOk
  split
  · apply State.stallCycle_memOk
    with_reducible assumption
  · with_reducible assumption

theorem State.closeSettle_memOk (p : Plan) (s : State) (hm : MemOk s) : MemOk (State.closeSettle p s) := by
  unfold State.closeSettle
  apply State.tickOn_memOk
  apply MemOk.lit
  with_reducible assumption

theorem State.closeInstr_memOk (p : Plan) (s0 : State) (s : State) (hm : MemOk s) : MemOk (State.closeInstr p s0 s) := by
  unfold State.closeInstr
  apply State.closeIssue_memOk
  apply State.noteIssue_memOk
  with_reducible assumption

theorem onNext_memOk (f : State → State) (o : Host.Outcome State Fault Refusal) (h : OutOk o) (hf : ∀ s, MemOk s → MemOk (f s)) :
    OutOk (onNext f o) := by
  cases o with
  | next s => exact hf s h
  | fault r => trivial
  | refused r => trivial

theorem State.placeClause_memOk (s : State) (bs : List Byte) (hm : MemOk s) : MemOk (State.placeClause s bs) := by
  unfold State.placeClause
  dsimp only
  apply MemOk.put
  apply Memory.wf_setBytes
  show MemOk _
  with_reducible assumption

theorem exec_memOk (i : Instr) (s : State) (hm : MemOk s) : OutOk (exec i s) := by
  unfold exec
  split
  · apply execNop_memOk
    with_reducible assumption
  · apply execBra_memOk
    with_reducible assumption
  · apply execCall_memOk
    with_reducible assumption
  · apply execRgrp_memOk
    with_reducible assumption
  · apply execBrx_memOk
    with_reducible assumption
  · apply execCallx_memOk
    with_reducible assumption
  · apply execRet_memOk
    with_reducible assumption
  · apply execExit_memOk
    with_reducible assumption
  · apply execJset_memOk
    with_reducible assumption
  · apply execJwait_memOk
    with_reducible assumption
  · apply execJclr_memOk
    with_reducible assumption
  · apply execElect_memOk
    with_reducible assumption
  · apply execYield_memOk
    with_reducible assumption
  · apply execChk_memOk
    with_reducible assumption
  · apply execTrap_memOk
    with_reducible assumption
  · apply execIret_memOk
    with_reducible assumption
  · apply execLaunch_memOk
    with_reducible assumption
  · apply execJoin_memOk
    with_reducible assumption
  · apply execTrig_memOk
    with_reducible assumption
  · apply execSrd_memOk
    with_reducible assumption
  · apply execSwr_memOk
    with_reducible assumption
  · apply execDbgbrk_memOk
    with_reducible assumption
  · apply execMark_memOk
    with_reducible assumption
  · apply execHalt_memOk
    with_reducible assumption
  · apply execAdd_memOk
    with_reducible assumption
  · apply execSub_memOk
    with_reducible assumption
  · apply execAddc_memOk
    with_reducible assumption
  · apply execSubb_memOk
    with_reducible assumption
  · apply execNeg_memOk
    with_reducible assumption
  · apply execAbs_memOk
    with_reducible assumption
  · apply execMul_memOk
    with_reducible assumption
  · apply execMulh_memOk
    with_reducible assumption
  · apply execMulw_memOk
    with_reducible assumption
  · apply execMad_memOk
    with_reducible assumption
  · apply execMadh_memOk
    with_reducible assumption
  · apply execMadw_memOk
    with_reducible assumption
  · apply execDiv_memOk
    with_reducible assumption
  · apply execRem_memOk
    with_reducible assumption
  · apply execMin_memOk
    with_reducible assumption
  · apply execMax_memOk
    with_reducible assumption
  · apply execAnd_memOk
    with_reducible assumption
  · apply execOr_memOk
    with_reducible assumption
  · apply execXor_memOk
    with_reducible assumption
  · apply execNot_memOk
    with_reducible assumption
  · apply execAndn_memOk
    with_reducible assumption
  · apply execShl_memOk
    with_reducible assumption
  · apply execShr_memOk
    with_reducible assumption
  · apply execSar_memOk
    with_reducible assumption
  · apply execRol_memOk
    with_reducible assumption
  · apply execFshl_memOk
    with_reducible assumption
  · apply execBfx_memOk
    with_reducible assumption
  · apply execBfi_memOk
    with_reducible assumption
  · apply execPopc_memOk
    with_reducible assumption
  · apply execClz_memOk
    with_reducible assumption
  · apply execCtz_memOk
    with_reducible assumption
  · apply execBrev_memOk
    with_reducible assumption
  · apply execPerm_memOk
    with_reducible assumption
  · apply execSel_memOk
    with_reducible assumption
  · apply execIset_memOk
    with_reducible assumption
  · apply execLea_memOk
    with_reducible assumption
  · apply execSad_memOk
    with_reducible assumption
  · apply execDot4_memOk
    with_reducible assumption
  · apply execDot8_memOk
    with_reducible assumption
  · apply execMov_memOk
    with_reducible assumption
  · apply execMovi_memOk
    with_reducible assumption
  · apply execMovh_memOk
    with_reducible assumption
  · apply execPand_memOk
    with_reducible assumption
  · apply execPor_memOk
    with_reducible assumption
  · apply execPxor_memOk
    with_reducible assumption
  · apply execPnot_memOk
    with_reducible assumption
  · apply execPmov_memOk
    with_reducible assumption
  · apply execIdx_memOk
    with_reducible assumption
  · apply execFadd_memOk
    with_reducible assumption
  · apply execFsub_memOk
    with_reducible assumption
  · apply execFmul_memOk
    with_reducible assumption
  · apply execFma_memOk
    with_reducible assumption
  · apply execFmin_memOk
    with_reducible assumption
  · apply execFmax_memOk
    with_reducible assumption
  · apply execFset_memOk
    with_reducible assumption
  · apply execFclass_memOk
    with_reducible assumption
  · apply execFrnd_memOk
    with_reducible assumption
  · apply execFscale_memOk
    with_reducible assumption
  · apply execFexpn_memOk
    with_reducible assumption
  · apply execFmant_memOk
    with_reducible assumption
  · apply execFcopys_memOk
    with_reducible assumption
  · apply execFrcp_memOk
    with_reducible assumption
  · apply execFrsq_memOk
    with_reducible assumption
  · apply execFsqrt_memOk
    with_reducible assumption
  · apply execFdiv_memOk
    with_reducible assumption
  · apply execFexp2_memOk
    with_reducible assumption
  · apply execFlog2_memOk
    with_reducible assumption
  · apply execFsin_memOk
    with_reducible assumption
  · apply execFcos_memOk
    with_reducible assumption
  · apply execFtanh_memOk
    with_reducible assumption
  · apply execFsigm_memOk
    with_reducible assumption
  · apply execFdot2_memOk
    with_reducible assumption
  · apply execFdot4_memOk
    with_reducible assumption
  · apply execCvt_memOk
    with_reducible assumption
  · apply execCvts_memOk
    with_reducible assumption
  · apply execCvti_memOk
    with_reducible assumption
  · apply execPack_memOk
    with_reducible assumption
  · apply execUnpack_memOk
    with_reducible assumption
  · apply execAddmin_memOk
    with_reducible assumption
  · apply execAddmax_memOk
    with_reducible assumption
  · apply execFmini_memOk
    with_reducible assumption
  · apply execFmaxi_memOk
    with_reducible assumption
  · apply execImini_memOk
    with_reducible assumption
  · apply execImaxi_memOk
    with_reducible assumption
  · apply execShfl_memOk
    with_reducible assumption
  · apply execSlide_memOk
    with_reducible assumption
  · apply execBcastl_memOk
    with_reducible assumption
  · apply execVote_memOk
    with_reducible assumption
  · apply execMatchLanes_memOk
    with_reducible assumption
  · apply execRedux_memOk
    with_reducible assumption
  · apply execScan_memOk
    with_reducible assumption
  · apply execLmask_memOk
    with_reducible assumption
  · apply execPairWord_memOk
    with_reducible assumption
  · apply execLd_memOk
    with_reducible assumption
  · apply execLdS_memOk
    with_reducible assumption
  · apply execSt_memOk
    with_reducible assumption
  · apply execStoreDrain_memOk
    with_reducible assumption
  · apply execAtom_memOk
    with_reducible assumption
  · apply execAtomc_memOk
    with_reducible assumption
  · apply execRed_memOk
    with_reducible assumption
  · apply execFence_memOk
    with_reducible assumption
  · apply execPref_memOk
    with_reducible assumption
  · apply execEvict_memOk
    with_reducible assumption
  · apply execTagset_memOk
    with_reducible assumption
  · apply execTagget_memOk
    with_reducible assumption
  · apply execBcst_memOk
    with_reducible assumption
  · apply execPres_memOk
    with_reducible assumption
  · apply execPclr_memOk
    with_reducible assumption
  · apply execDcq_memOk
    with_reducible assumption
  · apply execQuantumCommit_memOk
    with_reducible assumption
  · apply execQinit_memOk
    with_reducible assumption
  · apply execQenq_memOk
    with_reducible assumption
  · apply execQdeq_memOk
    with_reducible assumption
  · apply execQpeek_memOk
    with_reducible assumption
  · apply execWaitw_memOk
    with_reducible assumption
  · apply execWaitwReread_memOk
    with_reducible assumption
  · apply execBari_memOk
    with_reducible assumption
  · apply execBara_memOk
    with_reducible assumption
  · apply execBarw_memOk
    with_reducible assumption
  · apply execBars_memOk
    with_reducible assumption
  · apply execLinkedArrival_memOk
    with_reducible assumption
  · apply execTbari_memOk
    with_reducible assumption
  · apply execTbare_memOk
    with_reducible assumption
  · apply execLbrd_memOk
    with_reducible assumption
  · apply execLbor_memOk
    with_reducible assumption
  · apply execClrseg_memOk
    with_reducible assumption
  · apply execMcfg_memOk
    with_reducible assumption
  · apply execWload_memOk
    with_reducible assumption
  · apply execWloadComplete_memOk
    with_reducible assumption
  · apply execWloadr_memOk
    with_reducible assumption
  · apply execWclr_memOk
    with_reducible assumption
  · apply execMma_memOk
    with_reducible assumption
  · apply execMmasp_memOk
    with_reducible assumption
  · apply execMconv_memOk
    with_reducible assumption
  · apply execMmar_memOk
    with_reducible assumption
  · apply execRowAccept_memOk
    with_reducible assumption
  · apply execRowWrite_memOk
    with_reducible assumption
  · apply execEpilogue_memOk
    with_reducible assumption
  · apply execEpcfg_memOk
    with_reducible assumption
  · apply execMstat_memOk
    with_reducible assumption
  · apply execMdrain_memOk
    with_reducible assumption
  · apply execMrdacc_memOk
    with_reducible assumption
  · apply execMwracc_memOk
    with_reducible assumption
  · apply execXcopy_memOk
    with_reducible assumption
  · apply execCopyLineArrival_memOk
    with_reducible assumption
  · apply execCopyComplete_memOk
    with_reducible assumption
  · apply execXkick_memOk
    with_reducible assumption
  · apply execXwait_memOk
    with_reducible assumption
  · apply execXtest_memOk
    with_reducible assumption
  · apply execSend_memOk
    with_reducible assumption
  · apply execMessageArrival_memOk
    with_reducible assumption
  · apply execRecv_memOk
    with_reducible assumption
  · apply execRtest_memOk
    with_reducible assumption
  · apply execObsend_memOk
    with_reducible assumption
  · apply execBurstTransmit_memOk
    with_reducible assumption
  · apply execBurstAck_memOk
    with_reducible assumption
  · apply execAckTimeout_memOk
    with_reducible assumption
  · apply execObrecv_memOk
    with_reducible assumption
  · apply execBurstArrival_memOk
    with_reducible assumption
  · apply execReceiveComplete_memOk
    with_reducible assumption
  · apply execResetNotice_memOk
    with_reducible assumption
  · apply execObstat_memOk
    with_reducible assumption
  · apply execRel_memOk
    with_reducible assumption
  · apply execWpset_memOk
    with_reducible assumption
  · apply execWpclr_memOk
    with_reducible assumption
  · apply execProfrd_memOk
    with_reducible assumption
  · apply execTlbi_memOk
    with_reducible assumption
  · apply execCtxsv_memOk
    with_reducible assumption
  · apply execCtxld_memOk
    with_reducible assumption
  · apply execCrrd_memOk
    with_reducible assumption
  · apply execCrwr_memOk
    with_reducible assumption
  · apply execFlumeRds_memOk
    with_reducible assumption
  · apply execFlumeRdx_memOk
    with_reducible assumption
  · apply execFlumeUpg_memOk
    with_reducible assumption
  · apply execFlumeWb_memOk
    with_reducible assumption
  · apply execFlumeWst_memOk
    with_reducible assumption
  · apply execCoherenceTimeout_memOk
    with_reducible assumption
  · apply execWarpForm_memOk
    with_reducible assumption
  · apply execBalancerPass_memOk
    with_reducible assumption
  · apply execTrapRecordClose_memOk
    with_reducible assumption
  · apply execLaunchSubmit_memOk
    with_reducible assumption
  · apply execLaunchClaim_memOk
    with_reducible assumption
  · apply execStandPlace_memOk
    with_reducible assumption
  · apply execStandStart_memOk
    with_reducible assumption
  · apply execGangPatienceExpire_memOk
    with_reducible assumption
  · apply execGangRelief_memOk
    with_reducible assumption
  · apply execGridEnd_memOk
    with_reducible assumption
  · apply execSliceEnd_memOk
    with_reducible assumption
  · apply execContextSave_memOk
    with_reducible assumption
  · apply execContextRestore_memOk
    with_reducible assumption
  · apply execWakeEvent_memOk
    with_reducible assumption
  · apply execRingSearch_memOk
    with_reducible assumption
  · apply execEyeTraining_memOk
    with_reducible assumption
  · apply execPowerOn_memOk
    with_reducible assumption
  · apply execRetest_memOk
    with_reducible assumption
  · apply execLinkRetry_memOk
    with_reducible assumption
  · apply execLinkDown_memOk
    with_reducible assumption
  · apply execMarginAlarm_memOk
    with_reducible assumption
  · apply execLockLost_memOk
    with_reducible assumption
  · apply execUncorrectableError_memOk
    with_reducible assumption
  · apply execDramScrub_memOk
    with_reducible assumption
  · apply execVaultScrub_memOk
    with_reducible assumption
  · apply execScratchpadScrub_memOk
    with_reducible assumption
  · apply execErrorFoldExpire_memOk
    with_reducible assumption
  · apply execGuaranteeLapse_memOk
    with_reducible assumption
  · apply execGuaranteeRestored_memOk
    with_reducible assumption
  · apply execWatchdogRestart_memOk
    with_reducible assumption
  · apply execPolicyCheckFail_memOk
    with_reducible assumption
  · apply execHostLoad_memOk
    with_reducible assumption
  · apply execHostStore_memOk
    with_reducible assumption
  · apply execStallReasonCount_memOk
    with_reducible assumption
  · apply execUnassignedOpcode_memOk
    with_reducible assumption
  · apply execGateRelease_memOk
    with_reducible assumption
  · apply execSaveReplay_memOk
    with_reducible assumption
  · apply execSaveKill_memOk
    with_reducible assumption
  · apply execPartitionEnable_memOk
    with_reducible assumption
  · apply execPartitionDisable_memOk
    with_reducible assumption
  · apply execVfEnable_memOk
    with_reducible assumption
  · apply execVfTeardown_memOk
    with_reducible assumption
  · apply execCircuitDisable_memOk
    with_reducible assumption
  · apply execFrameZero_memOk
    with_reducible assumption
  · apply execPolicyInstall_memOk
    with_reducible assumption
  · apply execPolicyRemove_memOk
    with_reducible assumption
  · apply execKeyRegister_memOk
    with_reducible assumption
  · apply execMigrationReplay_memOk
    with_reducible assumption
  · apply execHandlerCreate_memOk
    with_reducible assumption
  · apply execHandlerTeardown_memOk
    with_reducible assumption
  · apply execPresRetry_memOk
    with_reducible assumption
  · apply execPresSkip_memOk
    with_reducible assumption
  · apply execPresKill_memOk
    with_reducible assumption
  · apply execPvalWrite_memOk
    with_reducible assumption
  · apply execHpvalWrite_memOk
    with_reducible assumption
  · apply execForwardEvent_memOk
    with_reducible assumption
  · apply execDebugStopRequest_memOk
    with_reducible assumption
  · apply execDebugResume_memOk
    with_reducible assumption
  · apply execClaimSuspend_memOk
    with_reducible assumption
  · apply execClaimResume_memOk
    with_reducible assumption
  · apply execFeatureConfirm_memOk
    with_reducible assumption
  · apply execMstateWrite_memOk
    with_reducible assumption
  · apply execRegisterWrite_memOk
    with_reducible assumption
  · apply execLmapWrite_memOk
    with_reducible assumption
  · apply execFmapWrite_memOk
    with_reducible assumption
  · apply execStatus_memOk
    with_reducible assumption
  · apply execLog_memOk
    with_reducible assumption
  · apply execReport_memOk
    with_reducible assumption
  · apply execFwload_memOk
    with_reducible assumption
  · apply execStream_memOk
    with_reducible assumption
  · apply execUnknownRequest_memOk
    with_reducible assumption
  · apply execChannelAck_memOk
    with_reducible assumption
  · apply execRelocationComplete_memOk
    with_reducible assumption
  · apply execClauseNotWellFormed_memOk
    with_reducible assumption

theorem State.settleReady_memOk (s : State) (hm : MemOk s) : MemOk (State.settleReady s) := by
  unfold State.settleReady
  apply MemOk.lit
  with_reducible assumption

theorem State.refresh_memOk (s : State) (hm : MemOk s) : MemOk (State.refresh s) := by
  unfold State.refresh
  apply State.noteLack_memOk
  apply State.settleReady_memOk
  apply MemOk.lit
  with_reducible assumption

theorem State.withFetchWord_memOk (s : State) (nbits : Nat) (w : Nat) (hm : MemOk s) : MemOk (State.withFetchWord s nbits w) := by
  unfold State.withFetchWord
  apply State.placeClause_memOk
  with_reducible assumption

/-- The canonical form in the state that a prepared group carries. -/
def ToIssueOk : ToIssue → Prop
  | .run _ s => MemOk s
  | .held _ s => MemOk s
  | .done s => MemOk s

/-- The canonical form in the state that the machine's choice carries. -/
def ActOk : Act → Prop
  | .event _ s => MemOk s
  | .issue _ _ s => MemOk s
  | .settle _ s => MemOk s
  | .idle s => MemOk s

theorem State.clauseRaise_memOk (s : State) (mask : Nat) (t : State) (hm : MemOk s) (h : State.clauseRaise s mask = some t) : MemOk t := by
  unfold State.clauseRaise at h
  dsimp only at h
  split at h
  · cases h
  · cases h
    apply State.park_memOk
    refine MemOk.foldl1 ?_ ?_
    · exact hm
    · intros
      dsimp only
      apply State.statusRaise_memOk
      with_reducible assumption

theorem State.prepare_memOk (s : State) (slotKey : Nat) (lanes : List Nat) (pc : PC) (hm : MemOk s) :
    ToIssueOk (State.prepare s slotKey lanes pc) := by
  unfold State.prepare
  extract_lets c s0 f pending
  have hf : MemOk f.2 := by
    dsimp only [f]
    apply State.fetchClause_memOk
    exact hm
  clear_value f pending
  split
  · split
    · exact hf
    · exact State.park_memOk _ _ hf
  · split
    · exact hf
    · exact State.failStand_memOk _ _ _ _ _ hf
  · dsimp only
    split
    · exact hf
    · split
      · exact hf
      · split
        · exact hf
        · split
          · rename_i h
            split at h
            · exact State.clauseRaise_memOk _ _ _ (by exact hf) h
            · cases h
          · exact hf

theorem State.tryGroup_memOk (s : State) (p : Plan) (hm : MemOk s) : ActOk (State.tryGroup s p) := by
  have h := State.prepare_memOk s p.slot p.group.lanes p.group.pc hm
  unfold State.tryGroup
  split <;> rename_i e <;> rw [e] at h <;> exact h

theorem State.tryIssue_memOk (s : State) (a : Act) (hm : MemOk s) (h : State.tryIssue s = some a) : ActOk a := by
  unfold State.tryIssue at h
  split at h
  · cases h
  · obtain ⟨p, -, rfl⟩ := Option.map_eq_some_iff.mp h
    exact State.tryGroup_memOk s p hm

theorem State.trySecond_memOk (s : State) (x : Nat × PC × List Nat) (a : Act) (hm : MemOk s) (h : State.trySecond s x = some a) :
    ActOk a := by
  unfold State.trySecond at h
  split at h
  · cases h
  · split at h
    · cases h
      exact State.tryGroup_memOk s _ hm
    · cases h

theorem State.tryOwn_memOk (s : State) (a : Act) (hm : MemOk s) (h : State.tryOwn s = some a) : ActOk a := by
  obtain ⟨i, -, rfl⟩ := Option.map_eq_some_iff.mp h
  exact hm

theorem ActOk.getD {o : Option Act} {d : Act} (h : ∀ a, o = some a → ActOk a) (hd : ActOk d) : ActOk (o.getD d) := by
  cases o with
  | none => exact hd
  | some a => exact h a rfl

theorem ActOk.orElse {o p : Option Act} (h : ∀ a, o = some a → ActOk a) (hp : ∀ a, p = some a → ActOk a) (a : Act)
    (e : (o <|> p) = some a) : ActOk a := by
  cases o with
  | none => exact hp a e
  | some b => exact h a e

theorem State.takeTurn_memOk (s : State) (hm : MemOk s) : ActOk (State.takeTurn s) := by
  have hi := fun a => State.tryIssue_memOk s a hm
  have ho := fun a => State.tryOwn_memOk s a hm
  unfold State.takeTurn
  split
  · exact ActOk.getD (ActOk.orElse hi ho) hm
  · exact ActOk.getD (ActOk.orElse ho hi) hm

theorem State.act_memOk (s : State) (hm : MemOk s) : ActOk (State.act s) := by
  unfold State.act
  split
  · exact hm
  · dsimp only
    split
    · exact ActOk.getD (fun a => State.trySecond_memOk _ _ a hm) (State.takeTurn_memOk _ (State.missSecond_memOk _ _ hm))
    · exact State.takeTurn_memOk _ hm

end Sys2Proof.Machine
end

