-- ==== Sys2Proof/Laws/Completion.lean ====
section
/-!
SUPPORT. What the shared ways of issuing do when nothing stops them: for lanes that all pass their checks, for an instruction
that acts once for its group, for one that its lowest lane carries out.
-/

namespace Sys2Proof.Machine

theorem issue_intro {o : Host.Outcome State Fault Refusal} {s : State} {gn : BitVec 1} {gp : BitVec 3} {bad : Option Flt}
    {body : List Nat → State} (h : o = .next (s.issue gn gp bad body)) : ∃ b, o = .next (s.issue gn gp bad b) := ⟨body, h⟩

theorem runWatch_issue (s : State) (f : SFmt) (set : Bool) :
    ∃ body, Host.Outcome.next (φ := Fault) (ρ := Refusal) (s.runWatch f set) = .next (s.issue f.gn f.gp (illWatch f set s) body) := by
  by_cases h : bits f.imm.toNat 0 3 = 0
  · exact issue_intro (by unfold State.runWatch; simp only [h, if_true]; rfl)
  · exact issue_intro (by unfold State.runWatch; simp only [h, if_false]; rfl)

/-- Every instruction that does more than compute on registers begins with `State.issue`. -/
theorem exec_of_actUse {i : Instr} {s : State} {u : Use} (h : s.actUse i = some u) :
    ∃ body, exec i s = .next (s.issue u.gn u.gp u.bad body) := by
  unfold State.actUse at h
  split at h
  all_goals cases h
  all_goals
    first
      | (apply issue_intro; first
          | rfl
          | (unfold exec execBrx State.runIndirect State.runTransfer; rfl)
          | (unfold exec execCallx State.runIndirect State.runTransfer; rfl)
          | (unfold exec execRet State.runIndirect State.runTransfer; rfl)
          | (unfold exec execLd State.runLd; rfl)
          | (unfold exec execLdS State.runLd; rfl)
          | (unfold exec execAtom State.runAtom; rfl)
          | (unfold exec execAtomc State.runAtom; rfl)
          | (unfold exec execRed State.runAtom; rfl)
          | (unfold exec execPres State.runPresence; done)
          | (unfold exec execPclr State.runPresence; done)
          | (unfold exec execMma State.runMma; rfl)
          | (unfold exec execMmasp State.runMma; rfl)
          | (unfold exec execMconv State.runMma; rfl)
          | (unfold exec execMmar State.runMma; rfl)
          | (unfold exec execXcopy State.runCopy State.runGroup; rfl)
          | (unfold exec execXkick State.runCopy State.runGroup; rfl)
          | (unfold exec execCtxsv State.runCtx State.runGroup; rfl)
          | (unfold exec execCtxld State.runCtx State.runGroup; rfl))
      | exact runWatch_issue s _ true
      | exact runWatch_issue s _ false

/-- A register instruction begins with `State.issue`. -/
theorem exec_of_registerOp {i : Instr} {s : State} {op : Alu} (h : s.registerOp i = some op) :
    ∃ body, exec i s = .next (s.issue op.gn op.gp (op.bad s.quota) body) := by
  unfold State.registerOp at h
  split at h
  all_goals cases h
  all_goals exact issue_intro (body := fun ex => (Alu.effect _ s s ex).advance s.cur.lanes) rfl

/-- A cross-lane instruction begins with `State.issue`. -/
theorem exec_of_laneOp {i : Instr} {s : State} {op : XLane} (h : laneOp i = some op) :
    ∃ body, exec i s = .next (s.issue op.gn op.gp (illegal op.ok (op.srcs.any (·.beyond s.quota) || op.dst.beyond s.quota)) body) := by
  unfold laneOp at h
  split at h
  all_goals cases h
  all_goals exact ⟨_, rfl⟩

/-- Every instruction with a use begins with `State.issue`. -/
theorem exec_of_use {i : Instr} {s : State} {u : Use} (h : s.useOf i = some u) :
    ∃ body, exec i s = .next (s.issue u.gn u.gp u.bad body) := by
  unfold State.useOf at h
  split at h
  · cases h; exact exec_of_registerOp ‹_›
  · cases h; exact exec_of_laneOp ‹_›
  · exact exec_of_actUse h

/-- In no executing lane an instruction only goes on (R110). -/
theorem exec_no_lane {i : Instr} {s : State} {u : Use} (h : s.useOf i = some u) (he : s.execLanes u.gn u.gp = []) :
    exec i s = .next (s.advance s.cur.lanes) := by
  obtain ⟨body, hb⟩ := exec_of_use h
  rw [hb]; simp [State.issue, he]

/-- An illegal use parks every executing lane (R419). -/
theorem exec_illegal {i : Instr} {s : State} {u : Use} {x : Flt} (h : s.useOf i = some u) (hx : u.bad = some x)
    (he : s.execLanes u.gn u.gp ≠ []) : exec i s = .next (s.parkAll (s.execLanes u.gn u.gp) x) := by
  obtain ⟨body, hb⟩ := exec_of_use h
  rw [hb, hx]; simp [State.issue, List.isEmpty_iff, he]

/-- A legal issue with an executing lane is its body. -/
theorem State.issue_runs {s : State} {gn : BitVec 1} {gp : BitVec 3} {bad : Option Flt} {body : List Nat → State}
    (hb : bad = none) (he : s.execLanes gn gp ≠ []) : s.issue gn gp bad body = body (s.execLanes gn gp) := by
  subst hb; simp [State.issue, List.isEmpty_iff, he]

theorem goodLanes_ok {α : Type} (v : List (Nat × α)) : goodLanes (v.map (fun p => (p.1, Ans.ok p.2))) = v := by
  induction v with
  | nil => rfl
  | cons p v ih => exact congrArg (p :: ·) ih

theorem badLanes_ok {α : Type} (v : List (Nat × α)) : badLanes (v.map (fun p => (p.1, Ans.ok p.2))) = [] := by
  induction v with
  | nil => rfl
  | cons p v ih => exact ih

theorem waitReason_ok {α : Type} (v : List (Nat × α)) : waitReason (v.map (fun p => (p.1, Ans.ok p.2))) = none := by
  induction v with
  | nil => rfl
  | cons p v ih => exact ih

theorem checkLanes_lanes {α : Type} (chk : State → Nat → Ans α × State) (s : State) (ex : List Nat) :
    (checkLanes chk s ex).1.map Prod.fst = ex := by
  induction ex generalizing s with
  | nil => rfl
  | cons l ls ih => exact congrArg (l :: ·) (ih _)

/-- The lanes that pass are the lanes checked. -/
theorem State.Passes.lanes {α : Type} {s s1 : State} {chk : State → Nat → Ans α × State} {ex : List Nat} {v : List (Nat × α)}
    (h : s.Passes chk ex v s1) : v.map Prod.fst = ex := by
  have := checkLanes_lanes chk s ex
  rw [h] at this
  simpa [List.map_map, Function.comp_def] using this

theorem State.afterStop_self (s : State) : s.afterStop s = s := by
  unfold State.afterStop
  simp only []
  cases (s.quadAt (4 * s.cur.core + s.cur.quad)).stopped <;> rfl

/-- When every lane passes, the group does what its act says. -/
theorem State.eachLaneStay_passes {α : Type} {s s1 : State} {chk : State → Nat → Ans α × State} {ex : List Nat}
    {v : List (Nat × α)} (act : State → List (Nat × α) → State × List Nat) (he : ex ≠ []) (h : s.Passes chk ex v s1) :
    s.eachLaneStay ex chk act = (act s1 v).1.advance (s.othersOf (act s1 v).2) := by
  have hv : v.isEmpty = false := by
    cases v with
    | nil => exact absurd (h.lanes) (by simpa using he.symm)
    | cons p v => rfl
  unfold State.eachLaneStay State.settleLanes
  rw [h]
  simp only [waitReason_ok, goodLanes_ok, badLanes_ok, hv, State.park, State.afterStop_self, Bool.false_eq_true, if_false,
    List.map_nil, List.nil_append]

theorem State.othersOf_nil (s : State) : s.othersOf [] = s.cur.lanes := by
  unfold State.othersOf
  rw [List.filter_eq_self]
  intro a _; rfl

theorem State.eachLane_passes {α : Type} {s s1 : State} {chk : State → Nat → Ans α × State} {ex : List Nat}
    {v : List (Nat × α)} (act : State → List (Nat × α) → State) (he : ex ≠ []) (h : s.Passes chk ex v s1) :
    s.eachLane ex chk act = (act s1 v).advance s.cur.lanes := by
  unfold State.eachLane
  rw [State.eachLaneStay_passes _ he h, s.othersOf_nil]

/-- A check that leaves the state alone and passes every lane. -/
theorem State.passes_of {α : Type} {s : State} {chk : State → Nat → Ans α × State} {ex : List Nat} {g : Nat → α}
    (h : ∀ l ∈ ex, chk s l = (.ok (g l), s)) : s.Passes chk ex (ex.map (fun l => (l, g l))) s := by
  unfold State.Passes
  induction ex with
  | nil => rfl
  | cons l ls ih =>
    have h1 := h l (by simp)
    have h2 := ih (fun m hm => h m (by simp [hm]))
    simp only [checkLanes, h1, h2, List.map_cons]

theorem State.raiseOnly_ok {s : State} {gp : BitVec 3} {srcs : List Src} {l : Nat} (h : s.raiseTok gp srcs l = none) :
    State.raiseOnly gp srcs s l = (.ok (), s) := by
  simp [State.raiseOnly, State.raiseOf, h]

theorem State.afterRaise_ok {α : Type} {s : State} {gp : BitVec 3} {srcs : List Src} {chk : State → Nat → Ans α × State} {l : Nat}
    (h : s.raiseTok gp srcs l = none) : State.afterRaise gp srcs chk s l = chk s l := by
  simp [State.afterRaise, State.raiseOf, h]

theorem State.raiseOnly_passes {s : State} {gp : BitVec 3} {srcs : List Src} {ex : List Nat}
    (h : ∀ l ∈ ex, s.raiseTok gp srcs l = none) : s.Passes (State.raiseOnly gp srcs) ex (ex.map (fun l => (l, ()))) s :=
  State.passes_of (fun l hl => State.raiseOnly_ok (h l hl))

/-- What it says of an instruction's use that it runs. -/
theorem State.Runs.use {s : State} {i : Instr} {gp : BitVec 3} {ex : List Nat} {u : Use} (h : s.Runs i gp ex)
    (hu : s.useOf i = some u) : u.bad = none ∧ u.gp = gp ∧ s.execLanes u.gn u.gp = ex ∧ ex ≠ [] := by
  obtain ⟨v, hv, hb, hg, he, hn⟩ := h
  rw [hu] at hv; cases hv
  exact ⟨hb, hg, by rw [hg]; exact he, hn⟩

/-- Lanes that do not raise, and pass a check that leaves the state alone. -/
theorem State.clean_passes {α : Type} {s : State} {gp : BitVec 3} {srcs : List Src} {chk : State → Nat → Ans α × State}
    {ex : List Nat} {g : Nat → α} (hr : ∀ l ∈ ex, s.raiseTok gp srcs l = none) (h : ∀ l ∈ ex, chk s l = (.ok (g l), s)) :
    s.Passes (State.afterRaise gp srcs chk) ex (ex.map (fun l => (l, g l))) s :=
  State.passes_of (fun l hl => by rw [State.afterRaise_ok (hr l hl)]; exact h l hl)

theorem map_fst_map {γ : Type} (h : Nat → γ) (ex : List Nat) : (ex.map (fun l => (l, h l))).map Prod.fst = ex := by
  simp [List.map_map, Function.comp_def]

/-- When no lane raises, lanes that only raise do what their act says. -/
theorem State.eachLane_clean {s : State} {gp : BitVec 3} {srcs : List Src} {ex : List Nat} (act : State → List (Nat × Unit) → State)
    (he : ex ≠ []) (h : ∀ l ∈ ex, s.raiseTok gp srcs l = none) :
    s.eachLane ex (State.raiseOnly gp srcs) act = (act s (ex.map (fun l => (l, ())))).advance s.cur.lanes :=
  State.eachLane_passes act he (State.raiseOnly_passes h)

theorem State.eachLaneStay_clean {s : State} {gp : BitVec 3} {srcs : List Src} {ex : List Nat}
    (act : State → List (Nat × Unit) → State × List Nat) (he : ex ≠ []) (h : ∀ l ∈ ex, s.raiseTok gp srcs l = none) :
    s.eachLaneStay ex (State.raiseOnly gp srcs) act
      = (act s (ex.map (fun l => (l, ())))).1.advance (s.othersOf (act s (ex.map (fun l => (l, ())))).2) :=
  State.eachLaneStay_passes act he (State.raiseOnly_passes h)

theorem fst_lanes (ex : List Nat) : (ex.map (fun l => (l, ()))).map Prod.fst = ex := by
  simp [List.map_map, Function.comp_def]

theorem findSome?_none_of {α β : Type} {f : α → Option β} {xs : List α} (h : ∀ x ∈ xs, f x = none) : xs.findSome? f = none := by
  induction xs with
  | nil => rfl
  | cons x xs ih => rw [List.findSome?_cons, h x (by simp)]; exact ih (fun y hy => h y (by simp [hy]))

/-- An instruction whose lanes are checked and then act completes where they pass. -/
theorem completes_of {α : Type} {i : Instr} {chk : State → Nat → Ans α × State} {t : State → List (Nat × α) → State}
    (h : ∀ s : State, ∃ u, s.useOf i = some u ∧ exec i s = .next (s.issue u.gn u.gp u.bad (fun ex => s.eachLane ex chk t))) :
    Completes i chk t := by
  intro s gp ex v s1 hr hp
  obtain ⟨u, hu, he⟩ := h s
  obtain ⟨hb, hg, hx, hn⟩ := State.Runs.use hr hu
  rw [he, State.issue_runs hb (by rw [hx]; exact hn), hx, State.eachLane_passes t hn hp]

/-- The same, where some lanes do not go on. -/
theorem completesStay_of {α : Type} {i : Instr} {chk : State → Nat → Ans α × State} {t : State → List (Nat × α) → State × List Nat}
    (h : ∀ s : State, ∃ u, s.useOf i = some u ∧ exec i s = .next (s.issue u.gn u.gp u.bad (fun ex => s.eachLaneStay ex chk t))) :
    CompletesStay i chk t := by
  intro s gp ex v s1 hr hp
  obtain ⟨u, hu, he⟩ := h s
  obtain ⟨hb, hg, hx, hn⟩ := State.Runs.use hr hu
  rw [he, State.issue_runs hb (by rw [hx]; exact hn), hx, State.eachLaneStay_passes t hn hp]

/-- An instruction that acts once for its group, when nothing stops it. -/
theorem State.runGroup_passes {α : Type} {s s1 : State} {gn : BitVec 1} {gp : BitVec 3} {bad : Option Flt} {low each : List Src}
    {chk : State → Nat → List Nat → Ans α × State} {act : State → Nat → List Nat → α → State} {l : Nat} {ls : List Nat} {a : α}
    (hb : bad = none) (he : s.execLanes gn gp = l :: ls)
    (h : ∀ m ∈ l :: ls, s.groupTok gp low each (l = m) m = none) (hc : chk s l (l :: ls) = (.ok a, s1)) :
    s.runGroup gn gp bad low each chk act = act s1 l (l :: ls) a := by
  unfold State.runGroup
  rw [State.issue_runs hb (by simp [he]), he]
  have hf : (l :: ls).findSome? (fun m => (s.groupTok gp low each ((l :: ls).head? = some m) m).map (fun k => (m, k))) = none :=
    findSome?_none_of (fun m hm => by
      have := h m hm
      simp only [List.head?_cons, Option.some.injEq]
      rw [this]; rfl)
  simp only [hf, hc]

/-- An instruction that its lowest lane carries out, when nothing stops it. -/
theorem State.onceLane_passes {α : Type} {s s1 : State} {gp : BitVec 3} {srcs : List Src} {l : Nat} {ls : List Nat}
    {chk : State → Nat → Ans α × State} {act : State → Nat → α → State} {a : α}
    (h : ∀ m ∈ l :: ls, s.raiseTok gp srcs m = none) (hc : chk s l = (.ok a, s1)) :
    s.onceLane gp srcs (l :: ls) chk act = (act s1 l a).advance s.cur.lanes := by
  unfold State.onceLane
  rw [show checkLanes (State.raiseOnly gp srcs) s (l :: ls) = _ from State.raiseOnly_passes h]
  have e := goodLanes_ok ((l :: ls).map (fun m => (m, ())))
  simp only [List.map_map, Function.comp_def] at e
  simp only [List.map_map, Function.comp_def]
  have b := badLanes_ok ((l :: ls).map (fun m => (m, ())))
  simp only [List.map_map, Function.comp_def] at b
  rw [e, b]
  simp only [State.park, List.map_cons, hc, List.map_nil, s.othersOf_nil]

/-- An instruction that acts once for its group completes where nothing stops it. -/
theorem groupCompletes_of {α : Type} {i : Instr} {low each : List Src} {chk : State → Nat → List Nat → Ans α × State}
    {t : State → BitVec 3 → Nat → List Nat → α → State}
    (h : ∀ s : State, ∃ u, s.useOf i = some u ∧ exec i s = .next (s.runGroup u.gn u.gp u.bad low each chk (fun s l ls a => t s u.gp l ls a))) :
    GroupCompletes i low each chk t := by
  intro s gp l ls a s1 hr hp hc
  obtain ⟨u, hu, he⟩ := h s
  obtain ⟨hb, rfl, hx, hn⟩ := State.Runs.use hr hu
  rw [he, State.runGroup_passes hb hx hp hc]

/-- An instruction that its lowest lane carries out completes where nothing stops it. -/
theorem onceCompletes_of {α : Type} {i : Instr} {srcs : List Src} {chk : State → Nat → Ans α × State} {t : State → Nat → α → State}
    (h : ∀ s : State, ∃ u, s.useOf i = some u ∧ exec i s = .next (s.issue u.gn u.gp u.bad (fun ex => s.onceLane u.gp srcs ex chk t))) :
    OnceCompletes i srcs chk t := by
  intro s gp l ls a s1 hr hp hc
  obtain ⟨u, hu, he⟩ := h s
  obtain ⟨hb, rfl, hx, hn⟩ := State.Runs.use hr hu
  rw [he, State.issue_runs hb (by rw [hx]; exact hn), hx, State.onceLane_passes hp hc]

/-- A queue instruction whose lanes all complete. -/
theorem queueCompletes_of {i : Instr} {f : MFmt} {srcs : List Src} {dst : Option Dst} {one : State → Nat → QAns × State}
    (h : ∀ s : State, ∃ bad, s.useOf i = some ⟨f.gn, f.gp, bad⟩
      ∧ exec i s = .next (s.issue f.gn f.gp bad (fun ex => s.runQueue f srcs dst ex one))) :
    QueueCompletes i srcs dst one := by
  intro s gp ex t hr hd hq
  obtain ⟨bad, hu, he⟩ := h s
  obtain ⟨hb, rfl, hx, hn⟩ := State.Runs.use hr hu
  rw [he, State.issue_runs hb (by rw [hx]; exact hn), hx]
  have hleft : ex.filter (fun l => !(s.lane l).queueDone) = ex := List.filter_eq_self.2 (fun l hl => by simp [hd l hl])
  have hall : ∀ xs : List Nat, xs.filter (fun _ => true) = xs := fun xs => List.filter_eq_self.2 (fun _ _ => rfl)
  unfold State.runQueue
  simp only [hleft]
  rw [show queLanes dst (State.queLane f.gp srcs one) (s.queRanks ex) ex ⟨[], [], [], none⟩ = _ from hq]
  simp only [List.contains_nil, Bool.not_false, List.any_nil, hall, State.park, State.afterStop_self, List.map_nil, List.nil_append,
    s.othersOf_nil]

/-- A transfer, when nothing stops it. -/
theorem State.runTransfer_passes {s : State} {gn : BitVec 1} {gp : BitVec 3} {bad : Option Flt} {srcs : List Src} {link : Option Nat}
    {target : Thread → Int × Option Flt} {ex : List Nat} (hb : bad = none) (hx : s.execLanes gn gp = ex) (he : ex ≠ [])
    (hr : ∀ l ∈ ex, s.raiseTok gp srcs l = none)
    (hok : ∀ l ∈ ex, (target (s.lane l)).2 = none ∧ s.flowFlt gp (s.curSlot.srcLabel srcs) l = none) :
    s.runTransfer gn gp bad srcs link target =
      (ex.foldl (fun (x : State) l => x.takeTransfer l (target (s.lane l)).1.toNat
          (s.curSlot.predLabel gp.toNat ||| s.curSlot.srcLabel srcs))
        (match link with
          | some d => s.commit ex [.v d 2] (s.labelL gp.toNat ex (s.curSlot.srcLabel srcs) 0) (ex.map (fun l => (l, [Out.val s.cur.next])))
          | none => s)).advance (s.othersOf ex) := by
  unfold State.runTransfer
  rw [State.issue_runs hb (by rw [hx]; exact he), hx]
  have hp := State.clean_passes (g := fun l => (target (s.lane l)).1.toNat) hr
    (chk := fun s l => match firstFault (target (s.lane l)).2 (s.flowFlt gp (s.curSlot.srcLabel srcs) l) with
      | some f => (.bad f, s)
      | none => (.ok (target (s.lane l)).1.toNat, s))
    (fun l hl => by
      obtain ⟨h1, h2⟩ := hok l hl
      simp only [h1, h2, firstFault])
  simp only []
  rw [State.eachLaneStay_passes _ he (show s.Passes (State.transferCheck gp srcs target) ex _ _ from hp)]
  simp only [map_fst_map, List.foldl_map]
  rfl

end Sys2Proof.Machine
end

