-- ==== Sys2Proof/Laws/Encoding.lean ====
section
/-!
SUPPORT. Laws of the encodings: bytes and numbers, and that each format's fields come back from its word.
-/

namespace Sys2Proof

/-! ### Bytes -/

theorem leNat_append (xs ys : List Byte) : leNat (xs ++ ys) = leNat xs + 256 ^ xs.length * leNat ys := by
  induction xs with
  | nil => simp [leNat]
  | cons x xs ih =>
    simp only [List.cons_append, leNat, ih, List.length_cons, Nat.pow_succ, Nat.mul_add, Nat.add_assoc]
    rw [Nat.mul_comm (256 ^ xs.length) 256, Nat.mul_assoc]

@[simp] theorem leBytes_length (n v : Nat) : (leBytes n v).length = n := by
  induction n generalizing v with
  | zero => rfl
  | succ n ih => simp [leBytes, ih]

theorem leNat_leBytes (n v : Nat) : leNat (leBytes n v) = v % 256 ^ n := by
  induction n generalizing v with
  | zero => simp [leBytes, leNat, Nat.mod_one]
  | succ n ih =>
    simp only [leBytes, leNat, ih, BitVec.toNat_ofNat]
    rw [show (256 : Nat) ^ (n + 1) = 256 * 256 ^ n by rw [Nat.pow_succ, Nat.mul_comm], Nat.mod_mul]

theorem leBytes_leNat (bs : List Byte) : leBytes bs.length (leNat bs) = bs := by
  induction bs with
  | nil => rfl
  | cons b bs ih =>
    have hb := b.isLt
    simp only [leNat, List.length_cons, leBytes]
    refine List.cons_eq_cons.2 ⟨BitVec.eq_of_toNat_eq ?_, ?_⟩
    · simp only [BitVec.toNat_ofNat]; omega
    · rw [show (b.toNat + 256 * leNat bs) / 256 = leNat bs by omega, ih]

/-! ### Fields of a word -/

theorem extract_low {m n : Nat} (x : BitVec n) (y : BitVec m) : (x ++ y).extractLsb' 0 m = y := by
  apply BitVec.eq_of_getLsbD_eq
  intro i hi
  simp [BitVec.getLsbD_append, hi]

theorem extract_high {m n : Nat} (x : BitVec n) (y : BitVec m) (k j : Nat) (h : m ≤ k) :
    (x ++ y).extractLsb' k j = x.extractLsb' (k - m) j := by
  ext i hi
  simp only [BitVec.getElem_extractLsb', BitVec.getLsbD_append]
  rw [if_neg (by omega), show k + i - m = k - m + i by omega]

theorem extract_all {n : Nat} (x : BitVec n) : x.extractLsb' 0 n = x := by
  ext i hi
  simp

/-- Bits [n + lo − 1 : lo] split at `m`. -/
theorem append_extract {n : Nat} (w : BitVec n) (lo a b : Nat) :
    w.extractLsb' (lo + b) a ++ w.extractLsb' lo b = w.extractLsb' lo (a + b) := by
  ext i hi
  simp only [BitVec.getElem_append, BitVec.getElem_extractLsb']
  split
  · rfl
  · rw [show lo + b + (i - b) = lo + i by omega]

/-! ### Formats -/

theorem gOf_gWord (op : BitVec 10) (f : GFmt) : gOf (gWord op f) = f := by
  cases f
  simp only [gOf, gWord, GFmt.mk.injEq]
  and_intros <;> (repeat refine (extract_high _ _ _ _ (by decide)).trans ?_) <;> exact extract_low _ _

theorem opcode_gWord (op : BitVec 10) (f : GFmt) : opcodeField (gWord op f) = op.toNat := by
  have h : (gWord op f).extractLsb' 54 10 = op := by
    unfold gWord
    repeat refine (extract_high _ _ _ _ (by decide)).trans ?_
    exact extract_all _
  exact congrArg BitVec.toNat h

theorem iOf_iWord (op : BitVec 10) (f : IFmt) : iOf (iWord op f) = f := by
  cases f
  simp only [iOf, iWord, IFmt.mk.injEq]
  and_intros <;> (repeat refine (extract_high _ _ _ _ (by decide)).trans ?_) <;> exact extract_low _ _

theorem opcode_iWord (op : BitVec 10) (f : IFmt) : opcodeField (iWord op f) = op.toNat := by
  have h : (iWord op f).extractLsb' 54 10 = op := by
    unfold iWord
    repeat refine (extract_high _ _ _ _ (by decide)).trans ?_
    exact extract_all _
  exact congrArg BitVec.toNat h

theorem mOf_mWord (op : BitVec 10) (f : MFmt) : mOf (mWord op f) = f := by
  cases f
  simp only [mOf, mWord, MFmt.mk.injEq]
  and_intros <;> (repeat refine (extract_high _ _ _ _ (by decide)).trans ?_) <;> exact extract_low _ _

theorem opcode_mWord (op : BitVec 10) (f : MFmt) : opcodeField (mWord op f) = op.toNat := by
  have h : (mWord op f).extractLsb' 54 10 = op := by
    unfold mWord
    repeat refine (extract_high _ _ _ _ (by decide)).trans ?_
    exact extract_all _
  exact congrArg BitVec.toNat h

theorem xOf_xWord (op : BitVec 10) (f : XFmt) : xOf (xWord op f) = f := by
  cases f
  simp only [xOf, xWord, XFmt.mk.injEq]
  and_intros <;> (repeat refine (extract_high _ _ _ _ (by decide)).trans ?_) <;> exact extract_low _ _

theorem opcode_xWord (op : BitVec 10) (f : XFmt) : opcodeField (xWord op f) = op.toNat := by
  have h : (xWord op f).extractLsb' 54 10 = op := by
    unfold xWord
    repeat refine (extract_high _ _ _ _ (by decide)).trans ?_
    exact extract_all _
  exact congrArg BitVec.toNat h

theorem yOf_yWord (op : BitVec 10) (f : YFmt) : yOf (yWord op f) = f := by
  cases f
  simp only [yOf, yWord, YFmt.mk.injEq]
  and_intros <;> (repeat refine (extract_high _ _ _ _ (by decide)).trans ?_) <;> exact extract_low _ _

theorem opcode_yWord (op : BitVec 10) (f : YFmt) : opcodeField (yWord op f) = op.toNat := by
  have h : (yWord op f).extractLsb' 54 10 = op := by
    unfold yWord
    repeat refine (extract_high _ _ _ _ (by decide)).trans ?_
    exact extract_all _
  exact congrArg BitVec.toNat h

theorem sOf_sWord (op : BitVec 10) (f : SFmt) : sOf (sWord op f) = f := by
  cases f
  simp only [sOf, sWord, SFmt.mk.injEq]
  and_intros <;> (repeat refine (extract_high _ _ _ _ (by decide)).trans ?_) <;> exact extract_low _ _

theorem opcode_sWord (op : BitVec 10) (f : SFmt) : opcodeField (sWord op f) = op.toNat := by
  have h : (sWord op f).extractLsb' 54 10 = op := by
    unfold sWord
    repeat refine (extract_high _ _ _ _ (by decide)).trans ?_
    exact extract_all _
  exact congrArg BitVec.toNat h

theorem cOf_cWord (f : CFmt) : cOf (cWord f) = f := by
  cases f
  simp only [cOf, cWord, CFmt.mk.injEq]
  and_intros <;> (repeat refine (extract_high _ _ _ _ (by decide)).trans ?_) <;> first | exact extract_low _ _ | exact extract_all _

theorem headerOf_headerWord (h : Header) : headerOf (headerWord h) = h := by
  cases h
  simp only [headerOf, headerWord, Header.mk.injEq]
  and_intros <;> (repeat refine (extract_high _ _ _ _ (by decide)).trans ?_) <;> first | exact extract_low _ _ | exact extract_all _

end Sys2Proof
end

