-- ==== Sys2Proof/Laws/PerInstr.lean ====
section
/-!
SUPPORT. Statements made for each instruction: encoding and decoding agree (R104, R113, R114, R119, R124).
-/

namespace Sys2Proof

theorem decodeBytes_word (w : BitVec 64) (i : Instr) (rest : List Byte) (h : decodeWord w = .ok i) :
    decodeBytes false (leBytes 8 w.toNat ++ rest) = .ok (i, rest) := by
  have hw : BitVec.ofNat 64 (leNat (leBytes 8 w.toNat)) = w := by
    rw [leNat_leBytes]; exact BitVec.eq_of_toNat_eq (by simp only [BitVec.toNat_ofNat]; have := w.isLt; omega)
  have hl : (leBytes 8 w.toNat).length = 8 := leBytes_length 8 _
  unfold decodeBytes
  simp [hl, hw, h]

namespace Laws.Encoding

/-- An instruction that its fields select is decoded from its own bytes, whatever follows them. -/
def Statement (i : Instr) : Prop :=
  i.selects = true → encode i ≠ [] → ∀ rest : List Byte, decodeBytes i.isPair (encode i ++ rest) = .ok (i, rest)

theorem of_word {i : Instr} {w : BitVec 64} (he : encode i = leBytes 8 w.toNat) (hp : i.isPair = false)
    (h : i.selects = true → decodeWord w = .ok i) : Statement i := by
  intro hs _ rest
  rw [he, hp]
  exact decodeBytes_word w i rest (h hs)

/-- A word whose opcode is not assigned decodes to itself (R125). -/
theorem unassigned (w : BitVec 64) (h : (Instr.unassignedOpcode w).selects = true) :
    decodeWord w = .ok (.unassignedOpcode w) := by
  simp only [Instr.selects, Bool.and_eq_true, Bool.not_eq_true', decide_eq_true_eq] at h
  obtain ⟨ha, hh⟩ := h
  change assignedOp (opcodeField w) = false at ha
  change opcodeField w ≠ 0x3FF at hh
  simp only [assignedOp, Bool.or_eq_false_iff, Bool.and_eq_false_iff, decide_eq_false_iff_not] at ha
  unfold decodeWord
  rw [if_neg hh]
  split
  · unfold decodeControl; split <;> first | rfl | omega
  split
  · unfold decodeInteger; split <;> first | rfl | omega
  split
  · unfold decodeFloat; split <;> first | rfl | omega
  split
  · unfold decodeMemory; split <;> first | rfl | omega
  · unfold decodeEngine; split <;> first | rfl | omega

theorem of_event {i : Instr} (h : encode i = []) : Statement i := fun _ h' => absurd h h'

theorem nop (f : GFmt) : Statement (.nop f) := of_word rfl rfl (fun _ => by
  simp [decodeWord, opcode_gWord, decodeControl, gOf_gWord])
theorem bra (f : IFmt) : Statement (.bra f) := of_word rfl rfl (fun _ => by
  simp [decodeWord, opcode_iWord, decodeControl, iOf_iWord])
theorem call (f : IFmt) : Statement (.call f) := of_word rfl rfl (fun _ => by
  simp [decodeWord, opcode_iWord, decodeControl, iOf_iWord])
theorem rgrp (f : IFmt) : Statement (.rgrp f) := of_word rfl rfl (fun _ => by
  simp [decodeWord, opcode_iWord, decodeControl, iOf_iWord])
theorem brx (f : GFmt) : Statement (.brx f) := of_word rfl rfl (fun _ => by
  simp [decodeWord, opcode_gWord, decodeControl, gOf_gWord])
theorem callx (f : GFmt) : Statement (.callx f) := of_word rfl rfl (fun _ => by
  simp [decodeWord, opcode_gWord, decodeControl, gOf_gWord])
theorem ret (f : GFmt) : Statement (.ret f) := of_word rfl rfl (fun _ => by
  simp [decodeWord, opcode_gWord, decodeControl, gOf_gWord])
theorem exit (f : GFmt) : Statement (.exit f) := of_word rfl rfl (fun _ => by
  simp [decodeWord, opcode_gWord, decodeControl, gOf_gWord])
theorem jset (f : GFmt) : Statement (.jset f) := of_word rfl rfl (fun _ => by
  simp [decodeWord, opcode_gWord, decodeControl, gOf_gWord])
theorem jwait (f : GFmt) : Statement (.jwait f) := of_word rfl rfl (fun _ => by
  simp [decodeWord, opcode_gWord, decodeControl, gOf_gWord])
theorem jclr (f : GFmt) : Statement (.jclr f) := of_word rfl rfl (fun _ => by
  simp [decodeWord, opcode_gWord, decodeControl, gOf_gWord])
theorem elect (f : GFmt) : Statement (.elect f) := of_word rfl rfl (fun _ => by
  simp [decodeWord, opcode_gWord, decodeControl, gOf_gWord])
theorem yield (f : GFmt) : Statement (.yield f) := of_word rfl rfl (fun _ => by
  simp [decodeWord, opcode_gWord, decodeControl, gOf_gWord])
theorem chk (f : GFmt) : Statement (.chk f) := of_word rfl rfl (fun _ => by
  simp [decodeWord, opcode_gWord, decodeControl, gOf_gWord])
theorem trap (f : SFmt) : Statement (.trap f) := of_word rfl rfl (fun _ => by
  simp [decodeWord, opcode_sWord, decodeControl, sOf_sWord])
theorem iret (f : SFmt) : Statement (.iret f) := of_word rfl rfl (fun _ => by
  simp [decodeWord, opcode_sWord, decodeControl, sOf_sWord])
theorem launch (f : SFmt) : Statement (.launch f) := of_word rfl rfl (fun _ => by
  simp [decodeWord, opcode_sWord, decodeControl, sOf_sWord])
theorem join (f : SFmt) : Statement (.join f) := of_word rfl rfl (fun _ => by
  simp [decodeWord, opcode_sWord, decodeControl, sOf_sWord])
theorem trig (f : SFmt) : Statement (.trig f) := of_word rfl rfl (fun _ => by
  simp [decodeWord, opcode_sWord, decodeControl, sOf_sWord])
theorem srd (f : SFmt) : Statement (.srd f) := of_word rfl rfl (fun _ => by
  simp [decodeWord, opcode_sWord, decodeControl, sOf_sWord])
theorem swr (f : SFmt) : Statement (.swr f) := of_word rfl rfl (fun _ => by
  simp [decodeWord, opcode_sWord, decodeControl, sOf_sWord])
theorem dbgbrk (f : SFmt) : Statement (.dbgbrk f) := of_word rfl rfl (fun _ => by
  simp [decodeWord, opcode_sWord, decodeControl, sOf_sWord])
theorem mark (f : SFmt) : Statement (.mark f) := of_word rfl rfl (fun _ => by
  simp [decodeWord, opcode_sWord, decodeControl, sOf_sWord])
theorem halt (f : SFmt) : Statement (.halt f) := of_word rfl rfl (fun _ => by
  simp [decodeWord, opcode_sWord, decodeControl, sOf_sWord])
theorem add (f : GFmt) : Statement (.add f) := of_word rfl rfl (fun _ => by
  simp [decodeWord, opcode_gWord, decodeInteger, gOf_gWord])
theorem sub (f : GFmt) : Statement (.sub f) := of_word rfl rfl (fun _ => by
  simp [decodeWord, opcode_gWord, decodeInteger, gOf_gWord])
theorem addc (f : GFmt) : Statement (.addc f) := of_word rfl rfl (fun _ => by
  simp [decodeWord, opcode_gWord, decodeInteger, gOf_gWord])
theorem subb (f : GFmt) : Statement (.subb f) := of_word rfl rfl (fun _ => by
  simp [decodeWord, opcode_gWord, decodeInteger, gOf_gWord])
theorem neg (f : GFmt) : Statement (.neg f) := of_word rfl rfl (fun _ => by
  simp [decodeWord, opcode_gWord, decodeInteger, gOf_gWord])
theorem abs (f : GFmt) : Statement (.abs f) := of_word rfl rfl (fun _ => by
  simp [decodeWord, opcode_gWord, decodeInteger, gOf_gWord])
theorem mul (f : GFmt) : Statement (.mul f) := of_word rfl rfl (fun _ => by
  simp [decodeWord, opcode_gWord, decodeInteger, gOf_gWord])
theorem mulh (f : GFmt) : Statement (.mulh f) := of_word rfl rfl (fun _ => by
  simp [decodeWord, opcode_gWord, decodeInteger, gOf_gWord])
theorem mulw (f : GFmt) : Statement (.mulw f) := of_word rfl rfl (fun _ => by
  simp [decodeWord, opcode_gWord, decodeInteger, gOf_gWord])
theorem mad (f : GFmt) : Statement (.mad f) := of_word rfl rfl (fun _ => by
  simp [decodeWord, opcode_gWord, decodeInteger, gOf_gWord])
theorem madh (f : GFmt) : Statement (.madh f) := of_word rfl rfl (fun _ => by
  simp [decodeWord, opcode_gWord, decodeInteger, gOf_gWord])
theorem madw (f : GFmt) : Statement (.madw f) := of_word rfl rfl (fun _ => by
  simp [decodeWord, opcode_gWord, decodeInteger, gOf_gWord])
theorem div (f : GFmt) : Statement (.div f) := of_word rfl rfl (fun _ => by
  simp [decodeWord, opcode_gWord, decodeInteger, gOf_gWord])
theorem rem (f : GFmt) : Statement (.rem f) := of_word rfl rfl (fun _ => by
  simp [decodeWord, opcode_gWord, decodeInteger, gOf_gWord])
theorem min (f : GFmt) : Statement (.min f) := of_word rfl rfl (fun _ => by
  simp [decodeWord, opcode_gWord, decodeInteger, gOf_gWord])
theorem max (f : GFmt) : Statement (.max f) := of_word rfl rfl (fun _ => by
  simp [decodeWord, opcode_gWord, decodeInteger, gOf_gWord])
theorem and (f : GFmt) : Statement (.and f) := of_word rfl rfl (fun _ => by
  simp [decodeWord, opcode_gWord, decodeInteger, gOf_gWord])
theorem or (f : GFmt) : Statement (.or f) := of_word rfl rfl (fun _ => by
  simp [decodeWord, opcode_gWord, decodeInteger, gOf_gWord])
theorem xor (f : GFmt) : Statement (.xor f) := of_word rfl rfl (fun _ => by
  simp [decodeWord, opcode_gWord, decodeInteger, gOf_gWord])
theorem not (f : GFmt) : Statement (.not f) := of_word rfl rfl (fun _ => by
  simp [decodeWord, opcode_gWord, decodeInteger, gOf_gWord])
theorem andn (f : GFmt) : Statement (.andn f) := of_word rfl rfl (fun _ => by
  simp [decodeWord, opcode_gWord, decodeInteger, gOf_gWord])
theorem shl (f : GFmt) : Statement (.shl f) := of_word rfl rfl (fun _ => by
  simp [decodeWord, opcode_gWord, decodeInteger, gOf_gWord])
theorem shr (f : GFmt) : Statement (.shr f) := of_word rfl rfl (fun _ => by
  simp [decodeWord, opcode_gWord, decodeInteger, gOf_gWord])
theorem sar (f : GFmt) : Statement (.sar f) := of_word rfl rfl (fun _ => by
  simp [decodeWord, opcode_gWord, decodeInteger, gOf_gWord])
theorem rol (f : GFmt) : Statement (.rol f) := of_word rfl rfl (fun _ => by
  simp [decodeWord, opcode_gWord, decodeInteger, gOf_gWord])
theorem fshl (f : GFmt) : Statement (.fshl f) := of_word rfl rfl (fun _ => by
  simp [decodeWord, opcode_gWord, decodeInteger, gOf_gWord])
theorem bfx (f : GFmt) : Statement (.bfx f) := of_word rfl rfl (fun _ => by
  simp [decodeWord, opcode_gWord, decodeInteger, gOf_gWord])
theorem bfi (f : GFmt) : Statement (.bfi f) := of_word rfl rfl (fun _ => by
  simp [decodeWord, opcode_gWord, decodeInteger, gOf_gWord])
theorem popc (f : GFmt) : Statement (.popc f) := of_word rfl rfl (fun _ => by
  simp [decodeWord, opcode_gWord, decodeInteger, gOf_gWord])
theorem clz (f : GFmt) : Statement (.clz f) := of_word rfl rfl (fun _ => by
  simp [decodeWord, opcode_gWord, decodeInteger, gOf_gWord])
theorem ctz (f : GFmt) : Statement (.ctz f) := of_word rfl rfl (fun _ => by
  simp [decodeWord, opcode_gWord, decodeInteger, gOf_gWord])
theorem brev (f : GFmt) : Statement (.brev f) := of_word rfl rfl (fun _ => by
  simp [decodeWord, opcode_gWord, decodeInteger, gOf_gWord])
theorem perm (f : GFmt) : Statement (.perm f) := of_word rfl rfl (fun _ => by
  simp [decodeWord, opcode_gWord, decodeInteger, gOf_gWord])
theorem sel (f : GFmt) : Statement (.sel f) := of_word rfl rfl (fun _ => by
  simp [decodeWord, opcode_gWord, decodeInteger, gOf_gWord])
theorem iset (f : GFmt) : Statement (.iset f) := of_word rfl rfl (fun _ => by
  simp [decodeWord, opcode_gWord, decodeInteger, gOf_gWord])
theorem lea (f : GFmt) : Statement (.lea f) := of_word rfl rfl (fun _ => by
  simp [decodeWord, opcode_gWord, decodeInteger, gOf_gWord])
theorem sad (f : GFmt) : Statement (.sad f) := of_word rfl rfl (fun _ => by
  simp [decodeWord, opcode_gWord, decodeInteger, gOf_gWord])
theorem dot4 (f : GFmt) : Statement (.dot4 f) := of_word rfl rfl (fun _ => by
  simp [decodeWord, opcode_gWord, decodeInteger, gOf_gWord])
theorem dot8 (f : GFmt) : Statement (.dot8 f) := of_word rfl rfl (fun _ => by
  simp [decodeWord, opcode_gWord, decodeInteger, gOf_gWord])
theorem mov (f : GFmt) : Statement (.mov f) := of_word rfl rfl (fun _ => by
  simp [decodeWord, opcode_gWord, decodeInteger, gOf_gWord])
theorem movi (f : IFmt) : Statement (.movi f) := of_word rfl rfl (fun _ => by
  simp [decodeWord, opcode_iWord, decodeInteger, iOf_iWord])
theorem movh (f : IFmt) : Statement (.movh f) := of_word rfl rfl (fun _ => by
  simp [decodeWord, opcode_iWord, decodeInteger, iOf_iWord])
theorem pand (f : GFmt) : Statement (.pand f) := of_word rfl rfl (fun _ => by
  simp [decodeWord, opcode_gWord, decodeInteger, gOf_gWord])
theorem por (f : GFmt) : Statement (.por f) := of_word rfl rfl (fun _ => by
  simp [decodeWord, opcode_gWord, decodeInteger, gOf_gWord])
theorem pxor (f : GFmt) : Statement (.pxor f) := of_word rfl rfl (fun _ => by
  simp [decodeWord, opcode_gWord, decodeInteger, gOf_gWord])
theorem pnot (f : GFmt) : Statement (.pnot f) := of_word rfl rfl (fun _ => by
  simp [decodeWord, opcode_gWord, decodeInteger, gOf_gWord])
theorem pmov (f : GFmt) : Statement (.pmov f) := of_word rfl rfl (fun _ => by
  simp [decodeWord, opcode_gWord, decodeInteger, gOf_gWord])
theorem idx (f : GFmt) : Statement (.idx f) := of_word rfl rfl (fun _ => by
  simp [decodeWord, opcode_gWord, decodeInteger, gOf_gWord])
theorem fadd (f : GFmt) : Statement (.fadd f) := of_word rfl rfl (fun _ => by
  simp [decodeWord, opcode_gWord, decodeFloat, gOf_gWord])
theorem fsub (f : GFmt) : Statement (.fsub f) := of_word rfl rfl (fun _ => by
  simp [decodeWord, opcode_gWord, decodeFloat, gOf_gWord])
theorem fmul (f : GFmt) : Statement (.fmul f) := of_word rfl rfl (fun _ => by
  simp [decodeWord, opcode_gWord, decodeFloat, gOf_gWord])
theorem fma (f : GFmt) : Statement (.fma f) := of_word rfl rfl (fun _ => by
  simp [decodeWord, opcode_gWord, decodeFloat, gOf_gWord])
theorem fmin (f : GFmt) : Statement (.fmin f) := of_word rfl rfl (fun _ => by
  simp [decodeWord, opcode_gWord, decodeFloat, gOf_gWord])
theorem fmax (f : GFmt) : Statement (.fmax f) := of_word rfl rfl (fun _ => by
  simp [decodeWord, opcode_gWord, decodeFloat, gOf_gWord])
theorem fset (f : GFmt) : Statement (.fset f) := of_word rfl rfl (fun _ => by
  simp [decodeWord, opcode_gWord, decodeFloat, gOf_gWord])
theorem fclass (f : GFmt) : Statement (.fclass f) := of_word rfl rfl (fun _ => by
  simp [decodeWord, opcode_gWord, decodeFloat, gOf_gWord])
theorem frnd (f : GFmt) : Statement (.frnd f) := of_word rfl rfl (fun _ => by
  simp [decodeWord, opcode_gWord, decodeFloat, gOf_gWord])
theorem fscale (f : GFmt) : Statement (.fscale f) := of_word rfl rfl (fun _ => by
  simp [decodeWord, opcode_gWord, decodeFloat, gOf_gWord])
theorem fexpn (f : GFmt) : Statement (.fexpn f) := of_word rfl rfl (fun _ => by
  simp [decodeWord, opcode_gWord, decodeFloat, gOf_gWord])
theorem fmant (f : GFmt) : Statement (.fmant f) := of_word rfl rfl (fun _ => by
  simp [decodeWord, opcode_gWord, decodeFloat, gOf_gWord])
theorem fcopys (f : GFmt) : Statement (.fcopys f) := of_word rfl rfl (fun _ => by
  simp [decodeWord, opcode_gWord, decodeFloat, gOf_gWord])
theorem frcp (f : GFmt) : Statement (.frcp f) := of_word rfl rfl (fun _ => by
  simp [decodeWord, opcode_gWord, decodeFloat, gOf_gWord])
theorem frsq (f : GFmt) : Statement (.frsq f) := of_word rfl rfl (fun _ => by
  simp [decodeWord, opcode_gWord, decodeFloat, gOf_gWord])
theorem fsqrt (f : GFmt) : Statement (.fsqrt f) := of_word rfl rfl (fun _ => by
  simp [decodeWord, opcode_gWord, decodeFloat, gOf_gWord])
theorem fdiv (f : GFmt) : Statement (.fdiv f) := of_word rfl rfl (fun _ => by
  simp [decodeWord, opcode_gWord, decodeFloat, gOf_gWord])
theorem fexp2 (f : GFmt) : Statement (.fexp2 f) := of_word rfl rfl (fun _ => by
  simp [decodeWord, opcode_gWord, decodeFloat, gOf_gWord])
theorem flog2 (f : GFmt) : Statement (.flog2 f) := of_word rfl rfl (fun _ => by
  simp [decodeWord, opcode_gWord, decodeFloat, gOf_gWord])
theorem fsin (f : GFmt) : Statement (.fsin f) := of_word rfl rfl (fun _ => by
  simp [decodeWord, opcode_gWord, decodeFloat, gOf_gWord])
theorem fcos (f : GFmt) : Statement (.fcos f) := of_word rfl rfl (fun _ => by
  simp [decodeWord, opcode_gWord, decodeFloat, gOf_gWord])
theorem ftanh (f : GFmt) : Statement (.ftanh f) := of_word rfl rfl (fun _ => by
  simp [decodeWord, opcode_gWord, decodeFloat, gOf_gWord])
theorem fsigm (f : GFmt) : Statement (.fsigm f) := of_word rfl rfl (fun _ => by
  simp [decodeWord, opcode_gWord, decodeFloat, gOf_gWord])
theorem fdot2 (f : GFmt) : Statement (.fdot2 f) := of_word rfl rfl (fun _ => by
  simp [decodeWord, opcode_gWord, decodeFloat, gOf_gWord])
theorem fdot4 (f : GFmt) : Statement (.fdot4 f) := of_word rfl rfl (fun _ => by
  simp [decodeWord, opcode_gWord, decodeFloat, gOf_gWord])
theorem cvt (f : GFmt) : Statement (.cvt f) := of_word rfl rfl (fun _ => by
  simp [decodeWord, opcode_gWord, decodeFloat, gOf_gWord])
theorem cvts (f : GFmt) : Statement (.cvts f) := of_word rfl rfl (fun _ => by
  simp [decodeWord, opcode_gWord, decodeFloat, gOf_gWord])
theorem cvti (f : GFmt) : Statement (.cvti f) := of_word rfl rfl (fun _ => by
  simp [decodeWord, opcode_gWord, decodeFloat, gOf_gWord])
theorem pack (f : GFmt) : Statement (.pack f) := of_word rfl rfl (fun _ => by
  simp [decodeWord, opcode_gWord, decodeFloat, gOf_gWord])
theorem unpack (f : GFmt) : Statement (.unpack f) := of_word rfl rfl (fun _ => by
  simp [decodeWord, opcode_gWord, decodeFloat, gOf_gWord])
theorem addmin (f : GFmt) : Statement (.addmin f) := of_word rfl rfl (fun _ => by
  simp [decodeWord, opcode_gWord, decodeFloat, gOf_gWord])
theorem addmax (f : GFmt) : Statement (.addmax f) := of_word rfl rfl (fun _ => by
  simp [decodeWord, opcode_gWord, decodeFloat, gOf_gWord])
theorem fmini (f : GFmt) : Statement (.fmini f) := of_word rfl rfl (fun _ => by
  simp [decodeWord, opcode_gWord, decodeFloat, gOf_gWord])
theorem fmaxi (f : GFmt) : Statement (.fmaxi f) := of_word rfl rfl (fun _ => by
  simp [decodeWord, opcode_gWord, decodeFloat, gOf_gWord])
theorem imini (f : GFmt) : Statement (.imini f) := of_word rfl rfl (fun _ => by
  simp [decodeWord, opcode_gWord, decodeFloat, gOf_gWord])
theorem imaxi (f : GFmt) : Statement (.imaxi f) := of_word rfl rfl (fun _ => by
  simp [decodeWord, opcode_gWord, decodeFloat, gOf_gWord])
theorem shfl (f : GFmt) : Statement (.shfl f) := of_word rfl rfl (fun _ => by
  simp [decodeWord, opcode_gWord, decodeFloat, gOf_gWord])
theorem slide (f : GFmt) : Statement (.slide f) := of_word rfl rfl (fun _ => by
  simp [decodeWord, opcode_gWord, decodeFloat, gOf_gWord])
theorem bcastl (f : GFmt) : Statement (.bcastl f) := of_word rfl rfl (fun _ => by
  simp [decodeWord, opcode_gWord, decodeFloat, gOf_gWord])
theorem vote (f : GFmt) : Statement (.vote f) := of_word rfl rfl (fun _ => by
  simp [decodeWord, opcode_gWord, decodeFloat, gOf_gWord])
theorem matchLanes (f : GFmt) : Statement (.matchLanes f) := of_word rfl rfl (fun _ => by
  simp [decodeWord, opcode_gWord, decodeFloat, gOf_gWord])
theorem redux (f : GFmt) : Statement (.redux f) := of_word rfl rfl (fun _ => by
  simp [decodeWord, opcode_gWord, decodeFloat, gOf_gWord])
theorem scan (f : GFmt) : Statement (.scan f) := of_word rfl rfl (fun _ => by
  simp [decodeWord, opcode_gWord, decodeFloat, gOf_gWord])
theorem lmask (f : GFmt) : Statement (.lmask f) := of_word rfl rfl (fun _ => by
  simp [decodeWord, opcode_gWord, decodeFloat, gOf_gWord])
theorem pairWord (x : CFmt) (y : CFmt) : Statement (.pairWord x y) := by
  intro _ _ rest
  have hw : BitVec.ofNat 96 (leNat (leBytes 12 (cWord y ++ cWord x).toNat)) = cWord y ++ cWord x := by
    rw [leNat_leBytes]; exact BitVec.eq_of_toNat_eq (by simp only [BitVec.toNat_ofNat]; have := (cWord y ++ cWord x).isLt; omega)
  have hl : (leBytes 12 (cWord y ++ cWord x).toNat).length = 12 := leBytes_length 12 _
  have hx : (cWord y ++ cWord x).extractLsb' 0 48 = cWord x := extract_low _ _
  have hy : (cWord y ++ cWord x).extractLsb' 48 48 = cWord y := (extract_high _ _ _ _ (by decide)).trans (extract_all _)
  show decodeBytes true (leBytes 12 (cWord y ++ cWord x).toNat ++ rest) = _
  unfold decodeBytes
  simp [hl, hw, decodePair, hx, hy, cOf_cWord]
theorem ld (f : MFmt) : Statement (.ld f) := of_word (w := mWord 0x100 f) rfl rfl (by
  intro h
  simp_all [decodeWord, opcode_mWord, decodeMemory, mOf_mWord, Instr.selects])
theorem ldS (f : MFmt) : Statement (.ldS f) := of_word (w := mWord 0x100 f) rfl rfl (by
  intro h
  simp_all [decodeWord, opcode_mWord, decodeMemory, mOf_mWord, Instr.selects])
theorem st (f : MFmt) : Statement (.st f) := of_word rfl rfl (fun _ => by
  simp [decodeWord, opcode_mWord, decodeMemory, mOf_mWord])
theorem storeDrain (thread : Nat) : Statement (.storeDrain thread) := of_event rfl
theorem atom (f : MFmt) : Statement (.atom f) := of_word rfl rfl (fun _ => by
  simp [decodeWord, opcode_mWord, decodeMemory, mOf_mWord])
theorem atomc (f : MFmt) : Statement (.atomc f) := of_word rfl rfl (fun _ => by
  simp [decodeWord, opcode_mWord, decodeMemory, mOf_mWord])
theorem red (f : MFmt) : Statement (.red f) := of_word rfl rfl (fun _ => by
  simp [decodeWord, opcode_mWord, decodeMemory, mOf_mWord])
theorem fence (f : MFmt) : Statement (.fence f) := of_word rfl rfl (fun _ => by
  simp [decodeWord, opcode_mWord, decodeMemory, mOf_mWord])
theorem pref (f : MFmt) : Statement (.pref f) := of_word rfl rfl (fun _ => by
  simp [decodeWord, opcode_mWord, decodeMemory, mOf_mWord])
theorem evict (f : MFmt) : Statement (.evict f) := of_word rfl rfl (fun _ => by
  simp [decodeWord, opcode_mWord, decodeMemory, mOf_mWord])
theorem tagset (f : MFmt) : Statement (.tagset f) := of_word rfl rfl (fun _ => by
  simp [decodeWord, opcode_mWord, decodeMemory, mOf_mWord])
theorem tagget (f : MFmt) : Statement (.tagget f) := of_word rfl rfl (fun _ => by
  simp [decodeWord, opcode_mWord, decodeMemory, mOf_mWord])
theorem bcst (f : MFmt) : Statement (.bcst f) := of_word rfl rfl (fun _ => by
  simp [decodeWord, opcode_mWord, decodeMemory, mOf_mWord])
theorem pres (f : MFmt) : Statement (.pres f) := of_word rfl rfl (fun _ => by
  simp [decodeWord, opcode_mWord, decodeMemory, mOf_mWord])
theorem pclr (f : MFmt) : Statement (.pclr f) := of_word rfl rfl (fun _ => by
  simp [decodeWord, opcode_mWord, decodeMemory, mOf_mWord])
theorem dcq (f : GFmt) : Statement (.dcq f) := of_word rfl rfl (fun _ => by
  simp [decodeWord, opcode_gWord, decodeMemory, gOf_gWord])
theorem quantumCommit (stand : Nat) : Statement (.quantumCommit stand) := of_event rfl
theorem qinit (f : MFmt) : Statement (.qinit f) := of_word rfl rfl (fun _ => by
  simp [decodeWord, opcode_mWord, decodeMemory, mOf_mWord])
theorem qenq (f : MFmt) : Statement (.qenq f) := of_word rfl rfl (fun _ => by
  simp [decodeWord, opcode_mWord, decodeMemory, mOf_mWord])
theorem qdeq (f : MFmt) : Statement (.qdeq f) := of_word rfl rfl (fun _ => by
  simp [decodeWord, opcode_mWord, decodeMemory, mOf_mWord])
theorem qpeek (f : MFmt) : Statement (.qpeek f) := of_word rfl rfl (fun _ => by
  simp [decodeWord, opcode_mWord, decodeMemory, mOf_mWord])
theorem waitw (f : MFmt) : Statement (.waitw f) := of_word rfl rfl (fun _ => by
  simp [decodeWord, opcode_mWord, decodeMemory, mOf_mWord])
theorem waitwReread (thread : Nat) : Statement (.waitwReread thread) := of_event rfl
theorem bari (f : MFmt) : Statement (.bari f) := of_word rfl rfl (fun _ => by
  simp [decodeWord, opcode_mWord, decodeMemory, mOf_mWord])
theorem bara (f : MFmt) : Statement (.bara f) := of_word rfl rfl (fun _ => by
  simp [decodeWord, opcode_mWord, decodeMemory, mOf_mWord])
theorem barw (f : MFmt) : Statement (.barw f) := of_word rfl rfl (fun _ => by
  simp [decodeWord, opcode_mWord, decodeMemory, mOf_mWord])
theorem bars (f : MFmt) : Statement (.bars f) := of_word rfl rfl (fun _ => by
  simp [decodeWord, opcode_mWord, decodeMemory, mOf_mWord])
theorem linkedArrival (stand : Nat) (bar : Nat) : Statement (.linkedArrival stand bar) := of_event rfl
theorem tbari (f : MFmt) : Statement (.tbari f) := of_word rfl rfl (fun _ => by
  simp [decodeWord, opcode_mWord, decodeMemory, mOf_mWord])
theorem tbare (f : MFmt) : Statement (.tbare f) := of_word rfl rfl (fun _ => by
  simp [decodeWord, opcode_mWord, decodeMemory, mOf_mWord])
theorem lbrd (f : GFmt) : Statement (.lbrd f) := of_word rfl rfl (fun _ => by
  simp [decodeWord, opcode_gWord, decodeMemory, gOf_gWord])
theorem lbor (f : GFmt) : Statement (.lbor f) := of_word rfl rfl (fun _ => by
  simp [decodeWord, opcode_gWord, decodeMemory, gOf_gWord])
theorem clrseg (f : MFmt) : Statement (.clrseg f) := of_word rfl rfl (fun _ => by
  simp [decodeWord, opcode_mWord, decodeMemory, mOf_mWord])
theorem mcfg (f : XFmt) : Statement (.mcfg f) := of_word rfl rfl (fun _ => by
  simp [decodeWord, opcode_xWord, decodeEngine, xOf_xWord])
theorem wload (f : XFmt) : Statement (.wload f) := of_word rfl rfl (fun _ => by
  simp [decodeWord, opcode_xWord, decodeEngine, xOf_xWord])
theorem wloadComplete (quad : Nat) : Statement (.wloadComplete quad) := of_event rfl
theorem wloadr (f : XFmt) : Statement (.wloadr f) := of_word rfl rfl (fun _ => by
  simp [decodeWord, opcode_xWord, decodeEngine, xOf_xWord])
theorem wclr (f : XFmt) : Statement (.wclr f) := of_word rfl rfl (fun _ => by
  simp [decodeWord, opcode_xWord, decodeEngine, xOf_xWord])
theorem mma (f : XFmt) : Statement (.mma f) := of_word rfl rfl (fun _ => by
  simp [decodeWord, opcode_xWord, decodeEngine, xOf_xWord])
theorem mmasp (f : XFmt) : Statement (.mmasp f) := of_word rfl rfl (fun _ => by
  simp [decodeWord, opcode_xWord, decodeEngine, xOf_xWord])
theorem mconv (f : XFmt) : Statement (.mconv f) := of_word rfl rfl (fun _ => by
  simp [decodeWord, opcode_xWord, decodeEngine, xOf_xWord])
theorem mmar (f : XFmt) : Statement (.mmar f) := of_word rfl rfl (fun _ => by
  simp [decodeWord, opcode_xWord, decodeEngine, xOf_xWord])
theorem rowAccept (quad : Nat) : Statement (.rowAccept quad) := of_event rfl
theorem rowWrite (quad : Nat) : Statement (.rowWrite quad) := of_event rfl
theorem epilogue (quad : Nat) : Statement (.epilogue quad) := of_event rfl
theorem epcfg (f : XFmt) : Statement (.epcfg f) := of_word rfl rfl (fun _ => by
  simp [decodeWord, opcode_xWord, decodeEngine, xOf_xWord])
theorem mstat (f : XFmt) : Statement (.mstat f) := of_word rfl rfl (fun _ => by
  simp [decodeWord, opcode_xWord, decodeEngine, xOf_xWord])
theorem mdrain (f : XFmt) : Statement (.mdrain f) := of_word rfl rfl (fun _ => by
  simp [decodeWord, opcode_xWord, decodeEngine, xOf_xWord])
theorem mrdacc (f : XFmt) : Statement (.mrdacc f) := of_word rfl rfl (fun _ => by
  simp [decodeWord, opcode_xWord, decodeEngine, xOf_xWord])
theorem mwracc (f : XFmt) : Statement (.mwracc f) := of_word rfl rfl (fun _ => by
  simp [decodeWord, opcode_xWord, decodeEngine, xOf_xWord])
theorem xcopy (f : YFmt) : Statement (.xcopy f) := of_word rfl rfl (fun _ => by
  simp [decodeWord, opcode_yWord, decodeEngine, yOf_yWord])
theorem copyLineArrival (cmd : Nat) (data : List Byte) : Statement (.copyLineArrival cmd data) := of_event rfl
theorem copyComplete (cmd : Nat) : Statement (.copyComplete cmd) := of_event rfl
theorem xkick (f : YFmt) : Statement (.xkick f) := of_word rfl rfl (fun _ => by
  simp [decodeWord, opcode_yWord, decodeEngine, yOf_yWord])
theorem xwait (f : YFmt) : Statement (.xwait f) := of_word rfl rfl (fun _ => by
  simp [decodeWord, opcode_yWord, decodeEngine, yOf_yWord])
theorem xtest (f : YFmt) : Statement (.xtest f) := of_word rfl rfl (fun _ => by
  simp [decodeWord, opcode_yWord, decodeEngine, yOf_yWord])
theorem send (f : YFmt) : Statement (.send f) := of_word rfl rfl (fun _ => by
  simp [decodeWord, opcode_yWord, decodeEngine, yOf_yWord])
theorem messageArrival (stand : Nat) (route : Nat) : Statement (.messageArrival stand route) := of_event rfl
theorem recv (f : YFmt) : Statement (.recv f) := of_word rfl rfl (fun _ => by
  simp [decodeWord, opcode_yWord, decodeEngine, yOf_yWord])
theorem rtest (f : YFmt) : Statement (.rtest f) := of_word rfl rfl (fun _ => by
  simp [decodeWord, opcode_yWord, decodeEngine, yOf_yWord])
theorem obsend (f : YFmt) : Statement (.obsend f) := of_word rfl rfl (fun _ => by
  simp [decodeWord, opcode_yWord, decodeEngine, yOf_yWord])
theorem burstTransmit (port : Nat) : Statement (.burstTransmit port) := of_event rfl
theorem burstAck (burst : Nat) (refused : Bool) : Statement (.burstAck burst refused) := of_event rfl
theorem ackTimeout (burst : Nat) : Statement (.ackTimeout burst) := of_event rfl
theorem obrecv (f : YFmt) : Statement (.obrecv f) := of_word rfl rfl (fun _ => by
  simp [decodeWord, opcode_yWord, decodeEngine, yOf_yWord])
theorem burstArrival (port : Nat) (peer : BitVec 16) (tag : BitVec 6) (data : List Byte) : Statement (.burstArrival port peer tag data) := of_event rfl
theorem receiveComplete (cmd : Nat) : Statement (.receiveComplete cmd) := of_event rfl
theorem resetNotice (port : Nat) (peer : BitVec 16) (len : Nat) : Statement (.resetNotice port peer len) := of_event rfl
theorem obstat (f : YFmt) : Statement (.obstat f) := of_word rfl rfl (fun _ => by
  simp [decodeWord, opcode_yWord, decodeEngine, yOf_yWord])
theorem rel (f : YFmt) : Statement (.rel f) := of_word rfl rfl (fun _ => by
  simp [decodeWord, opcode_yWord, decodeEngine, yOf_yWord])
theorem wpset (f : SFmt) : Statement (.wpset f) := of_word rfl rfl (fun _ => by
  simp [decodeWord, opcode_sWord, decodeEngine, sOf_sWord])
theorem wpclr (f : SFmt) : Statement (.wpclr f) := of_word rfl rfl (fun _ => by
  simp [decodeWord, opcode_sWord, decodeEngine, sOf_sWord])
theorem profrd (f : SFmt) : Statement (.profrd f) := of_word rfl rfl (fun _ => by
  simp [decodeWord, opcode_sWord, decodeEngine, sOf_sWord])
theorem tlbi (f : SFmt) : Statement (.tlbi f) := of_word rfl rfl (fun _ => by
  simp [decodeWord, opcode_sWord, decodeEngine, sOf_sWord])
theorem ctxsv (f : SFmt) : Statement (.ctxsv f) := of_word rfl rfl (fun _ => by
  simp [decodeWord, opcode_sWord, decodeEngine, sOf_sWord])
theorem ctxld (f : SFmt) : Statement (.ctxld f) := of_word rfl rfl (fun _ => by
  simp [decodeWord, opcode_sWord, decodeEngine, sOf_sWord])
theorem crrd (f : SFmt) : Statement (.crrd f) := of_word rfl rfl (fun _ => by
  simp [decodeWord, opcode_sWord, decodeEngine, sOf_sWord])
theorem crwr (f : SFmt) : Statement (.crwr f) := of_word rfl rfl (fun _ => by
  simp [decodeWord, opcode_sWord, decodeEngine, sOf_sWord])
theorem flumeRds (cluster : Nat) (line : Nat) : Statement (.flumeRds cluster line) := of_event rfl
theorem flumeRdx (cluster : Nat) (line : Nat) : Statement (.flumeRdx cluster line) := of_event rfl
theorem flumeUpg (cluster : Nat) (line : Nat) : Statement (.flumeUpg cluster line) := of_event rfl
theorem flumeWb (cluster : Nat) (line : Nat) : Statement (.flumeWb cluster line) := of_event rfl
theorem flumeWst (cluster : Nat) : Statement (.flumeWst cluster) := of_event rfl
theorem coherenceTimeout (requester : Requester) (tag : Nat) (home : Nat) : Statement (.coherenceTimeout requester tag home) := of_event rfl
theorem warpForm (quad : Nat) : Statement (.warpForm quad) := of_event rfl
theorem balancerPass (core : Nat) : Statement (.balancerPass core) := of_event rfl
theorem trapRecordClose (core : Nat) : Statement (.trapRecordClose core) := of_event rfl
theorem launchSubmit (hart : Nat) (vf : Nat) (data : List Byte) : Statement (.launchSubmit hart vf data) := of_event rfl
theorem launchClaim (grid : Nat) : Statement (.launchClaim grid) := of_event rfl
theorem standPlace (part : Nat) : Statement (.standPlace part) := of_event rfl
theorem standStart (stand : Nat) : Statement (.standStart stand) := of_event rfl
theorem gangPatienceExpire (grid : Nat) (gang : Nat) : Statement (.gangPatienceExpire grid gang) := of_event rfl
theorem gangRelief (part : Nat) : Statement (.gangRelief part) := of_event rfl
theorem gridEnd (grid : Nat) : Statement (.gridEnd grid) := of_event rfl
theorem sliceEnd (part : Nat) : Statement (.sliceEnd part) := of_event rfl
theorem contextSave (stand : Nat) : Statement (.contextSave stand) := of_event rfl
theorem contextRestore (stand : Nat) : Statement (.contextRestore stand) := of_event rfl
theorem wakeEvent (source : WakeSource) : Statement (.wakeEvent source) := of_event rfl
theorem ringSearch (node : Nat) (index : Nat) (locked : Bool) (heat : Byte) : Statement (.ringSearch node index locked heat) := of_event rfl
theorem eyeTraining (node : Nat) (index : Nat) (eyeh : Byte) (eyew : Byte) : Statement (.eyeTraining node index eyeh eyew) := of_event rfl
theorem powerOn (found : List (Nat × Bool)) (image : List Byte) : Statement (.powerOn found image) := of_event rfl
theorem retest (site : Nat) (coreOk : Bool) (routerOk : Bool) : Statement (.retest site coreOk routerOk) := of_event rfl
theorem linkRetry (site : Nat) (port : MeshPort) : Statement (.linkRetry site port) := of_event rfl
theorem linkDown (site : Nat) (port : MeshPort) (okHere : Bool) (okThere : Bool) : Statement (.linkDown site port okHere okThere) := of_event rfl
theorem marginAlarm (waveguide : Nat) (wavelength : Nat) (heater : Byte) : Statement (.marginAlarm waveguide wavelength heater) := of_event rfl
theorem lockLost (node : Nat) (wavelength : Nat) : Statement (.lockLost node wavelength) := of_event rfl
theorem uncorrectableError (place : ErrorPlace) : Statement (.uncorrectableError place) := of_event rfl
theorem dramScrub (channel : Nat) (sector : Nat) (corrected : Bool) (lastOfPass : Bool) : Statement (.dramScrub channel sector corrected lastOfPass) := of_event rfl
theorem vaultScrub (cluster : Nat) (line : Nat) (corrected : Bool) (lastOfPass : Bool) : Statement (.vaultScrub cluster line corrected lastOfPass) := of_event rfl
theorem scratchpadScrub (core : Nat) (bank : Nat) (line : Nat) (corrected : Bool) : Statement (.scratchpadScrub core bank line corrected) := of_event rfl
theorem errorFoldExpire (fold : Nat) : Statement (.errorFoldExpire fold) := of_event rfl
theorem guaranteeLapse (port : Nat) (control : Bool) (lane : Nat) : Statement (.guaranteeLapse port control lane) := of_event rfl
theorem guaranteeRestored (port : Nat) : Statement (.guaranteeRestored port) := of_event rfl
theorem watchdogRestart (image : List Byte) : Statement (.watchdogRestart image) := of_event rfl
theorem policyCheckFail (handle : BitVec 16) : Statement (.policyCheckFail handle) := of_event rfl
theorem hostLoad (hart : Nat) (op : HostLoadOp) (size : Nat) : Statement (.hostLoad hart op size) := of_event rfl
theorem hostStore (hart : Nat) (op : HostStoreOp) (data : List Byte) : Statement (.hostStore hart op data) := of_event rfl
theorem stallReasonCount (quad : Nat) : Statement (.stallReasonCount quad) := of_event rfl
theorem unassignedOpcode (word : BitVec 64) : Statement (.unassignedOpcode word) := of_word rfl rfl (unassigned word)
theorem gateRelease : Statement .gateRelease := of_event rfl
theorem saveReplay : Statement .saveReplay := of_event rfl
theorem saveKill : Statement .saveKill := of_event rfl
theorem partitionEnable : Statement .partitionEnable := of_event rfl
theorem partitionDisable : Statement .partitionDisable := of_event rfl
theorem vfEnable : Statement .vfEnable := of_event rfl
theorem vfTeardown : Statement .vfTeardown := of_event rfl
theorem circuitDisable : Statement .circuitDisable := of_event rfl
theorem frameZero : Statement .frameZero := of_event rfl
theorem policyInstall : Statement .policyInstall := of_event rfl
theorem policyRemove : Statement .policyRemove := of_event rfl
theorem keyRegister : Statement .keyRegister := of_event rfl
theorem migrationReplay : Statement .migrationReplay := of_event rfl
theorem handlerCreate : Statement .handlerCreate := of_event rfl
theorem handlerTeardown : Statement .handlerTeardown := of_event rfl
theorem presRetry : Statement .presRetry := of_event rfl
theorem presSkip : Statement .presSkip := of_event rfl
theorem presKill : Statement .presKill := of_event rfl
theorem pvalWrite : Statement .pvalWrite := of_event rfl
theorem hpvalWrite : Statement .hpvalWrite := of_event rfl
theorem forwardEvent : Statement .forwardEvent := of_event rfl
theorem debugStopRequest : Statement .debugStopRequest := of_event rfl
theorem debugResume : Statement .debugResume := of_event rfl
theorem claimSuspend : Statement .claimSuspend := of_event rfl
theorem claimResume : Statement .claimResume := of_event rfl
theorem featureConfirm : Statement .featureConfirm := of_event rfl
theorem mstateWrite : Statement .mstateWrite := of_event rfl
theorem registerWrite : Statement .registerWrite := of_event rfl
theorem lmapWrite : Statement .lmapWrite := of_event rfl
theorem fmapWrite : Statement .fmapWrite := of_event rfl
theorem status : Statement .status := of_event rfl
theorem log : Statement .log := of_event rfl
theorem report : Statement .report := of_event rfl
theorem fwload : Statement .fwload := of_event rfl
theorem stream : Statement .stream := of_event rfl
theorem unknownRequest : Statement .unknownRequest := of_event rfl
theorem channelAck : Statement .channelAck := of_event rfl
theorem relocationComplete : Statement .relocationComplete := of_event rfl
theorem clauseNotWellFormed : Statement .clauseNotWellFormed := of_event rfl

end Laws.Encoding

end Sys2Proof
end

