-- ==== Sys2Proof/Laws/Registers.lean ====
section
/-!
SUPPORT. What an instruction that only computes on registers does, once: the lemmas that the statements about classes IA, II,
PR, FA, FT, CV and XL are proved from.
-/

namespace Sys2Proof.Machine

/-! ### Tables -/

theorem Table.getD_of_get? {α : Type} {t : Table α} {i : Nat} {v d : α} (h : t.get? i = some v) : t.getD i d = v := by
  unfold Table.getD; rw [h]

theorem Table.getD_congr {α : Type} {t u : Table α} {i : Nat} {d : α} (h : t.get? i = u.get? i) : t.getD i d = u.getD i d := by
  unfold Table.getD; rw [h]

theorem Table.getD_map {α : Type} {t u : Table α} {i : Nat} {d : α} {f : α → α} (h : t.get? i = (u.get? i).map f)
    (hs : (u.get? i).isSome = true) : t.getD i d = f (u.getD i d) := by
  unfold Table.getD
  rw [h]
  obtain ⟨v, hv⟩ := Option.isSome_iff_exists.mp hs
  rw [hv]
  rfl

/-- Distinct images come from distinct elements. -/
theorem eq_of_nodup_map {f : Nat → Nat} : ∀ {ls : List Nat}, (ls.map f).Nodup → ∀ {a b : Nat}, a ∈ ls → b ∈ ls → f a = f b → a = b
  | [], _, _, _, h, _, _ => by cases h
  | x :: xs, hn, a, b, ha, hb, e => by
    rw [List.map_cons, List.nodup_cons] at hn
    by_cases hax : a = x
    · subst hax
      rcases List.mem_cons.mp hb with h | h
      · exact h.symm
      · exact absurd (List.mem_map.mpr ⟨b, h, e.symm⟩) hn.1
    · have ha' : a ∈ xs := (List.mem_cons.mp ha).resolve_left hax
      rcases List.mem_cons.mp hb with h | h
      · subst h; exact absurd (List.mem_map.mpr ⟨a, ha', e⟩) hn.1
      · exact eq_of_nodup_map hn.2 ha' h e

/-! ### Operations on the threads of lanes -/

/-- On states whose lanes hold the threads `key`, `w` changes only the thread in a lane, by `g`. -/
structure ActsOn (key : Nat → Nat) (w : State → Nat → State) (g : Nat → Thread → Thread) : Prop where
  rest : ∀ s l, s.laneKey = key → w s l = { s with threads := (w s l).threads }
  get : ∀ s l j, s.laneKey = key →
    (w s l).threads.get? j = if j = key l then (s.threads.get? j).map (g l) else s.threads.get? j

theorem State.updThread_get? (s : State) (k j : Nat) (f : Thread → Thread) :
    (s.updThread k f).threads.get? j = if j = k then (s.threads.get? j).map f else s.threads.get? j := by
  show Table.get? (Table.modify s.threads k f) j = _
  rw [Table.get?_modify]
  split <;> simp_all

theorem ActsOn.updLane (key : Nat → Nat) (g : Nat → Thread → Thread) : ActsOn key (fun s l => s.updLane l (g l)) g where
  rest _ _ _ := rfl
  get s l j h := by rw [← h]; exact State.updThread_get? s (s.laneKey l) j (g l)

variable {key : Nat → Nat} {w : State → Nat → State} {g : Nat → Thread → Thread}

theorem ActsOn.laneKey (h : ActsOn key w g) {s : State} (hs : s.laneKey = key) (l : Nat) : (w s l).laneKey = key := by
  rw [h.rest s l hs]; exact hs

theorem ActsOn.fold_rest (h : ActsOn key w g) (ls : List Nat) :
    ∀ s : State, s.laneKey = key → ls.foldl w s = { s with threads := (ls.foldl w s).threads } := by
  induction ls with
  | nil => intro s _; rfl
  | cons l ls ih =>
    intro s hs
    rw [List.foldl_cons]
    refine (ih (w s l) (h.laneKey hs l)).trans ?_
    generalize (List.foldl w (w s l) ls).threads = T
    rw [h.rest s l hs]

theorem ActsOn.fold_laneKey (h : ActsOn key w g) (ls : List Nat) {s : State} (hs : s.laneKey = key) :
    (ls.foldl w s).laneKey = key := by
  rw [h.fold_rest ls s hs]; exact hs

theorem ActsOn.fold_cur (h : ActsOn key w g) (ls : List Nat) {s : State} (hs : s.laneKey = key) : (ls.foldl w s).cur = s.cur := by
  rw [h.fold_rest ls s hs]

theorem ActsOn.fold_slots (h : ActsOn key w g) (ls : List Nat) {s : State} (hs : s.laneKey = key) :
    (ls.foldl w s).slots = s.slots := by
  rw [h.fold_rest ls s hs]

/-- A thread none of whose lanes is changed. -/
theorem ActsOn.fold_other (h : ActsOn key w g) (k : Nat) (ls : List Nat) :
    ∀ s : State, s.laneKey = key → (∀ l ∈ ls, key l ≠ k) → (ls.foldl w s).threads.get? k = s.threads.get? k := by
  induction ls with
  | nil => intro s _ _; rfl
  | cons l ls ih =>
    intro s hs hk
    rw [List.foldl_cons, ih (w s l) (h.laneKey hs l) (fun m hm => hk m (List.mem_cons_of_mem _ hm)), h.get _ _ _ hs,
      if_neg (fun e => hk l List.mem_cons_self e.symm)]

/-- The thread of a changed lane. -/
theorem ActsOn.fold_lane (h : ActsOn key w g) (l : Nat) (ls : List Nat) :
    ∀ s : State, s.laneKey = key → l ∈ ls → (ls.map key).Nodup →
      (ls.foldl w s).threads.get? (key l) = (s.threads.get? (key l)).map (g l) := by
  induction ls with
  | nil => intro s _ h; cases h
  | cons m ls ih =>
    intro s hs hl hn
    rw [List.map_cons, List.nodup_cons] at hn
    rw [List.foldl_cons]
    by_cases e : key l = key m
    · have hlm : l = m := eq_of_nodup_map (ls := m :: ls) (f := key) (by rw [List.map_cons, List.nodup_cons]; exact hn) hl
        List.mem_cons_self e
      subst hlm
      rw [h.fold_other _ _ _ (h.laneKey hs l), h.get _ _ _ hs, if_pos rfl]
      intro x hx ex
      exact hn.1 (List.mem_map.mpr ⟨x, hx, ex⟩)
    · have hl' : l ∈ ls := (List.mem_cons.mp hl).resolve_left (fun x => e (by rw [x]))
      have hi := ih (w s m) (h.laneKey hs m) hl' hn.2
      rw [h.get _ _ _ hs, if_neg e] at hi
      exact hi

/-! ### Ordered groups -/

theorem State.ordered_slot {s : State} (h : s.ordered = true) : (s.slots.get? s.cur.slotKey).isSome = true := by
  unfold State.ordered at h; simp only [Bool.and_eq_true] at h; exact h.1.1.1

theorem State.ordered_nodup {s : State} (h : s.ordered = true) : s.cur.lanes.Nodup := by
  unfold State.ordered at h; simp only [Bool.and_eq_true, decide_eq_true_eq] at h; exact h.1.1.2

theorem State.ordered_keys {s : State} (h : s.ordered = true) : (s.cur.lanes.map s.laneKey).Nodup := by
  unfold State.ordered at h; simp only [Bool.and_eq_true, decide_eq_true_eq] at h; exact h.1.2

theorem State.ordered_held {s : State} (h : s.ordered = true) {l : Nat} (hl : l ∈ s.cur.lanes) :
    (s.threads.get? (s.laneKey l)).isSome = true := by
  unfold State.ordered at h; simp only [Bool.and_eq_true, List.all_eq_true] at h; exact h.2 l hl

/-- Being ordered is kept by what changes threads alone, in place. -/
theorem ActsOn.fold_ordered (h : ActsOn key w g) (ls : List Nat) :
    ∀ s : State, s.laneKey = key → s.ordered = true → (ls.foldl w s).ordered = true := by
  induction ls with
  | nil => intro s _ ho; exact ho
  | cons l ls ih =>
    intro s hs ho
    rw [List.foldl_cons]
    refine ih (w s l) (h.laneKey hs l) ?_
    unfold State.ordered
    simp only [Bool.and_eq_true, decide_eq_true_eq, List.all_eq_true]
    have hc : (w s l).cur = s.cur := by rw [h.rest s l hs]
    have hsl : (w s l).slots = s.slots := by rw [h.rest s l hs]
    rw [hc, hsl, (h.laneKey hs l).trans hs.symm]
    refine ⟨⟨⟨State.ordered_slot ho, State.ordered_nodup ho⟩, State.ordered_keys ho⟩, ?_⟩
    intro x hx
    rw [h.get _ _ _ hs]
    have := State.ordered_held ho hx
    split <;> simp [this]

/-- A changed lane of an ordered group. -/
theorem ActsOn.fold_lane_of_ordered (h : ActsOn key w g) {s : State} (hk : s.laneKey = key) (ho : s.ordered = true) {ls : List Nat}
    (hs : List.Sublist ls s.cur.lanes) {l : Nat} (hl : l ∈ ls) : (ls.foldl w s).lane l = g l (s.lane l) := by
  have hn := (hs.map s.laneKey).nodup (State.ordered_keys ho)
  have hh := State.ordered_held ho (hs.subset hl)
  show Table.getD (ls.foldl w s).threads ((ls.foldl w s).laneKey l) _ = g l (Table.getD s.threads (s.laneKey l) _)
  rw [h.fold_laneKey ls hk]
  rw [hk] at hn hh ⊢
  exact Table.getD_map (h.fold_lane l ls s hk hl hn) hh

/-- A lane of an ordered group that is not among the changed ones. -/
theorem ActsOn.fold_lane_other (h : ActsOn key w g) {s : State} (hk : s.laneKey = key) (ho : s.ordered = true) {ls : List Nat}
    (hs : List.Sublist ls s.cur.lanes) {l : Nat} (hl : l ∈ s.cur.lanes) (hn : l ∉ ls) : (ls.foldl w s).lane l = s.lane l := by
  have hp := State.ordered_keys ho
  show Table.getD (ls.foldl w s).threads ((ls.foldl w s).laneKey l) _ = Table.getD s.threads (s.laneKey l) _
  rw [h.fold_laneKey ls hk]
  rw [hk] at hp ⊢
  refine Table.getD_congr (h.fold_other _ ls s hk ?_)
  intro m hm e
  exact hn (eq_of_nodup_map hp (hs.subset hm) hl e ▸ hm)

/-- A thread that no changed lane holds. -/
theorem ActsOn.fold_thread_other (h : ActsOn key w g) {s : State} (hs : s.laneKey = key) (ls : List Nat) (k : Nat)
    (hk : k ∉ ls.map key) : (ls.foldl w s).thread k = s.thread k := by
  refine Table.getD_congr (h.fold_other k ls s hs ?_)
  intro l hl e
  exact hk (List.mem_map.mpr ⟨l, hl, e⟩)

/-! ### Going on -/

theorem State.execLanes_sublist (s : State) (gn : BitVec 1) (gp : BitVec 3) : List.Sublist (s.execLanes gn gp) s.cur.lanes :=
  List.filter_sublist

/-- Lanes that are sent to a PC. -/
theorem State.sendLanes_acts (key : Nat → Nat) (pc : PC) :
    ActsOn key (fun s l => s.updLane l (fun t => { t with pc := pc })) (fun _ t => { t with pc := pc }) :=
  ActsOn.updLane key (fun _ t => { t with pc := pc })

/-! ### Writing results -/

/-- An output whose token, if it is one, belongs to thread `k`. -/
def Out.ownedBy (k : Nat) : Out → Prop
  | .val _ => True
  | .tok _ ow => ow = k

theorem State.writeDst_own (s : State) (k : Nat) (d : Dst) (o : Out) (h : o.ownedBy k) :
    s.writeDst k d o = s.updThread k (fun t => t.take d o) := by
  cases o with
  | val v => cases d <;> rfl
  | tok w ow =>
    have e : ow = k := h
    subst e
    cases d with
    | v r n => simp [State.writeDst, State.relocate, Thread.take]
    | p r => by_cases h7 : r = 7 <;> simp [State.writeDst, State.relocate, Thread.take, h7]

theorem State.writeOuts_rest (k : Nat) (ds : List Dst) : ∀ (os : List Out) (s : State), (∀ o ∈ os, o.ownedBy k) →
    s.writeOuts k ds os = { s with threads := (s.writeOuts k ds os).threads } := by
  induction ds with
  | nil => intro os s _; cases os <;> rfl
  | cons d ds ih =>
    intro os s h
    cases os with
    | nil => rfl
    | cons o os =>
      show (s.writeDst k d o).writeOuts k ds os = { s with threads := ((s.writeDst k d o).writeOuts k ds os).threads }
      rw [State.writeDst_own s k d o (h o List.mem_cons_self)]
      exact ih os _ (fun x hx => h x (List.mem_cons_of_mem _ hx))

theorem State.writeOuts_get? (k j : Nat) (ds : List Dst) : ∀ (os : List Out) (s : State), (∀ o ∈ os, o.ownedBy k) →
    (s.writeOuts k ds os).threads.get? j
      = if j = k then (s.threads.get? j).map (fun t => t.takeAll ds os) else s.threads.get? j := by
  induction ds with
  | nil => intro os s _; cases os <;> simp [State.writeOuts, Thread.takeAll]
  | cons d ds ih =>
    intro os s h
    cases os with
    | nil => simp [State.writeOuts, Thread.takeAll]
    | cons o os =>
      show ((s.writeDst k d o).writeOuts k ds os).threads.get? j = _
      rw [State.writeDst_own s k d o (h o List.mem_cons_self), ih os _ (fun x hx => h x (List.mem_cons_of_mem _ hx)),
        State.updThread_get?]
      split
      · simp [Option.map_map, Function.comp_def, Thread.takeAll]
      · rfl

/-- Lanes write outputs that they own. -/
theorem State.writeOuts_acts (key : Nat → Nat) (ds : List Dst) (out : Nat → List Out) (h : ∀ l, ∀ o ∈ out l, o.ownedBy (key l)) :
    ActsOn key (fun s l => s.writeOuts (s.laneKey l) ds (out l)) (fun l t => t.takeAll ds (out l)) where
  rest s l hs := by subst hs; exact State.writeOuts_rest _ ds _ s (h l)
  get s l j hs := by subst hs; exact State.writeOuts_get? _ j ds _ s (h l)

/-- `commit` over lanes with their outputs. -/
theorem State.commit_eq (s : State) (ex : List Nat) (ds : List Dst) (lab : Label) (out : Nat → List Out) (he : ex ≠ []) :
    s.commit ex ds lab (ex.map (fun l => (l, out l)))
      = (ex.foldl (fun s l => s.writeOuts (s.laneKey l) ds (out l)) s).updSlot
          (ex.foldl (fun s l => s.writeOuts (s.laneKey l) ds (out l)) s).cur.slotKey
          (fun sl => ds.foldl (fun sl d => sl.labelDst
            ((ex.foldl (fun s l => s.writeOuts (s.laneKey l) ds (out l)) s).wholeSlot ex) lab d) sl) := by
  unfold State.commit State.labelDsts
  rw [List.foldl_map]
  have hn : ex.isEmpty = false := by cases ex <;> simp_all
  rw [hn]
  rfl

theorem Slot.labelDst_lanes (sl : Slot) (whole : Bool) (lab : Label) (d : Dst) : (sl.labelDst whole lab d).lanes = sl.lanes := by
  cases d with
  | v r n =>
    show ((List.range n).foldl (fun sl i => sl.setRegLabel (r + i) (if whole then lab else sl.regLabel (r + i) ||| lab)) sl).lanes = _
    generalize List.range n = is
    induction is generalizing sl with
    | nil => rfl
    | cons i is ih => exact ih _
  | p r =>
    show (sl.setPredLabel r _).lanes = _
    unfold Slot.setPredLabel
    split <;> rfl

theorem Slot.labelDsts_lanes (whole : Bool) (lab : Label) (ds : List Dst) :
    ∀ sl : Slot, (ds.foldl (fun sl d => sl.labelDst whole lab d) sl).lanes = sl.lanes := by
  induction ds with
  | nil => intro sl; rfl
  | cons d ds ih => intro sl; exact (ih _).trans (Slot.labelDst_lanes sl whole lab d)

theorem State.updSlot_get? (s : State) (k j : Nat) (f : Slot → Slot) :
    (s.updSlot k f).slots.get? j = if j = k then (s.slots.get? j).map f else s.slots.get? j := by
  show Table.get? (Table.modify s.slots k f) j = _
  rw [Table.get?_modify]
  split <;> simp_all

/-- An issuing slot whose change keeps its lanes. -/
theorem State.updSlot_curSlot (s : State) (f : Slot → Slot) (h : (s.slots.get? s.cur.slotKey).isSome = true) :
    (s.updSlot s.cur.slotKey f).curSlot = f s.curSlot := by
  show Table.getD (s.updSlot s.cur.slotKey f).slots s.cur.slotKey _ = _
  exact Table.getD_map (by rw [State.updSlot_get?, if_pos rfl]) h

/-- The frame of a change of the issuing slot that keeps its lanes. -/
theorem State.updSlot_laneKey (s : State) (f : Slot → Slot) (h : (s.slots.get? s.cur.slotKey).isSome = true)
    (hf : ∀ sl, (f sl).lanes = sl.lanes) : (s.updSlot s.cur.slotKey f).laneKey = s.laneKey := by
  funext l
  show Table.getD (s.updSlot s.cur.slotKey f).curSlot.lanes l noThread = _
  rw [State.updSlot_curSlot s f h, hf]
  rfl

/-- An ordered group stays ordered when its slot changes and keeps its lanes. -/
theorem State.updSlot_ordered (s : State) (f : Slot → Slot) (ho : s.ordered = true) (hf : ∀ sl, (f sl).lanes = sl.lanes) :
    (s.updSlot s.cur.slotKey f).ordered = true := by
  have hk := State.updSlot_laneKey s f (State.ordered_slot ho) hf
  unfold State.ordered
  simp only [Bool.and_eq_true, decide_eq_true_eq, List.all_eq_true]
  rw [hk]
  refine ⟨⟨⟨?_, State.ordered_nodup (s := s) ho⟩, State.ordered_keys (s := s) ho⟩, fun l hl => State.ordered_held (s := s) ho hl⟩
  show ((s.updSlot s.cur.slotKey f).slots.get? s.cur.slotKey).isSome = true
  rw [State.updSlot_get?, if_pos rfl, Option.isSome_map]
  exact State.ordered_slot ho

/-- What committing results and going on leaves: the form in which every register operation ends. -/
theorem State.commit_advance (s : State) (ex : List Nat) (ds : List Dst) (lab : Label) (out : Nat → List Out) (ho : s.ordered = true)
    (he : ex ≠ []) (hs : List.Sublist ex s.cur.lanes) (hw : ∀ l, ∀ o ∈ out l, o.ownedBy (s.laneKey l)) :
    s.Wrote ((s.commit ex ds lab (ex.map (fun l => (l, out l)))).advance s.cur.lanes) ex ds out lab := by
  rw [State.commit_eq s ex ds lab out he]
  have hA := State.writeOuts_acts s.laneKey ds out hw
  have hP := State.sendLanes_acts s.laneKey s.cur.nextPC
  have hr := hA.fold_rest ex s rfl
  have hoA := hA.fold_ordered ex s rfl ho
  have hlA := fun {l} (hl : l ∈ ex) => hA.fold_lane_of_ordered rfl ho hs hl
  have hnA := fun {l} (hl : l ∈ s.cur.lanes) (hn : l ∉ ex) => hA.fold_lane_other rfl ho hs hl hn
  have htA := fun k (hk : k ∉ ex.map s.laneKey) => hA.fold_thread_other rfl ex k hk
  generalize ex.foldl (fun s l => s.writeOuts (s.laneKey l) ds (out l)) s = a at *
  obtain ⟨T, rfl⟩ : ∃ T, a = { s with threads := T } := ⟨_, hr⟩
  clear hr hA
  generalize hF : (fun sl : Slot => ds.foldl (fun sl d => sl.labelDst (State.wholeSlot { s with threads := T } ex) lab d) sl) = F
  have hFl : ∀ sl, (F sl).lanes = sl.lanes := by
    intro sl; rw [← hF]; exact Slot.labelDsts_lanes _ lab ds sl
  have hob := State.updSlot_ordered { s with threads := T } F hoA hFl
  have hkb := State.updSlot_laneKey { s with threads := T } F (State.ordered_slot hoA) hFl
  have hcs := State.updSlot_curSlot { s with threads := T } F (State.ordered_slot hoA)
  have hso : ∀ k, k ≠ s.cur.slotKey →
      (State.updSlot { s with threads := T } s.cur.slotKey F).slotAt k = s.slotAt k := by
    intro k hk
    exact Table.getD_congr (by rw [State.updSlot_get?, if_neg hk])
  have hlb : ∀ l, (State.updSlot { s with threads := T } s.cur.slotKey F).lane l = State.lane { s with threads := T } l := by
    intro l
    show Table.getD T ((State.updSlot { s with threads := T } s.cur.slotKey F).laneKey l) _ = _
    rw [hkb]; rfl
  have hrb : State.updSlot { s with threads := T } s.cur.slotKey F
      = { s with threads := T, slots := (State.updSlot { s with threads := T } s.cur.slotKey F).slots } := rfl
  show s.Wrote ((State.updSlot { s with threads := T } s.cur.slotKey F).advance s.cur.lanes) ex ds out lab
  have hkb' : (State.updSlot { s with threads := T } s.cur.slotKey F).laneKey = s.laneKey := hkb
  have hadv : (State.updSlot { s with threads := T } s.cur.slotKey F).advance s.cur.lanes
      = { State.updSlot { s with threads := T } s.cur.slotKey F with
          threads := ((State.updSlot { s with threads := T } s.cur.slotKey F).advance s.cur.lanes).threads } :=
    hP.fold_rest s.cur.lanes _ hkb'
  have hsub : List.Sublist s.cur.lanes (State.updSlot { s with threads := T } s.cur.slotKey F).cur.lanes := List.Sublist.refl _
  refine ⟨?_, ?_, ?_, ?_, ?_, ?_⟩
  · intro l hl
    refine (hP.fold_lane_of_ordered hkb' hob hsub (hs.subset hl)).trans ?_
    rw [hlb, hlA hl]
  · intro l hl hn
    refine (hP.fold_lane_of_ordered hkb' hob hsub hl).trans ?_
    rw [hlb, hnA hl hn]
  · intro k hk
    refine (hP.fold_thread_other hkb' s.cur.lanes k hk).trans ?_
    exact htA k (fun h => hk ((hs.map _).subset h))
  · have hc : (State.updSlot { s with threads := T } s.cur.slotKey F).curSlot = F s.curSlot := hcs
    rw [← hF] at hc
    refine Eq.trans ?_ hc
    rw [hF, hadv]
    rfl
  · intro k hk
    refine Eq.trans ?_ (hso k hk)
    rw [hadv]
    rfl
  · rw [hadv]
    rfl

/-! ### Instructions that only compute on registers -/

theorem State.issue_body {s : State} {gn : BitVec 1} {gp : BitVec 3} {bad : Option Flt} {body : List Nat → State}
    (he : s.execLanes gn gp ≠ []) (hb : bad = none) : s.issue gn gp bad body = body (s.execLanes gn gp) := by
  subst hb
  unfold State.issue
  have hn : (s.execLanes gn gp).isEmpty = false := by cases h : s.execLanes gn gp <;> simp_all
  dsimp only
  rw [if_neg (by simp [hn])]

/-- An instruction that does nothing in any lane only goes on (R110). -/
theorem State.issue_none {s : State} {gn : BitVec 1} {gp : BitVec 3} {bad : Option Flt} {body : List Nat → State}
    (he : s.execLanes gn gp = []) : s.issue gn gp bad body = s.advance s.cur.lanes := by
  unfold State.issue
  simp [he]

/-- An illegal use parks every executing lane (R419). -/
theorem State.issue_bad {s : State} {gn : BitVec 1} {gp : BitVec 3} {bad : Option Flt} {f : Flt} {body : List Nat → State}
    (he : s.execLanes gn gp ≠ []) (hb : bad = some f) : s.issue gn gp bad body = s.parkAll (s.execLanes gn gp) f := by
  subst hb
  unfold State.issue
  have hn : (s.execLanes gn gp).isEmpty = false := by cases h : s.execLanes gn gp <;> simp_all
  dsimp only
  rw [if_neg (by simp [hn])]

/-- The outputs of an operation belong to their lanes. -/
theorem Alu.outs_owned (op : Alu) (s : State) (l : Nat) : ∀ o ∈ op.outs s l, o.ownedBy (s.laneKey l) := by
  intro o ho
  unfold Alu.outs at ho
  dsimp only at ho
  split at ho
  · obtain ⟨d, -, rfl⟩ := List.mem_map.mp ho
    rfl
  · obtain ⟨v, -, rfl⟩ := List.mem_map.mp ho
    trivial

/-- Everything a register operation does when it issues in some lane and is legal. -/
theorem State.runAlu_wrote (s : State) (op : Alu) (ho : s.ordered = true) (hb : op.bad s.quota = none)
    (he : s.execLanes op.gn op.gp ≠ []) :
    s.Wrote (s.runAlu op) (s.execLanes op.gn op.gp) op.dsts (op.outs s) (op.label s (s.execLanes op.gn op.gp)) := by
  unfold State.runAlu
  rw [State.issue_body he hb]
  exact State.commit_advance s _ op.dsts _ (op.outs s) ho he (State.execLanes_sublist s op.gn op.gp) (Alu.outs_owned op s)

/-- The outputs of a lane that carries no poison. -/
theorem Alu.outs_clean (op : Alu) (s : State) (l : Nat) (h : op.token (s.lane l) = none) :
    op.outs s l = (op.eval l (s.lane l)).map .val := by
  unfold Alu.outs; dsimp only; rw [h]

/-- What an instruction with a register operation completes with, from its destinations and its values. -/
theorem gives_of {i : Instr} {ds : List Dst} {val : State → Nat → List Nat}
    (hi : ∀ s op, s.registerOp i = some op → exec i s = .next (s.runAlu op) ∧ op.dsts = ds ∧ ∀ l, op.eval l (s.lane l) = val s l) :
    Gives i ds val := by
  intro s op hop ho hb he hc
  obtain ⟨hx, hd, hv⟩ := hi s op hop
  refine ⟨_, hx, ?_⟩
  have h := State.runAlu_wrote s op ho hb he
  rw [hd] at h
  refine ⟨?_, h.2⟩
  intro l hl
  have hl' : op.token (s.lane l) = none := by
    have := List.all_eq_true.mp hc l hl
    cases h : op.token (s.lane l) <;> simp_all
  rw [h.1 l hl, Alu.outs_clean op s l hl', hv]

/-! ### Cross-lane instructions -/

/-- `Wrote` looks at the outputs of the executing lanes alone. -/
theorem State.Wrote.congr {s t : State} {ex : List Nat} {ds : List Dst} {out out' : Nat → List Out} {lab : Label}
    (h : s.Wrote t ex ds out lab) (he : ∀ l ∈ ex, out l = out' l) : s.Wrote t ex ds out' lab :=
  ⟨fun l hl => by rw [h.1 l hl, he l hl], h.2⟩

/-- Everything a cross-lane instruction does when it issues in some lane, is legal and gives every participant a value. -/
theorem State.runXLane_wrote (s : State) (op : XLane) (val : Nat → Nat) (ho : s.ordered = true)
    (hb : illegal op.ok (op.srcs.any (·.beyond s.quota) || op.dst.beyond s.quota) = none) (he : s.execLanes op.gn op.gp ≠ [])
    (hv : ∀ l ∈ s.execLanes op.gn op.gp, op.out s (s.execLanes op.gn op.gp) l = .val (val l)) :
    s.Wrote (s.runXLane op) (s.execLanes op.gn op.gp) [op.dst] (fun l => [.val (val l)])
      (s.labelL op.gp.toNat (s.execLanes op.gn op.gp) (s.curSlot.srcLabel op.srcs) 0) := by
  unfold State.runXLane
  rw [State.issue_body he hb]
  have e : (s.execLanes op.gn op.gp).map (fun l => (l, [op.out s (s.execLanes op.gn op.gp) l]))
      = (s.execLanes op.gn op.gp).map (fun l => (l, [Out.val (val l)])) := by
    refine List.map_congr_left (fun l hl => ?_)
    rw [hv l hl]
  rw [e]
  refine State.commit_advance s _ [op.dst] _ (fun l => [Out.val (val l)]) ho he (State.execLanes_sublist s op.gn op.gp) ?_
  intro l o ho
  rw [List.mem_singleton.mp ho]
  trivial

/-- What a cross-lane instruction completes with, from its destination and its values. -/
theorem givesLanes_of {i : Instr} {d : Dst} {val : State → List Nat → Nat → Nat}
    (hi : ∀ s op, laneOp i = some op → exec i s = .next (s.runXLane op) ∧ op.dst = d
      ∧ (s.cleanLanes op = true → ∀ l ∈ s.execLanes op.gn op.gp,
          op.out s (s.execLanes op.gn op.gp) l = .val (val s (s.execLanes op.gn op.gp) l))) :
    GivesLanes i d val := by
  intro s op hop ho hb he hc
  obtain ⟨hx, hd, hv⟩ := hi s op hop
  refine ⟨_, hx, ?_⟩
  have h := State.runXLane_wrote s op _ ho hb he (hv hc)
  rw [hd] at h
  exact h

theorem State.cleanLanes_guard {s : State} {op : XLane} (h : s.cleanLanes op = true) {l : Nat} (hl : l ∈ s.execLanes op.gn op.gp) :
    s.guardTok op.gp l = none := by
  have := List.all_eq_true.mp h l hl
  simp only [Bool.and_eq_true, Option.isNone_iff_eq_none] at this
  exact this.1

theorem State.cleanLanes_src {s : State} {op : XLane} (h : s.cleanLanes op = true) {l : Nat} (hl : l ∈ s.execLanes op.gn op.gp)
    {x : Src} (hx : x ∈ op.srcs) : x.token (s.lane l) = none := by
  have := List.all_eq_true.mp h l hl
  simp only [Bool.and_eq_true, Option.isNone_iff_eq_none, List.all_eq_true] at this
  exact this.2 x hx

theorem State.firstTok_nil (s : State) (cs : List (Nat × Option Word)) (h : ∀ c ∈ cs, c.2 = none) : s.firstTok cs = none := by
  unfold State.firstTok
  rw [List.findSome?_eq_none_iff]
  intro c hc
  rw [h c hc]
  rfl

theorem State.partnerTok_nil (s : State) (gp : BitVec 3) (ex : List Nat) (src : Nat → Option Word)
    (hg : ∀ l ∈ ex, s.guardTok gp l = none) (hs : ∀ l ∈ ex, src l = none) : s.partnerTok gp ex src = none := by
  unfold State.partnerTok
  refine State.firstTok_nil s _ ?_
  intro c hc
  obtain ⟨l, hl, hc⟩ := List.mem_flatMap.mp hc
  simp only [List.mem_cons, List.not_mem_nil, or_false] at hc
  rcases hc with rfl | rfl
  · exact hg l hl
  · exact hs l hl

end Sys2Proof.Machine
end

