-- ==== Sys2Proof/Machine/Wafer.lean ====
section
/-!
DEFINITION. What the SRAM wafer stores: every vault line encrypted with AES-128-XTS under its key slot's pair (R73). Memory holds
the plain bytes, which is what every reader obtains; this file says what stands on the wafer beside it. AES is FIPS 197, XTS is
IEEE 1619.
-/

namespace Sys2Proof.Machine

/-- A byte times x in the field of AES. -/
def aesTwice (b : Nat) : Nat := 2 * b % 256 ^^^ (if 128 ≤ b then 0x1B else 0)

/-- The product in the field of AES, by the low `fuel` bits of the second factor. -/
def aesTimes : Nat → Nat → Nat → Nat
  | 0, _, _ => 0
  | n + 1, a, b => (if b % 2 = 1 then a else 0) ^^^ aesTimes n (aesTwice a) (b / 2)

/-- The inverse in the field of AES, the 254th power; 0 for 0. -/
def aesInv (b : Nat) : Nat := (List.range 7).foldl (fun r _ => let t := aesTimes 8 r b; aesTimes 8 t t) 1

/-- The substitution of a byte. -/
def aesSub (b : Nat) : Nat :=
  let i := aesInv b
  (List.range 8).foldl (fun r k =>
    r + 2 ^ k * ((i / 2 ^ k + i / 2 ^ ((k + 4) % 8) + i / 2 ^ ((k + 5) % 8) + i / 2 ^ ((k + 6) % 8) + i / 2 ^ ((k + 7) % 8)
      + 0x63 / 2 ^ k) % 2)) 0

/-- Two lists of bytes combined. -/
def aesXor (a b : List Nat) : List Nat := List.zipWith (· ^^^ ·) a b

/-- The next round key. -/
def aesNextKey (k : List Nat) (rcon : Nat) : List Nat :=
  let w0 := aesXor (k.take 4) (aesXor ((k.drop 13 ++ (k.drop 12).take 1).map aesSub) [rcon, 0, 0, 0])
  let w1 := aesXor ((k.drop 4).take 4) w0
  let w2 := aesXor ((k.drop 8).take 4) w1
  w0 ++ w1 ++ w2 ++ aesXor (k.drop 12) w2

/-- Substitute every byte and shift the rows. -/
def aesShift (s : List Nat) : List Nat := (List.range 16).map (fun i => aesSub (s.getD ((i + 4 * (i % 4)) % 16) 0))

/-- Mix the columns. -/
def aesMix (s : List Nat) : List Nat := (List.range 16).map (fun i =>
  let at_ := fun k => s.getD (i / 4 * 4 + (i + k) % 4) 0
  aesTwice (at_ 0) ^^^ (aesTwice (at_ 1) ^^^ at_ 1) ^^^ at_ 2 ^^^ at_ 3)

/-- The rounds after the first key: all but the last mix columns. -/
def aesRounds : List Nat → List Nat → List Nat → List Nat
  | [], _, s => s
  | r :: rs, k, s =>
    let k1 := aesNextKey k r
    aesRounds rs k1 (aesXor (if rs = [] then aesShift s else aesMix (aesShift s)) k1)

/-- AES-128 of a block of 16 bytes. -/
def aes128 (key block : List Nat) : List Nat :=
  aesRounds [0x01, 0x02, 0x04, 0x08, 0x10, 0x20, 0x40, 0x80, 0x1B, 0x36] key (aesXor block key)

/-- A tweak times α: the field of 2^128, a tweak being the bytes of a number, the low one first. -/
def xtsTwice (t : Nat) : Nat := 2 * t % 2 ^ 128 ^^^ (if 2 ^ 127 ≤ t then 0x87 else 0)

/-- A number as the bytes of a block. -/
def xtsBytes (n : Nat) : List Nat := (leBytes 16 n).map BitVec.toNat

/-- Blocks of 16 bytes under AES-128-XTS, from the tweak of the first; `fuel` counts the blocks. -/
def xtsBlocks (key : List Nat) : Nat → Nat → List Nat → List Nat
  | 0, _, _ => []
  | n + 1, t, bs => aesXor (aes128 key (aesXor (bs.take 16) (xtsBytes t))) (xtsBytes t) ++ xtsBlocks key n (xtsTwice t) (bs.drop 16)

/-- A 64-byte line under a pair of keys, the data key in the low half (notes/assumptions 13); the data unit's number is the line's physical address (R73). -/
def xtsLine (pair : BitVec 256) (pa : Nat) (bs : List Byte) : List Byte :=
  let tweak := aes128 (xtsBytes (pair.toNat / 2 ^ 128)) (xtsBytes (pa % 2 ^ 52))
  (xtsBlocks (xtsBytes (pair.toNat % 2 ^ 128)) 4 (leNat (tweak.map (BitVec.ofNat 8))) (bs.map BitVec.toNat)).map (BitVec.ofNat 8)

/-- What the wafer holds for a vault line: its bytes under its slot's keys; none when the line carries no slot that still holds the
keys it was written with (R73, R74). -/
def State.waferLine (s : State) (line : Nat) : Option (List Byte) :=
  match s.vaultMark line with
  | .key k ep =>
    if ep = s.epoch k then
      (if k = 0 then some Config.hypervisorKey else s.keySlots.get? k).map (fun p => xtsLine p (64 * line) (rawBytes s.mem (64 * line) 64))
    else none
  | .zero => none
  | .dead => none

end Sys2Proof.Machine
end

