-- ==== Sys2Proof/Tests/Slice0.lean ====
section
/-! SUPPORT. The model's own tests: a witness for the hypotheses of every statement, at the boundary values where its clauses
meet; the words of the manual's encodings and what they decode to; the ill-formed terms that the checks refuse; and a few single
steps whose results are worked out by hand from the rules named. -/

open Sys2Proof Sys2Proof.Machine

namespace Sys2Proof.Tests

set_option Elab.async false

/-! ### A small machine: one warp of lanes 0 and 1 of a worker stand, and the fields of an instruction -/

/-- A stage of two threads under quota 256. -/
def tStage : Stage :=
  { ent := 0x1000, threads := 2, quota := 256, com := false, cqd := 0, weight := 1, qloc := 0, qesz := 0, qcap := 0, qptr := 0 }

/-- Stand 0 of grid 1, on core 0, of function 1, with a program area of 128 KiB. -/
def tStand : Stand where
  grid := 1
  num := 0
  core := 0
  vf := 1
  stages := [tStage]
  started := true
  exited := false
  triggered := false
  areaA := 0x20000
  queueKiB := 0
  dcKiB := 0
  yardKiB := 0
  fill := 0
  sp := []
  sptags := []
  splabels := []
  absent := []
  bad := []
  raceCheck := false
  shadow := []
  gen := 0
  barriers := []
  rmode := []
  pending := []
  yard := []
  dcBuf := []
  wps := []
  totals := []
  iss := 0
  sat := false
  t0 := 0
  susp := false
  weights := []
  classes := []
  circuits := []
  frozen := none
  saved := none
  savePending := false
  chosen := true
  owed := []
  ops := []
  order := 0

/-- Its launch. -/
def tGrid : Grid where
  vf := 1
  state := .placed
  parent := 0
  hart := none
  rcd := 0
  stages := [tStage]
  routes := []
  deps := []
  x0 := 0
  y0 := 0
  carried := 0
  fail := none
  rsn := 0
  noCompletion := true
  exitLabel := 0
  firstStart := []
  expired := []
  wps := []
  dcFirst := []
  vqDone := []
  unjoined := false
  lack := []

/-- The key of the thread of lane `l`. -/
def tKey (l : Nat) : Nat := 16384 * 8192 + l

/-- The machine with a stand under the key `k`, whose two threads have the registers that `regs` gives by lane, in slot 0 of core 0,
and issue the first instruction of the clause at 0x1000. -/
def tRegsAt (k : Nat) (st : Stand) (regs : Nat → Table Word) : State :=
  { State.reset with
    stands := [(k, st)]
    grids := [(1, tGrid)]
    functions := [(1, Function.empty)]
    threads := (if k < 8191 then [] else [(mgmtThread, Thread.start 8191 0 0 ⟨0, 0⟩ [] 0)])
      ++ [(16384 * k, Thread.start k 0 0 ⟨0x1000, 0⟩ (regs 0) 0), (16384 * k + 1, Thread.start k 0 1 ⟨0x1000, 0⟩ (regs 1) 0)]
      ++ (if k < 8191 then [(mgmtThread, Thread.start 8191 0 0 ⟨0, 0⟩ [] 0)] else [])
    slots := [(0, { Slot.empty with stand := k, lanes := [(0, 16384 * k), (1, 16384 * k + 1)] }),
      (mgmtSlot, { Slot.empty with stand := 8191, lanes := [(0, mgmtThread)] })]
    cur := ⟨0, 0, 0, [0, 1], 0x1000, 0, 0, 0x1010, 0x1008⟩ }

/-- The machine with the worker stand. -/
def tRegs (st : Stand) (regs : Nat → Table Word) : State := tRegsAt 8192 st regs

/-- Registers 4 and 5 hold 1 and 2 in lane 0, 2 and 4 in lane 1, register 6 holds 3, 6. -/
def tWarp : State := tRegs tStand (fun l => [(4, BitVec.ofNat 32 (l + 1)), (5, BitVec.ofNat 32 (2 * l + 2)), (6, BitVec.ofNat 32 (3 * l + 3))])

/-- Format G under P7, D = V8, A = V4, B = V6 and nothing else. -/
def tG : GFmt := { x := 0, gn := 0, gp := 7, d := 8, a := 4, b := 6, c := 0, ma := 0, mb := 0, mc := 0, sel := 0 }

/-- Format I under P7 with D = V8 and a target or immediate of 2. -/
def tI : IFmt := { x := 0, gn := 0, gp := 7, d := 8, imm := 2, sel := 0 }

/-- Format M under P7, 32 bits of the scratchpad at the pointer in V4, D = V8, B = V6. -/
def tM : MFmt := { x := 1, gn := 0, gp := 7, d := 8, a := 4, b := 6, spc := 1, ord := 0, sco := 0, sz := 4, var := 0, dl := 0 }

/-- Format X under P7, D = V8, A = V4, B = V6. -/
def tX : XFmt := { x := 0, gn := 0, gp := 7, d := 8, a := 4, b := 6, tok := 0, te := 0, ord := 0, sco := 0, macs := 0, acc := 0, sel := 0 }

/-- Format Y under P7, D = V8, A = V4, B = V6. -/
def tY : YFmt := { x := 0, gn := 0, gp := 7, d := 8, a := 4, b := 6, tok := 0, te := 0, ord := 0, sco := 0, dspc := 0, sspc := 0, sel := 0 }

/-- Format S under P7, D = V8, A = V4. -/
def tS : SFmt := { x := 0, gn := 0, gp := 7, d := 8, a := 4, imm := 0, tok := 0, te := 0, sel := 0 }

/-- The hypotheses of `Gives` hold of `i` in `s`. -/
def givesOk (s : State) (i : Instr) : Bool :=
  match s.registerOp i with
  | some op => s.ordered && (op.bad s.quota).isNone && s.execLanes op.gn op.gp != [] && s.clean op
  | none => false

/-- The hypotheses of `GivesLanes` hold of `i` in `s`. -/
def lanesOk (s : State) (i : Instr) : Bool :=
  match laneOp i with
  | some op => s.ordered && (illegal op.ok (op.srcs.any (·.beyond s.quota) || op.dst.beyond s.quota)).isNone
      && s.execLanes op.gn op.gp != [] && s.cleanLanes op
  | none => false

/-- `State.Runs` as a test. -/
def runsOk (s : State) (gp : BitVec 3) (ex : List Nat) (i : Instr) : Bool :=
  match s.useOf i with
  | some u => u.bad.isNone && u.gp = gp && s.execLanes u.gn gp = ex && !ex.isEmpty
  | none => false

theorem runs_of_test {s : State} {gp : BitVec 3} {ex : List Nat} {i : Instr} (h : runsOk s gp ex i = true) : s.Runs i gp ex := by
  unfold runsOk at h
  split at h
  · next u hu => exact ⟨u, hu, by simp_all⟩
  · simp at h

/-! ### Witnesses: each statement's hypotheses are met, for each instruction it names -/

/-- Format G at element width 32, with two register sources. -/
def tG2 : GFmt := { tG with sel := 2 }

/-- Format G at element width 32, with one register source. -/
def tG1 : GFmt := { tG with sel := 2, b := 0 }

/-- IntegerElements. -/
theorem witness_IntegerElements :
    ([.add tG2, .sub tG2, .neg tG1, .abs tG1, .mul tG2, .mulh tG2, .mad tG2, .madh tG2, .div tG2, .rem tG2, .min tG2, .max tG2, .and tG2,
      .or tG2, .xor tG2, .not tG1, .andn tG2, .shl tG2, .shr tG2, .sar tG2, .rol tG2, .popc tG1, .clz tG1, .ctz tG1, .brev tG1,
      .mov tG1] : List Instr).all (givesOk tWarp) = true := by decide +kernel

/-- IntegerWords. -/
theorem witness_IntegerWords :
    ([.addc tG2, .subb tG2, .mulw tG2, .madw tG2, .fshl tG2, .bfx tG2, .bfi tG2, .perm tG2, .sel tG2, .iset { tG2 with d := 3 },
      .lea { tG2 with sel := 18 }, .movi tI, .movi { tI with sel := 1 }, .movh tI, .sad tG, .dot4 tG, .dot8 tG] : List Instr).all
        (givesOk tWarp) = true := by decide +kernel

/-- PredicatesAndIndexes: each form of PMOV, and an index. -/
theorem witness_PredicatesAndIndexes :
    ([.pand { tG with d := 3, a := 4 }, .por { tG with d := 3 }, .pxor { tG with d := 3 }, .pnot { tG with d := 3, b := 0 },
      .pmov { tG with d := 3, b := 0 }, .pmov { tG with a := 0, b := 0, x := 1 }, .pmov { tG with d := 0, b := 0, x := 2 },
      .idx { tG with a := 0, b := 0 }] : List Instr).all (givesOk tWarp) = true := by decide +kernel

/-- FloatArithmetic, FloatSelections and SpecialFunctions. -/
theorem witness_Floats :
    ([.fadd tG2, .fsub tG2, .fmul tG2, .fma tG2, .frnd tG1, .fscale tG2, .fmin tG2, .fmax tG2, .fset { tG2 with d := 3 }, .fclass tG1,
      .fexpn tG1, .fmant tG1, .fcopys tG2, .frcp tG1, .frsq tG1, .fsqrt tG1, .fdiv tG2, .fexp2 tG1, .flog2 tG1, .fsin tG1, .fcos tG1,
      .ftanh tG1, .fsigm tG1] : List Instr).all (givesOk tWarp) = true := by decide +kernel

/-- DotProductsAndSelections: both kinds of ADDMIN, and the pairs of FMINI and IMINI. -/
theorem witness_DotProductsAndSelections :
    ([.fdot2 tG, .fdot4 tG2, .addmin tG, .addmax tG, .addmin { tG2 with sel := 18 }, .addmax { tG2 with sel := 18 }, .fmini tG, .fmaxi tG,
      .imini tG2, .imaxi tG2] : List Instr).all (givesOk tWarp) = true := by decide +kernel

/-- Conversions: to and from integers, with RAND, and packing at each width. -/
theorem witness_Conversions :
    ([.cvt { tG with b := 0, c := 0x12 }, .cvts { tG with c := 0x13, sel := 24 }, .cvti { tG1 with c := 0x13 },
      .cvti { tG with b := 0, c := 0x13, x := 1 }, .pack tG2, .unpack tG1, .pack { tG1 with sel := 3 },
      .unpack { tG1 with sel := 3 }] : List Instr).all (givesOk tWarp) = true
    ∧ (fltCode (0x12 / 16), fltCode (0x12 % 16), intCode (0x13 % 16)) = (some (.flt .f32), some (.flt .bf16), some (.int false 8)) := by decide +kernel

/-- LaneExchange and LaneReduction: each direction of a shuffle, each kind of vote. -/
theorem witness_Lanes :
    ([.shfl tG, .shfl { tG with sel := 1 }, .shfl { tG with sel := 2 }, .shfl { tG with sel := 3 }, .slide tG, .bcastl tG,
      .vote { tG with d := 3, b := 0 }, .vote { tG with d := 3, b := 0, sel := 1 }, .vote { tG with d := 3, b := 0, sel := 2 },
      .vote { tG with b := 0, sel := 3 }, .matchLanes tG1, .redux tG1, .scan tG1, .lmask { tG with a := 0, b := 0 }] : List Instr).all
        (lanesOk tWarp) = true := by decide +kernel

/-- Whether a check passed. -/
def isOk {α : Type} (a : Ans α) : Bool :=
  match a with
  | .ok _ => true
  | _ => false

/-- `State.Passes` as a test. -/
def passOk {α : Type} (s : State) (chk : State → Nat → Ans α × State) (ex : List Nat) : Bool :=
  (checkLanes chk s ex).1.all (fun p => isOk p.2)

theorem all_ok_split {α : Type} : ∀ (xs : List (Nat × Ans α)), xs.all (fun p => isOk p.2) = true →
    ∃ v : List (Nat × α), xs = v.map (fun p => (p.1, .ok p.2))
  | [], _ => ⟨[], rfl⟩
  | (l, .ok a) :: xs, h => by
    obtain ⟨v, hv⟩ := all_ok_split xs (Bool.and_eq_true _ _ |>.mp h).2
    exact ⟨(l, a) :: v, by simp [hv]⟩
  | (l, .bad f) :: xs, h => by simp [isOk] at h
  | (l, .wait n) :: xs, h => by simp [isOk] at h

theorem passes_of_test {α : Type} {s : State} {chk : State → Nat → Ans α × State} {ex : List Nat} (h : passOk s chk ex = true) :
    ∃ v s1, s.Passes chk ex v s1 := by
  obtain ⟨v, hv⟩ := all_ok_split _ h
  exact ⟨v, _, Prod.ext hv rfl⟩

/-- The hypotheses of `ActsIf` hold of `i` in `s` for lanes 0 and 1 under P7. -/
def actsOk (s : State) (i : Instr) (srcs : List Src) (ok : Nat → Bool := fun _ => true) : Bool :=
  runsOk s 7 [0, 1] i && s.ordered && [0, 1].all (fun l => (s.raiseTok 7 srcs l).isNone && ok l)

/-- The hypotheses of `Completes` hold of `i` in `s` for lanes 0 and 1 under P7. -/
def completesOk {α : Type} (s : State) (i : Instr) (chk : State → Nat → Ans α × State) : Bool :=
  runsOk s 7 [0, 1] i && passOk s chk [0, 1]

/-- The hypotheses of `GroupCompletes` hold of `i` in `s` for lanes 0 and 1 under P7. -/
def groupOk {α : Type} (s : State) (i : Instr) (low each : List Src) (chk : State → Nat → List Nat → Ans α × State) : Bool :=
  runsOk s 7 [0, 1] i && [0, 1].all (fun l => (s.groupTok 7 low each (l = 0) l).isNone) && isOk (chk s 0 [0, 1]).1

/-- The hypotheses of `OnceCompletes` hold of `i` in `s` for lanes 0 and 1 under P7. -/
def onceOk {α : Type} (s : State) (i : Instr) (srcs : List Src) (chk : State → Nat → Ans α × State) : Bool :=
  runsOk s 7 [0, 1] i && [0, 1].all (fun l => (s.raiseTok 7 srcs l).isNone) && isOk (chk s 0).1

/-- Translations of function 1: page 1 is DRAM, page 2 a window of cluster 0, page 3 vault memory; present, R, W, X, U, A, D. -/
def tTlb : List TlbEntry :=
  [⟨1, 1, 0x1000FD, 0, 0x1000FD, 0, 1, 0x100⟩, ⟨1, 2, 0x2000FD, 0, 0x1FD, 0, 2, 0x4000000⟩, ⟨1, 3, 0x3000FD, 0, 0x40000FD, 0, 3, 0x4000001⟩]

/-- A stand whose lanes hold: V4 a scratchpad pointer, V6 the number 3, V12 a pointer into page 1, V14 into page 2, V16 into
page 3; each lane has a line, in the vault a segment, of its own. -/
def tMemOf (st : Stand) : State :=
  { tRegs st (fun l => [(4, BitVec.ofNat 32 (0x1000 + 0x400 * l)), (6, 3), (12, BitVec.ofNat 32 (0x10000 + 0x40 * l)),
      (14, BitVec.ofNat 32 (0x20000 + 0x40 * l)), (16, BitVec.ofNat 32 (0x30000 + 0x1000 * l))]) with
    cores := [(0, { Core.empty with tlb := tTlb })] }

def tMem : State := tMemOf tStand

/-- Format M for a global address in V12. -/
def tMg : MFmt := { tM with spc := 0, a := 12 }

/-- Format M with an address only. -/
def tMa : MFmt := { tM with d := 0, b := 0, sz := 0 }

/-- Loads and ScratchpadLoads: scratchpad and memory, LD and LD.S, each size; SZ 5 and 6 name pairs and quads. -/
theorem witness_Loads :
    [{ tM with b := 0 }, { tMg with b := 0 }, { tM with b := 0, sz := 0 }, { tM with b := 0, sz := 6 }].all (fun f =>
      completesOk tMem (.ld f) (State.ldCheck f false)
      && completesOk tMem (.ldS { f with var := 8 }) (State.ldCheck { f with var := 8 } true)) = true := by decide +kernel

/-- ScratchpadLoads. -/
theorem witness_ScratchpadLoads :
    runsOk tMem 7 [0, 1] (.ld { tM with b := 0 }) = true ∧ tMem.ordered = true ∧ tMem.stands.get? tMem.curStand = some tStand
    ∧ tStand.raceCheck = false ∧ (∀ l ∈ [0, 1], (tMem.raiseTok 7 [.v 4 1] l).isNone ∧ tMem.watchList (tMem.laneWho l) = []
      ∧ tMem.ownSpan tStand l (MFmt.ptr tM (tMem.lane l)) tM.disp16 (szBytes tM.z) = true) := by decide +kernel

/-- Stores: to a scratchpad, to memory, and BCST to a window page. -/
theorem witness_Stores :
    let b : MFmt := { tMa with spc := 0, a := 14, b := 4 }
    (completesOk tMem (.st { tM with b := 0 }) (State.stCheck { tM with b := 0 })
      && completesOk tMem (.st { tMg with b := 0 }) (State.stCheck { tMg with b := 0 })
      && completesOk tMem (.bcst b) (State.afterRaise b.gp [MFmt.addr b, .v b.rb 1] (State.bcstCheck b))) = true := by decide +kernel

/-- Atomics. -/
theorem witness_Atomics :
    [tM, tMg, { tM with var := 10 }].all (fun f => completesOk tMem (.atom f) (State.atomicCheck f 1)
      && completesOk tMem (.red { f with d := 0, var := 1 }) (State.atomicCheck { f with d := 0, var := 1 } 1)
      && completesOk tMem (.atomc { f with var := 0 }) (State.atomicCheck { f with var := 0 } 2)) = true := by decide +kernel

/-- FencesAndHints. -/
theorem witness_FencesAndHints :
    let g : MFmt := { tMg with d := 0, b := 0, sz := 0 }
    (actsOk tMem (.fence { tMa with spc := 0, a := 0, ord := 3 }) [] && actsOk tMem (.fence { tMa with spc := 0, a := 0, ord := 1 }) []
      && runsOk tMem 7 [0, 1] (.pref g) && runsOk tMem 7 [0, 1] (.evict { g with var := 1 })
      && actsOk tMem (.dcq { tG with d := 0, a := 0, b := 0 }) []) = true := by decide +kernel

/-- MemoryTags. -/
theorem witness_MemoryTags :
    let g : MFmt := { tM with b := 0, sz := 0 }
    (completesOk tMem (.tagset { tMa with var := 15 }) (State.tagsetCheck { tMa with var := 15 })
      && completesOk tMem (.tagget g) (State.taggetCheck g)) = true := by decide +kernel

/-- PresenceAndLabels: both spaces of LBRD, LBOR and CLRSEG. -/
theorem witness_PresenceAndLabels :
    (completesOk tMem (.pres { tMa with var := 15 }) (State.presCheck { tMa with var := 15 })
      && completesOk tMem (.pclr tMa) (State.presCheck tMa)
      && [{ tG with a := 12, b := 0, sel := 1 }, { tG with b := 0, sel := 2 }].all (fun f => completesOk tMem (.lbrd f) (State.lbrdCheck f))
      && actsOk tMem (.lbor { tG with a := 6, b := 0 }) [.v 6 2]
      && [{ tG with d := 12, a := 6, b := 0, sel := 1 }, { tG with d := 4, a := 6, b := 0, sel := 2 }].all (fun f =>
        completesOk tMem (.lbor f) (State.lborCheck f))
      && [tMa, { tMa with spc := 0, a := 16 }].all (fun f => completesOk tMem (.clrseg f) (State.clrsegCheck f))) = true := by decide +kernel

/-- `n` as `k` bytes at an offset of a table of bytes, zeros not listed. -/
def tBytes (o k n : Nat) (t : Table Byte) : Table Byte :=
  (List.range k).foldl (fun t i => t.put 0 (o + i) (BitVec.ofNat 8 (n / 256 ^ i))) t

/-- The stand with a queue of words at 0x20000, of a capacity, and with head 0 and a tail. -/
def tQueue (cap tail : Nat) : State :=
  { tRegs { tStand with queueKiB := 1, sp := tBytes 0x20000 12 (cap + 2 ^ 64 * tail) [] }
    (fun _ => [(4, 0x20000), (6, 4)]) with tick := 0 }

/-- The stand with an unlinked stand barrier 0 that expects two, none of which has come, an unlinked crew barrier 0 and a linked one. -/
def tBars : State :=
  tRegs { tStand with
    barriers := [(0, ⟨0, 2, 0, false, none, []⟩), (1, ⟨0, 1, 1, false, none, []⟩), (16, ⟨0, 2, 0, false, none, []⟩),
      (2, ⟨0, 1, 1, false, some ⟨2, 0x1000000, false, false⟩, []⟩)]
    sp := tBytes 0x1400 2 2 (tBytes 0x1000 2 2 []) }
    (fun l => [(4, BitVec.ofNat 32 (0x1000 + 0x400 * l)), (6, 0x100), (7, 1)])

/-- A target in the scratchpad of the stand. -/
def tSp (o : Nat) : Target := ⟨.sp 8192 o, 0, false, false, none, none⟩

/-- The hypotheses of `QueueCompletes` hold for two entries in a queue of four. -/
def queueOk (i : Instr) (srcs : List Src) (dst : Option Dst) (one : State → Nat → QAns × State) : Bool :=
  let s := tQueue 4 2
  let r := (queLanes dst (State.queLane 7 srcs one) (s.queRanks [0, 1]) [0, 1] ⟨[], [], [], none⟩).1
  runsOk s 7 [0, 1] i && [0, 1].all (fun l => !(s.lane l).queueDone) && r.now = [0, 1] && r.bads.isEmpty && r.gone.isEmpty
    && r.stop.isNone

/-- Whether lane 0 opens a queue of a capacity and a tail, and a test holds of it. -/
def queueWith (cap tail : Nat) (p : Que → State → Bool) : Bool :=
  match (tQueue cap tail).queOpen tM tM.disp8 true 1 0 none with
  | (.ok q, s1) => p q s1
  | _ => false

/-- Queues: the four instructions; each clause of one lane (an illegal capacity, a full and an empty queue, an entry to add or take);
and the bytes of the descriptor. -/
theorem witness_Queues :
    (onceOk (tQueue 4 2) (.qinit { tM with d := 0, sz := 0 }) [.v 4 1, .v 6 1] (State.qinitCheck { tM with d := 0, sz := 0 })
      && queueOk (.qenq { tM with d := 0 }) [.v 4 1, .v 6 1] none (State.qenqLane { tM with d := 0 })
      && queueOk (.qdeq { tM with b := 0 }) [.v 4 1] (some (.v 8 1)) (State.qdeqLane { tM with b := 0 })
      && queueOk (.qpeek { tM with b := 0 }) [.v 4 1] (some (.v 8 1)) (State.qpeekLane { tM with b := 0 })
      && queueWith 0 0 (fun q _ => q.legal (some 4) == false)
      && queueWith 4 4 (fun q _ => q.legal (some 4) && q.count = q.cap)
      && queueWith 4 0 (fun q _ => q.legal (some 4) && q.legal none && q.count = 0 && q.count ≤ ((tQueue 4 0).lane 0).rank)
      && queueWith 4 2 (fun q s => q.count ≠ q.cap && q.count ≠ 0
        && isOk (s.queCheck (s.laneWho 0) (queReq tM 0 (s.lane 0) (q.entryOff q.tail) 4 true 1)).1
        && isOk (s.queCheck (s.laneWho 0) (queReq tM 0 (s.lane 0) (q.entryOff q.head) 4 false 0)).1
        && !(s.badSpan (.sp 8192 (0x20000 + q.entryOff q.head)) 4) && q.desc = tSp 0x20000
        && (s.thread (s.laneWho 0).thread).storeQ.isEmpty && (s.stands.get? 8192).isSome)) = true := by decide +kernel

/-- WaitsAndBarriers: stand and crew barriers. -/
theorem witness_WaitsAndBarriers :
    let f : MFmt := { tMa with spc := 0, sco := 1, a := 0 }
    let w : MFmt := { tM with ord := 1 }
    (completesOk tMem (.waitw w) (State.waitwCheck w)
      && [f, { f with sco := 0 }].all (fun f =>
        onceOk tBars (.bari { f with b := 6 }) (bariSrcs { f with b := 6 }) (State.bariCheck { f with b := 6 })
        && completesOk tBars (.bara { f with d := 8 }) (State.afterRaise 7 [] (State.barCheck { f with d := 8 } true))
        && completesOk tBars (.barw { f with b := 7 }) (State.afterRaise 7 [.v 7 1] (State.barCheck { f with b := 7 } false))
        && completesOk tBars (.bars f) (State.afterRaise 7 [] (State.barCheck f true)))) = true := by decide +kernel

/-- BarrierPhases: an unlinked barrier whose arrivals reached the count, and one whose did not. -/
theorem witness_BarrierPhases :
    (match tBars.stands.get? 8192 with
    | some st => st.barriers.get? 0 = some ⟨0, 2, 0, false, none, []⟩ && st.barriers.get? 1 = some ⟨0, 1, 1, false, none, []⟩
    | none => false) = true := by decide +kernel

/-- TransactionBarriers: each form, and the clauses of one lane: with room for an arrival, without, and both parities. -/
theorem witness_TransactionBarriers :
    let f : MFmt := { tM with sz := 0 }
    let i : MFmt := { f with d := 0, b := 7 }
    let t := tBars.tbar 8192 0x1000
    (onceOk tBars (.tbari i) [.v 4 1, .v 7 1] (State.tbariCheck i)
      && [{ f with b := 0 }, { f with var := 1 }, { f with d := 0, var := 2 }, { f with var := 3 }].all (fun f =>
        completesOk tBars (.tbare f) (State.tbareCheck f))
      && t.arr + 1 ≤ t.expa && (tBars.tbar 8192 0x1800).expa < (tBars.tbar 8192 0x1800).arr + 1 && tBars.curStand = 8192
      && t.ph == ((tBars.lane 0).reg 6).getLsbD 0 && t.ph != ((tBars.lane 0).reg 7).getLsbD 0) = true := by decide +kernel

/-- StorePerforms and MemoryStaysCanonical: canonical memory, and a span that ends where DRAM's data does. -/
theorem witness_StorePerforms :
    (Memory.wf tMem.mem && (0x1F7F0000000 - 4 + [1#8, 2#8, 3#8, 4#8].length ≤ 0x1F7F0000000)
      && (0x40600000000 - 1 + [1#8].length ≤ 0x40600000000)) = true := by decide +kernel

/-- TagReadsBack: a DRAM sector, and a vault sector with a tag and without. -/
theorem witness_TagReadsBack :
    (Memory.wf tMem.mem && !isVault 0x1000 && isVault 0x40000000000 && 0x1000 / 32 ≠ 0x1020 / 32) = true := by decide +kernel

/-- The stand whose thread 0 has stores queued: an ordinary one, or a window store not yet sent. -/
def tStores (w : Option (Nat × Nat)) : State :=
  tMem.updThread (tKey 0) (fun t => { t with storeQ := [⟨.pa 0x40000000000, [1#8], none, 0, w, false, 0⟩] })

/-- That window store sent. -/
def tSent : State :=
  (tStores (some (0, 0))).updThread (tKey 0) (fun t => { t with storeQ := t.storeQ.map (fun e => { e with sent := true }) })

/-- StoreQueue: both kinds of queued store, a window store that was sent, and an empty queue. -/
theorem witness_StoreQueue :
    ((tStores none).thread (tKey 0)).storeQ = [⟨.pa 0x40000000000, [1#8], none, 0, none, false, 0⟩]
    ∧ ((tStores (some (0, 0))).thread (tKey 0)).storeQ = [⟨.pa 0x40000000000, [1#8], none, 0, some (0, 0), false, 0⟩]
    ∧ (tSent.thread (tKey 0)).storeQ = [⟨.pa 0x40000000000, [1#8], none, 0, some (0, 0), true, 0⟩]
    ∧ (tMem.thread (tKey 0)).storeQ = [] := by decide +kernel

/-- A sub-warp parked by lane 0 of a slot of the worker stand on a software trap, under number 0 and generation 1. -/
def tParked : Parked :=
  { num := 0, gen := 1, code := 0x17, dfr := false, info := 0, page := 0, hyp := false, dest := ⟨0x1000, 1⟩, mark := none, seq := some 0, arrival := 0,
    lanes := [⟨0, 16384 * 8192, 0, 0, 0, none, 0⟩] }

/-- Its handle, in slot 1 of core 0. -/
def tHandle : Word := BitVec.ofNat 32 (2 ^ 15 + 2 ^ 24)

/-- The handler stand of function 1 in slot 0 of core 0, its threads' selection at the parked sub-warp in slot 1: V4 holds its
handle, V12 a pointer into page 1. -/
def tHandler : State :=
  let h := tRegsAt 1 { tStand with grid := 0 } (fun l => [(4, tHandle), (12, BitVec.ofNat 32 (0x10000 + 0x40 * l))])
  { h with
    stands := h.stands ++ [(8192, tStand)]
    threads := (h.threads ++ [(16384 * 8192, { (Thread.start 8192 0 0 ⟨0x1000, 0⟩ [] 0) with status := .parked })]).mapVals
      (fun _ (t : Thread) => { t with psel := tHandle })
    slots := [(0, { Slot.empty with stand := 1, lanes := [(0, 16384), (1, 16385)] }),
      (1, { Slot.empty with stand := 8192, lanes := [(0, 16384 * 8192)], parked := [tParked] }),
      (mgmtSlot, { Slot.empty with stand := 8191, lanes := [(0, mgmtThread)] })]
    cores := [(0, { Core.empty with tlb := tTlb })] }

/-- The management core's thread issues an instruction at 0x1000; V4 names a ring register. -/
def tMgmt : State :=
  { State.reset with
    threads := [(mgmtThread, Thread.start 8191 0 0 ⟨0x1000, 0⟩ [(4, 0), (6, 3)] 0)]
    cur := ⟨mgmtCore, 0, 0, [0], 0x1000, 0, 0, 0x1010, 0x1008⟩ }

/-- The worker stand with an address in V4. -/
def tCtl : State := tRegs tStand (fun _ => [(4, 0x2000), (6, 3)])

/-- Format G under P7 and nothing else. -/
def tG0 : GFmt := { tG with d := 0, a := 0, b := 0 }

/-- Format S under P7 and nothing else. -/
def tS0 : SFmt := { tS with d := 0, a := 0 }

/-- No flow fault on either lane, and targets in range. -/
def flowOk (s : State) (t : Int) (srcs : List Src) : Bool :=
  (targetFlt t).isNone && [0, 1].all (fun l => (s.flowFlt 7 (s.curSlot.srcLabel srcs) l).isNone)

/-- ControlTransfers: direct and indirect, with and without a link; and a regroup. -/
theorem witness_ControlTransfers :
    (actsOk tWarp (.bra { tI with d := 0 }) [] && actsOk tWarp (.call tI) [] && flowOk tWarp (tWarp.cur.hdr + 16) []
      && actsOk tCtl (.brx { tG0 with a := 4 }) [.v 4 2] && actsOk tCtl (.callx { tG0 with d := 8, a := 4 }) [.v 4 2]
      && actsOk tCtl (.ret { tG0 with a := 4 }) [.v 4 2] && flowOk tCtl 0x2000 [.v 4 2]
      && actsOk tWarp (.rgrp { tI with d := 10, sel := 1 }) [.p 1]) = true := by decide +kernel

/-- The worker stand with one operation outstanding on token 0 of each lane. -/
def tTokens : State := { tWarp with threads := tWarp.threads.mapVals (fun _ t => t.setSb 0 { Token.zero with count := 1 }) }

/-- ExitsAndJoinPoints: lanes that end, and lanes with an operation outstanding. -/
theorem witness_ExitsAndJoinPoints :
    (actsOk tWarp (.exit tG0) [] (fun l => !(tWarp.lane l).outstanding)
      && actsOk tTokens (.exit tG0) [] (fun l => (tTokens.lane l).outstanding) && actsOk tWarp (.jset { tG0 with d := 15, a := 1 }) []
      && actsOk tWarp (.jwait { tG0 with d := 3 }) [] && actsOk tWarp (.jclr { tG0 with d := 3 }) []) = true := by decide +kernel

/-- The worker stand on a quadrant whose debug unit is armed. -/
def tArmed : State := { tWarp with mmio := [(dbgAt 0 0x40, 1)] }

/-- PlainControl: CHK of a register and of a predicate, HALT on the management core, DBGBRK with the unit armed and not. -/
theorem witness_PlainControl :
    (runsOk tWarp 7 [0, 1] (.nop tG0) && actsOk tWarp (.chk { tG0 with a := 4 }) [.v 4 1]
      && actsOk tWarp (.chk { tG0 with a := 4, sel := 1 }) [.p 4] && actsOk tWarp (.yield tG0) [] && actsOk tWarp (.trig tS0) []
      && runsOk tMgmt 7 [0] (.halt tS0) && (tMgmt.raiseTok 7 [] 0).isNone && actsOk tWarp (.dbgbrk tS0) []
      && tWarp.field (dbgAt 0 0x40) 0 1 = 0 && actsOk tArmed (.dbgbrk tS0) [] && tArmed.field (dbgAt 0 0x40) 0 1 = 1
      && !tArmed.onMgmt && actsOk tWarp (.mark { tS with imm := 3 }) [.v 4 1]) = true := by decide +kernel

/-- StatusReads, but for MSTAT (witness_MatrixSetup): user, supervisor and management registers. -/
theorem witness_StatusReads :
    (actsOk tWarp (.elect { tG0 with d := 3 }) [] && actsOk tWarp (.srd { tS with a := 0 }) []
      && actsOk tHandler (.srd { tS with a := 0, imm := 0x100 }) [] && runsOk tMgmt 7 [0] (.srd { tS with a := 0, imm := 0x8000 })
      && actsOk tWarp (.profrd { tS with a := 0 }) [] && actsOk tWarp (.xtest { tY with a := 0, b := 0 }) []
      && actsOk tWarp (.rtest { tY with a := 0, b := 0 }) [] && actsOk tWarp (.lbrd { tG0 with d := 8, a := 4 }) [.v 4 1]) = true := by
  decide +kernel

/-- SpecialWrites: each clause, the first and the last register of a range among them. -/
theorem witness_SpecialWrites :
    (actsOk tWarp (.swr { tS with d := 0, imm := 0x0A }) [.v 4 1] (fun l => ((tWarp.lane l).reg 4).toNat % 8 = l + 1)
      && [0x103, 0x106, 0x10F, 0x111].all (fun n => actsOk tHandler (.swr { tS with d := 0, imm := n }) [.v 4 1])
      && [0x100, 0x101, 0x112, 0x1C0].all (fun n => tHandler.specialWords n != 0
        && actsOk tHandler (.swr { tS with d := 0, imm := BitVec.ofNat 16 n }) [.v 4 (tHandler.specialWords n)])
      && [0x8000, 0x8001, 0x8002].all (fun n => runsOk tMgmt 7 [0] (.swr { tS with d := 0, imm := n }))
      && (tMgmt.raiseTok 7 [.v 4 2] 0).isNone) = true := by decide +kernel

/-- TokenWaits: no operation outstanding, with and without TRAP; and one outstanding in each lane. -/
theorem witness_TokenWaits :
    let f : YFmt := { tY with a := 0, b := 0 }
    (actsOk tWarp (.xwait f) [] (fun l => ((tWarp.lane l).sb 0).count = 0 && ((tWarp.lane l).sb 0).code = 0)
      && actsOk tWarp (.xwait { f with d := 0, sel := 8 }) [] && actsOk tTokens (.xwait { f with d := 0, sel := 8 }) []
      && [0, 1].all (fun l => ((tTokens.lane l).sb 0).count != 0)) = true := by decide +kernel

/-- TrapsAndReturns, and ExceptionReturn of a sub-warp that a placed stand holds. -/
theorem witness_TrapsAndReturns :
    (actsOk tWarp (.trap { tS0 with imm := 255 }) [] && actsOk tHandler (.iret tS) [.v 4 1] && (match tHandler.findSub tHandle with
      | some b => !b.saved && b.sub = tParked && tHandler.vfOf b.stand = 1
      | none => false)) = true := by decide +kernel

/-- A stand that the scheduler saved, with the same sub-warp in the slot it held. -/
def tSaved : State :=
  { tHandler with
    stands := [(1, { tStand with grid := 0 }), (8192, { tStand with
      saved := some ⟨[(1, { Slot.empty with stand := 8192, lanes := [(0, 16384 * 8192)], parked := [tParked] })], [], []⟩ })]
    slots := [(0, { Slot.empty with stand := 1, lanes := [(0, 16384), (1, 16385)] })] }

/-- ExceptionReturn of a sub-warp that a saved stand holds. -/
theorem witness_ExceptionReturn :
    (match tSaved.findSub tHandle with
    | some b => b.saved && b.sub = tParked
    | none => false) = true ∧ (tParked.lanes.map (·.thread)).Nodup := by decide +kernel

/-- WatchpointsAndTranslations: a thread's and a grid's watchpoint, one page and all. -/
theorem witness_WatchpointsAndTranslations :
    let ok : State → Nat → List Nat → Ans Unit × State := fun s _ _ => (.ok (), s)
    let one : SFmt := { tS0 with a := 12 }
    let v := tHandler.vfOf tHandler.curStand
    (actsOk tWarp (.wpset { tS with d := 0 }) [.v 4 4] && actsOk tWarp (.wpclr tS0) []
      && groupOk tWarp (.wpset { tS with d := 0, imm := 4 }) [.v 4 4] [] ok && groupOk tWarp (.wpclr { tS0 with imm := 4 }) [] [] ok
      && [one, { tS0 with sel := 1 }].all (fun f => groupOk tHandler (.tlbi f) (tlbiSrcs f) [] (State.tlbiCheck f)
        && !(tHandler.pastTranslation 0 v ((tTlb.filter (tlbiHits f v ((tHandler.lane 0).regNat f.ra 2 % 2 ^ 56 / 0x10000))).flatMap
          (tHandler.framesOf 0))))) = true := by
  decide +kernel

/-- RingAndContext: the ring on the management core, the context of a parked thread on the handler. -/
theorem witness_RingAndContext :
    (runsOk tMgmt 7 [0] (.crrd tS) && runsOk tMgmt 7 [0] (.crwr tS) && (tMgmt.raiseTok 7 [.v 4 1, .v 8 2] 0).isNone
      && groupOk tHandler (.ctxsv { tS with a := 12 }) [.v 12 2] [] (fun s l _ => s.ctxCheck { tS with a := 12 } true l)
      && groupOk tHandler (.ctxld { tS with a := 12 }) [.v 12 2] [] (fun s l _ => s.ctxCheck { tS with a := 12 } false l)
      && (tHandler.selLane 1 (tHandler.lane 0).sel).isSome) = true := by decide +kernel

/-- Launching: a record in memory; the handle of a child that runs, and one that names none. -/
def tChild : State :=
  { tMem with grids := [(1, tGrid), (3, { tGrid with parent := 1 })] }

theorem witness_Launching :
    (runsOk tMem 7 [0, 1] (.launch { tS with a := 12 }) && passOk tMem (State.launchCheck { tS with a := 12 } tMem.unjoined [0, 1]) [0, 1]
      && completesOk tChild (.join { tS with a := 6 }) (State.joinCheck { tS with a := 6 })
      && completesOk tChild (.join tS) (State.joinCheck tS)) = true := by decide +kernel

/-- A compact addition V8 = V4 + V6 under P7. -/
def tPair : CFmt := { cop := 0, gn := 0, gp := 7, d := 8, a := 4, b := 6, ib := 0, ty := 0, c := 0, rsv := 0 }

/-- PairWords: a legal pair, a pair with one destination, and a pair that no lane executes. -/
theorem witness_PairWords :
    let y : CFmt := { tPair with d := 9, b := 5 }
    let a := compactAlu tPair tWarp.rmode
    let b := compactAlu y tWarp.rmode
    (pairOk tPair y a b && (a.bad 256).isNone && (b.bad 256).isNone && tWarp.quota = 256 && tWarp.ordered
      && tWarp.execLanes a.gn a.gp = [0, 1] && !(pairOk tPair { y with d := 8 } a (compactAlu { y with d := 8 } tWarp.rmode))
      && (tWarp.execLanes 0 0).isEmpty) = true := by decide +kernel

/-- The worker warp with V4 poisoned in lane 1 alone. -/
def tPoison : State := tWarp.updLane 1 (fun t => t.poisonReg 4 77)

/-- PoisonAndLabels: a lane that carries poison and one that does not. -/
theorem witness_PoisonAndLabels :
    (match tPoison.registerOp (.add tG2) with
    | some op => tPoison.ordered && (op.bad tPoison.quota).isNone && tPoison.execLanes op.gn op.gp = [0, 1]
        && (op.token (tPoison.lane 0)).isNone && (op.token (tPoison.lane 1)).isSome
    | none => false) = true := by decide +kernel

/-- ExceptionEntry, on a worker and on the management core. -/
theorem witness_ExceptionEntry :
    let f := Flt.plain 0x17 5
    (tWarp.ordered && !tWarp.onMgmt && tMgmt.ordered && tMgmt.onMgmt && !f.stop && f.code != 0x0B) = true
    ∧ List.Sublist [1] tWarp.cur.lanes ∧ List.Sublist [0] tMgmt.cur.lanes := by decide +kernel

/-- GuardsAndFaults: no executing lane, an illegal form of ADD, an unassigned word, and each privileged instruction. -/
theorem witness_GuardsAndFaults :
    ((match tWarp.useOf (.add { tG2 with gp := 0 }) with
    | some u => (tWarp.execLanes u.gn u.gp).isEmpty
    | none => false)
    && (match tWarp.useOf (.add { tG2 with c := 1 }) with
    | some u => u.bad.isSome && tWarp.execLanes u.gn u.gp = [0, 1] && !tWarp.onMgmt
    | none => false)
    && tWarp.ordered && tWarp.execLanes ((0x0601C00000000000#64).extractLsb' 49 1) ((0x0601C00000000000#64).extractLsb' 46 3) = [0, 1]
    && (tWarp.execLanes ((0x0600000000000000#64).extractLsb' 49 1) ((0x0600000000000000#64).extractLsb' 46 3)).isEmpty
    && !(isHandler tWarp.curStand)) = true := by decide +kernel

/-- A configuration block: A and B are BF16, two rows, KLEN 2. -/
def tCfg : Nat := 0x22 + 2 ^ 16 + 2 * 2 ^ 64

/-- An epilogue block: F32 output of two columns, no activation. -/
def tEp : Nat := 1 + 2 ^ 7 + 2 ^ 23

/-- A shape record of one input pixel, one filter tap and one output pixel. -/
def tShape : Nat := 1 + 2 ^ 16 + 2 ^ 32 + 2 ^ 48 + 2 ^ 56 + 2 ^ 64 + 2 ^ 72 + 2 ^ 96 + 2 ^ 104

/-- Matrix state that the worker stand has claimed and configured. -/
def tMatrix : Matrix :=
  { Matrix.empty with owner := some 8192, cfg := some ⟨BitVec.ofNat 512 tCfg, 0⟩, blocks := [(0, ⟨BitVec.ofNat 512 tEp, 0⟩)] }

/-- The worker stand with that state: V4 points at the configuration block, V6 at the epilogue block, V8 at the shape record, V10 at
zeros, all in the scratchpad; V12 into page 1. -/
def tMx : State :=
  { tRegs { tStand with sp := tBytes 0x1000 12 tCfg (tBytes 0x1400 4 tEp (tBytes 0x1800 14 tShape [])) }
      (fun l => [(4, 0x1000), (6, 0x1400), (8, 0x1800), (10, 0x1C00), (12, BitVec.ofNat 32 (0x10000 + 0x40 * l))]) with
    quads := [(0, { Quad.empty with matrix := tMatrix })]
    cores := [(0, { Core.empty with tlb := tTlb })] }

/-- Format X under P7 and nothing else. -/
def tX0 : XFmt := { tX with d := 0, a := 0, b := 0 }

/-- MatrixSetup and MSTAT: legal blocks and an illegal one, and the conditions of each instruction. -/
theorem witness_MatrixSetup :
    let c : Block := ⟨BitVec.ofNat 512 tCfg, 0⟩
    let m : XFmt := { tX0 with a := 4, sel := 8 }
    let e : XFmt := { tX0 with a := 6, sel := 8 }
    let w : XFmt := { tX0 with a := 10, macs := 1, sel := 8 }
    let r : XFmt := { tX0 with a := 12, b := 16, macs := 1 }
    (groupOk tMx (.mcfg m) [XFmt.blockSrc m] [] (State.mcfgCheck m) && groupOk tMx (.epcfg e) [XFmt.blockSrc e] [] (State.epcfgCheck e)
      && c.cfgOk true && !(Block.cfgOk ⟨2 ^ 15, 0⟩ true) && Block.epOk ⟨BitVec.ofNat 512 tEp, 0⟩ && !(Block.epOk ⟨0, 0⟩)
      && groupOk tMx (.wload w) [XFmt.blockSrc w] [] (State.wloadCheck w)
      && groupOk tMx (.wclr { tX0 with macs := 15 }) [] [] State.wclrCheck && runsOk tMx 7 [0, 1] (.mdrain tX0) && tMx.engineIdle
      && actsOk tMx (.mstat { tX0 with d := 16 }) [] && runsOk tMx 7 [0, 1] (.wloadr r) && tMx.mx.cfg = some c
      && passOk tMx (State.wloadrCheck r c ((tMx.lane 0).reg 16).toNat) [0, 1]
      && runsOk tMx 7 [0, 1] (.mrdacc { tX0 with d := 16, b := 6 }) && actsOk tMx (.mwracc { tX0 with a := 16, b := 6 }) []
      && (tMx.accFault tX0).isNone) = true := by decide +kernel

/-- The hypotheses of MatrixMultiplies hold of a form. -/
def multiplyOk (i : XFmt → Instr) (k : MKind) (f : XFmt) : Bool :=
  runsOk tMx 7 [0, 1] (i f) && [0, 1].all (fun l => (tMx.groupTok 7 (XFmt.mmaSrcs f k) [] (l = 0) l).isNone)
    && isOk (State.mmaCheck f k tMx 0 [0, 1]).1 && !(tMx.accepting [0, 1])

/-- MatrixMultiplies: A in memory and in the scratchpad, with an epilogue and without. -/
theorem witness_MatrixMultiplies :
    let f : XFmt := { tX0 with a := 10, macs := 1, sel := 2 }
    (multiplyOk .mma .mma { f with a := 12, sel := 0 } && multiplyOk .mma .mma f && multiplyOk .mma .mma { f with d := 32, sel := 18 }
      && multiplyOk .mmasp .mmasp f && multiplyOk .mconv .mconv { f with a := 8, b := 12 }
      && multiplyOk .mmar .mmar { f with a := 16, sel := 0 }) = true := by decide +kernel

/-- An integer configuration, whose accumulator is the I32 of MatrixSums. -/
theorem witness_MatrixSums : Block.accFmt ⟨BitVec.ofNat 512 (0x100 + 0x33), 0⟩ = none ∧ keptRank 5 2 2 = some 1 := by decide +kernel

/-! A grid of two sites with a route between them, a port circuit, destinations and records -/

/-- A register of a port's circuit: enabled, of function 1, with peer 7. -/
def tCircuit : Double := BitVec.ofNat 64 (1 + 2 ^ 10 + 7 * 2 ^ 16)

/-- The worker stand on site 0 of a grid of two sites whose route 0 goes one site east; message 1 waits on circuit 1. Function 1 has
destination 0 on port 0, whose circuit 0 serves it, and a release destination 0 of kind 1. In both lanes V4 points into the scratchpad, at
a kick list of one entry; V8 elsewhere there; V10 holds 1; V6 and V7 a length of 64 and no tag; V20 to V23 a length, a tag, a record and zero. -/
def tNet : State :=
  let entry : Nat := 0x1000 + 0x4000 * 2 ^ 64 + 64 * 2 ^ 128 + 2 ^ 152 + 2 ^ 154
  let st : Stand := { tStand with
    sp := tBytes 0x2000 32 entry []
    circuits := [(1, ⟨[], [⟨1, List.replicate 32 5, 3, 0⟩]⟩)] }
  let r := tRegs st (fun _ => [(4, 0x1000), (6, 64), (8, 0x4000), (10, 1), (12, 0x2000), (20, 64), (22, 0x3000)])
  { r with
    stands := r.stands ++ [(8193, { tStand with num := 1, core := 1 })]
    grids := [(1, { tGrid with rcd := 2 ^ 320, routes := [(0, BitVec.ofNat 512 (1 + 2 ^ 8))] })]
    mem := tBytes 0x500000 16 0x80 (tBytes 0x600000 16 5 [])
    mmio := [(circuitAt 0 0, tCircuit), (ctxAt 1 0x20, 0x500000), (ctxAt 1 0x38, 0x600000)] }

/-- tMem with its host cores released, and line 0x4000 owned by cluster 1. -/
def tHost : State := { tMem with hostHeld := false, lines := [(lineKey 1 0x4000, .m), (lineKey 2 0x4001, .s)] }

/-- A window store of cluster 3 in transmission, a thread that waits on a device word, and a linked barrier whose stand is complete. -/
def tWaits : State :=
  { tMem with
    windowMsgs := [⟨3, 1, 0, tKey 0, 0x40000000000 + 3 * 0x4000000, [1#8], none, 0⟩]
    stands := [(8192, { tStand with
      barriers := [(0, ⟨0, 1, 1, false, some ⟨2, 0x1000000, false, false⟩, []⟩)]
      dcBuf := [⟨tKey 0, 0, 0, .pa 0x1000000, [1#8], 0⟩] })]
    threads := (tMem.updThread (tKey 1) (fun t => t.sleep (.word 5 true))).threads
    timeouts := [(timeoutKey (.host 4) 9, 1)] }

/-- A register write by the management core. -/
def wrote (s : State) (pa : Nat) (v : Double) : State := { s with stim := { s.stim with write := ⟨pa, v, .mgmt, 0⟩ } }

/-- MemoryEvents, clause by clause. -/
theorem witness_MemoryEvents :
    (tHost.isLine 5 && (tHost.moesi 0 5).isNone && tHost.moesi 2 0x4001 = some .s && tHost.moesi 1 0x4000 = some .m
      && (match tWaits.windowMsgs.find? (fun x => x.cluster = 3) with
        | some m => !(tWaits.partialBad (.pa m.pa) m.bytes.length)
        | none => false)
      && (tWaits.dcDue 8192).isSome
      && (match tWaits.stands.get? 8192 with
        | some st => (match st.barriers.get? 0 with
          | some x => x.linkDue && x.link.isSome
          | none => false)
        | none => false)
      && (tWaits.thread (tKey 1)).wait = .word 5 true && (tWaits.threads.get? (tKey 1)).isSome
      && tHost.hostStarts.hostRuns 95 && tHost.hostRuns 95 && tHost.exists? 0x1000 && tHost.exists? (0x1000 + 8 - 1) && !(tHost.hostBarred 95 0x1000) && !(isDevice 0x1000)
      && !(tHost.partialBad (.pa 0x1000) 8) && (wrote tHost (portAt 0) 0x10).wrAllowed && tHost.isDram (0x10 * 0x10000)
      && Memory.wf tHost.mem && (tWaits.timeouts.get? (timeoutKey (.stand 8192) 9)).isNone
      && tWaits.timeouts.get? (timeoutKey (.host 4) 9) = some 1) = true := by decide +kernel

/-- An operation of the matrix engine that the lanes of the worker stand issued. -/
def tOp : MOp where
  kind := .mma
  stand := 8192
  cur := tMx.cur
  lanes := [(0, tKey 0), (1, tKey 1)]
  label := 0
  tok := none
  cfg := ⟨BitVec.ofNat 512 tCfg, 0⟩
  eblock := none
  dreg := 32
  acc := 0
  macs := [0]
  clear := true
  accepted := 0
  last := 2
  final := true
  rows := []
  ptr := 0x1C00
  own := true
  shape := 0
  p0 := 0
  k0 := 0
  areg := 0
  wkind := 0
  sources := []
  svec := []
  bvec := []
  velabel := 0
  dest := []
  lines := []

/-- tMx with operations in its queue. -/
def tQueued (os : List MOp) : State := { tMx with quads := [(0, { Quad.empty with matrix := { tMatrix with queue := os } })] }

/-- A row of A. -/
def tRow : ARow := ⟨1, [0, 0], [], 0, none⟩

/-- MatrixRows: the last row, and one that is not; and the engine's steps of EngineEvents: a load with an operation after it, a row
taken, and an epilogue into registers. -/
theorem witness_MatrixEngine :
    let o := { tOp with accepted := 2, rows := [tRow] }
    let s := tQueued [tOp]
    let s0 := { s with cur := tOp.cur }
    let w := s0.who (tKey 0) 8192 0
    (((tQueued [o]).quadAt 0).matrix.queue = [o] && ((tQueued [{ o with rows := [tRow, tRow] }]).quadAt 0).matrix.queue.length = 1
      && o.kind != .wload && (s.quadAt 0).matrix.queue.find? (fun o => o.accepted < o.last) = some tOp && s.lanesThere tOp
      && (match s0.fetchScales tOp w 0 with
        | (.ok g, s1) => !g.2.2 && (match s1.fetchRow tOp w 0 with
          | (.ok a, _) => !a.bad
          | _ => false)
        | _ => false)
      && ((tQueued [{ tOp with kind := .wload }, tOp]).quadAt 0).matrix.queue.length = 2
      && !(Block.toMem ⟨BitVec.ofNat 512 tEp, 0⟩)) = true := by decide +kernel

/-- A copy into the scratchpad with a byte left, and one with nothing left. -/
def tCopy (ms : List Move) : Command :=
  ⟨.copy, 1, 8192, [tKey 0], 0, ms, 0, [], 0, 0, 0, 0, false, 0, 0, none, 0⟩

/-- A receive that a burst of 64 bytes has met. -/
def tRecv (got : Option Nat) : Command :=
  ⟨.recv, 1, 8192, [tKey 0], 0, [⟨[], [], none, [⟨.sp 8192 0x1000, 64, none⟩], [], none, 64, 0⟩], 0, [64], 0, 0, 5, 64, false, 0x3000, 0, got, 0⟩

/-- A burst. -/
def tBurst (sent : Bool) : Burst := ⟨1, 0, 0, 0, 7, 5, [1#8], [tKey 0], 0, 0, sent, 0, 0⟩

/-- The net with a copy, a finished copy, a post, a met post, a queued burst and a sent one; port 0's wavelengths are trained. -/
def tEngines : State :=
  { tNet with
    commands := [(1, tCopy [⟨[⟨.sp 8192 0x1000, 1, none⟩], [], none, [⟨.sp 8192 0x2000, 1, none⟩], [], none, 1, 0⟩]), (2, tCopy []),
      (3, tRecv none), (4, tRecv (some 64))]
    bursts := [(5, tBurst false), (6, tBurst true)]
    portQueues := [(0, [5])]
    mmio := [(circuitAt 0 0, tCircuit), (ctxAt 1 0, 1), (ctxAt 1 0x20, 0x500000), (portAt 0 + 8, 9)]
    ringRegs := (List.range 11).map (fun i => (1024 * 64 + i, 0x10)) }

/-- EngineEvents but for the matrix engine: a copy with a piece left and one without, a burst queued and sent, one that finds a post and
one that finds no circuit, a met post, a reset notice, a circuit's close, and a port with a trained spare and a promise that has lapsed. -/
theorem witness_EngineEvents :
    let s := tEngines
    let w := wrote s (circuitAt 0 0) 0
    ((match s.commands.get? 1 with
      | some c => (match c.moves with
        | m :: _ => c.kind = .copy && m.far.isNone && m.tba.isNone && !m.dst.isEmpty && !(s.moveBytes c m ⟨.sp 8192 0x2000, 1, none⟩ 1 []).1.2.2
        | [] => false)
      | none => false)
      && (s.commands.get? 2).map (fun c => (c.kind, c.moves)) = some (.copy, [])
      && s.portQueues.getD 0 [] = [5] && s.portUp 0 && (s.bursts.get? 5).isSome && (s.bursts.get? 6).map (·.sent) = some true
      && s.portCircuit 0 (fun i => s.field (circuitAt 0 i) 16 16 = 7) = some 0
      && s.portCircuit 0 (fun i => s.field (circuitAt 0 i) 16 16 = 8) = none
      && s.vfEnabled (s.field (circuitAt 0 0) 0 10)
      && (s.commands.find? (fun p => p.2.kind = .recv && p.2.vf = 1 && p.2.tag = 5 && p.2.got.isNone && [1#8].length ≤ p.2.len)).isSome
      && (s.commands.get? 4).map (fun c => (c.kind, c.got)) = some (.recv, some 64)
      && w.wrAllowed && (w.wr.pa - 0x080400000000) / 0x200 < 96
      && (let s1 := s.untrain 0 (s.laneMap 0 8)
        (s1.portSpare 0 (fun wl => s1.trained (64 + 0) wl)).isSome)
      && s.lapsed 0) = true := by decide +kernel

/-- Function 1 enabled in partition 0, which owns site 0 and its banks; a stage-two map of the first GiB onto itself; trap queue at 0x730000. -/
def tPart : State :=
  { tMem with
    cycles := 1000000
    mgmt := { tMem.mgmt with mstate := 6 }
    mem := tBytes 0x700000 8 0x710003 (tBytes 0x710000 8 0xDD [])
    mmio := [(sownAt 0, 0), (ctxAt 1 0, 0x400001), (ctxAt 1 0x10, 0x700000), (ctxAt 1 0x30, 0x10000000), (featAt 0x40, 2), (supAt 1 0x100, 0x730001)] }

/-- tPart with other stands and launches. -/
def tWith (sts : Table Stand) (gs : Table Grid) : State := { tPart with stands := sts, grids := gs }

/-- A stand that has not started. -/
def tNew : Stand := { tStand with started := false, chosen := false }

/-- The launch of one stand on site 0 while it waits; bit 348 pins it. -/
def tWaiting (pinned : Bool) : Grid := { tGrid with state := .waiting, rcd := if pinned then 2 ^ 348 else 0 }

/-- A trap record of the worker stand. -/
def tRec : TrapRec := ⟨0x17, false, 0, 0, 1, 8192, 0, false, false, 1, 0, 0, 0, 1, 1, [], none, 0⟩

/-- The stand with 32 threads to be formed, one about to be saved, with a record to be written, and one saved and chosen to return. -/
def tForm : State := tWith [(8192, { tStand with stages := [{ tStage with threads := 32 }], pending := (List.range 32).map (fun t => (0, t)) })] [(1, tGrid)]
def tLeaving (recs : List TrapRec) : State :=
  { tWith [(8192, { tStand with savePending := true })] [(1, tGrid)] with cores := [(0, { Core.empty with open4 := recs })] }
def tBack : State := tWith [(8192, { tStand with saved := some ⟨[], [], []⟩ })] [(1, tGrid)]

/-- A launch of a gang of two whose first member started at cycle 0 and whose second has no room, and the like of it in its way. -/
def tGang (e : List Nat) : Grid := { tGrid with rcd := 2 ^ 320 + 2 ^ 349, expired := e, firstStart := [(0, 0)], lack := [(0, 0), (1, 0)] }
def tBig (g n c : Nat) (on : Bool) : Stand := { tStand with grid := g, num := n, core := c, areaA := 2 ^ 20, started := on, chosen := on }
def tGangs (e : List Nat) : State :=
  { tWith [(8192, tBig 1 0 0 true), (8193, tBig 1 1 1 false), (16384, tBig 2 0 0 false), (16385, tBig 2 1 1 true)] [(1, tGang e), (2, tGang e)] with
    mmio := tPart.mmio.insert (sownAt 1) 0 }

/-- Function 1 time-sliced, resident, its turn over. -/
def tSlice : State :=
  { tWith [(8192, tStand)] [(1, tGrid)] with
    functions := [(1, { Function.empty with inTurn := true, turnEnd := 5 })]
    mmio := (tPart.mmio.insert (ctxAt 1 0) 0x400003).insert (pctlAt 0) (BitVec.ofNat 64 (1 + 2 ^ 32 + 2 ^ 42)) }

/-- SchedulingEvents: forming a warp, a launch from a host, its claim pinned and not, placing, starting and ending. -/
theorem witness_Launches :
    ((leastBy (fun f => 2 ^ 64 - oldest f.ws) (tForm.forming 0)).isSome && !(tForm.openSlots 0).isEmpty
      && tPart.launchOpen 1 && tPart.gridsIn (tPart.vfPart 1) tPart.handleLive < 4096
      && [true, false].all (fun p => let s := tWith [] [(1, tWaiting p)]
        let g := tWaiting p
        g.pinned == p && s.inPartition (s.vfPart g.vf) g.x0 g.y0 g.width g.height && s.choosePosition 1 g = some (0, 0)
          && !(s.mtxBlocked g 0 0) && (s.loadRoutes g).isSome && !(s.linksFull g) && g.fail.isNone && g.deps.all (s.depMet g.vf))
      && (let s0 := ((tWith [(8192, tNew)] [(1, tGrid)]).beginTurns 0).preemptFor 0
        !(s0.stands.any (fun z => z.2.chosen && !z.2.exited && s0.vfPart z.2.vf = 0))
          && (leastBy (fun z => z.2.placeKey z.1) ((s0.waitingStands 0).filter (fun z => s0.hasRoom z.1))).isSome)
      && (tWith [(8192, { tStand with exited := true })] [(1, tGrid)]).gridDone 1) = true := by decide +kernel

/-- SchedulingEvents: the patience of a gang, a cycle of gangs, and the end of a turn. -/
theorem witness_Gangs :
    ((match (tGangs []).grids.get? 1 with
    | some g => 2 ≤ g.gang && !(g.expired.contains 0) && g.fail.isNone && (tGangs []).gangAge g 0 g.patience
        && !(((tGangs []).members 1 g 0).all (fun p => p.2.started))
    | none => false)
    && (match ((tGangs [0]).stuckGangs 0).find? (fun x => ((tGangs [0]).waitsFor x).isSome) with
    | some x => (leastBy (fun y => 2 ^ 64 - (y.1 * 8192 + y.2))
        ((tGangs [0]).stuckReach (((tGangs [0]).stuckGangs 0).length + 1) [x])).any (fun y => ((tGangs [0]).grids.get? y.1).isSome)
    | none => false)
    && !(tSlice.switching 0) && tSlice.curOf 0 = some 1 && tSlice.turnOver 0 1 && (tSlice.nextTaker 0 2).isSome) = true := by decide +kernel

/-- SchedulingEvents: a save with nothing to wait for, and a restore. -/
theorem witness_Saves :
    let s := tLeaving []
    let d (x : State) : Bool := match x.stands.get? 8192 with
      | some st => !(x.saveDeferred st) && !st.stuckFrozen
      | none => false
    let s1 := (List.range 4).foldl (fun s q => s.interruptAll 8192 q 64) s
    let s3 := ((s1.threads.filterMap (fun p => if p.2.stand = 8192 then some p.1 else none)).foldl State.drainQ s1).withdrawPosts 8192
    (d s && d tBack && (match s3.stands.get? 8192 with
    | some st => !st.exited && !(s3.saveWaits 8192 st) && (s3.saveFault st true).isNone
    | none => false)
    && (match tBack.stands.get? 8192 with
    | some st => st.saved.isSome && st.chosen && (tBack.saveFault st false).isNone && !(tBack.saveBad st)
    | none => false)) = true := by decide +kernel

/-- SchedulingEvents: a record that is due, since its stand is about to be saved, and that its queue takes. -/
theorem witness_TrapRecords :
    ((tLeaving [tRec]).coreAt 0).open4.find? ((tLeaving [tRec]).trapDue 0) = some tRec
    ∧ (match (tLeaving [tRec]).queueFor tRec with
      | .takes _ _ _ => true
      | _ => false) = true := by
  refine ⟨?_, by decide +kernel⟩
  have h : (tLeaving [tRec]).trapDue 0 tRec = true := Bool.or_eq_true_iff.mpr (.inr (by decide +kernel))
  show List.find? _ [tRec] = _
  rw [List.find?_cons, h]

/-- A debug register written, with its quadrant stopped or not. -/
def tDebug (st : Option StopRec) : State :=
  wrote { tPart with quads := [(0, { Quad.empty with stopped := st })] } (dbgAt 0 0x40) 5

/-- SchedulingEvents: a stop request and a resume. -/
theorem witness_Debug :
    ((tDebug none).isQdbg && ((tDebug none).writeQdbg.quadAt (qdbgQuad (tDebug none).wr.pa)).stopped.isNone
      && (tDebug (some ⟨0, 0, 0, 0, 0, [], []⟩)).isQdbg
      && ((tDebug (some ⟨0, 0, 0, 0, 0, [], []⟩)).quadAt (qdbgQuad (tDebug none).wr.pa)).stopped.isSome
      && !(bit (tDebug none).wr.value.toNat 1)) = true := by decide +kernel

/-- Partition 0, enabled, with a function of it that is not, and the write that enables it. -/
def tEnable : State := wrote { tPart with mmio := [(pctlAt 0, 1), (ctxAt 1 0, 0x400000)] } (ctxAt 1 0) 0x400000

/-- A partition with a flume unit in every cluster and a DRAM slot. -/
def tOwned : State := wrote { tPart with mmio := (List.range 384).map (fun c => (vownAt c 8, 0)) ++ [(chwAt 0, 0)] } (pctlAt 0) 1

/-- Whether clusters 24 k to 24 k + 23 of tOwned have a unit each. -/
def tUnits (k : Nat) : Bool := (List.range 24).all (fun j =>
  (List.range 8).any (fun i => (List.range 8).any (fun b => tOwned.field (vownAt (24 * k + j) (i + 8)) (8 * b) 8 = 0)))

theorem tUnits_0 : (tUnits 0 && tUnits 1 && tUnits 2 && tUnits 3) = true := by decide +kernel
theorem tUnits_4 : (tUnits 4 && tUnits 5 && tUnits 6 && tUnits 7) = true := by decide +kernel
theorem tUnits_8 : (tUnits 8 && tUnits 9 && tUnits 10 && tUnits 11) = true := by decide +kernel
theorem tUnits_12 : (tUnits 12 && tUnits 13 && tUnits 14 && tUnits 15) = true := by decide +kernel

theorem tUnits_all (k : Nat) (h : k < 16) : tUnits k = true := by
  have h0 := tUnits_0
  have h4 := tUnits_4
  have h8 := tUnits_8
  have h12 := tUnits_12
  simp only [Bool.and_eq_true] at h0 h4 h8 h12
  obtain ⟨⟨⟨a0, a1⟩, a2⟩, a3⟩ := h0
  obtain ⟨⟨⟨a4, a5⟩, a6⟩, a7⟩ := h4
  obtain ⟨⟨⟨a8, a9⟩, a10⟩, a11⟩ := h8
  obtain ⟨⟨⟨a12, a13⟩, a14⟩, a15⟩ := h12
  match k with
  | 0 => exact a0
  | 1 => exact a1
  | 2 => exact a2
  | 3 => exact a3
  | 4 => exact a4
  | 5 => exact a5
  | 6 => exact a6
  | 7 => exact a7
  | 8 => exact a8
  | 9 => exact a9
  | 10 => exact a10
  | 11 => exact a11
  | 12 => exact a12
  | 13 => exact a13
  | 14 => exact a14
  | 15 => exact a15
  | n + 16 => omega

/-- FunctionEvents: a partition that fits. -/
theorem witness_Partition : (tOwned.wrPart = some 0 && tOwned.partFit 0) = true := by
  refine Bool.and_eq_true_iff.mpr ⟨by decide +kernel, ?_⟩
  unfold State.partFit
  refine Bool.and_eq_true_iff.mpr ⟨?_, by decide +kernel⟩
  rw [List.all_eq_true]
  intro c hc
  have hu := tUnits_all (c / 24) (by have := List.mem_range.mp hc; omega)
  unfold tUnits at hu
  rw [List.all_eq_true] at hu
  have hj := hu (c % 24) (List.mem_range.mpr (by omega))
  have e : 24 * (c / 24) + c % 24 = c := by omega
  rwa [e] at hj

/-- tHandler as a machine whose function has written a register. -/
def tResolve (pa : Nat) : State := wrote tHandler pa (tHandle.setWidth 64)

/-- The function with no handler and a page in migration; its write names core 0. -/
def tMigrating : State :=
  wrote { tPart with functions := [(1, { Function.empty with migIds := [⟨5, 0, 1, some (0, 0)⟩] })] } (supAt 1 0x101) 0

/-- A stand frozen at its save. -/
def tFrozen : State := wrote (tWith [(8192, { tStand with frozen := some ⟨false, 0x1000, 0, false⟩ })] [(1, tGrid)]) (ctxAt 1 0x80) 1

/-- The same where the sub-warp's fault is in a record still open on its core. -/
def tUnnumbered : State :=
  wrote { tHandler with
    slots := tHandler.slots.modify 1 (fun x => { x with parked := [{ tParked with seq := none }] })
    cores := [(0, { Core.empty with tlb := tTlb, open4 := [{ tRec with parks := [(1, 0, 1)] }] })] } (supAt 1 0x104) (tHandle.setWidth 64)

/-- FunctionEvents: partitions and functions enabled, a frozen save, a handler created, a migration, a sub-warp resolved. -/
theorem witness_Functions :
    (tEnable.wrVctl = some 1 && !tEnable.mgmtDown && !((tEnable.writeVctl 1 tEnable.wr.value).enableBlocked 1)
      && tFrozen.frozenVf = some 1
      && tMigrating.wrVf = some 1 && tMigrating.vfEnabled 1 && tMigrating.handlerRoom 1 0 8 0 && !(tMigrating.openSlots 0).isEmpty
      && ((tMigrating.functions.getD 1 Function.empty).migIds.find? (fun m => m.written.map Prod.fst = some 0)).isSome
      && ((tResolve (supAt 1 0x104)).wrSub.map (fun f => f.sub.seq)) = some (some 0)
      && ((tUnnumbered.wrSub.map (fun f => (f.sub.seq, tUnnumbered.recordOpen f))) = some (none, true))) = true := by decide +kernel

/-- A policy body: origin 0, one destination, of kind 1. -/
def tBody : Nat := 1 + 80 * 2 ^ 32 + 2 ^ 128 + 64 * 2 ^ 192 + 2 ^ 320 + 2 ^ 512

/-- The gate with that body at GBLOB, the keys of origin 0, one policy installed, and a release under it or under none. -/
def tGate (h : BitVec 16) : State :=
  wrote { tPart with
    mem := tBytes 0x800000 80 tBody []
    mmio := [(gateAt 8, 0x800000)]
    originKeys := [(0, [])]
    policies := [(0, ⟨0, leBytes 80 tBody, 0, 0⟩)]
    gate := [⟨1, [tKey 0], 0, [1#8, 2#8, 3#8, 4#8], 0, h, 0, 5, 0, []⟩] } (gateAt 0) 1

theorem leBytes_length (n x : Nat) : (leBytes n x).length = n := by
  induction n generalizing x with
  | zero => rfl
  | succ n ih => simp [leBytes, ih]
theorem keccakF_length (a : List Nat) (l : List Nat) (h : a.length = 25) : (l.foldl (fun a rc => keccakChi (keccakRhoPi (keccakTheta a)) rc) a).length = 25 := by
  induction l generalizing a with
  | nil => exact h
  | cons x l ih => exact ih _ (by simp [keccakChi, keccakOf])

theorem flat_length (a : List Nat) : (a.flatMap (leBytes 8)).length = 8 * a.length := by
  induction a with
  | nil => rfl
  | cons x l ih => simp [List.flatMap_cons, ih, leBytes_length]; omega

theorem absorb_length (rate n : Nat) (bs : List Byte) (a : List Nat) (h : a.length = 25) : (keccakAbsorb rate n bs a).length = 25 := by
  induction n generalizing bs a with
  | zero => exact h
  | succ n ih => exact ih _ _ (keccakF_length _ _ (by simp [h, keccakBlock]))

/-- SHAKE256 of one block of output. -/
theorem shake_length (m : List Byte) (n : Nat) (h : n < 136) : (shake256 m n).length = n := by
  have h0 : n / 136 = 0 := by omega
  have := absorb_length 136 ((shakePad 136 m).length / 136) (shakePad 136 m) (List.replicate 25 0) (by simp)
  have hf := flat_length (keccakAbsorb 136 ((shakePad 136 m).length / 136) (shakePad 136 m) (List.replicate 25 0))
  rw [this] at hf
  simp only [shake256, shake, h0, keccakSqueeze]
  rw [if_true, List.append_nil, List.length_take, List.length_take, hf]
  omega

def tDsaKey : List Byte := List.replicate 1952 0#8
/-- A signature's responses, all zero, and no hints. -/
def tDsaRest : List Byte := (List.replicate 640 [0#8, 0#8, 0x8#8, 0#8, 0x80#8]).flatten ++ List.replicate 61 0#8
def tDsaHash (m : List Byte) : List Byte := shake256 (shake256 (shake256 tDsaKey 64 ++ [0#8, 0#8] ++ m) 64 ++ List.replicate 768 0#8) 48
def tZs : List (List Nat) := List.replicate 5 (List.replicate 256 0)
theorem rest_zs : dsaResponses (List.replicate 48 0#8 ++ tDsaRest) = tZs := by decide +kernel
theorem rest_hints : dsaHints (tDsaRest.drop 3200) = some (List.replicate 6 []) := by decide +kernel

theorem timesNtt_zero (a : List Nat) : timesNtt a polyZero = polyZero := by
  rw [timesNtt, if_pos (by decide +kernel)]

theorem dsaRow_zero (seed : List Byte) (c : List Nat) (r : Nat) (t : List Nat) (h : polyScale (2 ^ 13) t = polyZero) :
    dsaRow seed tZs c t r = polyZero := by
  have hz : tZs.zip (List.range 5) = [(polyZero, 0), (polyZero, 1), (polyZero, 2), (polyZero, 3), (polyZero, 4)] := by decide +kernel
  have ha : polyAdd polyZero polyZero = polyZero := by decide +kernel
  have hs : polySub polyZero polyZero = polyZero := by decide +kernel
  have hu : unNtt polyZero = polyZero := by decide +kernel
  simp only [dsaRow, hz, List.foldl_cons, List.foldl_nil, timesNtt_zero, h, ha, hs, hu]

theorem rest_w1 (c : List Nat) : dsaW1 tDsaKey tZs c (List.replicate 6 []) = List.replicate 768 0#8 := by
  have hz : (List.replicate 6 ([] : List Nat)).zip (List.range 6) = [([], 0), ([], 1), ([], 2), ([], 3), ([], 4), ([], 5)] := by decide
  have hw : w1Bytes ((polyZero.zip (List.range 256)).map (fun x => dsaUseHint (([] : List Nat).contains x.2) x.1)) = List.replicate 128 0#8 := by
    decide +kernel
  have ht : ∀ r < 6, polyScale (2 ^ 13) (bitFields 10 256 ((tDsaKey.drop (32 + 320 * r)).take 320)) = polyZero := by decide +kernel
  simp only [dsaW1, hz, List.flatMap_cons, List.flatMap_nil, dsaRow_zero _ _ _ _ (ht _ (by decide : 0 < 6)), dsaRow_zero _ _ _ _ (ht _ (by decide : 1 < 6)),
   dsaRow_zero _ _ _ _ (ht _ (by decide : 2 < 6)), dsaRow_zero _ _ _ _ (ht _ (by decide : 3 < 6)), dsaRow_zero _ _ _ _ (ht _ (by decide : 4 < 6)),
   dsaRow_zero _ _ _ _ (ht _ (by decide : 5 < 6)), hw]
  decide +kernel
theorem drop_add {α : Type} (a b : List α) (n k : Nat) (h : a.length = n) : (a ++ b).drop (n + k) = b.drop k := by
  rw [← h, List.drop_length_add_append]

theorem dsaResponses_append (a b : List Byte) (h : a.length = 48) :
    dsaResponses (a ++ b) = dsaResponses (List.replicate 48 0#8 ++ b) := by
  unfold dsaResponses
  simp only [drop_add a b 48 _ h, drop_add (List.replicate 48 0#8) b 48 _ (by simp)]

theorem mldsa_ok (m : List Byte) : mldsaVerify tDsaKey m (tDsaHash m ++ tDsaRest) = true := by
  have hl : (tDsaHash m).length = 48 := shake_length _ 48 (by decide)
  have h1 : dsaHints ((tDsaHash m ++ tDsaRest).drop 3248) = some (List.replicate 6 []) := by
    rw [drop_add _ _ 48 3200 hl]; exact rest_hints
  have h2 : dsaResponses (tDsaHash m ++ tDsaRest) = tZs := (dsaResponses_append _ _ hl).trans rest_zs
  have h3 : (tDsaHash m ++ tDsaRest).take 48 = tDsaHash m := by rw [← hl, List.take_left]
  have h4 : tDsaKey.length = 1952 := List.length_replicate
  have h5 : (tDsaHash m ++ tDsaRest).length = 3309 := by
    rw [List.length_append, hl]; decide +kernel
  have h6 : tZs.all (fun z => z.all (fun x => coefAbs x < 2 ^ 19 - 196)) = true := by decide +kernel
  simp only [mldsaVerify, h1, h2, h3, h4, h5, h6, rest_w1]
  exact decide_eq_true rfl
/-- The neutral point's encoding, as a key and as R; S is zero. -/
def tEdKey : List Byte := 1#8 :: List.replicate 31 0#8
theorem ed_ok : ed25519Verify tEdKey (policyTitle ++ leBytes 80 tBody) (tEdKey ++ List.replicate 32 0#8) = true := by decide +kernel

/-- A body with origin 0's two signatures, from address `a` on. -/
def tSigned : List Byte := leBytes 80 tBody ++ ((tEdKey ++ List.replicate 32 0#8) ++ (tDsaHash (policyTitle ++ leBytes 80 tBody) ++ tDsaRest))

def tRun (a : Nat) : List Byte → Table Byte
  | [] => []
  | b :: bs => (a, b) :: tRun (a + 1) bs

theorem tRun_getD (bs : List Byte) (a i : Nat) : (tRun a bs).getD (a + i) 0#8 = bs.getD i 0#8 := by
  induction bs generalizing a i with
  | nil => rfl
  | cons b bs ih =>
    cases i with
    | zero => simp [tRun, Table.getD, Table.get?]
    | succ i =>
      have := ih (a + 1) i
      simp only [Table.getD] at this ⊢
      simpa [tRun, Table.get?, Nat.add_assoc, Nat.add_comm 1 i] using this

/-- The gate with that body and its signatures at GBLOB, and the keys of origin 0. -/
def tGateSigned : State := { tGate 0 with
  mem := tRun 0x800000 tSigned
  originKeys := [(0, tEdKey ++ tDsaKey)] }

theorem blob_signed (n : Nat) (h : n < 2 ^ 30) : tGateSigned.blob n = (List.range n).map (fun i => tSigned.getD i 0#8) := by
  have hg : tGateSigned.field (gateAt 8) 6 46 * 64 = 0x800000 := by decide +kernel
  simp only [State.blob, hg, State.bytesOf, Loc.plus, State.byteOf]
  refine List.map_congr_left fun i hi => ?_
  have hv : isVault (0x800000 + i) = false := by
    have := List.mem_range.1 hi
    simp only [isVault, Bool.and_eq_false_iff, decide_eq_false_iff_not]
    omega
  simp only [State.byteAt, hv, Bool.false_and, Bool.false_eq_true, if_false, rawByte]
  exact tRun_getD _ _ _

theorem range_getD (bs : List Byte) (k n : Nat) (h : k + n ≤ bs.length) (m : Nat) (hm : k + n ≤ m) :
    (((List.range m).map (fun i => bs.getD i 0#8)).drop k).take n = (bs.drop k).take n := by
  apply List.ext_getElem
  · simp; omega
  · intro i h1 h2
    simp at h1 h2 ⊢
    rw [List.getElem?_eq_getElem (by omega), Option.getD_some]

/-- The two signatures. -/
def tSigs : List Byte := (tEdKey ++ List.replicate 32 0#8) ++ (tDsaHash (policyTitle ++ leBytes 80 tBody) ++ tDsaRest)

theorem sigs_length : tSigs.length = 3373 := by
  have h2 : (tEdKey ++ List.replicate 32 0#8).length = 64 := by decide
  have h3 : (tDsaHash (policyTitle ++ leBytes 80 tBody)).length = 48 := shake_length _ 48 (by decide)
  have h4 : tDsaRest.length = 3261 := by decide +kernel
  rw [tSigs, List.length_append, List.length_append (as := tDsaHash _), h2, h3, h4]

theorem signed_length : tSigned.length = 3453 := by
  rw [tSigned, ← tSigs, List.length_append, sigs_length, leBytes_length]

theorem signed_body : (tGateSigned.blob 215952).take 80 = leBytes 80 tBody := by
  have := range_getD tSigned 0 80 (by have := signed_length; omega) 215952 (by decide)
  rw [List.drop_zero, List.drop_zero] at this
  rw [blob_signed _ (by decide), this, tSigned]
  exact List.take_left' (leBytes_length _ _)

theorem signed_sigs : ((tGateSigned.blob 215952).drop 80).take 3373 = tSigs := by
  have hd : tSigned.drop 80 = tSigs := List.drop_left' (leBytes_length _ _)
  rw [blob_signed _ (by decide), range_getD tSigned 80 3373 (by have := signed_length; omega) _ (by decide), hd]
  exact List.take_of_length_le (by have := sigs_length; omega)

theorem sigs_verify : tGateSigned.originFault (leBytes 80 tBody) tSigs 0 = none := by
  have hk : tGateSigned.originKeys.get? 0 = some (tEdKey ++ tDsaKey) := rfl
  have he : tSigs.take 64 = tEdKey ++ List.replicate 32 0#8 := List.take_left' (by decide)
  have hm : tSigs.drop 64 = tDsaHash (policyTitle ++ leBytes 80 tBody) ++ tDsaRest := List.drop_left' (by decide)
  have h1 : (tEdKey ++ tDsaKey).take 32 = tEdKey := List.take_left' (by decide)
  have h2 : (tEdKey ++ tDsaKey).drop 32 = tDsaKey := List.drop_left' (by decide)
  unfold State.originFault
  simp only [hk, he, hm, h1, h2, ed_ok, mldsa_ok, Bool.and_self, if_true]

theorem signed_ok (b : List Byte) (hb : b.take 80 = leBytes 80 tBody) (hs : (b.drop 80).take 3373 = tSigs) :
    policyOk (b.take 80) = true ∧ tGateSigned.signFault b (b.take 80) 80 = none := by
  have ho : originsOf (polOset (leBytes 80 tBody)) = [0] := by decide +kernel
  have hr : ([0] : List Nat).zip (List.range ([0] : List Nat).length) = [(0, 0)] := by decide
  rw [hb]
  refine ⟨by decide +kernel, ?_⟩
  unfold State.signFault
  simp only [ho, hr, List.findSome?_cons, List.findSome?_nil, Nat.mul_zero, Nat.add_zero, hs, sigs_verify, Option.map_none]

/-- FunctionEvents: a policy that the gate installs, one that it knows and one that it does not, a release that
passes and one that is refused. -/
theorem witness_Gate :
    ((tGate 0).gateRuns && ((tGate 0).policy 0).isSome && ((tGate 0).policy 5).isNone && !((tGate 0).gateLogFull)
      && (match (tGate 0).gate with
        | r :: _ => r.kind != 0 && !(tGate 0).mgmtDown && (State.relRefusal { tGate 0 with gate := [] } r).isNone
        | [] => false)
      && (match (tGate 7).gate with
        | r :: _ => (State.relRefusal { tGate 7 with gate := [] } r).isSome
        | [] => false)) = true := by decide +kernel

theorem signed_start : tGateSigned.blob 64 = (leBytes 80 tBody).take 64 := by
  have := range_getD tSigned 0 64 (by have := signed_length; omega) 64 (by decide)
  rw [List.drop_zero, List.drop_zero, List.take_of_length_le (by simp)] at this
  rw [blob_signed _ (by decide), this, tSigned, List.take_append_of_le_length (by have := leBytes_length 80 tBody; omega)]

/-- FunctionEvents: the policy is installed: its body, its signatures and a free place. -/
theorem witness_PolicyInstall (b : List Byte) (hb : b = tGateSigned.blob 215952) :
    tGateSigned.gateRuns = true ∧ polNdst (tGateSigned.blob 64) = 1
    ∧ policyOk (b.take 80) = true ∧ tGateSigned.signFault b (b.take 80) 80 = none
    ∧ (List.range 1024).find? (fun k => (tGateSigned.policies.get? k).isNone) = some 1 := by
  have h := signed_ok b (by rw [hb]; exact signed_body) (by rw [hb]; exact signed_sigs)
  refine ⟨by decide +kernel, ?_, h.1, h.2, by decide +kernel⟩
  rw [signed_start]
  decide +kernel

/-- The management core's machine with ring registers: wavelength 0 of field 0 searching, trained wavelengths of port 0, one in the eye. -/
def tRing : State :=
  { State.reset with
    ringRegs := [(0, 1), (1, 0xA), (1024 * 64 + 8, 0x10), (1024 * 64 + 9, 0x10)]
    mgmt := ⟨1, 6, 0, 0, false, []⟩ }

/-- ManagementEvents: a search and an eye, features, state 4, state 15, a context register, a lane map, a field map, and requests. -/
theorem witness_ManagementEvents :
    (ringExists 0 35 && isWlc 0 35 && bits (tRing.ringReg 0 0).toNat 0 3 = 1 && bit (tRing.ringReg 0 1).toNat 3 && bit (tRing.ringReg 0 1).toNat 1
      && (let s := wrote State.reset (featAt 0x40) 1
        s.wrAllowed && s.field (featAt 0x40) 1 1 != 1)
      && (wrote State.reset (ctxAt 1023 0xF8) 0).wrAllowed && ctxAt 1023 0xF8 = 0x080600000000 + 0x100 * 1023 + 0xF8
      && ringExists ((ringRegAt 64 16 - 2 ^ 53) / 1024) 16 && (wrote tRing (ringRegAt 64 16) 5).wr.agent = .mgmt
      && (ringRegAt 47 50 - 2 ^ 53) / 1024 < 48 && 48 ≤ (ringRegAt 47 50 - 2 ^ 53) % 1024 && (ringRegAt 47 50 - 2 ^ 53) % 1024 < 51
      && tRing.portServes && tRing.bringUp = 6 && State.reset.portServes
      && [1, 2, 3, 4, 5].all (fun n => let s := { tRing with stim := { tRing.stim with datagram := [BitVec.ofNat 8 n, 0#8] } }
        !s.unknownCode && (s.wakeMgmt .port).portServes && ((s.wakeMgmt .port).stim.datagram.getD 1 0#8).toNat = 0)
      && State.unknownCode { tRing with stim := { tRing.stim with datagram := [6#8] } }
      && (wrote tRing 0 6).bringUp != 15 && State.bringUp { tRing with mgmt := { tRing.mgmt with mstate := 15 } } = 15) = true := by decide +kernel

/-- A site at the east edge, links, scrubs, folds, a channel in relocation. -/
def tFail : State :=
  { tGate 0 with
    linkRetries := [(4 * 7679 + 3, 16)]
    folds := [(1, ⟨5, 0, 0, 0, 2, 0⟩)]
    mmio := [(errAt 0x20, BitVec.ofNat 64 (3 + 2 * 2 ^ 10))] }

/-- FailureEvents: a retest of a free site, a link that failed for good, an alarm with a spare, a bad sector of DRAM and of the vault, a
full fold, a policy, and a channel that asks and one that was answered. -/
theorem witness_FailureEvents :
    (tFail.bringUp != 15 && !(tFail.retestWaits 7679) && tFail.retestWaits 0 && channelOf (32 * 1) = channelOf 32 && channelOf 32 < 1024
      && hopFrom 7679 (portDir .west) = some 7678
      && 16 ≤ tFail.linkRetries.getD (4 * 7679 + portDir .west) 0 && (fmapList (tFail.fmap 47)).contains 0
      && (match (List.range 36).find? (tFail.spareFree 47) with
        | some _ => true
        | none => false)
      && tFail.isDram 0x1000 && isVault 0x40000000000 && (tFail.folds.get? 1).isSome && (tFail.policy 0).isSome
      && (let s := wrote { tFail with mmio := [(errAt 0x20, BitVec.ofNat 64 (3 + 2 ^ 10))] } (errAt 0x20) 0
        s.wrAllowed && s.field (errAt 0x20) 10 2 = 1)
      && tFail.field (errAt 0x20) 10 2 = 2) = true := by decide +kernel

/-- Copies: between scratchpads, and a list of one entry. -/
theorem witness_Copies :
    let f : YFmt := { tY with d := 8, te := 1, dspc := 1, sspc := 1 }
    let g : YFmt := { tY with d := 0, a := 12, b := 10, te := 1, sspc := 1 }
    (groupOk tNet (.xcopy f) (xcopySrcs f) [] (State.copyCheck f (xcopySrcs f) (State.xcopyPrep f))
      && groupOk tNet (.xkick g) (xkickSrcs g) [] (State.copyCheck g (xkickSrcs g) (State.xkickPrep g))) = true := by decide +kernel

/-- Messages: a route to another stand, and a message that waits. -/
theorem witness_Messages :
    (groupOk tNet (.send { tY with d := 0, b := 0 }) [] [.v 4 1] (State.sendCheck { tY with d := 0, b := 0 })
      && groupOk tNet (.recv { tY with a := 0, b := 0, sel := 1 }) [] [] (State.circuitCheck { tY with a := 0, b := 0, sel := 1 })) = true := by
  decide +kernel

/-- BurstsAndReleases. -/
theorem witness_BurstsAndReleases :
    let o : YFmt := { tY with d := 0, te := 1, sspc := 1 }
    let r : YFmt := { tY with d := 0, b := 20, te := 1, dspc := 1 }
    let l : YFmt := { tY with d := 0, b := 20, te := 1, sspc := 1 }
    (groupOk tNet (.obsend o) (obsendSrcs o) [] (State.obsendCheck o) && groupOk tNet (.obrecv r) (obrecvSrcs r) [] (State.recvCheck r)
      && groupOk tNet (.obstat { tY with a := 0, sel := 1 }) [.v 6 1] [] (fun s _ _ => (Ans.ok (), s))
      && groupOk tNet (.rel l) (relSrcs l) [] (State.relCheck l)) = true := by decide +kernel

/-- Fields of format G whose bits tell them apart (R113). -/
def fieldsG : GFmt :=
  { x := 9, gn := 1, gp := 5, d := 0xD3, a := 0xA5, b := 0xB7, c := 0xC9, ma := 1, mb := 2, mc := 6, sel := 0x15 }

/-- Fields of format I whose bits tell them apart (R114). -/
def fieldsI : IFmt :=
  { x := 9, gn := 1, gp := 5, d := 0xD3, imm := 0x8123C5A7, sel := 0x2D }

/-- Fields of format M whose bits tell them apart (R114). -/
def fieldsM : MFmt :=
  { x := 9, gn := 1, gp := 5, d := 0xD3, a := 0xA5, b := 0xB7, spc := 2, ord := 1, sco := 5, sz := 3, var := 6, dl := 0xE1 }

/-- Fields of format X whose bits tell them apart (R114). -/
def fieldsX : XFmt :=
  { x := 9, gn := 1, gp := 5, d := 0xD3, a := 0xA5, b := 0xB7, tok := 6, te := 1, ord := 2, sco := 5, macs := 9, acc := 6, sel := 0x15 }

/-- Fields of format Y whose bits tell them apart (R114). -/
def fieldsY : YFmt :=
  { x := 9, gn := 1, gp := 5, d := 0xD3, a := 0xA5, b := 0xB7, tok := 6, te := 1, ord := 2, sco := 5, dspc := 1, sspc := 2, sel := 0x135 }

/-- Fields of format S whose bits tell them apart (R114). -/
def fieldsS : SFmt :=
  { x := 9, gn := 1, gp := 5, d := 0xD3, a := 0xA5, imm := 0xB7C9, tok := 6, te := 1, sel := 0x2D5 }

/-- Words laid out by hand from the formats and the opcode map (R113, R114, R124). -/
theorem test_decode_control1 :
    [0x002774E96DF24AD5, 0x006774E048F169ED, 0x00A774E048F169ED, 0x00E774E048F169ED, 0x012774E96DF24AD5, 0x016774E96DF24AD5,
      0x01A774E96DF24AD5, 0x01E774E96DF24AD5, 0x022774E96DF24AD5, 0x026774E96DF24AD5, 0x02A774E96DF24AD5, 0x02E774E96DF24AD5,
      0x032774E96DF24AD5, 0x036774E96DF24AD5].map (decodeTableWord 64)
      = [.nop fieldsG, .bra fieldsI, .call fieldsI, .rgrp fieldsI, .brx fieldsG, .callx fieldsG,
        .ret fieldsG, .exit fieldsG, .jset fieldsG, .jwait fieldsG, .jclr fieldsG, .elect fieldsG,
        .yield fieldsG, .chk fieldsG].map some := by decide +kernel

/-- Words laid out by hand from the formats and the opcode map (R113, R114, R124). -/
theorem test_decode_control2 :
    [0x03A774E96DF276D5, 0x03E774E96DF276D5, 0x042774E96DF276D5, 0x046774E96DF276D5, 0x04A774E96DF276D5, 0x04E774E96DF276D5,
      0x052774E96DF276D5, 0x056774E96DF276D5, 0x05A774E96DF276D5, 0x05E774E96DF276D5].map (decodeTableWord 64)
      = [.trap fieldsS, .iret fieldsS, .launch fieldsS, .join fieldsS, .trig fieldsS, .srd fieldsS,
        .swr fieldsS, .dbgbrk fieldsS, .mark fieldsS, .halt fieldsS].map some := by decide +kernel

/-- Words laid out by hand from the formats and the opcode map (R113, R114, R124). -/
theorem test_decode_integer1 :
    [0x102774E96DF24AD5, 0x106774E96DF24AD5, 0x10A774E96DF24AD5, 0x10E774E96DF24AD5, 0x112774E96DF24AD5, 0x116774E96DF24AD5,
      0x11A774E96DF24AD5, 0x11E774E96DF24AD5, 0x122774E96DF24AD5, 0x126774E96DF24AD5, 0x12A774E96DF24AD5, 0x12E774E96DF24AD5,
      0x132774E96DF24AD5, 0x136774E96DF24AD5].map (decodeTableWord 64)
      = [.add fieldsG, .sub fieldsG, .addc fieldsG, .subb fieldsG, .neg fieldsG, .abs fieldsG,
        .mul fieldsG, .mulh fieldsG, .mulw fieldsG, .mad fieldsG, .madh fieldsG, .madw fieldsG,
        .div fieldsG, .rem fieldsG].map some := by decide +kernel

/-- Words laid out by hand from the formats and the opcode map (R113, R114, R124). -/
theorem test_decode_integer2 :
    [0x13A774E96DF24AD5, 0x13E774E96DF24AD5, 0x142774E96DF24AD5, 0x146774E96DF24AD5, 0x14A774E96DF24AD5, 0x14E774E96DF24AD5,
      0x152774E96DF24AD5, 0x156774E96DF24AD5, 0x15A774E96DF24AD5, 0x15E774E96DF24AD5, 0x162774E96DF24AD5, 0x166774E96DF24AD5,
      0x16A774E96DF24AD5, 0x16E774E96DF24AD5].map (decodeTableWord 64)
      = [.min fieldsG, .max fieldsG, .and fieldsG, .or fieldsG, .xor fieldsG, .not fieldsG,
        .andn fieldsG, .shl fieldsG, .shr fieldsG, .sar fieldsG, .rol fieldsG, .fshl fieldsG,
        .bfx fieldsG, .bfi fieldsG].map some := by decide +kernel

/-- Words laid out by hand from the formats and the opcode map (R113, R114, R124). -/
theorem test_decode_integer3 :
    [0x172774E96DF24AD5, 0x176774E96DF24AD5, 0x17A774E96DF24AD5, 0x17E774E96DF24AD5, 0x182774E96DF24AD5, 0x186774E96DF24AD5,
      0x18A774E96DF24AD5, 0x18E774E96DF24AD5, 0x192774E96DF24AD5, 0x196774E96DF24AD5, 0x19A774E96DF24AD5, 0x19E774E96DF24AD5,
      0x1A2774E048F169ED, 0x1A6774E048F169ED].map (decodeTableWord 64)
      = [.popc fieldsG, .clz fieldsG, .ctz fieldsG, .brev fieldsG, .perm fieldsG, .sel fieldsG,
        .iset fieldsG, .lea fieldsG, .sad fieldsG, .dot4 fieldsG, .dot8 fieldsG, .mov fieldsG,
        .movi fieldsI, .movh fieldsI].map some := by decide +kernel

/-- Words laid out by hand from the formats and the opcode map (R113, R114, R124). -/
theorem test_decode_integer4 :
    [0x1AA774E96DF24AD5, 0x1AE774E96DF24AD5, 0x1B2774E96DF24AD5, 0x1B6774E96DF24AD5, 0x1BA774E96DF24AD5, 0x1BE774E96DF24AD5].map (decodeTableWord 64)
      = [.pand fieldsG, .por fieldsG, .pxor fieldsG, .pnot fieldsG, .pmov fieldsG, .idx fieldsG].map some := by decide +kernel

/-- Words laid out by hand from the formats and the opcode map (R113, R114, R124). -/
theorem test_decode_float1 :
    [0x202774E96DF24AD5, 0x206774E96DF24AD5, 0x20A774E96DF24AD5, 0x20E774E96DF24AD5, 0x212774E96DF24AD5, 0x216774E96DF24AD5,
      0x21A774E96DF24AD5, 0x21E774E96DF24AD5, 0x222774E96DF24AD5, 0x226774E96DF24AD5, 0x22A774E96DF24AD5, 0x22E774E96DF24AD5,
      0x232774E96DF24AD5, 0x236774E96DF24AD5].map (decodeTableWord 64)
      = [.fadd fieldsG, .fsub fieldsG, .fmul fieldsG, .fma fieldsG, .fmin fieldsG, .fmax fieldsG,
        .fset fieldsG, .fclass fieldsG, .frnd fieldsG, .fscale fieldsG, .fexpn fieldsG, .fmant fieldsG,
        .fcopys fieldsG, .frcp fieldsG].map some := by decide +kernel

/-- Words laid out by hand from the formats and the opcode map (R113, R114, R124). -/
theorem test_decode_float2 :
    [0x23A774E96DF24AD5, 0x23E774E96DF24AD5, 0x242774E96DF24AD5, 0x246774E96DF24AD5, 0x24A774E96DF24AD5, 0x24E774E96DF24AD5,
      0x252774E96DF24AD5, 0x256774E96DF24AD5, 0x25A774E96DF24AD5, 0x25E774E96DF24AD5, 0x262774E96DF24AD5, 0x266774E96DF24AD5,
      0x26A774E96DF24AD5, 0x26E774E96DF24AD5].map (decodeTableWord 64)
      = [.frsq fieldsG, .fsqrt fieldsG, .fdiv fieldsG, .fexp2 fieldsG, .flog2 fieldsG, .fsin fieldsG,
        .fcos fieldsG, .ftanh fieldsG, .fsigm fieldsG, .fdot2 fieldsG, .fdot4 fieldsG, .cvt fieldsG,
        .cvts fieldsG, .cvti fieldsG].map some := by decide +kernel

/-- Words laid out by hand from the formats and the opcode map (R113, R114, R124). -/
theorem test_decode_float3 :
    [0x272774E96DF24AD5, 0x276774E96DF24AD5, 0x27A774E96DF24AD5, 0x27E774E96DF24AD5, 0x282774E96DF24AD5, 0x286774E96DF24AD5,
      0x28A774E96DF24AD5, 0x28E774E96DF24AD5, 0x302774E96DF24AD5, 0x306774E96DF24AD5, 0x30A774E96DF24AD5, 0x30E774E96DF24AD5,
      0x312774E96DF24AD5, 0x316774E96DF24AD5].map (decodeTableWord 64)
      = [.pack fieldsG, .unpack fieldsG, .addmin fieldsG, .addmax fieldsG, .fmini fieldsG, .fmaxi fieldsG,
        .imini fieldsG, .imaxi fieldsG, .shfl fieldsG, .slide fieldsG, .bcastl fieldsG, .vote fieldsG,
        .matchLanes fieldsG, .redux fieldsG].map some := by decide +kernel

/-- Words laid out by hand from the formats and the opcode map (R113, R114, R124). -/
theorem test_decode_float4 :
    [0x31A774E96DF24AD5, 0x31E774E96DF24AD5].map (decodeTableWord 64)
      = [.scan fieldsG, .lmask fieldsG].map some := by decide +kernel

/-- Words laid out by hand from the formats and the opcode map (R113, R114, R124). -/
theorem test_decode_memory1 :
    [0x402774E96DE6B6E1, 0x402774E96DE6BEE1, 0x406774E96DE6B6E1, 0x40A774E96DE6B6E1, 0x40E774E96DE6B6E1, 0x412774E96DE6B6E1,
      0x416774E96DE6B6E1, 0x41A774E96DE6B6E1, 0x41E774E96DE6B6E1, 0x422774E96DE6B6E1, 0x426774E96DE6B6E1, 0x42A774E96DE6B6E1,
      0x42E774E96DE6B6E1, 0x432774E96DE6B6E1].map (decodeTableWord 64)
      = [.ld fieldsM, .ldS { fieldsM with var := 0xE }, .st fieldsM, .atom fieldsM, .atomc fieldsM, .red fieldsM,
        .fence fieldsM, .pref fieldsM, .evict fieldsM, .tagset fieldsM, .tagget fieldsM, .bcst fieldsM,
        .pres fieldsM, .pclr fieldsM].map some := by decide +kernel

/-- Words laid out by hand from the formats and the opcode map (R113, R114, R124). -/
theorem test_decode_memory2 :
    [0x436774E96DF24AD5, 0x43A774E96DE6B6E1, 0x43E774E96DE6B6E1, 0x442774E96DE6B6E1, 0x446774E96DE6B6E1, 0x44A774E96DE6B6E1,
      0x44E774E96DE6B6E1, 0x452774E96DE6B6E1, 0x456774E96DE6B6E1, 0x45A774E96DE6B6E1, 0x45E774E96DE6B6E1, 0x462774E96DE6B6E1,
      0x466774E96DF24AD5, 0x46A774E96DF24AD5].map (decodeTableWord 64)
      = [.dcq fieldsG, .qinit fieldsM, .qenq fieldsM, .qdeq fieldsM, .qpeek fieldsM, .waitw fieldsM,
        .bari fieldsM, .bara fieldsM, .barw fieldsM, .bars fieldsM, .tbari fieldsM, .tbare fieldsM,
        .lbrd fieldsG, .lbor fieldsG].map some := by decide +kernel

/-- Words laid out by hand from the formats and the opcode map (R113, R114, R124). -/
theorem test_decode_memory3 :
    [0x46E774E96DE6B6E1].map (decodeTableWord 64)
      = [.clrseg fieldsM].map some := by decide +kernel

/-- Words laid out by hand from the formats and the opcode map (R113, R114, R124). -/
theorem test_decode_matrix1 :
    [0x502774E96DF6B2D5, 0x506774E96DF6B2D5, 0x50A774E96DF6B2D5, 0x50E774E96DF6B2D5, 0x512774E96DF6B2D5, 0x516774E96DF6B2D5,
      0x51A774E96DF6B2D5, 0x51E774E96DF6B2D5, 0x522774E96DF6B2D5, 0x526774E96DF6B2D5, 0x52A774E96DF6B2D5, 0x52E774E96DF6B2D5,
      0x532774E96DF6B2D5].map (decodeTableWord 64)
      = [.mcfg fieldsX, .wload fieldsX, .wloadr fieldsX, .wclr fieldsX, .mma fieldsX, .mmasp fieldsX,
        .mconv fieldsX, .mmar fieldsX, .epcfg fieldsX, .mstat fieldsX, .mdrain fieldsX, .mrdacc fieldsX,
        .mwracc fieldsX].map some := by decide +kernel

/-- Words laid out by hand from the formats and the opcode map (R113, R114, R124). -/
theorem test_decode_async1 :
    [0x602774E96DF6AD35, 0x606774E96DF6AD35, 0x60A774E96DF6AD35, 0x60E774E96DF6AD35, 0x612774E96DF6AD35, 0x616774E96DF6AD35,
      0x61A774E96DF6AD35, 0x61E774E96DF6AD35, 0x622774E96DF6AD35, 0x626774E96DF6AD35, 0x62A774E96DF6AD35].map (decodeTableWord 64)
      = [.xcopy fieldsY, .xkick fieldsY, .xwait fieldsY, .xtest fieldsY, .send fieldsY, .recv fieldsY,
        .rtest fieldsY, .obsend fieldsY, .obrecv fieldsY, .obstat fieldsY, .rel fieldsY].map some := by decide +kernel

/-- Words laid out by hand from the formats and the opcode map (R113, R114, R124). -/
theorem test_decode_system1 :
    [0x702774E96DF276D5, 0x706774E96DF276D5, 0x70A774E96DF276D5, 0x70E774E96DF276D5, 0x712774E96DF276D5, 0x716774E96DF276D5,
      0xE02774E96DF276D5, 0xE06774E96DF276D5].map (decodeTableWord 64)
      = [.wpset fieldsS, .wpclr fieldsS, .profrd fieldsS, .tlbi fieldsS, .ctxsv fieldsS, .ctxld fieldsS,
        .crrd fieldsS, .crwr fieldsS].map some := by decide +kernel

/-- A pair word: X in bits [47:0], Y in bits [95:48] (R119). -/
theorem test_decode_pair :
    decodeTableWord 96 0x0643AB4F633827BA74B6FD92
      = some (.pairWord { cop := 0x13, gn := 1, gp := 5, d := 0xD3, a := 0xA5, b := 0xB7, ib := 1, ty := 6, c := 0xC9, rsv := 0 }
          { cop := 0x3, gn := 0, gp := 2, d := 0x1D, a := 0x5A, b := 0x7B, ib := 0, ty := 1, c := 0x9C, rsv := 0 }) := by decide +kernel

/-- Opcodes that the map leaves out, and the header's (R124, R125, R384). -/
theorem test_decode_unassigned :
    [0x0600000000000000, 0x1C00000000000000, 0xE080000000000000, 0xFFC0000000000000].map (decodeTableWord 64)
      = [some (.unassignedOpcode 0x0600000000000000), some (.unassignedOpcode 0x1C00000000000000),
         some (.unassignedOpcode 0xE080000000000000), none] := by decide +kernel

/-- The worked examples of the standards that R73, R327 and R382 name: FIPS 197 (AES-128), FIPS 202 (SHAKE256 of nothing), FIPS 180-4
(SHA-384 of "abc") and RFC 8032 (Ed25519, test 1). -/
theorem test_ciphers :
    (aes128 (List.range 16) ((List.range 16).map (17 * ·))
        = [0x69, 0xC4, 0xE0, 0xD8, 0x6A, 0x7B, 0x04, 0x30, 0xD8, 0xCD, 0xB7, 0x80, 0x70, 0xB4, 0xC5, 0x5A])
    ∧ leNat (shake256 [] 32) = 0x2f76d56e64270cb5821bb862ea52cd3f24eb3e74eb3f3b23138da80b2bddb946
    ∧ leNat (sha384 [0x61#8, 0x62#8, 0x63#8]) = 0xa725c834a1ecba5823cce7a12b078680ed5bff435a608b1a63d1de0eab322c270750c69a693da0b58b5ea3453f7500cb
    ∧ ed25519Verify (leBytes 32 0x1a5107f7681a02af2523a6daf372e10e3a0764c9d3fe4bd5b70ab18201985ad7) []
        (leBytes 64 0xb107a8e4341516524be5b59f0f55bd26bb4f91c70391ec6ac3ba3901582b85f5501492265e073d874d9e5b81e7f87848a826e80cce2869072ac60c3004356e5) = true
    ∧ ed25519Verify (leBytes 32 0x1a5107f7681a02af2523a6daf372e10e3a0764c9d3fe4bd5b70ab18201985ad7) [0#8]
        (leBytes 64 0xb107a8e4341516524be5b59f0f55bd26bb4f91c70391ec6ac3ba3901582b85f5501492265e073d874d9e5b81e7f87848a826e80cce2869072ac60c3004356e5) = false := by decide +kernel

/-- tNet with a message in flight on circuit 1. -/
def tFlight : State := tNet.updStand 8192 (fun st => { st with circuits := [(1, ⟨[⟨1, List.replicate 32 5, 3, 0⟩], []⟩)] })

/-- The hypotheses of RemainingCompletions hold of a multiply, beside those of `multiplyOk`: no run to go on with, no bad sector. -/
def enqueueOk (k : MKind) (f : XFmt) : Bool :=
  match State.mmaCheck f k tMx 0 [0, 1] with
  | (.ok a, s1) =>
    let w := s1.laneWho 0
    let s2 := a.dest.foldl (fun x t => x.touchAll w t true) ((a.scales ++ [a.shape, a.svec, a.bvec]).foldl (fun x t => x.touchAll w t false) s1)
    let v1 := s2.readVec s1.curStand a.svec
    let v2 := v1.2.readVec s1.curStand a.bvec
    (s1.continued [0, 1]).isNone && !v1.1.2.2 && !v2.1.2.2 && !(a.shape.any (fun p => s1.badSpan p.1.loc 64))
  | _ => false

/-- RemainingCompletions: a store that performs, a message in flight and none, status words, a thread's and a grid's watchpoint, a page and
all pages with nothing past their translation, and the four multiplies. -/
theorem witness_RemainingCompletions :
    let f : XFmt := { tX0 with a := 10, macs := 1, sel := 2 }
    let y : YFmt := { tY with a := 0, b := 0 }
    let s1 := (tStores none).updThread (tKey 0) (fun t => Thread.wakeExit { t with storeQ := [] })
    (s1.placeLive (.pa 0x40000000000) && !(s1.partialBad (.pa 0x40000000000) 1)
      && (tFlight.stands.get? 8192).isSome && (tFlight.circuit 8192 1).flight.length = 1 && (tFlight.circuit 8192 0).flight.isEmpty
      && actsOk tWarp (.xwait y) [] (fun l => ((tWarp.lane l).sb 0).count = 0 && ((tWarp.lane l).sb 0).code = 0)
      && [0, 4].all (fun n => actsOk tWarp (.wpset { tS with d := 0, imm := n }) [.v 4 4] && actsOk tWarp (.wpclr { tS0 with imm := n }) [])
      && [{ tS0 with a := 12 }, { tS0 with sel := 1 }].all (fun g => groupOk tHandler (.tlbi g) (tlbiSrcs g) [] (State.tlbiCheck g))
      && multiplyOk .mma .mma { f with d := 32, sel := 18 } && enqueueOk .mma { f with d := 32, sel := 18 }
      && multiplyOk .mmasp .mmasp f && enqueueOk .mmasp f
      && multiplyOk .mconv .mconv { f with a := 8, b := 12 } && enqueueOk .mconv { f with a := 8, b := 12 }
      && multiplyOk .mmar .mmar { f with a := 16, sel := 0 } && enqueueOk .mmar { f with a := 16, sel := 0 }) = true := by decide +kernel

/-! ### WellFormed refuses an ill-formed term for each check -/

/-- Check 1: LD with VAR[3] = 1 and LD.S with 0 (R217); an unassigned word whose opcode is assigned, or the header's (R125). -/
theorem test_illFormed_selects :
    ([.ld { fieldsM with var := 8 }, .ldS { fieldsM with var := 7 }, .unassignedOpcode 0x1000000000000000,
      .unassignedOpcode 0xFFC0000000000000] : List Instr).all (fun i => !i.selects && !i.wellFormed) = true := by decide +kernel

/-- Check 2: bits [53:50] of NOP and BRA, the reserved bit of a compact operation and a COP of 36 (R118 to R120, R124). -/
theorem test_illFormed_zeroBits :
    ([.nop fieldsG, .bra fieldsI, .pairWord { tPair with rsv := 1 } tPair, .pairWord tPair { tPair with cop := 36 }] : List Instr).all
      (fun i => !i.zeroBits && !i.wellFormed) = true := by decide +kernel

/-- Check 3: a part just beyond each of the device's (R16, R20, R22, R449). -/
theorem test_illFormed_namesParts :
    ([.rowAccept 30724, .balancerPass 7681, .flumeWst 384, .burstTransmit 96, .resetNotice 96 0 0, .retest 7680 true true,
      .scratchpadScrub 7680 0 0 true, .dramScrub 1024 0 true false, .vaultScrub 384 0 true false, .marginAlarm 48 0 0,
      .launchSubmit 96 0 [], .launchSubmit 0 1024 [], .hostLoad 96 ⟨0, ⟨false, false, false, 0⟩, .plain⟩ 8] : List Instr).all
        (fun i => !i.namesParts && !i.wellFormed) = true := by decide +kernel

/-- And it accepts what the checks allow. -/
theorem test_wellFormed :
    ([.ld fieldsM, .ldS { fieldsM with var := 14 }, .unassignedOpcode 0x0600000000000000, .nop { fieldsG with x := 0 }, .pairWord tPair tPair,
      .rowAccept 30723, .flumeWst 383, .launchSubmit 95 1023 []] : List Instr).all Instr.wellFormed = true := by decide +kernel

/-! ### One step, on the spec's examples and on hand calculation -/

/-- What a small question about the next state answers, and a default where there is none. -/
def after {α : Type} (o : Host.Outcome State Fault Refusal) (f : State → α) (d : α) : α :=
  match o with
  | .next t => f t
  | _ => d

/-- The first step after reset with `MOV V4, V7` under not P2 placed: no lane is left out, and the thread goes to the next clause (R104,
R107, R110). -/
theorem test_fetch : after (Machine.step (State.reset.withFetchWord 64 0x19C28101C0000006)) (fun t => (t.thread mgmtThread).pc.hdr) 0 = 16 := by
  decide +kernel

/-- The example of R147: one of two lanes executes and V6 carries 0xB; then both do, and it carries 0x1. -/
def tLabels (lanes : List Nat) : State :=
  { (tWarp.updSlot 0 (fun sl => ((sl.setRegLabel 7 2).setRegLabel 8 1).setRegLabel 6 8)).updLane 0 (fun t => { t with carried := 1 }) with
    cur := { tWarp.cur with lanes := lanes } }

theorem test_labels :
    after (exec (.add { tG2 with d := 6, a := 7, b := 8 }) (tLabels [0])) (fun t => (t.slotAt 0).regLabel 6) 0 = 0xB
    ∧ after (exec (.add { tG2 with d := 6, a := 8, b := 0, c := 1, sel := 18 }) (tLabels [0, 1])) (fun t => (t.slotAt 0).regLabel 6) 0
      = 1 := by decide +kernel

/-- Eight lanes of a warp, P1 false in lane 3; V5 holds ten times the lane, V6 99, V4 7 (R207). -/
def tEight : State :=
  { tWarp with
    threads := (List.range 8).map (fun l => (16384 * 8192 + l, { (Thread.start 8192 0 l ⟨0x1000, 0⟩
      [(4, 7), (5, BitVec.ofNat 32 (10 * l)), (6, 99)] 0) with preds := if l = 3 then 0x80#8 else 0x82#8 }))
    slots := [(0, { Slot.empty with
      stand := 8192
      lanes := (List.range 8).map (fun l => (l, 16384 * 8192 + l))
      regLabels := [(4, 4), (5, 2), (6, 1)] })]
    cur := ⟨0, 0, 0, List.range 8, 0x1000, 0, 0, 0x1010, 0x1008⟩ }

/-- The example of R207, from its word: V4 of the eight lanes, and its label. -/
theorem test_slide :
    (match decodeTableWord 64 0x3040410141804000 with
    | some i => after (exec i tEight) (fun t => ((List.range 8).map (fun l => ((t.lane l).reg 4).toNat), (t.slotAt 0).regLabel 4)) ([], 0)
    | none => ([], 0)) = ([99, 0, 10, 7, 99, 40, 50, 60], 7) := by decide +kernel

/-- The examples of R419: RM 7 is reserved, so the lanes under P1 take INFO 0; with RM 1 they take INFO 1; the others go on. -/
theorem test_illegal :
    ([0x20004A014180001C, 0x20004A0141800004].map (fun w => match decodeTableWord 64 w with
    | some i => after (exec i { tEight with stands := [(8192, { tStand with stages := [{ tStage with quota := 32 }] })] }) (fun t =>
        ((t.slotAt 0).parked.map (fun p => (p.code.toNat, p.info.toNat, p.lanes.map (·.lane))), (t.lane 3).status)) ([], .exited)
    | none => ([], .exited))) = [([(1, 0, [0, 1, 2, 4, 5, 6, 7])], .active), ([(1, 1, [0, 1, 2, 4, 5, 6, 7])], .active)] := by decide +kernel

/-- The lane of tWarp with V9 set. -/
def tWith9 (v : Word) : State := tWarp.updLane 0 (fun t => t.setReg 9 v)

/-- The example of R200: 300.0 to E4M3 under RNE with SAT in group 2 is byte 0x79 in byte 2. -/
theorem test_cvt :
    after (exec (.cvt { tG with a := 9, b := 0, c := 0x14, sel := 6, x := 4 }) (tWith9 0x43960000)) (fun t => (t.lane 0).reg 8) 0
      = 0x00790000 := by decide +kernel

/-- FSCALE: 1.5 times 2 to the -150 is a half and a quarter of the least subnormal, which rounds to it (R137, R188). -/
theorem test_fscale :
    after (exec (.fscale { tG with a := 9, b := 10, sel := 4 }) ((tWith9 0x3FC00000).updLane 0 (fun t => t.setReg 10 (BitVec.ofInt 32 (-150)))))
      (fun t => (t.lane 0).reg 8) 0 = 1 := by decide +kernel

/-- ADD of the greatest I32 and 1 wraps, and saturates under SAT; DIV by zero gives -1 (R172, R174). -/
theorem test_add_div :
    let s := (tWith9 0x7FFFFFFF).updLane 0 (fun t => t.setReg 10 1)
    (after (exec (.add { tG2 with a := 9, b := 10 }) s) (fun t => (t.lane 0).reg 8) 0,
      after (exec (.add { tG2 with a := 9, b := 10, x := 8 }) s) (fun t => (t.lane 0).reg 8) 0,
      after (exec (.div { tG2 with a := 9, b := 11 }) s) (fun t => (t.lane 0).reg 8) 0) = (0x80000000, 0x7FFFFFFF, 0xFFFFFFFF) := by
  decide +kernel

/-- A store joins the queue and memory is as it was; the drain writes its bytes little-endian at page 1's frame (R2, R62, R84). -/
theorem test_store :
    after (exec (.st { tMg with d := 6, b := 0 }) tMem) (fun t => (rawNat t.mem 0x1000000 4, (t.thread (tKey 0)).storeQ.length,
      after (exec (.storeDrain (tKey 0)) t) (fun u => rawNat u.mem 0x1000000 4) 0)) (0, 0, 0) = (0, 1, 3) := by decide +kernel

/-- Four lanes of that warp with two registers given by lane, all at one instruction. -/
def tFour (a b : List Word) : State :=
  { tEight with
    threads := (List.range 4).map (fun l => (16384 * 8192 + l, { (Thread.start 8192 0 l ⟨0x1000, 0⟩
      [(4, 0x1000), (5, a.getD l 0), (6, b.getD l 0)] 0) with preds := if l = 1 then 0x80#8 else 0x82#8 }))
    slots := [(0, { Slot.empty with stand := 8192, lanes := (List.range 4).map (fun l => (l, 16384 * 8192 + l)) })]
    stands := [(8192, { tStand with sp := [(0x1000, 10)] })]
    cur := ⟨0, 0, 0, List.range 4, 0x1000, 0, 0, 0x1010, 0x1008⟩ }

/-- The example of R145: REDUX and SCAN of FP32 addition over 2^24, 1, 1 and -2^24 under RNE. -/
theorem test_redux :
    let s := tFour [0x4B800000, 0x3F800000, 0x3F800000, 0xCB800000] []
    let f : GFmt := { tG with a := 5, b := 0, c := 1 }
    (([.redux f, .scan f] : List Instr).map (fun i => after (exec i s) (fun t => (List.range 4).map (fun l => ((t.lane l).reg 8).toNat)) []))
      = [List.replicate 4 0x3F800000, [0x4B800000, 0x4B800000, 0x4B800000, 0x3F800000]] := by decide +kernel

/-- The example of R220: an ATOM ADD of four lanes at one word that holds 10, P1 false in lane 1 (here in a scratchpad). -/
theorem test_atom :
    after (exec (.atom { tM with d := 8, gp := 1, var := 1 }) (tFour [] [1, 2, 3, 4])) (fun t =>
      ((List.range 4).map (fun l => ((t.lane l).reg 8).toNat), match t.stands.get? 8192 with
        | some st => rawNat st.sp 0x1000 4
        | none => 0)) ([], 0) = ([10, 0, 11, 14], 18) := by decide +kernel

/-- TRAP 5 parks both lanes under CODE 0x17, INFO 5 (R162). -/
theorem test_trap :
    after (exec (.trap { tS0 with imm := 5 }) tWarp) (fun t => (t.slotAt 0).parked.map (fun p => (p.code.toNat, p.info.toNat, p.lanes.length)))
      [] = [(0x17, 5, 2)] := by decide +kernel

/-- BARS of both threads completes the barrier that expects two: its parity toggles and GEN rises (R234, R236, R371). -/
theorem test_bars :
    after (exec (.bars { tMa with spc := 0, sco := 1, a := 0 }) tBars) (fun t => match t.stands.get? 8192 with
      | some st => ((st.barriers.get? 0).map (fun b => (b.arr, b.ph)), st.gen, (t.lane 0).pc.hdr)
      | none => (none, 0, 0)) (none, 0, 0) = (some (0, true), 1, 0x1010) := by decide +kernel

/-- StepRuns, DecodeEncode: a clause of one word is fetched, is well formed and holds the instruction; the word encodes to itself. -/
theorem witness_StepRuns :
    (match (State.reset.withFetchWord 64 0x19C28101C0000006).act with
    | .issue p i _ => p.slot = mgmtSlot && i.wellFormed && encode i = leBytes 8 0x19C28101C0000006
    | _ => false) = true := by decide +kernel

end Sys2Proof.Tests
end

section
/-!
PROOFS. The integer instructions (spec/07): every statement about a register instruction follows from its row of
`State.registerOp`, so that only the values of the row are left to compare.
-/

namespace Sys2Proof.Machine

/-! ### Register instructions and their table -/

/-- The meaning of a register instruction is the operation that the table gives it. -/
theorem exec_eq_runAlu {i : Instr} {s : State} {op : Alu} (h : s.registerOp i = some op) : exec i s = .next (s.runAlu op) := by
  unfold State.registerOp at h
  split at h <;> cases h <;> rfl

/-- A register instruction whose operation is one and the same in every state gives the values of that operation. -/
theorem gives_of_registerOp {i : Instr} {op : Alu} {ds : List Dst} {val : State → Nat → List Nat}
    (hop : ∀ s : State, s.registerOp i = some op) (hd : op.dsts = ds) (hv : ∀ (s : State) (l : Nat), op.eval l (s.lane l) = val s l) :
    Gives i ds val := by
  refine gives_of (fun s op' h => ?_)
  obtain rfl : op = op' := Option.some.inj ((hop s).symm.trans h)
  exact ⟨exec_eq_runAlu h, hd, hv s⟩

/-! ### Elementwise forms (R172, R174, R175, R177) -/

/-- An element operation gives its function of each element, in the register or pair of its width, or in one word where it counts. -/
theorem gives_of_iaElem {i : Instr} {f : GFmt} {row : IaRow} {n : Nat} {xsat xok count : Bool} {fn : ElemFn}
    (hop : ∀ s : State, s.registerOp i = some (iaElem f row xsat xok count fn)) (hn : row.n = n) :
    Gives i [.v f.rd (if count then 1 else regsOf (iaWidth f))] (iaResult f n xsat fn) := by
  subst hn
  exact gives_of_registerOp hop rfl (fun _ _ => rfl)

/-- An element operation with SAT in XS[3] and the other variant bits zero. -/
theorem gives_of_iaPlain {i : Instr} {f : GFmt} {row : IaRow} {n : Nat} {fn : ElemFn}
    (hop : ∀ s : State, s.registerOp i = some (iaPlain f row fn)) (hn : row.n = n) : Gives i (iaDst f) (iaResult f n (iaSat f) fn) :=
  gives_of_iaElem hop hn

/-- Settles O1: every instruction of R172 is an element operation of the table, and its function of the elements is the stated one. -/
theorem integerElements : Obligations.IntegerElements := fun f => by
  refine ⟨?add, ?sub, ?neg, ?abs, ?mul, ?mulh, ?mad, ?madh, ?div, ?rem, ?min, ?max, ?and, ?or, ?xor, ?not, ?andn, ?shl, ?shr, ?sar,
    ?rol, ?popc, ?clz, ?ctz, ?brev, ?mov⟩
  case div | rem => exact gives_of_iaElem (count := false) (fun _ => rfl) rfl
  case popc | clz | ctz => exact gives_of_iaElem (count := true) (fun _ => rfl) rfl
  all_goals exact gives_of_iaPlain (fun _ => rfl) rfl


/-! ### Word forms with rules of their own (R173, R175, R176, R178 to R182) -/

/-- Two sources, or one and an immediate, leave no third operand. -/
theorem nth_iaOperands_two (f : GFmt) (p q : Nat × Elem) (imm : Nat) (t : Thread) :
    nth ((iaOperands f [p, q] imm).map (Opnd.val t)) 2 = 0 := by
  unfold iaOperands nth
  by_cases h : iaIb f = true <;> simp [h]

theorem readInt_zero (nat : Bool) (n : Nat) : readInt nat n 0 = 0 := by
  cases nat <;> simp [readInt, sext]

/-- The carry out as a number. -/
theorem ite_carryOf (a b c : Nat) : (if carryOf a b c then 1 else 0 : Nat) = if 2 ^ 32 ≤ a + b + c then 1 else 0 :=
  ite_congr (propext decide_eq_true_iff) (fun _ => rfl) (fun _ => rfl)

/-- The borrow out as a number. -/
theorem ite_borrowOf (a b c : Nat) : (if borrowOf a b c then 1 else 0 : Nat) = if a < b + c then 1 else 0 :=
  ite_congr (propext decide_eq_true_iff) (fun _ => rfl) (fun _ => rfl)

/-- ADDC (R173): the sum with the carry in, modulo 2^32, and the carry out. -/
theorem gives_addc (f : GFmt) : Gives (.addc f) [.v f.rd 1, .p (f.rc % 8)] (fun s l =>
    let n := iaWordArg f [wordSpec f, wordSpec f] 0 0 (s.lane l) + iaWordArg f [wordSpec f, wordSpec f] 0 1 (s.lane l)
      + (if (s.lane l).pred (f.rc % 8) then 1 else 0)
    [n % 2 ^ 32, if 2 ^ 32 ≤ n then 1 else 0]) := by
  refine gives_of_registerOp (fun _ => rfl) rfl (fun s l => ?_)
  simp only [carryAlu, iaWord, Bool.false_eq_true, if_false, ite_carryOf]
  rfl

/-- SUBB (R173): the difference less the borrow in, modulo 2^32, and the borrow out. -/
theorem gives_subb (f : GFmt) : Gives (.subb f) [.v f.rd 1, .p (f.rc % 8)] (fun s l =>
    let a := iaWordArg f [wordSpec f, wordSpec f] 0 0 (s.lane l)
    let b := iaWordArg f [wordSpec f, wordSpec f] 0 1 (s.lane l) + (if (s.lane l).pred (f.rc % 8) then 1 else 0)
    [wrap 32 ((a : Int) - b), if a < b then 1 else 0]) := by
  refine gives_of_registerOp (fun _ => rfl) rfl (fun s l => ?_)
  simp only [carryAlu, iaWord, if_true, ite_borrowOf, Int.sub_sub]
  rfl

/-- MULW (R172): the exact product of two words; there is no addend. -/
theorem gives_mulw (f : GFmt) : Gives (.mulw f) [.v f.rd 2] (fun s l =>
    let arg k := iaWordArg f [wordSpec f, wordSpec f] (wrap 32 (readInt (iaNat f) 8 f.rc)) k (s.lane l)
    [wrap 64 (readInt (iaNat f) 32 (arg 0) * readInt (iaNat f) 32 (arg 1))]) := by
  refine gives_of_registerOp (fun _ => rfl) rfl (fun s l => ?_)
  simp only [wideAlu, iaWord, Bool.false_eq_true, if_false, List.append_nil]
  rw [nth_iaOperands_two, readInt_zero, Int.add_zero]
  rfl

/-- FSHL (R175): the upper word of the joined pair shifted left. -/
theorem gives_fshl (f : GFmt) : Gives (.fshl f) [.v f.rd 1] (fun s l =>
    let arg k := iaWordArg f [wordSpec f, wordSpec f, wordSpec f] (wrap 32 (readInt (iaNat f) 8 f.rc)) k (s.lane l)
    [(arg 0 * 2 ^ 32 + arg 1) * 2 ^ (arg 2 % 32) / 2 ^ 32 % 2 ^ 32]) := by
  refine gives_of_registerOp (fun _ => rfl) rfl (fun s l => ?_)
  simp only [iaWord, bits, Nat.shiftRight_eq_div_pow]
  rfl

/-- BFI (R176): N in bits [15:8] of C, P in bits [7:0]. -/
theorem gives_bfi (f : GFmt) : Gives (.bfi f) (iaDst f) (fun s l =>
    let e := (regsOf (iaWidth f), intElem (iaNat f) (iaWidth f))
    let arg k := iaWordArg f [e, e, wordSpec f] f.rc k (s.lane l)
    let p := arg 2 % 256
    let mask := (2 ^ (arg 2 / 256 % 256) - 1) * 2 ^ p % 2 ^ iaWidth f
    [(arg 1 &&& (2 ^ iaWidth f - 1 - mask)) ||| (arg 0 * 2 ^ p &&& mask)]) := by
  refine gives_of_registerOp (fun _ => rfl) rfl (fun s l => ?_)
  simp only [fieldAlu, iaWord, if_true, bfi, bits, Nat.shiftRight_eq_div_pow]
  rfl

/-- MOVI (R182): one word, or a pair that the immediate is extended to. -/
theorem gives_movi (f : IFmt) : Gives (.movi f) [.v f.d.toNat (if f.sel = 1 then 2 else 1)]
    (fun _ _ => [if f.sel = 1 then wrap 64 (sext f.imm.toNat 32) else f.imm.toNat]) := by
  by_cases h : f.sel = 1
  · simp only [if_pos h]
    exact gives_of_registerOp (fun _ => congrArg some (if_pos h)) rfl (fun _ _ => rfl)
  · simp only [if_neg h]
    exact gives_of_registerOp (fun _ => congrArg some (if_neg h)) rfl (fun _ _ => rfl)

/-- Settles O2: the values of each word form's operation, the carries, the absent addend of MULW and the field positions being
those of the lemmas above. -/
theorem integerWords : Obligations.IntegerWords := by
  refine ⟨⟨fun f => ⟨gives_addc f, gives_subb f, gives_mulw f, ?madw, gives_fshl f, ?bfx, gives_bfi f, ?perm, ?sel, ?iset, ?lea⟩,
    fun f => ⟨gives_movi f, ?movh⟩⟩, fun f => ⟨?sad, ?dot⟩⟩
  case dot =>
    rintro w i (⟨rfl, rfl⟩ | ⟨rfl, rfl⟩)
    · exact gives_of_registerOp (fun _ => rfl) rfl (fun _ _ => rfl)
    · exact gives_of_registerOp (fun _ => rfl) rfl (fun _ _ => rfl)
  all_goals exact gives_of_registerOp (fun _ => rfl) rfl (fun _ _ => rfl)

end Sys2Proof.Machine
end

section
/-!
PROOFS. What memory, the store queues and the yard do leaves the issuing group as it is: the lemmas go up the calls from the
lines of memory to a lane's departure to the yard.
-/

namespace Sys2Proof.Machine

/-- A fold of operations that leave the issuing group leaves it. -/
theorem foldl_cur {α : Type} {g : State → α → State} (h : ∀ x a, (g x a).cur = x.cur) (xs : List α) (s : State) :
    (xs.foldl g s).cur = s.cur := by
  induction xs generalizing s with
  | nil => rfl
  | cons x xs ih => rw [List.foldl_cons, ih, h]

/-- The same with each result named, so that a check of the types compares results, not the fields of what they compute to. -/
theorem foldl_cur_of_eq {α : Type} {g : State → α → State} (h : ∀ x a y, y = g x a → y.cur = x.cur) (xs : List α) (s : State) :
    (xs.foldl g s).cur = s.cur :=
  foldl_cur (fun x a => h x a _ rfl) xs s

/-! ### Lines and bytes of memory -/

@[simp] theorem State.fillL1_cur (s : State) (who line : Nat) : (s.fillL1 who line).cur = s.cur := by
  unfold State.fillL1; split <;> rfl

@[simp] theorem State.dropL1_cur (s : State) (agent line : Nat) : (s.dropL1 agent line).cur = s.cur := rfl

@[simp] theorem State.setMoesi_cur (s : State) (cluster line : Nat) (m : Option Moesi) : (s.setMoesi cluster line m).cur = s.cur := by
  cases m <;> rfl

@[simp] theorem invalidateOthers_cur (s : State) (cluster line : Nat) : (invalidateOthers s cluster line).cur = s.cur :=
  foldl_cur (fun x h => by split <;> simp) _ s

@[simp] theorem flushLine_cur (s : State) (line : Nat) : (flushLine s line).cur = s.cur := invalidateOthers_cur s 511 line

@[simp] theorem flumeRdX_cur (s : State) (cluster line : Nat) : (flumeRdX s cluster line).cur = s.cur := by simp [flumeRdX]

@[simp] theorem flumeUpg_cur (s : State) (cluster line : Nat) : (flumeUpg s cluster line).cur = s.cur := by simp [flumeUpg]

@[simp] theorem State.keepBacking_cur (s : State) (line : Nat) : (s.keepBacking line).cur = s.cur := by
  unfold State.keepBacking; split <;> rfl

@[simp] theorem cachedWrite_cur (s : State) (who line : Nat) : (cachedWrite s who line).cur = s.cur := by
  unfold cachedWrite
  dsimp only
  split
  · exact flushLine_cur s line
  · rw [State.fillL1_cur, State.dropL1_cur]
    split <;> simp

@[simp] theorem State.putBytes_cur (s : State) (k : Nat) (l : Loc) (bs : List Byte) : (s.putBytes k l bs).cur = s.cur := by
  cases l with
  | pa a => unfold State.putBytes; dsimp only; split <;> rfl
  | sp st o => rfl

@[simp] theorem State.setLabelAt_cur (s : State) (a : Nat) (l : Label) : (s.setLabelAt a l).cur = s.cur := by
  unfold State.setLabelAt; split <;> rfl

@[simp] theorem State.raiseLabel_cur (s : State) (l : Loc) (lab : Label) : (s.raiseLabel l lab).cur = s.cur := by
  cases l with
  | pa a => unfold State.raiseLabel; dsimp only; split <;> simp
  | sp st o => rfl

@[simp] theorem State.raiseSpan_cur (s : State) (l : Loc) (n : Nat) (lab : Label) : (s.raiseSpan l n lab).cur = s.cur :=
  foldl_cur (fun x _ => State.raiseLabel_cur x _ lab) _ s

@[simp] theorem State.clearBad_cur (s : State) (l : Loc) : (s.clearBad l).cur = s.cur := by cases l <;> rfl

@[simp] theorem State.breakReservations_cur (s : State) (l : Loc) : (s.breakReservations l).cur = s.cur := by cases l <;> rfl

@[simp] theorem State.wakeLine_cur (s : State) (l : Loc) : (s.wakeLine l).cur = s.cur := rfl

@[simp] theorem State.setTagAt_cur (s : State) (a t : Nat) : (s.setTagAt a t).cur = s.cur := by
  unfold State.setTagAt; split <;> rfl

@[simp] theorem performPiece_cur (s : State) (who : Option Nat) (k : Nat) (l : Loc) (bs : List Byte) (lab : Label) :
    (performPiece s who k l bs lab).cur = s.cur := by
  unfold performPiece
  dsimp only
  rw [State.wakeLine_cur, State.breakReservations_cur, apply_ite State.cur, foldl_cur (fun x i => by split <;> simp), ite_self,
    State.raiseSpan_cur, State.putBytes_cur]
  split <;> simp

@[simp] theorem State.perform_cur (s : State) (who : Option Nat) (k : Nat) (l : Loc) (bs : List Byte) (lab : Label) :
    (s.perform who k l bs lab).cur = s.cur := by
  unfold State.perform
  split
  · rfl
  · exact foldl_cur (fun x _ => performPiece_cur x who k _ _ lab) _ s

@[simp] theorem State.deviceStore_cur (s : State) (k a : Nat) (bs : List Byte) : (s.deviceStore k a bs).cur = s.cur := by
  unfold State.deviceStore; exact State.perform_cur s none k (.pa a) bs 0

/-! ### Errors and failures -/

@[simp] theorem State.setField_cur (s : State) (pa lo n v : Nat) : (s.setField pa lo n v).cur = s.cur := by
  unfold State.setField; exact State.setReg_cur s pa _

@[simp] theorem State.logError_cur (s : State) (kind sev vf pa loc cnt info : Nat) :
    (s.logError kind sev vf pa loc cnt info).cur = s.cur := by
  simp only [State.logError, apply_ite State.cur, State.setField_cur, State.deviceStore_cur, ite_self]

@[simp] theorem State.freeSlot_cur (s : State) (sk : Nat) : (s.freeSlot sk).cur = s.cur := rfl

@[simp] theorem State.freeSlots_cur (s : State) (stand : Nat) : (s.freeSlots stand).cur = s.cur := foldl_cur State.freeSlot_cur _ s

@[simp] theorem State.releaseStand_cur (s : State) (stand : Nat) : (s.releaseStand stand).cur = s.cur := by
  unfold State.releaseStand; exact State.freeSlots_cur s stand

@[simp] theorem State.dropHandler_cur (s : State) (v : Nat) : (s.dropHandler v).cur = s.cur := by
  simp [State.dropHandler]

@[simp] theorem State.addExitLabel_cur (s : State) (stand : Nat) (l : Label) : (s.addExitLabel stand l).cur = s.cur := rfl

@[simp] theorem State.tearGrid_cur (s : State) (g : Nat) : (s.tearGrid g).cur = s.cur := by
  unfold State.tearGrid; exact foldl_cur (fun x k => by simp) _ s

@[simp] theorem State.failOne_cur (s : State) (g : Nat) (f : Failure) : (s.failOne g f).cur = s.cur := by
  unfold State.failOne
  split
  · split
    · rfl
    · split
      · split <;> rfl
      · exact State.tearGrid_cur s g
  · rfl

@[simp] theorem State.failGrid_cur (s : State) (g : Nat) (f : Failure) : (s.failGrid g f).cur = s.cur :=
  (foldl_cur (fun x k => State.failOne_cur x k _) _ _).trans (State.failOne_cur s g f)

@[simp] theorem State.failStand_cur (s : State) (stand : Nat) (code : Byte) (rcd : Option Nat) (due : Bool) :
    (s.failStand stand code rcd due).cur = s.cur := by
  simp only [State.failStand, State.failStandAt, apply_ite State.cur, State.logError_cur, State.updThread_cur, State.dropHandler_cur,
    State.failGrid_cur, ite_self]

/-! ### Window stores and store queues -/

@[simp] theorem State.tagWindow_cur (s : State) (v sset wrc pa tag : Nat) (lab : Label) :
    (s.tagWindow v sset wrc pa tag lab).cur = s.cur := by
  unfold State.tagWindow
  refine foldl_cur_of_eq (fun x c y e => ?_) _ s
  have hy : y = (x.setTagAt (pa - wrc * 0x4000000 + c * 0x4000000) tag).raiseLabel
      (.pa (pa - wrc * 0x4000000 + c * 0x4000000)) lab := e
  rw [hy, State.raiseLabel_cur, State.setTagAt_cur]

@[simp] theorem State.raiseWindow_cur (s : State) (v sset wrc pa : Nat) (lab : Label) :
    (s.raiseWindow v sset wrc pa lab).cur = s.cur := by
  unfold State.raiseWindow
  exact foldl_cur_of_eq (fun x c y e => by rw [e]; simp) _ s

@[simp] theorem State.performWindow_cur (s : State) (v sset wrc pa : Nat) (bs : List Byte) (lab : Label) :
    (s.performWindow v sset wrc pa bs lab).cur = s.cur := by
  unfold State.performWindow; exact foldl_cur (fun x c => by simp) _ s

@[simp] theorem State.applyWindow_cur (s : State) (v sset wrc pa : Nat) (bs : List Byte) (tag : Option Nat) (lab : Label) :
    (s.applyWindow v sset wrc pa bs tag lab).cur = s.cur := by
  unfold State.applyWindow
  cases tag with
  | some t => simp
  | none => dsimp only; split <;> simp

@[simp] theorem State.lapOne_cur (s : State) (cluster : Nat) : (s.lapOne cluster).cur = s.cur := by
  unfold State.lapOne
  split
  · rfl
  · dsimp only
    split <;> simp

@[simp] theorem State.lapAll_cur (s : State) (cluster : Nat) : (s.lapAll cluster).cur = s.cur :=
  foldl_cur (fun x _ => State.lapOne_cur x cluster) _ s

@[simp] theorem State.performStore_cur (s : State) (stand : Nat) (nc : Bool) (e : StoreEnt) :
    (s.performStore stand nc e).cur = s.cur := by
  unfold State.performStore
  dsimp only
  split
  · rfl
  · split
    · simp
    · split <;> simp

@[simp] theorem State.drainOne_cur (s : State) (thread : Nat) : (s.drainOne thread).cur = s.cur := by
  unfold State.drainOne
  dsimp only
  split
  · rfl
  · split <;> simp

@[simp] theorem State.drainQ_cur (s : State) (thread : Nat) : (s.drainQ thread).cur = s.cur :=
  foldl_cur (fun x _ => State.drainOne_cur x thread) _ s

/-! ### Departure to the yard -/

@[simp] theorem State.leaveJoins_cur (s : State) (stand member : Nat) : (s.leaveJoins stand member).cur = s.cur := rfl

@[simp] theorem State.dropLane_cur (s : State) (thread : Nat) : (s.dropLane thread).cur = s.cur := by
  unfold State.dropLane
  split
  · rfl
  · dsimp only
    split <;> simp

/-- A lane that departs to the yard leaves the issuing group as it was noted at the issue. -/
@[simp] theorem State.toYard_cur (s : State) (l n : Nat) (target : PC) (atQueue : Bool) (lab : Label) :
    (s.toYard l n target atQueue lab).cur = s.cur := by
  simp [State.toYard]

@[simp] theorem State.takeTransfer_cur (s : State) (l t : Nat) (lab : Label) : (s.takeTransfer l t lab).cur = s.cur := rfl

end Sys2Proof.Machine
end
section
/-!
PROOFS. Control and system instructions (spec/07): one rule for what an instruction does where nothing stops it, one for an
instruction that writes registers from the state of the machine, one for lanes that all fault; the statements are its uses.
-/

namespace Sys2Proof.Machine

/-! ### Lanes that raise nothing -/

/-- A lane raises nothing when neither its guard nor any source is poisoned. -/
theorem State.raiseTok_eq_none {s : State} {gp : BitVec 3} {srcs : List Src} {l : Nat} :
    s.raiseTok gp srcs l = none ↔ (s.lane l).predTok? gp.toNat = none ∧ ∀ x ∈ srcs, x.token (s.lane l) = none := by
  simp [State.raiseTok, Src.token]

/-- The guard of a lane that raises nothing carries no token. -/
theorem State.predTok_of_raiseTok {s : State} {gp : BitVec 3} {srcs : List Src} {l : Nat} (h : s.raiseTok gp srcs l = none) :
    (s.lane l).predTok? gp.toNat = none := (State.raiseTok_eq_none.mp h).1

/-- A lane that raises nothing has no poisoned guard. -/
theorem State.predPoisoned_of_raiseTok {s : State} {gp : BitVec 3} {srcs : List Src} {l : Nat} (h : s.raiseTok gp srcs l = none) :
    (s.lane l).predPoisoned gp.toNat = false := by
  have hg := State.predTok_of_raiseTok h
  unfold Thread.predTok? at hg
  unfold Thread.predPoisoned
  by_cases h7 : gp.toNat = 7
  · simp [h7]
  · rw [if_neg h7] at hg
    simp [hg]

/-- Where no lane raises, every lane passes the check that only raises. -/
theorem State.goodLanes_raiseOnly {s : State} {gp : BitVec 3} {srcs : List Src} {ex : List Nat}
    (h : ∀ l ∈ ex, s.raiseTok gp srcs l = none) :
    goodLanes (checkLanes (State.raiseOnly gp srcs) s ex).1 = ex.map (fun l => (l, ())) := by
  have hp : checkLanes (State.raiseOnly gp srcs) s ex = _ := State.raiseOnly_passes h
  rw [hp]
  exact goodLanes_ok _

/-! ### What an instruction with a use does where nothing stops it -/

/-- An instruction that runs has an executing lane. -/
theorem State.Runs.ne_nil {s : State} {i : Instr} {gp : BitVec 3} {ex : List Nat} (h : s.Runs i gp ex) : ex ≠ [] := by
  obtain ⟨_, _, _, _, _, hn⟩ := h
  exact hn

/-- An instruction that begins with `State.issue` acts as its body does on the executing lanes. -/
theorem actsIf_of {i : Instr} {srcs : State → List Src} {ok : State → BitVec 3 → Nat → Prop}
    {t : State → BitVec 3 → List Nat → State} {gn : BitVec 1} {gp : BitVec 3} {bad : State → Option Flt}
    {body : State → List Nat → State}
    (hx : ∀ s : State, s.useOf i = some ⟨gn, gp, bad s⟩ ∧ exec i s = .next (s.issue gn gp (bad s) (body s)))
    (hb : ∀ (s : State) (ex : List Nat), ex ≠ [] → (∀ l ∈ ex, s.raiseTok gp (srcs s) l = none) → (∀ l ∈ ex, ok s gp l) →
      body s ex = t s gp ex) : ActsIf i srcs ok t := by
  intro s gp' ex hr hc hok
  obtain ⟨hu, he⟩ := hx s
  obtain ⟨hbad, rfl, hl, hn⟩ := hr.use hu
  rw [he, State.issue_runs hbad (by rw [hl]; exact hn), hl, hb s ex hn hc hok]

/-- An instruction whose lanes only raise, and which then acts for the lanes that did not. -/
theorem acts_of_eachLane {i : Instr} {srcs : List Src} {t : State → BitVec 3 → List Nat → State} {gn : BitVec 1} {gp : BitVec 3}
    {bad : State → Option Flt} {act : State → State → List (Nat × Unit) → State}
    (hx : ∀ s : State, s.useOf i = some ⟨gn, gp, bad s⟩
      ∧ exec i s = .next (s.issue gn gp (bad s) (fun ex => s.eachLane ex (State.raiseOnly gp srcs) (act s))))
    (ht : ∀ (s : State) (ex : List Nat), ex ≠ [] → (act s s (ex.map (fun l => (l, ())))).advance s.cur.lanes = t s gp ex) :
    Acts i srcs t :=
  actsIf_of hx (fun s ex hn hc _ => (State.eachLane_clean (act s) hn hc).trans (ht s ex hn))

/-- An instruction that commits results to registers and goes on: its outputs are values where no lane raises. -/
theorem writes_of {i : Instr} {srcs : List Src} {ds : State → List Dst} {val : State → List Nat → Nat → List Nat}
    {lab : State → BitVec 3 → List Nat → Label} {gn : BitVec 1} {gp : BitVec 3} {bad : State → Option Flt}
    {lab' : State → List Nat → Label} {out : State → List Nat → Nat → List Out}
    (hx : ∀ s : State, s.useOf i = some ⟨gn, gp, bad s⟩ ∧ exec i s = .next (s.issue gn gp (bad s) (fun ex =>
      (s.commit ex (ds s) (lab' s ex) (ex.map (fun l => (l, out s ex l)))).advance s.cur.lanes)))
    (hl : ∀ (s : State) (ex : List Nat), lab' s ex = lab s gp ex)
    (ho : ∀ (s : State) (ex : List Nat), (∀ l ∈ ex, s.raiseTok gp srcs l = none) →
      ∀ l ∈ ex, out s ex l = (val s ex l).map .val) :
    Writes i srcs ds val lab := by
  intro s gp' ex hr hord hc
  obtain ⟨hu, he⟩ := hx s
  obtain ⟨hbad, rfl, hex, hn⟩ := hr.use hu
  rw [he, State.issue_runs hbad (by rw [hex]; exact hn), hex, hl,
    List.map_congr_left (fun l hl => congrArg (Prod.mk l) (ho s ex hc l hl))]
  refine ⟨_, rfl, State.commit_advance s ex _ _ _ hord hn (hex ▸ State.execLanes_sublist s gn gp) ?_⟩
  intro l o h
  obtain ⟨v, -, rfl⟩ := List.mem_map.mp h
  trivial

/-! ### Transfers (R149 to R153) -/

/-- An instruction that issues as a transfer is one. -/
theorem transfers_of {i : Instr} {gn : BitVec 1} {gp : BitVec 3} {bad : State → Option Flt} {srcs : List Src} {link : Option Nat}
    {target : State → Thread → Int × Option Flt}
    (hx : ∀ s : State, s.useOf i = some ⟨gn, gp, bad s⟩ ∧ exec i s = .next (s.runTransfer gn gp (bad s) srcs link (target s))) :
    Transfers i srcs link (fun s l => target s (s.lane l)) := by
  intro s gp' ex hr hc hok
  obtain ⟨hu, he⟩ := hx s
  obtain ⟨hbad, rfl, hl, hn⟩ := hr.use hu
  exact he.trans (congrArg Host.Outcome.next (State.runTransfer_passes hbad hl hn hc hok))

/-! ### Regrouping (R34 to R36, R151) -/

/-- A regroup with a side without lanes, or without room in the yard, is an ordinary divergent branch. -/
theorem State.regroup_diverges {s : State} {taken others : List Nat} {n : Nat} (t : Nat) (lab : Label)
    (h : taken = [] ∨ others = []
      ∨ s.yardRoom n (if taken.length ≤ others.length then taken.length else others.length) = false) :
    s.regroup taken others t n lab = s.divergentBranch taken others t lab := by
  unfold State.regroup
  rcases h with rfl | rfl | h
  · simp
  · simp
  · rw [← apply_ite List.length] at h
    simp [h]

/-- Otherwise the lanes that take the branch depart where they are not the larger side. -/
theorem State.regroup_taken_departs {s : State} {taken others : List Nat} {n : Nat} (t : Nat) (lab : Label) (ht : taken ≠ [])
    (ho : others ≠ []) (hle : taken.length ≤ others.length) (hy : s.yardRoom n taken.length = true) :
    s.regroup taken others t n lab
      = taken.foldl (fun s l => s.toYard l n ⟨t, 0⟩ false lab) (s.sendLanes others ⟨s.cur.next, 0⟩) := by
  simp [State.regroup, State.divergentBranch, ht, ho, hle, hy]

/-- Lanes that depart one after another to the next clause: the clause is that of the issue throughout. -/
theorem State.foldl_toYard_next (n c : Nat) (lab : Label) (ls : List Nat) (a : State) (h : a.cur.next = c) :
    ls.foldl (fun x l => x.toYard l n ⟨c, 0⟩ false lab) a = ls.foldl (fun x l => x.toYard l n ⟨x.cur.next, 0⟩ false lab) a := by
  induction ls generalizing a with
  | nil => rfl
  | cons l ls ih =>
    rw [List.foldl_cons, List.foldl_cons, h]
    exact ih _ (by rw [State.toYard_cur, h])

/-- And the lanes that fall through depart where they are the smaller side. -/
theorem State.regroup_others_depart {s : State} {taken others : List Nat} {n : Nat} (t : Nat) (lab : Label) (ht : taken ≠ [])
    (ho : others ≠ []) (hlt : ¬ taken.length ≤ others.length) (hy : s.yardRoom n others.length = true) :
    s.regroup taken others t n lab
      = others.foldl (fun x l => x.toYard l n ⟨x.cur.next, 0⟩ false lab) (taken.foldl (fun x l => x.takeTransfer l t lab) s) := by
  rw [← State.foldl_toYard_next n s.cur.next lab others _ (congrArg Cur.next (foldl_cur (fun x l => x.takeTransfer_cur l t lab) taken s))]
  simp [State.regroup, State.divergentBranch, State.sendLanes, ht, ho, hlt, hy]

/-- The lanes that a test selects, among lanes paired with it. -/
theorem map_fst_filter_snd (p : Nat → Bool) (ex : List Nat) :
    ((ex.map (fun l => (l, p l))).filter Prod.snd).map Prod.fst = ex.filter p := by
  simp [List.filter_map, List.map_map, Function.comp_def]

/-- The lanes that a test leaves out, among lanes paired with it. -/
theorem map_fst_filter_not_snd (p : Nat → Bool) (ex : List Nat) :
    ((ex.map (fun l => (l, p l))).filter (fun x => !x.2)).map Prod.fst = ex.filter (fun l => !p l) := by
  simp [List.filter_map, List.map_map, Function.comp_def]

/-- The check of RGRP passes a lane that raises nothing and whose target, if it takes it, does not fault. -/
theorem State.rgrpCheck_ok {f : IFmt} {c : Nat} {s : State} {l : Nat} (hc : s.raiseTok f.gp [.p c] l = none)
    (ht : (s.lane l).pred c = true → targetFlt (s.directTarget f.imm.toNat) = none) :
    State.rgrpCheck f c s l = (.ok ((s.lane l).pred c), s) := by
  unfold State.rgrpCheck
  rw [State.afterRaise_ok hc]
  cases hp : (s.lane l).pred c with
  | true => simp [ht hp]
  | false => cases targetFlt (s.directTarget f.imm.toNat) <;> simp

/-- Every lane passes the check of RGRP. -/
theorem State.rgrpCheck_passes {f : IFmt} {c : Nat} {s : State} {ex : List Nat} (hc : ∀ l ∈ ex, s.raiseTok f.gp [.p c] l = none)
    (ht : ∀ l ∈ ex, (s.lane l).pred c = true → targetFlt (s.directTarget f.imm.toNat) = none) :
    s.Passes (State.rgrpCheck f c) ex (ex.map (fun l => (l, (s.lane l).pred c))) s :=
  State.passes_of (fun l hl => State.rgrpCheck_ok (hc l hl) (ht l hl))

/-- Settles O11: the transfers are `runTransfer` with their targets; RGRP splits its lanes by predicate `c`, and its regroup is the
case that the statement gives. -/
theorem controlTransfers : Obligations.ControlTransfers := by
  refine ⟨⟨fun f => ⟨?bra, ?call⟩, fun f => ⟨?brx, ?ret, ?callx⟩⟩, fun f => ?rgrp⟩
  case rgrp =>
    refine actsIf_of (fun _ => ⟨rfl, rfl⟩) (fun s ex hn hc ht => ?_)
    rw [State.eachLaneStay_passes _ hn (State.rgrpCheck_passes hc ht)]
    simp only [map_fst_filter_snd (fun l => (s.lane l).pred _), map_fst_filter_not_snd (fun l => (s.lane l).pred _), map_fst_map]
    generalize ex.filter (fun l => (s.lane l).pred _) = yes
    generalize ex.filter (fun l => !(s.lane l).pred _) = no
    refine congrArg (fun r => State.advance r (s.othersOf ex)) ?_
    by_cases hstay : yes = [] ∨ no = []
        ∨ s.yardRoom (f.d.toNat + 1) (if yes.length ≤ no.length then yes.length else no.length) = false
    · exact (State.regroup_diverges _ _ hstay).trans (if_pos hstay).symm
    · rw [if_neg hstay]
      obtain ⟨hy, hn, hroom⟩ : yes ≠ [] ∧ no ≠ []
          ∧ s.yardRoom (f.d.toNat + 1) (if yes.length ≤ no.length then yes.length else no.length) = true := by
        simpa using hstay
      by_cases hle : yes.length ≤ no.length
      · rw [if_pos hle] at hroom ⊢
        exact State.regroup_taken_departs _ _ hy hn hle hroom
      · rw [if_neg hle] at hroom ⊢
        exact State.regroup_others_depart _ _ hy hn hle hroom
  case bra | call =>
    exact transfers_of (target := fun s _ => (s.directTarget f.imm.toNat, targetFlt (s.directTarget f.imm.toNat))) (fun _ => ⟨rfl, rfl⟩)
  all_goals exact transfers_of (target := fun _ => indirectTarget f.ra) (fun _ => ⟨rfl, rfl⟩)

/-! ### Plain control (R155, R158, R159, R166, R168 to R170) -/

/-- DBGBRK of a group that raises nothing goes on, and stops the quadrant where its debug unit is armed (R168). -/
theorem exec_dbgbrk {f : SFmt} {s : State} {gp : BitVec 3} {ex : List Nat} (hr : s.Runs (.dbgbrk f) gp ex)
    (hc : ∀ l ∈ ex, s.raiseTok gp [] l = none) :
    exec (.dbgbrk f) s = .next
      (if !s.onMgmt && decide (s.field (dbgAt s.cur.core (0x40 + 8 * s.cur.quad)) 0 1 = 1) then
        ((s.advance s.cur.lanes).stopQuad s.cur.core s.cur.quad 0 f.imm.toNat (s.cur.nextPC.hdr + s.cur.nextPC.idx)
          (ex.headD 0) []).finishStop s.cur.core s.cur.quad
      else s.advance s.cur.lanes) := by
  obtain ⟨hb, rfl, rfl, hn⟩ := hr.use rfl
  refine congrArg Host.Outcome.next ((State.issue_runs hb hn).trans ?_)
  dsimp only at hc hn ⊢
  rw [State.eachLane_clean _ hn hc, State.goodLanes_raiseOnly hc]
  obtain ⟨l, ls, hl⟩ := List.exists_cons_of_ne_nil hn
  rw [hl]
  rfl

/-- Settles O13: what each of these does after its raises, for a group that has an executing lane. -/
theorem plainControl : Obligations.PlainControl := by
  refine ⟨fun f g => ⟨?nop, ?chk, ?yield, ?trig, ?halt, ?unarmed, ?armed⟩, fun f => ?mark⟩
  case nop =>
    intro s gp ex hr
    obtain ⟨hb, rfl, rfl, hn⟩ := hr.use rfl
    exact congrArg Host.Outcome.next (State.issue_runs hb hn)
  case chk => exact acts_of_eachLane (fun _ => ⟨rfl, rfl⟩) (fun _ _ _ => rfl)
  case yield =>
    refine actsIf_of (fun _ => ⟨rfl, rfl⟩) (fun s ex hn hc _ => ?_)
    obtain ⟨l, ls, rfl⟩ := List.exists_cons_of_ne_nil hn
    simp [State.predPoisoned_of_raiseTok (hc l List.mem_cons_self)]
  case trig =>
    refine acts_of_eachLane (fun _ => ⟨rfl, rfl⟩) (fun s ex hn => ?_)
    simp only [fst_lanes, List.isEmpty_map, List.isEmpty_eq_false_iff.mpr hn, Bool.or_false]
  case halt =>
    refine acts_of_eachLane (fun _ => ⟨rfl, rfl⟩) (fun s ex hn => ?_)
    simp [hn]
  case unarmed =>
    intro s gp ex hr hc hok
    obtain ⟨l, ls, rfl⟩ := List.exists_cons_of_ne_nil hr.ne_nil
    rw [exec_dbgbrk hr hc, if_neg]
    rcases hok l List.mem_cons_self with h | h <;> simp [h]
  case armed =>
    intro s gp ex hr hc hok
    obtain ⟨l, ls, rfl⟩ := List.exists_cons_of_ne_nil hr.ne_nil
    obtain ⟨hm, hf⟩ := hok l List.mem_cons_self
    rw [exec_dbgbrk hr hc, if_pos (by simp [hm, hf])]
  case mark =>
    refine acts_of_eachLane (fun _ => ⟨rfl, rfl⟩) (fun s ex hn => ?_)
    obtain ⟨l, ls, rfl⟩ := List.exists_cons_of_ne_nil hn
    simp only [fst_lanes]
    rfl

/-! ### Reads of the state of the machine (R157, R167, R239, R261, R271, R281, R370) -/

/-- The guard of a lane that raises nothing gives a result no token. -/
theorem State.guard_token_of_raiseTok {s : State} {gp : BitVec 3} {srcs : List Src} {l : Nat} (h : s.raiseTok gp srcs l = none) :
    (Src.p gp.toNat).token (s.lane l) = none := State.predTok_of_raiseTok h

/-- L of R147 without sources and memory is the label of the guard and the flows. -/
theorem State.labelL_zero (s : State) (gp : Nat) (ex : List Nat) : s.labelL gp ex 0 0 = s.curSlot.predLabel gp ||| s.flows ex := by
  simp [State.labelL]

/-- L of R147 without sources is the label of the guard and the flows, with what was read. -/
theorem State.labelL_zero_srcs (s : State) (gp : Nat) (ex : List Nat) (m : Label) :
    s.labelL gp ex 0 m = s.curSlot.predLabel gp ||| s.flows ex ||| m := by
  simp only [State.labelL, BitVec.ofNat_eq_ofNat, BitVec.or_zero, BitVec.or_assoc, BitVec.or_comm m]

/-- A label read that is also that of the source counts once. -/
theorem State.labelL_self (s : State) (gp : Nat) (ex : List Nat) (m : Label) :
    s.labelL gp ex m m = s.curSlot.predLabel gp ||| s.flows ex ||| m := by
  unfold State.labelL
  rw [BitVec.or_assoc _ m m, BitVec.or_self, BitVec.or_assoc, BitVec.or_comm m, BitVec.or_assoc]

/-- The label of one register. -/
theorem Slot.srcLabel_reg (sl : Slot) (r : Nat) : sl.srcLabel [.v r 1] = sl.regLabel r := by
  simp [Slot.srcLabel, Src.label, Slot.spanLabel, Label.union, List.range_succ]

/-- Where no guard of the participants is poisoned, none gives ELECT its token. -/
theorem State.electTok_none {s : State} {gp : BitVec 3} {srcs : List Src} {ex : List Nat} (h : ∀ l ∈ ex, s.raiseTok gp srcs l = none) :
    ex.findSome? (fun l => ((s.lane l).predTok? gp.toNat).map (fun k => (l, k))) = none :=
  findSome?_none_of (fun l hl => by rw [State.predTok_of_raiseTok (h l hl)]; rfl)

/-- Settles O14: each of these commits one value to each lane and goes on; where no lane raises the value is no token. -/
theorem statusReads : Obligations.StatusReads := by
  refine fun f g x y => ⟨?elect, ?srd, ?profrd, ?mstat, ?xtest, ?rtest, fun hk => ?lbrd⟩
  case elect =>
    refine writes_of (fun _ => ⟨rfl, rfl⟩) (fun s ex => State.labelL_zero s _ ex) (fun s ex hc l hl => ?_)
    simp only [State.electTok_none hc, List.map_cons, List.map_nil]
  case srd =>
    refine writes_of (fun _ => ⟨rfl, rfl⟩) (fun s ex => State.labelL_zero_srcs s _ ex _) (fun s ex hc l hl => ?_)
    simp only [State.predTok_of_raiseTok (hc l hl), List.map_cons, List.map_nil]
  case profrd | xtest =>
    refine writes_of (fun _ => ⟨rfl, rfl⟩) (fun s ex => State.labelL_zero s _ ex) (fun s ex hc l hl => ?_)
    simp only [State.guard_token_of_raiseTok (hc l hl), List.map_cons, List.map_nil]
    rfl
  case mstat =>
    refine writes_of (fun _ => ⟨rfl, rfl⟩) (fun s ex => State.labelL_zero_srcs s _ ex _) (fun s ex hc l hl => ?_)
    simp only [State.guard_token_of_raiseTok (hc l hl), List.map_cons, List.map_nil]
  case rtest =>
    refine writes_of (fun _ => ⟨rfl, rfl⟩) (fun s ex => State.labelL_zero s _ ex) (fun s ex hc l hl => ?_)
    simp only [State.guard_token_of_raiseTok (hc l hl), List.map_cons, List.map_nil]
  case lbrd =>
    have hsrc : lbrdSrc f = .v f.ra 1 := by simp [lbrdSrc, hk]
    refine writes_of (fun s => ⟨rfl, congrArg (fun body => Host.Outcome.next (s.issue f.gn f.gp (illLbrd f s) body))
      (funext fun ex => if_pos hk)⟩) (fun s ex => ?_) (fun s ex hc l hl => ?_)
    · exact (congrArg (fun m => s.labelL f.gp.toNat ex m (s.curSlot.regLabel f.ra)) (hsrc ▸ Slot.srcLabel_reg s.curSlot f.ra)).trans
        (State.labelL_self s _ ex _)
    · have hs := (State.raiseTok_eq_none.mp (hc l hl)).2
      simp only [State.guard_token_of_raiseTok (hc l hl), hsrc, hs _ List.mem_cons_self, List.map_cons, List.map_nil]

/-! ### TRAP and IRET (R162, R163) -/

/-- A check that leaves the state alone and answers by the lane alone. -/
theorem checkLanes_of {α : Type} {s : State} {chk : State → Nat → Ans α × State} {ex : List Nat} {g : Nat → Ans α}
    (h : ∀ l ∈ ex, chk s l = (g l, s)) : checkLanes chk s ex = (ex.map (fun l => (l, g l)), s) := by
  induction ex with
  | nil => rfl
  | cons l ls ih => simp only [checkLanes, h l List.mem_cons_self, ih (fun m hm => h m (List.mem_cons_of_mem l hm)), List.map_cons]

theorem badLanes_bad {α : Type} (g : Nat → Flt) (ex : List Nat) :
    badLanes (ex.map (fun l => (l, (Ans.bad (g l) : Ans α)))) = ex.map (fun l => (l, g l)) := by
  induction ex with
  | nil => rfl
  | cons l ls ih => exact congrArg ((l, g l) :: ·) ih

theorem goodLanes_bad {α : Type} (g : Nat → Flt) (ex : List Nat) :
    goodLanes (ex.map (fun l => (l, (Ans.bad (g l) : Ans α)))) = [] := by
  induction ex with
  | nil => rfl
  | cons l ls ih => exact ih

theorem waitReason_bad {α : Type} (g : Nat → Flt) (ex : List Nat) :
    waitReason (ex.map (fun l => (l, (Ans.bad (g l) : Ans α)))) = none := by
  induction ex with
  | nil => rfl
  | cons l ls ih => exact ih

/-- Where every lane faults, the lanes park and the others go on. -/
theorem State.eachLane_bad {α : Type} {s : State} {chk : State → Nat → Ans α × State} {ex : List Nat} {g : Nat → Flt}
    (act : State → List (Nat × α) → State) (h : ∀ l ∈ ex, chk s l = (.bad (g l), s)) :
    s.eachLane ex chk act = (s.afterStop (s.park (ex.map (fun l => (l, g l))))).advance (s.othersOf ex) := by
  unfold State.eachLane State.eachLaneStay State.settleLanes
  rw [checkLanes_of h]
  simp only [badLanes_bad, goodLanes_bad, waitReason_bad, List.isEmpty_nil, if_true, List.append_nil, map_fst_map]

/-- TRAP of lanes that raise nothing parks them all, and the others go on (R162). -/
theorem exec_trap {f : SFmt} {s : State} {gp : BitVec 3} {ex : List Nat} (hr : s.Runs (.trap f) gp ex)
    (hc : ∀ l ∈ ex, s.raiseTok gp [] l = none) :
    exec (.trap f) s = .next ((s.afterStop (s.park (ex.map (fun l => (l, .plain 0x17 f.imm.toNat))))).advance (s.othersOf ex)) := by
  obtain ⟨hb, rfl, rfl, hn⟩ := hr.use rfl
  refine congrArg Host.Outcome.next ((State.issue_runs hb hn).trans ?_)
  exact State.eachLane_bad _ (fun l hl => State.afterRaise_ok (hc l hl))

/-- Settles O37: TRAP is the lemma above; IRET answers each lane by the case of its handle. -/
theorem trapsAndReturns : Obligations.TrapsAndReturns := by
  refine ⟨fun f s gp ex hr hc => exec_trap hr hc, fun f => ?iret⟩
  refine acts_of_eachLane (fun _ => ⟨rfl, rfl⟩) (fun s ex hn => ?_)
  simp only [fst_lanes]
  refine congrArg (fun r : List (Nat × List Out) × State =>
      (r.2.commit ex [.v f.rd 1] (s.labelL f.gp.toNat ex (s.curSlot.srcLabel [.v f.ra 1]) 0) r.1).advance s.cur.lanes)
    (congrArg (fun step => List.foldl step ([], s.drainLanes ex) ex) (funext fun x => funext fun l => ?_))
  unfold State.iretOne
  cases x.2.findSub ((s.lane l).reg f.ra) with
  | none => rfl
  | some b => dsimp only; split <;> rfl

end Sys2Proof.Machine
end

section
/-!
PROOFS. The exchanges between lanes (spec/08): a cross-lane instruction of class XL is its row of `laneOp`; where no participant
carries poison no candidate holds a token (R412), so that every destination receives the value.
-/

namespace Sys2Proof.Machine

/-! ### Cross-lane instructions and their table -/

/-- The meaning of a cross-lane instruction is the operation that the table gives it. -/
theorem exec_eq_runXLane {i : Instr} {s : State} {op : XLane} (h : laneOp i = some op) : exec i s = .next (s.runXLane op) := by
  unfold laneOp at h
  split at h <;> cases h <;> rfl

/-- The participants `ex` carry no poison into the operation: their guards and its sources hold no token (R412). -/
def XLane.Clean (op : XLane) (s : State) (ex : List Nat) : Prop :=
  ∀ l ∈ ex, s.guardTok op.gp l = none ∧ ∀ x ∈ op.srcs, x.token (s.lane l) = none

/-- The test of the statements is that of its executing lanes. -/
theorem XLane.clean_of_cleanLanes {op : XLane} {s : State} (h : s.cleanLanes op = true) : op.Clean s (s.execLanes op.gn op.gp) :=
  fun _ hl => ⟨State.cleanLanes_guard h hl, fun _ hx => State.cleanLanes_src h hl hx⟩

/-- A cross-lane instruction gives the values that its operation delivers to participants without poison. -/
theorem givesLanes_of_laneOp {i : Instr} {op : XLane} {val : State → List Nat → Nat → Nat} (hop : laneOp i = some op)
    (hv : ∀ s ex, op.Clean s ex → ∀ l ∈ ex, op.out s ex l = .val (val s ex l)) : GivesLanes i op.dst val := by
  refine givesLanes_of (fun s op' h => ?_)
  obtain rfl : op = op' := Option.some.inj (hop.symm.trans h)
  exact ⟨exec_eq_runXLane hop, rfl, fun hc => hv s _ (XLane.clean_of_cleanLanes hc)⟩

/-! ### What is read from another lane -/

/-- The lane that is read is a participant: the one asked for, or one that takes its place. -/
theorem source_or_self_mem {ex : List Nat} {j l : Nat} (hl : l ∈ ex) : (if j ∈ ex then j else l) ∈ ex := by
  by_cases hj : j ∈ ex
  · rwa [if_pos hj]
  · rwa [if_neg hj]

/-- A register B that is no source, or that holds no token, gives the lane operand none (R205). -/
theorem State.laneOperandTok_none {s : State} {f : GFmt} {l : Nat}
    (h : ∀ x ∈ (if f.s 4 1 = 1 then [] else [Src.v f.rb 1]), x.token (s.lane l) = none) : s.laneOperandTok f l = none := by
  unfold State.laneOperandTok
  by_cases hi : f.s 4 1 = 1
  · exact if_pos hi
  · rw [if_neg hi] at h ⊢
    exact h _ List.mem_cons_self

/-- SHFL (R206): the word of the source lane, or the own word where that lane is no participant. -/
theorem shflOp_out {f : GFmt} {s : State} {ex : List Nat} (hc : (shflOp f).Clean s ex) {l : Nat} (hl : l ∈ ex) :
    (shflOp f).out s ex l = .val ((s.lane (if shflLane (f.s 0 2) (segSize f) l (s.laneOperand f l) ∈ ex
      then shflLane (f.s 0 2) (segSize f) l (s.laneOperand f l) else l)).reg f.ra).toNat := by
  obtain ⟨hgl, hsl⟩ := hc l hl
  have hb := State.laneOperandTok_none (fun x hx => hsl x (List.mem_cons_of_mem _ hx))
  dsimp only [shflOp]
  generalize shflLane (f.s 0 2) (segSize f) l (s.laneOperand f l) = j
  obtain ⟨hgj, hsj⟩ := hc _ (source_or_self_mem (j := j) hl)
  have ha := hsj _ List.mem_cons_self
  simp only [List.contains_iff_mem]
  rewrite [State.firstTok_nil s _ (by simp only [List.forall_mem_cons]; exact ⟨hgl, hb, hgj, ha, List.forall_mem_nil _⟩)]
  rfl

/-- BCASTL (R208): the word of the lane that the lowest participant names, or of the lowest participant itself. -/
theorem bcastlOp_out {f : GFmt} {s : State} {ex : List Nat} (hc : (bcastlOp f).Clean s ex) {l : Nat} (hl : l ∈ ex) :
    (bcastlOp f).out s ex l = .val ((s.lane (if s.laneOperand f (ex.headD 0) % 32 ∈ ex
      then s.laneOperand f (ex.headD 0) % 32 else ex.headD 0)).reg f.ra).toNat := by
  have hlow : ex.headD 0 ∈ ex := by
    cases ex with
    | nil => cases hl
    | cons m ms => exact List.mem_cons_self
  obtain ⟨hg0, hs0⟩ := hc _ hlow
  have hb := State.laneOperandTok_none (fun x hx => hs0 x (List.mem_cons_of_mem _ hx))
  dsimp only [bcastlOp]
  generalize ex.headD 0 = low at *
  generalize s.laneOperand f low % 32 = j
  obtain ⟨hgj, hsj⟩ := hc _ (source_or_self_mem (j := j) hlow)
  have ha := hsj _ List.mem_cons_self
  simp only [List.contains_iff_mem]
  rewrite [State.firstTok_nil s _ (by
    simp only [List.forall_mem_cons]; exact ⟨hg0, hb, hgj, (hc l hl).1, ha, List.forall_mem_nil _⟩)]
  rfl

/-- SLIDE (R207): the word of lane `l - s`, where it is a participant of the segment; the lane's fill otherwise. -/
theorem slideOp_out {f : GFmt} {s : State} {ex : List Nat} (hc : (slideOp f).Clean s ex) {l : Nat} (hl : l ∈ ex) :
    (slideOp f).out s ex l = .val (
      let j : Int := (l : Int) - sext f.rc 8
      if (segBase (segSize f) l : Int) ≤ j ∧ j < (segBase (segSize f) l + segSize f : Nat) ∧ j.toNat ∈ ex
      then ((s.lane j.toNat).reg f.ra).toNat
      else if f.s 4 1 = 1 then wrap 32 (sext f.rb 8) else ((s.lane l).reg f.rb).toNat) := by
  obtain ⟨hgl, hsl⟩ := hc l hl
  dsimp only [slideOp]
  generalize (l : Int) - sext f.rc 8 = j
  by_cases hin : (segBase (segSize f) l : Int) ≤ j ∧ j < (segBase (segSize f) l + segSize f : Nat) ∧ j.toNat ∈ ex
  · obtain ⟨hgj, hsj⟩ := hc _ hin.2.2
    have ha := hsj _ List.mem_cons_self
    rewrite [if_pos (by simpa [and_assoc] using hin), if_pos hin, State.firstTok_nil s _ (by
      simp only [List.forall_mem_cons]; exact ⟨hgl, hgj, ha, List.forall_mem_nil _⟩)]
    rfl
  · have hfill := State.laneOperandTok_none (fun x hx => hsl x (List.mem_cons_of_mem _ hx))
    rewrite [if_neg (by simpa [and_assoc] using hin), if_neg hin, State.firstTok_nil s _ (by
      simp only [List.forall_mem_cons]; exact ⟨hgl, hfill, List.forall_mem_nil _⟩)]
    rfl

/-! ### What all participants give together -/

/-- Where no participant carries poison, none gives the result its token (R412). -/
theorem XLane.Clean.partnerTok {op : XLane} {s : State} {ex : List Nat} (hc : op.Clean s ex) {x : Src} (hx : x ∈ op.srcs) :
    s.partnerTok op.gp ex (fun l => x.token (s.lane l)) = none :=
  State.partnerTok_nil s op.gp ex _ (fun l hl => (hc l hl).1) (fun l hl => (hc l hl).2 x hx)

/-- Settles O9: each participant's destination receives the value of its operation's row, whose source lane is a participant and
whose masks and counts are over the participants. -/
theorem laneExchange : Obligations.LaneExchange := by
  refine fun f => ⟨?shfl, ?slide, ?bcastl, ?vote, ?matchLanes, ?lmask⟩
  case shfl => exact givesLanes_of_laneOp (op := shflOp f) rfl (fun s ex hc l hl => shflOp_out hc hl)
  case slide => exact givesLanes_of_laneOp (op := slideOp f) rfl (fun s ex hc l hl => slideOp_out hc hl)
  case bcastl => exact givesLanes_of_laneOp (op := bcastlOp f) rfl (fun s ex hc l hl => bcastlOp_out hc hl)
  case vote =>
    refine givesLanes_of_laneOp (op := voteOp f) rfl (fun s ex hc l hl => ?_)
    have ht : s.partnerTok f.gp ex (fun l => (s.lane l).predTok? (f.ra % 8)) = none := hc.partnerTok List.mem_cons_self
    dsimp only [voteOp]
    rewrite [ht]
    rcases f.s 0 2 with _ | _ | _ | k <;> rfl
  case matchLanes =>
    refine givesLanes_of_laneOp (op := matchLanesOp f) rfl (fun s ex hc l hl => ?_)
    have ht : s.partnerTok f.gp ex (fun m => s.regTok m f.ra (if f.s 0 2 = 3 then 2 else 1)) = none :=
      hc.partnerTok List.mem_cons_self
    dsimp only [matchLanesOp]
    rewrite [ht]
    rfl
  case lmask =>
    refine givesLanes_of_laneOp (op := lmaskOp f) rfl (fun s ex hc l hl => ?_)
    have hall : s.partnerTok f.gp ex (fun _ => none) = none :=
      State.partnerTok_nil s f.gp ex _ (fun m hm => (hc m hm).1) (fun _ _ => rfl)
    have hown : s.firstTok [(l, s.guardTok f.gp l)] = none :=
      State.firstTok_nil s _ (List.forall_mem_singleton.mpr (hc l hl).1)
    dsimp only [lmaskOp]
    rewrite [hall, hown, ite_self]
    rcases f.s 0 2 with _ | _ | _ | k <;> rfl

end Sys2Proof.Machine
end

section
/-!
PROOFS. The matrix engine's own state (spec/10): the instructions that act once for their group, and those whose lanes each have
columns, where the checks pass and the engine has no incomplete operation.
-/

namespace Sys2Proof.Machine

/-- A table filled with one value has it at every key of a range. -/
theorem Table.ofList_replicate {α : Type} (i n : Nat) (a : α) :
    Table.ofList i (List.replicate n a) = (List.range' i n).map (fun j => (j, a)) := by
  induction n generalizing i with
  | zero => rfl
  | succ n ih => exact congrArg ((i, a) :: ·) (ih (i + 1))

/-- The sixteen accumulators of a legal configuration are clear, under the label of its block (R254). -/
theorem clearedAccs (lab : Label) :
    Table.ofList 0 (List.replicate 16 { Acc.empty with label := lab })
      = (List.range 16).map (fun j => (j, { Acc.empty with label := lab })) := by
  rw [Table.ofList_replicate, List.range_eq_range']

/-! ### Instructions that act once for their group (R254 to R256, R258, R261) -/

/-- MCFG loads its block: a legal one is the configuration and clears the accumulators, an illegal one faults (R254). -/
theorem mcfg_completes (f : XFmt) :
    GroupCompletes (.mcfg f) [XFmt.blockSrc f] [] (State.mcfgCheck f) (fun s _ l ex t => s.withBlock f l ex t (fun s b =>
      if b.cfgOk (!s.withheld 5) then
        (s.updMx s.cur.quadKey (fun x => { x with
          cfg := some b
          accs := (List.range 16).map (fun j => (j, { Acc.empty with label := b.label })) })).advance s.cur.lanes
      else s.parkAll ex (.plain 0x14 0))) := by
  simp only [← clearedAccs]
  exact groupCompletes_of (fun _ => ⟨_, rfl, rfl⟩)

/-! ### Instructions whose lanes have columns (R257, R262, R412) -/

/-- The first column of WLOADR is B of the lowest lane, where B is not poisoned (R257). -/
theorem State.firstColumn_eq {s : State} {f : XFmt} {l : Nat} (h : (Src.v f.rb 1).token (s.lane l) = none) :
    s.firstColumn f l = ((s.lane l).reg f.rb).toNat := by
  simp [State.firstColumn, h]

/-- WLOADR under a configuration and an idle engine: after their stores, the lanes that pass load their columns in order. -/
theorem exec_wloadr {f : XFmt} {s s1 : State} {gp : BitVec 3} {ex : List Nat} {c : Block} {v : List (Nat × ColAns)}
    (hr : s.Runs (.wloadr f) gp ex) (hc : s.mx.cfg = some c) (hi : s.engineIdle = true)
    (hp : s.Passes (State.wloadrCheck f c (s.firstColumn f (ex.headD 0))) ex v s1) :
    let s2 := s1.drainLanes ex
    let lab := s2.labelL gp.toNat ex (s2.curSlot.srcLabel [.v f.ra 2, .v f.rb 1]) 0
    exec (.wloadr f) s = .next ((v.foldl (fun x p =>
      x.loadColumn f c lab p.1 (s.firstColumn f (ex.headD 0) + p.1) p.2) s2).advance s.cur.lanes) := by
  obtain ⟨hb, rfl, rfl, hn⟩ := hr.use rfl
  refine congrArg Host.Outcome.next ((State.issue_runs hb hn).trans ?_)
  simp only [hc, hi, Bool.not_true, Bool.false_eq_true, if_false]
  rw [State.eachLane_passes _ hn hp]
  rw [hp.lanes]

/-- MRDACC under its configuration and an idle engine: each lane reads its columns. -/
theorem exec_mrdacc {f : XFmt} {s : State} {gp : BitVec 3} {ex : List Nat} (hr : s.Runs (.mrdacc f) gp ex)
    (ha : s.accFault f = none) (hi : s.engineIdle = true) :
    let k := if s.wideNow then 2 else 1
    exec (.mrdacc f) s = .next (((ex.foldl (State.readAcc f s.mx k (2 ^ f.s 0 3)) s).labelDsts ex [.v f.rd (k * 2 ^ f.s 0 3)]
      (s.labelL gp.toNat ex (s.curSlot.srcLabel [.v f.rb 1]) (s.mx.accAt f.rj).label)).advance s.cur.lanes) := by
  obtain ⟨hb, rfl, rfl, hn⟩ := hr.use rfl
  refine congrArg Host.Outcome.next ((State.issue_runs hb hn).trans ?_)
  simp only [ha, hi, Bool.not_true, Bool.false_eq_true, if_false]

/-- MWRACC under its configuration and an idle engine: each lane that does not raise writes its columns, and the accumulator
takes the label. -/
theorem exec_mwracc {f : XFmt} {s : State} {gp : BitVec 3} {ex : List Nat} (hr : s.Runs (.mwracc f) gp ex)
    (ha : s.accFault f = none) (hi : s.engineIdle = true) (hc : ∀ l ∈ ex, s.raiseTok gp [] l = none) :
    let k := if s.wideNow then 2 else 1
    let lab := s.labelL gp.toNat ex (s.curSlot.srcLabel [.v f.ra (k * 2 ^ f.s 0 3), .v f.rb 1]) 0
    exec (.mwracc f) s = .next (((ex.foldl (State.writeAcc f k (2 ^ f.s 0 3)) s).updMx s.cur.quadKey (fun x =>
      x.updAcc f.rj (fun a => { a with label := a.label ||| lab }))).advance s.cur.lanes) := by
  obtain ⟨hb, rfl, rfl, hn⟩ := hr.use rfl
  refine congrArg Host.Outcome.next ((State.issue_runs hb hn).trans ?_)
  simp only [ha, hi, Bool.not_true, Bool.false_eq_true, if_false]
  rw [State.eachLane_clean _ hn hc]
  simp only [fst_lanes]

/-- Settles O33: the instructions of the group complete where their checks pass, those of the lanes by the lemmas above. -/
theorem matrixSetup : Obligations.MatrixSetup := by
  refine ⟨fun f => ⟨mcfg_completes f, ?epcfg, ?wload, ?wclr, ?mdrain⟩, fun f s s1 gp ex c v hr hc hi hp => ?wloadr,
    fun f => ⟨fun s gp ex hr ha hi => ?mrdacc, fun s gp ex hr ha hi hc => ?mwracc⟩⟩
  case wloadr => exact ⟨State.firstColumn_eq, exec_wloadr hr hc hi hp⟩
  case mrdacc => exact exec_mrdacc hr ha hi
  case mwracc => exact exec_mwracc hr ha hi hc
  all_goals exact groupCompletes_of (fun _ => ⟨_, rfl, rfl⟩)

end Sys2Proof.Machine
end

section
/-!
PROOFS. Decoding and encoding agree (spec/05): the laws of each instruction, taken together, and the words of each format put
together again from their fields.
-/

namespace Sys2Proof

/-! ### Every instruction is decoded from its own bytes -/

namespace Laws.Encoding

/-- The law of the encodings holds of every instruction: one line for each row of the opcode table. -/
theorem statement : ∀ i : Instr, Statement i
  | .nop f => nop f
  | .bra f => bra f
  | .call f => call f
  | .rgrp f => rgrp f
  | .brx f => brx f
  | .callx f => callx f
  | .ret f => ret f
  | .exit f => exit f
  | .jset f => jset f
  | .jwait f => jwait f
  | .jclr f => jclr f
  | .elect f => elect f
  | .yield f => yield f
  | .chk f => chk f
  | .trap f => trap f
  | .iret f => iret f
  | .launch f => launch f
  | .join f => join f
  | .trig f => trig f
  | .srd f => srd f
  | .swr f => swr f
  | .dbgbrk f => dbgbrk f
  | .mark f => mark f
  | .halt f => halt f
  | .add f => add f
  | .sub f => sub f
  | .addc f => addc f
  | .subb f => subb f
  | .neg f => neg f
  | .abs f => abs f
  | .mul f => mul f
  | .mulh f => mulh f
  | .mulw f => mulw f
  | .mad f => mad f
  | .madh f => madh f
  | .madw f => madw f
  | .div f => div f
  | .rem f => rem f
  | .min f => min f
  | .max f => max f
  | .and f => and f
  | .or f => or f
  | .xor f => xor f
  | .not f => not f
  | .andn f => andn f
  | .shl f => shl f
  | .shr f => shr f
  | .sar f => sar f
  | .rol f => rol f
  | .fshl f => fshl f
  | .bfx f => bfx f
  | .bfi f => bfi f
  | .popc f => popc f
  | .clz f => clz f
  | .ctz f => ctz f
  | .brev f => brev f
  | .perm f => perm f
  | .sel f => sel f
  | .iset f => iset f
  | .lea f => lea f
  | .sad f => sad f
  | .dot4 f => dot4 f
  | .dot8 f => dot8 f
  | .mov f => mov f
  | .movi f => movi f
  | .movh f => movh f
  | .pand f => pand f
  | .por f => por f
  | .pxor f => pxor f
  | .pnot f => pnot f
  | .pmov f => pmov f
  | .idx f => idx f
  | .fadd f => fadd f
  | .fsub f => fsub f
  | .fmul f => fmul f
  | .fma f => fma f
  | .fmin f => fmin f
  | .fmax f => fmax f
  | .fset f => fset f
  | .fclass f => fclass f
  | .frnd f => frnd f
  | .fscale f => fscale f
  | .fexpn f => fexpn f
  | .fmant f => fmant f
  | .fcopys f => fcopys f
  | .frcp f => frcp f
  | .frsq f => frsq f
  | .fsqrt f => fsqrt f
  | .fdiv f => fdiv f
  | .fexp2 f => fexp2 f
  | .flog2 f => flog2 f
  | .fsin f => fsin f
  | .fcos f => fcos f
  | .ftanh f => ftanh f
  | .fsigm f => fsigm f
  | .fdot2 f => fdot2 f
  | .fdot4 f => fdot4 f
  | .cvt f => cvt f
  | .cvts f => cvts f
  | .cvti f => cvti f
  | .pack f => pack f
  | .unpack f => unpack f
  | .addmin f => addmin f
  | .addmax f => addmax f
  | .fmini f => fmini f
  | .fmaxi f => fmaxi f
  | .imini f => imini f
  | .imaxi f => imaxi f
  | .shfl f => shfl f
  | .slide f => slide f
  | .bcastl f => bcastl f
  | .vote f => vote f
  | .matchLanes f => matchLanes f
  | .redux f => redux f
  | .scan f => scan f
  | .lmask f => lmask f
  | .pairWord x y => pairWord x y
  | .ld f => ld f
  | .ldS f => ldS f
  | .st f => st f
  | .storeDrain thread => storeDrain thread
  | .atom f => atom f
  | .atomc f => atomc f
  | .red f => red f
  | .fence f => fence f
  | .pref f => pref f
  | .evict f => evict f
  | .tagset f => tagset f
  | .tagget f => tagget f
  | .bcst f => bcst f
  | .pres f => pres f
  | .pclr f => pclr f
  | .dcq f => dcq f
  | .quantumCommit stand => quantumCommit stand
  | .qinit f => qinit f
  | .qenq f => qenq f
  | .qdeq f => qdeq f
  | .qpeek f => qpeek f
  | .waitw f => waitw f
  | .waitwReread thread => waitwReread thread
  | .bari f => bari f
  | .bara f => bara f
  | .barw f => barw f
  | .bars f => bars f
  | .linkedArrival stand bar => linkedArrival stand bar
  | .tbari f => tbari f
  | .tbare f => tbare f
  | .lbrd f => lbrd f
  | .lbor f => lbor f
  | .clrseg f => clrseg f
  | .mcfg f => mcfg f
  | .wload f => wload f
  | .wloadComplete quad => wloadComplete quad
  | .wloadr f => wloadr f
  | .wclr f => wclr f
  | .mma f => mma f
  | .mmasp f => mmasp f
  | .mconv f => mconv f
  | .mmar f => mmar f
  | .rowAccept quad => rowAccept quad
  | .rowWrite quad => rowWrite quad
  | .epilogue quad => epilogue quad
  | .epcfg f => epcfg f
  | .mstat f => mstat f
  | .mdrain f => mdrain f
  | .mrdacc f => mrdacc f
  | .mwracc f => mwracc f
  | .xcopy f => xcopy f
  | .copyLineArrival cmd data => copyLineArrival cmd data
  | .copyComplete cmd => copyComplete cmd
  | .xkick f => xkick f
  | .xwait f => xwait f
  | .xtest f => xtest f
  | .send f => send f
  | .messageArrival stand route => messageArrival stand route
  | .recv f => recv f
  | .rtest f => rtest f
  | .obsend f => obsend f
  | .burstTransmit port => burstTransmit port
  | .burstAck burst refused => burstAck burst refused
  | .ackTimeout burst => ackTimeout burst
  | .obrecv f => obrecv f
  | .burstArrival port peer tag data => burstArrival port peer tag data
  | .receiveComplete cmd => receiveComplete cmd
  | .resetNotice port peer len => resetNotice port peer len
  | .obstat f => obstat f
  | .rel f => rel f
  | .wpset f => wpset f
  | .wpclr f => wpclr f
  | .profrd f => profrd f
  | .tlbi f => tlbi f
  | .ctxsv f => ctxsv f
  | .ctxld f => ctxld f
  | .crrd f => crrd f
  | .crwr f => crwr f
  | .flumeRds cluster line => flumeRds cluster line
  | .flumeRdx cluster line => flumeRdx cluster line
  | .flumeUpg cluster line => flumeUpg cluster line
  | .flumeWb cluster line => flumeWb cluster line
  | .flumeWst cluster => flumeWst cluster
  | .coherenceTimeout requester tag home => coherenceTimeout requester tag home
  | .warpForm quad => warpForm quad
  | .balancerPass core => balancerPass core
  | .trapRecordClose core => trapRecordClose core
  | .launchSubmit hart vf data => launchSubmit hart vf data
  | .launchClaim grid => launchClaim grid
  | .standPlace part => standPlace part
  | .standStart stand => standStart stand
  | .gangPatienceExpire grid gang => gangPatienceExpire grid gang
  | .gangRelief part => gangRelief part
  | .gridEnd grid => gridEnd grid
  | .sliceEnd part => sliceEnd part
  | .contextSave stand => contextSave stand
  | .contextRestore stand => contextRestore stand
  | .wakeEvent source => wakeEvent source
  | .ringSearch node index locked heat => ringSearch node index locked heat
  | .eyeTraining node index eyeh eyew => eyeTraining node index eyeh eyew
  | .retest site coreOk routerOk => retest site coreOk routerOk
  | .linkRetry site port => linkRetry site port
  | .linkDown site port okHere okThere => linkDown site port okHere okThere
  | .marginAlarm waveguide wavelength heater => marginAlarm waveguide wavelength heater
  | .lockLost node wavelength => lockLost node wavelength
  | .uncorrectableError place => uncorrectableError place
  | .dramScrub channel sector corrected lastOfPass => dramScrub channel sector corrected lastOfPass
  | .vaultScrub cluster line corrected lastOfPass => vaultScrub cluster line corrected lastOfPass
  | .scratchpadScrub core bank line corrected => scratchpadScrub core bank line corrected
  | .errorFoldExpire fold => errorFoldExpire fold
  | .guaranteeLapse port control lane => guaranteeLapse port control lane
  | .guaranteeRestored port => guaranteeRestored port
  | .watchdogRestart image => watchdogRestart image
  | .policyCheckFail handle => policyCheckFail handle
  | .hostLoad hart op size => hostLoad hart op size
  | .hostStore hart op data => hostStore hart op data
  | .stallReasonCount quad => stallReasonCount quad
  | .unassignedOpcode word => unassignedOpcode word
  | .gateRelease => gateRelease
  | .saveReplay => saveReplay
  | .saveKill => saveKill
  | .partitionEnable => partitionEnable
  | .partitionDisable => partitionDisable
  | .vfEnable => vfEnable
  | .vfTeardown => vfTeardown
  | .circuitDisable => circuitDisable
  | .frameZero => frameZero
  | .policyInstall => policyInstall
  | .policyRemove => policyRemove
  | .keyRegister => keyRegister
  | .migrationReplay => migrationReplay
  | .handlerCreate => handlerCreate
  | .handlerTeardown => handlerTeardown
  | .presRetry => presRetry
  | .presSkip => presSkip
  | .presKill => presKill
  | .pvalWrite => pvalWrite
  | .hpvalWrite => hpvalWrite
  | .forwardEvent => forwardEvent
  | .debugStopRequest => debugStopRequest
  | .debugResume => debugResume
  | .claimSuspend => claimSuspend
  | .claimResume => claimResume
  | .featureConfirm => featureConfirm
  | .mstateWrite => mstateWrite
  | .registerWrite => registerWrite
  | .lmapWrite => lmapWrite
  | .fmapWrite => fmapWrite
  | .status => status
  | .log => log
  | .report => report
  | .fwload => fwload
  | .stream => stream
  | .unknownRequest => unknownRequest
  | .channelAck => channelAck
  | .relocationComplete => relocationComplete
  | .clauseNotWellFormed => clauseNotWellFormed  | .powerOn found image => powerOn found image

end Laws.Encoding

/-- A well-formed instruction is the one that its fields select. -/
theorem Instr.selects_of_wellFormed {i : Instr} (h : i.wellFormed = true) : i.selects = true := by
  simp only [Instr.wellFormed, Bool.and_eq_true] at h
  exact h.1.1

/-- Settles O52, from the law of each instruction. -/
theorem decodeEncode : Obligations.DecodeEncode := fun i rest hw he =>
  Laws.Encoding.statement i (Instr.selects_of_wellFormed hw) he rest

/-! ### A word is put together from its fields -/

/-- The opcode field is the opcode that it spells. -/
theorem opcodeBits_of_opcodeField {w : BitVec 64} {op : BitVec 10} (h : opcodeField w = op.toNat) : w.extractLsb' 54 10 = op :=
  BitVec.eq_of_toNat_eq h

/-- Two neighbouring runs of bits are one run. -/
theorem append_extract_next {n : Nat} (w : BitVec n) {hi lo a b : Nat} (h : hi = lo + b) :
    w.extractLsb' hi a ++ w.extractLsb' lo b = w.extractLsb' lo (a + b) := by
  subst h
  exact append_extract w lo a b

theorem gWord_gOf {w : BitVec 64} {op : BitVec 10} (h : opcodeField w = op.toNat) : gWord op (gOf w) = w := by
  rw [← opcodeBits_of_opcodeField h]
  simp (disch := decide) only [gWord, gOf, append_extract_next]
  exact extract_all w

theorem iWord_iOf {w : BitVec 64} {op : BitVec 10} (h : opcodeField w = op.toNat) : iWord op (iOf w) = w := by
  rw [← opcodeBits_of_opcodeField h]
  simp (disch := decide) only [iWord, iOf, append_extract_next]
  exact extract_all w

theorem mWord_mOf {w : BitVec 64} {op : BitVec 10} (h : opcodeField w = op.toNat) : mWord op (mOf w) = w := by
  rw [← opcodeBits_of_opcodeField h]
  simp (disch := decide) only [mWord, mOf, append_extract_next]
  exact extract_all w

theorem xWord_xOf {w : BitVec 64} {op : BitVec 10} (h : opcodeField w = op.toNat) : xWord op (xOf w) = w := by
  rw [← opcodeBits_of_opcodeField h]
  simp (disch := decide) only [xWord, xOf, append_extract_next]
  exact extract_all w

theorem yWord_yOf {w : BitVec 64} {op : BitVec 10} (h : opcodeField w = op.toNat) : yWord op (yOf w) = w := by
  rw [← opcodeBits_of_opcodeField h]
  simp (disch := decide) only [yWord, yOf, append_extract_next]
  exact extract_all w

theorem sWord_sOf {w : BitVec 64} {op : BitVec 10} (h : opcodeField w = op.toNat) : sWord op (sOf w) = w := by
  rw [← opcodeBits_of_opcodeField h]
  simp (disch := decide) only [sWord, sOf, append_extract_next]
  exact extract_all w

theorem cWord_cOf (w : BitVec 48) : cWord (cOf w) = w := by
  simp (disch := decide) only [cWord, cOf, append_extract_next]
  exact extract_all w

/-! ### The word that decodes to an instruction is its encoding (R104, R124) -/

/-- LD and LD.S share their opcode; VAR tells them apart (R217). -/
theorem encodeWord_ld_or_ldS (b : Bool) (f : MFmt) : encodeWord (if b then .ldS f else .ld f) = some (mWord 0x100#10 f) := by
  cases b <;> rfl

theorem encodeWord_decodeControl (w : BitVec 64) : encodeWord (decodeControl w) = some w := by
  unfold decodeControl
  split <;> simp [encodeWord, gWord_gOf, iWord_iOf, sWord_sOf, *]

theorem encodeWord_decodeInteger (w : BitVec 64) : encodeWord (decodeInteger w) = some w := by
  unfold decodeInteger
  split <;> simp [encodeWord, gWord_gOf, iWord_iOf, *]

theorem encodeWord_decodeFloat (w : BitVec 64) : encodeWord (decodeFloat w) = some w := by
  unfold decodeFloat
  split <;> simp [encodeWord, gWord_gOf, *]

theorem encodeWord_decodeMemory (w : BitVec 64) : encodeWord (decodeMemory w) = some w := by
  unfold decodeMemory
  split
  case h_1 h => rw [encodeWord_ld_or_ldS, mWord_mOf h]
  all_goals simp [encodeWord, gWord_gOf, mWord_mOf, *]

theorem encodeWord_decodeEngine (w : BitVec 64) : encodeWord (decodeEngine w) = some w := by
  unfold decodeEngine
  split <;> simp [encodeWord, xWord_xOf, yWord_yOf, sWord_sOf, *]

/-- What a word decodes to has that word for its encoding. -/
theorem encodeWord_of_decodeWord {w : BitVec 64} {i : Instr} (h : decodeWord w = .ok i) : encodeWord i = some w := by
  unfold decodeWord at h
  split at h
  · cases h
  split at h
  · cases h; exact encodeWord_decodeControl w
  split at h
  · cases h; exact encodeWord_decodeInteger w
  split at h
  · cases h; exact encodeWord_decodeFloat w
  split at h
  · cases h; exact encodeWord_decodeMemory w
  · cases h; exact encodeWord_decodeEngine w

/-- An instruction with a word is its eight bytes, and no pair word. -/
theorem encode_of_encodeWord {w : BitVec 64} {i : Instr} (h : encodeWord i = some w) :
    encode i = leBytes 8 w.toNat ∧ i.isPair = false := by
  cases i with
  | pairWord x y => cases h
  | _ => simp only [encode, h, Instr.isPair, and_self]

/-! ### What a word decodes to is selected by its fields (R125, R217) -/

/-- A word outside the assigned opcodes selects no instruction (R125). -/
theorem selects_unassignedOpcode {w : BitVec 64} :
    (Instr.unassignedOpcode w).selects = true ↔ assignedOp (opcodeField w) = false ∧ opcodeField w ≠ 0x3FF := by
  simp only [Instr.selects, Bool.and_eq_true, Bool.not_eq_true', decide_eq_true_eq]
  rfl

theorem selects_ld_or_ldS (f : MFmt) : Instr.selects (if f.var.getLsbD 3 then .ldS f else .ld f) = true := by
  by_cases h : f.var.getLsbD 3 = true
  · rw [if_pos h]; exact h
  · rw [if_neg h]; exact (Bool.not_eq_true' _).mpr (Bool.eq_false_iff.mpr h)

theorem selects_decodeControl (w : BitVec 64) (h : opcodeField w < 0x040) : (decodeControl w).selects = true := by
  unfold decodeControl
  split
  case h_25 =>
    simp only [selects_unassignedOpcode, assignedOp, Bool.or_eq_false_iff, Bool.and_eq_false_iff, decide_eq_false_iff_not]

    simp only [imp_false] at *
    omega
  all_goals rfl

theorem selects_decodeInteger (w : BitVec 64) (h : 0x040 ≤ opcodeField w ∧ opcodeField w < 0x080) : (decodeInteger w).selects = true := by
  unfold decodeInteger
  split
  case h_49 =>
    simp only [selects_unassignedOpcode, assignedOp, Bool.or_eq_false_iff, Bool.and_eq_false_iff, decide_eq_false_iff_not]
    simp only [imp_false] at *
    omega
  all_goals rfl

theorem selects_decodeFloat (w : BitVec 64) (h : 0x080 ≤ opcodeField w ∧ opcodeField w < 0x100) : (decodeFloat w).selects = true := by
  unfold decodeFloat
  split
  case h_45 =>
    simp only [selects_unassignedOpcode, assignedOp, Bool.or_eq_false_iff, Bool.and_eq_false_iff, decide_eq_false_iff_not]
    simp only [imp_false] at *
    omega
  all_goals rfl

theorem selects_decodeMemory (w : BitVec 64) (h : 0x100 ≤ opcodeField w ∧ opcodeField w < 0x140) : (decodeMemory w).selects = true := by
  unfold decodeMemory
  split
  case h_29 =>
    simp only [selects_unassignedOpcode, assignedOp, Bool.or_eq_false_iff, Bool.and_eq_false_iff, decide_eq_false_iff_not]
    simp only [imp_false] at *
    omega
  case h_1 => exact selects_ld_or_ldS _
  all_goals rfl

theorem selects_decodeEngine (w : BitVec 64) (h : 0x140 ≤ opcodeField w ∧ opcodeField w ≠ 0x3FF) : (decodeEngine w).selects = true := by
  unfold decodeEngine
  split
  case h_33 =>
    simp only [selects_unassignedOpcode, assignedOp, Bool.or_eq_false_iff, Bool.and_eq_false_iff, decide_eq_false_iff_not]
    simp only [imp_false] at *
    omega
  all_goals rfl

/-- What a word decodes to is selected by the word's fields. -/
theorem selects_of_decodeWord {w : BitVec 64} {i : Instr} (h : decodeWord w = .ok i) : i.selects = true := by
  unfold decodeWord at h
  split at h
  · cases h
  split at h
  · cases h; exact selects_decodeControl w (by omega)
  split at h
  · cases h; exact selects_decodeInteger w (by omega)
  split at h
  · cases h; exact selects_decodeFloat w (by omega)
  split at h
  · cases h; exact selects_decodeMemory w (by omega)
  · cases h; exact selects_decodeEngine w (by omega)

/-- Only the header's opcode is refused (R105). -/
theorem decodeWord_headerValue (w : BitVec 64) : decodeWord w = .error .headerValue ↔ opcodeField w = 0x3FF := by
  unfold decodeWord
  by_cases h : opcodeField w = 0x3FF
  · simp [h]
  · simp only [h, if_false, iff_false]
    repeat' split
    all_goals exact nofun

/-- A pair word is put together from its two operations. -/
theorem encode_decodePair (w : BitVec 96) : encode (decodePair w) = leBytes 12 w.toNat := by
  have hw : w.extractLsb' 48 48 ++ w.extractLsb' 0 48 = w := (append_extract_next w rfl).trans (extract_all w)
  simp only [decodePair, encode, cWord_cOf, hw]

/-- Settles O53: a decoded word is the encoding of what it decodes to, whose constructor its fields select. -/
theorem encodeDecode : Obligations.EncodeDecode := by
  refine ⟨fun w i h => encode_of_encodeWord (encodeWord_of_decodeWord h), encode_decodePair, decodeWord_headerValue, fun w hw => ⟨?_, ?_⟩⟩
  · exact fun ha => Laws.Encoding.unassigned w (selects_unassignedOpcode.mpr ⟨ha, hw⟩)
  · exact fun h => (selects_unassignedOpcode.mp (selects_of_decodeWord h)).1

end Sys2Proof
end

section
/-!
PROOFS. Memory keeps its canonical form (spec/03, notes/assumptions 2): each way a step ends keeps it, from what the machine's choice
and every instruction keep.
-/

namespace Sys2Proof.Machine

/-- An outcome that goes on keeps the canonical form through the closing of its step. -/
theorem MemOk.of_onNext {f : State → State} {o : Host.Outcome State Fault Refusal} {t : State} (ho : OutOk o)
    (hf : ∀ s, MemOk s → MemOk (f s)) (h : onNext f o = .next t) : MemOk t := by
  have := onNext_memOk f o ho hf
  rwa [h] at this

/-- Settles O56, by the four ways that a step can go. -/
theorem memoryStaysCanonical : Obligations.MemoryStaysCanonical := by
  intro s t hm h
  have ha : ActOk s.refresh.act := State.act_memOk _ (State.refresh_memOk s hm)
  unfold step at h
  split at h <;> rename_i e <;> rw [e] at ha
  case h_1 => exact MemOk.of_onNext (exec_memOk _ _ ha) State.closeEvent_memOk h
  case h_2 => exact MemOk.of_onNext (exec_memOk _ _ ha) (State.closeInstr_memOk _ _) h
  case h_3 => cases h; exact State.closeSettle_memOk _ _ ha
  case h_4 => cases h; exact State.closeEvent_memOk _ ha

end Sys2Proof.Machine
end

section
/-!
PROOFS. Predicates, floats and conversions (spec/07, spec/08): each is its row of `State.registerOp`, whose values are compared with the
stated ones; a row that rounds reads %rmode from the state.
-/

namespace Sys2Proof.Machine

/-- A register instruction whose operation reads the state, as the rounding forms read %rmode, gives the values of that operation. -/
theorem gives_of_registerOp_at {i : Instr} {op : State → Alu} {ds : List Dst} {val : State → Nat → List Nat}
    (hop : ∀ s : State, s.registerOp i = some (op s)) (hd : ∀ s : State, (op s).dsts = ds)
    (hv : ∀ (s : State) (l : Nat), (op s).eval l (s.lane l) = val s l) : Gives i ds val := by
  refine gives_of (fun s op' h => ?_)
  obtain rfl : op s = op' := Option.some.inj ((hop s).symm.trans h)
  exact ⟨exec_eq_runAlu h, hd s, hv s⟩

/-! ### Predicates and index registers (R183) -/

/-- PMOV is the move that XS[1:0] selects. -/
theorem registerOp_pmov {f : GFmt} (s : State) :
    (f.xs 0 2 = 0 → s.registerOp (.pmov f) = some (predOne f (fun a => a)))
    ∧ (f.xs 0 2 = 1 → s.registerOp (.pmov f) = some (packPreds f))
    ∧ (f.xs 0 2 = 2 → s.registerOp (.pmov f) = some (unpackPreds f)) := by
  refine ⟨?_, ?_, ?_⟩ <;> intro h <;> simp only [State.registerOp, h]

/-- A negated predicate as a number. -/
theorem ite_not_eq (b : Bool) : (if (!b) = true then 1 else 0 : Nat) = if b = true then 0 else 1 := by
  cases b <;> rfl

/-- Settles O3: the three moves are those that the lemma above selects. -/
theorem predicatesAndIndexes : Obligations.PredicatesAndIndexes := fun f => by
  refine ⟨?and, ?or, ?xor, ?not, fun h => ?move, fun h => ?pack, fun h => ?unpack, ?idx⟩
  case not => exact gives_of_registerOp (fun _ => rfl) rfl (fun _ _ => congrArg (fun n => [n]) (ite_not_eq _))
  case move => exact gives_of_registerOp (fun s => (registerOp_pmov s).1 h) rfl (fun _ _ => rfl)
  case pack => exact gives_of_registerOp (fun s => (registerOp_pmov s).2.1 h) rfl (fun _ _ => rfl)
  case unpack => exact gives_of_registerOp (fun s => (registerOp_pmov s).2.2 h) rfl (fun _ _ => rfl)
  case idx => exact gives_of_registerOp_at (fun _ => rfl) (fun _ => rfl) (fun _ _ => rfl)
  case and | or | xor => exact gives_of_registerOp (fun _ => rfl) rfl (fun _ _ => rfl)

/-! ### Arithmetic, selections and special functions (R187 to R193) -/

/-- Settles O4: each row computes the exact value of its elements and rounds it once, in the mode of the state. -/
theorem floatArithmetic : Obligations.FloatArithmetic := fun f => by
  refine ⟨?add, ?sub, ?mul, ?fma, ?rnd, ?scale⟩
  all_goals exact gives_of_registerOp_at (fun _ => rfl) (fun _ => rfl) (fun _ _ => rfl)

/-- Settles O5: no row of these reads the state. -/
theorem floatSelections : Obligations.FloatSelections := fun f => by
  refine ⟨?min, ?max, ?set, ?cls, ?exp, ?mant, ?copys⟩
  all_goals exact gives_of_registerOp (fun _ => rfl) rfl (fun _ _ => rfl)

/-- Settles O6: no row of these reads the state. -/
theorem specialFunctions : Obligations.SpecialFunctions := fun f => by
  refine ⟨?rcp, ?rsq, ?sqrt, ?div, ?exp2, ?log2, ?sin, ?cos, ?tanh, ?sigm⟩
  all_goals exact gives_of_registerOp (fun _ => rfl) rfl (fun _ _ => rfl)

/-! ### Dot products, fused min-plus and min-index (R195 to R197) -/

/-- Equal values leave the choice to the index; else their order chooses (R197). -/
theorem miniInt_eq (greater nat : Bool) (a b : Nat) : miniInt greater nat a b =
    if readInt nat 32 a = readInt nat 32 b then (if b / 2 ^ 32 < a / 2 ^ 32 then b else a)
    else if (if greater then readInt nat 32 a < readInt nat 32 b else readInt nat 32 b < readInt nat 32 a) then b else a := by
  unfold miniInt pickSecondInt
  by_cases he : readInt nat 32 a = readInt nat 32 b
  · simp [he]
  · cases greater <;> simp [he]

theorem fdot2Op_of_zero {f : GFmt} (s : State) (h : f.s 0 2 = 0) : fdot2Op f s = dotAluF f s .bf16 .bf16 (f.s 0 2 < 2) := by
  simp [fdot2Op, h]

theorem fdot2Op_of_ne_zero {f : GFmt} (s : State) (h : f.s 0 2 ≠ 0) : fdot2Op f s = dotAluF f s .f16 .f16 (f.s 0 2 < 2) := by
  simp [fdot2Op, h]

/-- Settles O7: FDOT2 has the type of its code, ADDMIN and ADDMAX the operation of their class, and the better pair is the lemma above. -/
theorem dotProductsAndSelections : Obligations.DotProductsAndSelections := by
  refine ⟨fun f => ⟨?dot2, ?dot4⟩, fun f g => ⟨fun h => ?int, fun h => ?float⟩, fun f g => ⟨?fm, ?im⟩⟩
  case dot2 =>
    by_cases h : f.s 0 2 = 0
    · rw [if_pos h]
      exact gives_of_registerOp_at (fun s => congrArg some (fdot2Op_of_zero s h)) (fun _ => rfl) (fun _ _ => rfl)
    · rw [if_neg h]
      exact gives_of_registerOp_at (fun s => congrArg some (fdot2Op_of_ne_zero s h)) (fun _ => rfl) (fun _ _ => rfl)
  case dot4 =>
    refine gives_of_registerOp_at (op := fdot4Op f) (fun _ => rfl) (fun _ => rfl) (fun _ _ => ?_)
    simp only [fdot4Op, Bool.or_eq_true, decide_eq_true_eq]
    rfl
  case int =>
    cases g
    · exact gives_of_registerOp_at (fun s => congrArg some (if_pos h)) (fun _ => rfl) (fun _ _ => rfl)
    · exact gives_of_registerOp_at (fun s => congrArg some (if_pos h)) (fun _ => rfl) (fun _ _ => rfl)
  case float =>
    cases g
    · exact gives_of_registerOp_at (fun s => congrArg some (if_neg h)) (fun _ => rfl) (fun _ _ => rfl)
    · exact gives_of_registerOp_at (fun s => congrArg some (if_neg h)) (fun _ => rfl) (fun _ _ => rfl)
  case fm =>
    cases g
    · exact gives_of_registerOp (fun _ => rfl) rfl (fun _ _ => rfl)
    · exact gives_of_registerOp (fun _ => rfl) rfl (fun _ _ => rfl)
  case im =>
    cases g
    · exact gives_of_registerOp (fun _ => rfl) rfl (fun _ _ => congrArg (fun n => [n]) (miniInt_eq _ _ _ _))
    · exact gives_of_registerOp (fun _ => rfl) rfl (fun _ _ => congrArg (fun n => [n]) (miniInt_eq _ _ _ _))

/-! ### Conversions and packing (R199 to R203) -/

/-- A conversion word whose type codes name `src` and `dst` (R117, R198). -/
theorem cvWord_of_codes (f : GFmt) {cs cd : Option CvtTy} {src dst : CvtTy} (hs : cs = some src) (hd : cd = some dst)
    (i : Nat) (s : State) (ok : Bool) (rnd : Option Nat) : cvWord f cs cd i s ok rnd =
      cvtAlu f.gn f.gp (ok && f.s 2 3 ≠ 7 && f.mb = 0 && f.mc = 0 && (rnd.isSome || f.b = 0))
        ⟨src, dst, i, f.s 2 3, f.xs 2 1 = 1, f.xs 3 1 = 1, f.xs 1 1 = 1⟩ s.rmode f.ra f.ma.toNat f.rd rnd := by
  subst hs hd
  rfl

/-- Settles O8: a conversion is the one whose types its codes name; PACK and UNPACK go by the class of their width. -/
theorem conversions : Obligations.Conversions := fun f => by
  refine ⟨fun src dst hs hd => ⟨?cvt, ?cvts⟩, fun src dst hs hd => ?cvti, fun h => ⟨?pack, ?unpack⟩, fun h => ⟨?packDense, ?unpackDense⟩⟩
  case cvt | cvts | cvti =>
    exact gives_of_registerOp_at (fun s => congrArg some (cvWord_of_codes f hs hd _ s _ _)) (fun _ => rfl) (fun _ _ => rfl)
  case pack =>
    refine gives_of_registerOp (fun _ => rfl) rfl (fun _ _ => ?_)
    simp only [packOp, if_neg h]
    rfl
  case unpack =>
    refine gives_of_registerOp (fun _ => rfl) rfl (fun _ _ => ?_)
    simp only [unpackOp, if_neg h]
    rfl
  case packDense =>
    refine gives_of_registerOp (fun _ => rfl) rfl (fun _ _ => ?_)
    simp only [packOp, if_pos h]
    rfl
  case unpackDense =>
    refine gives_of_registerOp (fun _ => rfl) rfl (fun _ _ => ?_)
    simp only [unpackOp, if_pos h]
    rfl

/-! ### Reductions over the lanes (R145, R210) -/

/-- A list of the lanes beside their numbers. -/
theorem zipIdx_map_range {α : Type} (g : Nat → α) (n : Nat) : ((List.range n).map g).zipIdx = (List.range n).map (fun m => (g m, m)) := by
  refine List.ext_getElem (by simp) (fun i h1 h2 => ?_)
  simp

/-- The tree of REDUX has the participants' values at its leaves, that of SCAN those that the lane sees. -/
theorem Redux.value_range (x : Redux) (drm : Nat) (scan : Bool) (l : Nat) (ex : List Nat) (v : Nat → Nat) :
    x.value drm scan l ((List.range 32).map (fun m => if ex.contains m then some (v m) else none)) =
      let tree (pick : Nat → Nat) : Nat := (treeRoot (x.combine drm) ((List.range 32).map (fun m =>
        if m ∈ ex && (!scan || (if x.exc then m < l else m ≤ l)) then some (pick (v m)) else none))).getD x.identity
      if x.ty = 3 then tree (fun v => bits v 0 16) + 2 ^ 16 * tree (fun v => bits v 16 16) else tree id := by
  have hseen : ∀ pick : Nat → Nat,
      (if scan then (((List.range 32).map (fun m => if ex.contains m then some (v m) else none)).zipIdx).map
          (fun p => if (if x.exc then p.2 < l else p.2 ≤ l) then p.1 else none)
        else (List.range 32).map (fun m => if ex.contains m then some (v m) else none)).map (·.map pick)
      = (List.range 32).map (fun m =>
          if m ∈ ex && (!scan || (if x.exc then m < l else m ≤ l)) then some (pick (v m)) else none) := by
    intro pick
    cases scan with
    | false =>
      simp only [Bool.false_eq_true, if_false, List.map_map]
      refine List.map_congr_left (fun m _ => ?_)
      by_cases hm : m ∈ ex <;> simp [hm]
    | true =>
      simp only [if_true, zipIdx_map_range, List.map_map]
      refine List.map_congr_left (fun m _ => ?_)
      cases x.exc <;> by_cases hm : m ∈ ex <;> simp [hm, apply_ite]
  unfold Redux.value
  simp only [hseen]

/-- Settles O10: where no participant carries poison, the value is that of the tree. -/
theorem laneReduction : Obligations.LaneReduction := fun f scan => by
  refine givesLanes_of_laneOp (op := reduxLane f scan) (by cases scan <;> rfl) (fun s ex hc l hl => ?_)
  have ht : s.partnerTok f.gp ex (fun m => s.regTok m f.ra (reduxOf f).regs) = none := hc.partnerTok List.mem_cons_self
  dsimp only [reduxLane]
  rw [ht, Redux.value_range]

end Sys2Proof.Machine
end

section
/-!
PROOFS. Loads, stores, atomics, fences, hints, tags, presence and labels.
-/

namespace Sys2Proof.Machine

/-- Lanes whose verdicts are all good do what their act says. -/
theorem State.settleLanes_ok {α : Type} {s s1 : State} {v : List (Nat × α)} (act : State → List (Nat × α) → State × List Nat)
    (hv : v ≠ []) :
    s.settleLanes (v.map (fun p => (p.1, Ans.ok p.2)), s1) act = (act s1 v).1.advance (s.othersOf (act s1 v).2) := by
  have he : v.isEmpty = false := by simp [hv]
  unfold State.settleLanes
  simp only [waitReason_ok, goodLanes_ok, badLanes_ok, he, State.park, State.afterStop_self, Bool.false_eq_true, if_false,
    List.map_nil, List.nil_append]

theorem raceSweep_lanes (f : MFmt) (s : State) (xs : List (Nat × Ans Target)) :
    (State.raceSweep f s xs).map Prod.fst = xs.map Prod.fst := by
  induction xs generalizing s with
  | nil => rfl
  | cons x xs ih =>
    obtain ⟨l, a⟩ := x
    cases a with
    | bad g => exact congrArg (l :: ·) (ih _)
    | wait r => exact congrArg (l :: ·) (ih _)
    | ok tg =>
      unfold State.raceSweep
      simp only []
      split <;> exact congrArg (l :: ·) (ih _)

/-- ST gives one verdict for each executing lane. -/
theorem State.stVerdicts_lanes (s : State) (f : MFmt) (ex : List Nat) : (s.stVerdicts f ex).1.map Prod.fst = ex := by
  unfold State.stVerdicts
  simp only []
  split
  · rw [raceSweep_lanes, checkLanes_lanes]
  · exact checkLanes_lanes _ s ex

/-- An instruction whose lanes get their verdicts together completes where all are good. -/
theorem settles_of {α : Type} {i : Instr} {r : State → List Nat → List (Nat × Ans α) × State} {t : State → List (Nat × α) → State}
    (hr : ∀ s ex, (r s ex).1.map Prod.fst = ex)
    (h : ∀ s : State, ∃ u, s.useOf i = some u
      ∧ exec i s = .next (s.issue u.gn u.gp u.bad (fun ex => s.settleLanes (r s ex) (fun s v => (t s v, []))))) :
    Settles i r t := by
  intro s gp ex v s1 hruns hv
  obtain ⟨u, hu, he⟩ := h s
  obtain ⟨hb, hg, hx, hn⟩ := State.Runs.use hruns hu
  have hne : v ≠ [] := by
    rintro rfl
    have := hr s ex
    rw [hv] at this
    exact hn this.symm
  rw [he, State.issue_runs hb (by rw [hx]; exact hn), hx, hv, State.settleLanes_ok _ hne, s.othersOf_nil]

/-- Settles O16: LD and LD.S are lanes that are checked and then act. -/
theorem loads : Obligations.Loads := by
  unfold Obligations.Loads
  intro f
  exact ⟨completes_of (fun _ => ⟨_, rfl, rfl⟩), completes_of (fun _ => ⟨_, rfl, rfl⟩)⟩

/-- Settles O18. -/
theorem stores : Obligations.Stores := by
  unfold Obligations.Stores
  intro f
  exact ⟨settles_of (fun s ex => s.stVerdicts_lanes f ex) (fun _ => ⟨_, rfl, rfl⟩), completes_of (fun _ => ⟨_, rfl, rfl⟩)⟩

theorem State.markTarget_plain {s : State} {w : Who} {tg : Target} {tag : Option Nat} {lab : Label} (h : tg.window = none) :
    s.markTarget w tg tag lab = State.raiseLabel (match tag with
        | some t => ((s.touch w tg true).drainQ w.thread).setTagOf tg.loc t
        | none => (s.touch w tg true).drainQ w.thread) tg.loc lab := by
  unfold State.markTarget
  cases tag <;> simp only [h, Option.isSome_none, Bool.false_eq_true, if_false]

theorem State.markTarget_window {s : State} {w : Who} {tg : Target} {tag : Option Nat} {lab : Label} {x : Nat × Nat}
    (h : tg.window = some x) :
    s.markTarget w tg tag lab = (s.touch w tg true).enqueue w.thread ⟨tg.loc, [], tag, lab, some x, false, s.cur.slotKey⟩ := by
  unfold State.markTarget
  simp only [h, Option.isSome_some, if_true]

/-- Settles O23. -/
theorem memoryTags : Obligations.MemoryTags := by
  unfold Obligations.MemoryTags
  intro f
  exact ⟨completes_of (fun _ => ⟨_, rfl, rfl⟩), fun _ _ _ _ _ => ⟨State.markTarget_plain, fun _ => State.markTarget_window⟩,
    completes_of (fun _ => ⟨_, rfl, rfl⟩)⟩

/-- Settles O25. -/
theorem presenceAndLabels : Obligations.PresenceAndLabels := by
  unfold Obligations.PresenceAndLabels
  refine ⟨fun f => ⟨?_, ?_⟩, fun f g => ⟨fun hs => ?_, fun hs => ?_, fun hs => ?_, ?_⟩⟩
  · exact completes_of (fun _ => ⟨_, rfl, rfl⟩)
  · exact completes_of (fun _ => ⟨_, rfl, rfl⟩)
  · exact completes_of (fun s => ⟨_, rfl, by simp only [exec, execLbrd, if_neg hs]⟩)
  · refine acts_of_eachLane (gn := f.gn) (gp := f.gp) (bad := illLbor f) (act := fun _ s v =>
      s.updSlot s.cur.slotKey (fun sl => sl.setRegLabel f.rd (sl.regLabel f.rd |||
        (s.labelL f.gp.toNat (v.map Prod.fst) (s.curSlot.srcLabel [.v f.ra 2]) 0
          ||| Label.union ((v.map Prod.fst).map (fun l => (s.lane l).pair f.ra))))))
      (fun s => ⟨rfl, by simp only [exec, execLbor, if_pos hs]⟩) (fun s ex _ => ?_)
    simp only [fst_lanes]
  · exact completes_of (fun s => ⟨_, rfl, by simp only [exec, execLbor, if_neg hs]⟩)
  · exact completes_of (fun _ => ⟨_, rfl, rfl⟩)

end Sys2Proof.Machine
end

section
/-!
PROOFS. Atomics, fences and hints.
-/

namespace Sys2Proof.Machine

/-- A sum modulo `m` of two numbers below `m` is the sum, or the sum less `m`. -/
theorem add_mod_cases {m o b : Nat} (ho : o < m) (hb : b < m) : (o + b) % m = o + b ∨ (o + b) % m + m = o + b := by
  rcases Nat.lt_or_ge (o + b) m with h | h
  · exact .inl (Nat.mod_eq_of_lt h)
  · right
    rw [Nat.mod_eq_sub_mod h, Nat.mod_eq_of_lt (by omega)]
    omega

/-- Settles O21: the instructions act lane by lane, and each operation of the table is that of the integers. -/
theorem atomics : Obligations.Atomics := by
  unfold Obligations.Atomics
  refine ⟨fun f => ⟨?_, ?_, ?_⟩, fun z o b _ => ?_⟩
  · exact completes_of (fun _ => ⟨_, rfl, rfl⟩)
  · exact completes_of (fun _ => ⟨_, rfl, rfl⟩)
  · exact completes_of (fun _ => ⟨_, rfl, rfl⟩)
  · intro n i ho hb
    refine ⟨rfl, ⟨_, rfl, Nat.mod_lt _ (Nat.two_pow_pos n), add_mod_cases ho hb⟩, ⟨_, rfl, ?_⟩, ⟨_, rfl, ?_⟩, ⟨_, rfl, ?_⟩,
      ⟨_, rfl, ?_⟩, ⟨_, rfl, fun j => Nat.testBit_and o b j⟩, ⟨_, rfl, fun j => Nat.testBit_or o b j⟩,
      ⟨_, rfl, fun j => Nat.testBit_xor o b j⟩, rfl, ?_⟩
    · change (ite (i b < i o) b o = o ∨ _) ∧ i (ite (i b < i o) b o) ≤ _ ∧ i (ite (i b < i o) b o) ≤ _
      split <;> omega
    · change (ite (i o < i b) b o = o ∨ _) ∧ _ ≤ i (ite (i o < i b) b o) ∧ _ ≤ i (ite (i o < i b) b o)
      split <;> omega
    · omega
    · omega
    · simp only [atomOp, Bool.or_eq_true, decide_eq_true_eq]

/-- What coherence moves may change: the states of the lines, the L1s, and what memory holds under dirty lines. -/
def State.SameButLines (s t : State) : Prop := t = { s with lines := t.lines, l1 := t.l1, backing := t.backing }

theorem State.SameButLines.refl (s : State) : s.SameButLines s := rfl

theorem State.SameButLines.trans {s t u : State} (h : s.SameButLines t) (g : t.SameButLines u) : s.SameButLines u := by
  unfold State.SameButLines at *
  generalize u.lines = x at *
  generalize u.l1 = y at *
  generalize u.backing = z at *
  rw [g, h]

theorem State.SameButLines.foldl {α : Type} {w : State → α → State} (h : ∀ (t : State) (a : α), t.SameButLines (w t a)) (s : State) (xs : List α) :
    s.SameButLines (xs.foldl w s) :=
  xs.foldlRecOn w (motive := s.SameButLines) (State.SameButLines.refl s) (fun t ht a _ => ht.trans (h t a))

theorem State.fillL1_sameButLines (s : State) (who n : Nat) : s.SameButLines (s.fillL1 who n) := by
  unfold State.fillL1; split <;> rfl

theorem State.setMoesi_sameButLines (s : State) (c n : Nat) (m : Option Moesi) : s.SameButLines (s.setMoesi c n m) := by
  cases m <;> rfl

theorem State.keepBacking_sameButLines (s : State) (n : Nat) : s.SameButLines (s.keepBacking n) := by
  unfold State.keepBacking; split <;> rfl

theorem ncRead_sameButLines (s : State) (n : Nat) : s.SameButLines (ncRead s n) := by
  unfold ncRead
  refine State.SameButLines.foldl (fun t h => ?_) s _
  split
  · exact t.setMoesi_sameButLines _ _ _
  · exact t.setMoesi_sameButLines _ _ _
  · exact .refl t

theorem flumeRdS_sameButLines (s : State) (c n : Nat) : s.SameButLines (flumeRdS s c n) := by
  unfold flumeRdS
  refine (State.SameButLines.foldl (fun t h => ?_) s _).trans (State.setMoesi_sameButLines _ _ _ _)
  split
  · exact t.setMoesi_sameButLines _ _ _
  · exact t.setMoesi_sameButLines _ _ _
  · exact .refl t

theorem invalidateOthers_sameButLines (s : State) (c n : Nat) : s.SameButLines (invalidateOthers s c n) := by
  unfold invalidateOthers
  refine State.SameButLines.foldl (fun t h => ?_) s _
  split
  · exact .refl t
  · exact t.setMoesi_sameButLines _ _ _

theorem flumeRdX_sameButLines (s : State) (c n : Nat) : s.SameButLines (flumeRdX s c n) :=
  (invalidateOthers_sameButLines s c n).trans (State.setMoesi_sameButLines _ _ _ _)

theorem flumeUpg_sameButLines (s : State) (c n : Nat) : s.SameButLines (flumeUpg s c n) := flumeRdX_sameButLines s c n

theorem flumeWb_sameButLines (s : State) (c n : Nat) : s.SameButLines (flumeWb s c n) := by
  unfold flumeWb
  split
  · exact (s.setMoesi_sameButLines c n none).trans rfl
  · exact (s.setMoesi_sameButLines c n none).trans rfl
  · exact .refl s

theorem flushLine_sameButLines (s : State) (n : Nat) : s.SameButLines (flushLine s n) :=
  (invalidateOthers_sameButLines s 511 n).trans rfl

theorem cachedRead_sameButLines (s : State) (who n : Nat) : s.SameButLines (cachedRead s who n) := by
  unfold cachedRead
  dsimp only
  split
  · exact ncRead_sameButLines s n
  · refine State.SameButLines.trans ?_ (State.fillL1_sameButLines _ _ _)
    split
    · exact .refl s
    · exact flumeRdS_sameButLines s _ n

theorem cachedWrite_sameButLines (s : State) (who n : Nat) : s.SameButLines (cachedWrite s who n) := by
  unfold cachedWrite
  dsimp only
  split
  · exact flushLine_sameButLines s n
  · refine ((s.keepBacking_sameButLines n).trans ?_).trans
      (State.SameButLines.trans (t := State.dropL1 _ (agentOf who) n) rfl (State.fillL1_sameButLines _ _ _))
    split
    · exact .refl _
    · exact State.setMoesi_sameButLines _ _ _ _
    · exact flumeUpg_sameButLines _ _ n
    · exact flumeRdX_sameButLines _ _ n

theorem State.prefetch_sameButLines (s : State) (core v n : Nat) : s.SameButLines (s.prefetch core v n) := by
  have hx : s.SameButLines (if (s.moesi (clusterOf core) n).isSome then flumeUpg (s.keepBacking n) (clusterOf core) n
      else flumeRdX (s.keepBacking n) (clusterOf core) n) := by
    refine (s.keepBacking_sameButLines n).trans ?_
    split
    · exact flumeUpg_sameButLines _ _ n
    · exact flumeRdX_sameButLines _ _ n
  unfold State.prefetch
  dsimp only
  split
  · split
    · split
      · exact s.fillL1_sameButLines core n
      · exact hx.trans (State.fillL1_sameButLines _ _ _)
    · split
      · split
        · exact .refl s
        · exact flumeRdS_sameButLines s _ n
      · exact cachedRead_sameButLines s core n
  · exact .refl s

theorem State.evict_sameButLines (s : State) (c n : Nat) : s.SameButLines (s.evict c n) := by
  unfold State.evict
  split
  · exact flumeWb_sameButLines s c n
  · exact flumeWb_sameButLines s c n
  · exact s.setMoesi_sameButLines c n none
  · exact .refl s

theorem State.hinted_sameButLines {s : State} {f : MFmt} {ex : List Nat} {act : State → Nat → State}
    (h : ∀ (t : State) (n : Nat), t.SameButLines (act t n)) : s.SameButLines (s.hinted f ex act) := by
  unfold State.hinted
  refine State.SameButLines.foldl (fun t l => ?_) s _
  split
  · exact h t _
  · exact .refl t

/-- A thread after a change of one thread. -/
theorem State.updThread_thread (s : State) (k j : Nat) (f : Thread → Thread) :
    (s.updThread k f).thread j = if j = k ∧ (s.threads.get? j).isSome = true then f (s.thread j) else s.thread j := by
  have h := s.updThread_get? k j f
  split
  next hk =>
    rw [if_pos hk.1] at h
    exact Table.getD_map h hk.2
  next hk =>
    refine Table.getD_congr (h.trans ?_)
    split
    · rw [not_and, Bool.not_eq_true, Option.isSome_eq_false_iff, Option.isNone_iff_eq_none] at hk
      rw [hk ‹_›]; rfl
    · rfl

/-- Going on changes PCs and nothing else. -/
theorem State.advance_pcs (s : State) (ls : List Nat) :
    s.advance ls = { s with threads := (s.advance ls).threads } ∧ ∀ k, ∃ pc, (s.advance ls).thread k = { s.thread k with pc := pc } := by
  refine ⟨(State.sendLanes_acts s.laneKey s.cur.nextPC).fold_rest ls s rfl, fun k => ?_⟩
  unfold State.advance State.sendLanes
  refine ls.foldlRecOn _ (motive := fun t : State => ∃ pc, t.thread k = { s.thread k with pc := pc }) ⟨_, rfl⟩ ?_
  rintro t ⟨pc, ht⟩ l -
  have h := t.updThread_thread (t.laneKey l) k (fun th => { th with pc := s.cur.nextPC })
  split at h
  · exact ⟨s.cur.nextPC, by rw [State.updLane, h, ht]⟩
  · exact ⟨pc, h.trans ht⟩

/-- A hint changes the states of lines and PCs. -/
theorem State.hinted_advance {s t : State} (h : s.SameButLines t) (ls : List Nat) :
    t.advance ls = { s with threads := (t.advance ls).threads, lines := (t.advance ls).lines, l1 := (t.advance ls).l1,
                            backing := (t.advance ls).backing }
    ∧ ∀ k, ∃ pc, (t.advance ls).thread k = { s.thread k with pc := pc } := by
  obtain ⟨hr, hp⟩ := t.advance_pcs ls
  have hth : ∀ k, t.thread k = s.thread k := fun k => by rw [show t = _ from h]; rfl
  refine ⟨?_, fun k => hth k ▸ hp k⟩
  generalize (t.advance ls).threads = T at hr
  rw [hr, show t = _ from h]

theorem pref_does (f : MFmt) : Does (.pref f) (fun s _ ex =>
    (s.hinted f ex (fun s line => s.prefetch s.cur.core f.v line)).advance s.cur.lanes) := by
  intro s gp ex hr
  obtain ⟨hb, -, hx, hn⟩ := hr.use rfl
  exact congrArg Host.Outcome.next ((State.issue_runs hb (by rw [hx]; exact hn)).trans (by rw [hx]))

theorem evict_does (f : MFmt) : Does (.evict f) (fun s _ ex =>
    (s.hinted f ex (fun s line => if f.v = 1 then s.evict (clusterOf s.cur.core) line else s.evictL1 s.cur.core line)).advance
      s.cur.lanes) := by
  intro s gp ex hr
  obtain ⟨hb, -, hx, hn⟩ := hr.use rfl
  exact congrArg Host.Outcome.next ((State.issue_runs hb (by rw [hx]; exact hn)).trans (by rw [hx]))

/-- Settles O22: a hint is a fold of coherence moves, none of which touches anything but the states of lines. -/
theorem fencesAndHints : Obligations.FencesAndHints := by
  unfold Obligations.FencesAndHints
  refine ⟨fun f g => ⟨?_, pref_does f, evict_does f, ?_⟩, ?_⟩
  · refine acts_of_eachLane (fun _ => ⟨rfl, rfl⟩) (fun s ex _ => ?_)
    simp only [fst_lanes]
  · refine acts_of_eachLane (fun _ => ⟨rfl, rfl⟩) (fun s ex _ => ?_)
    rw [List.foldl_map]
  · rintro s f i gp ex (rfl | rfl) hr
    · have h : s.SameButLines (s.hinted f ex (fun s n => s.prefetch s.cur.core f.v n)) :=
        State.hinted_sameButLines (fun t n => t.prefetch_sameButLines _ _ n)
      exact ⟨_, pref_does f s gp ex hr, (State.hinted_advance h s.cur.lanes).1, (State.hinted_advance h s.cur.lanes).2⟩
    · have h : s.SameButLines (s.hinted f ex (fun s n => if f.v = 1 then s.evict (clusterOf s.cur.core) n else s.evictL1 s.cur.core n)) :=
        State.hinted_sameButLines (fun t n => by
          split
          · exact t.evict_sameButLines _ n
          · rfl)
      exact ⟨_, evict_does f s gp ex hr, (State.hinted_advance h s.cur.lanes).1, (State.hinted_advance h s.cur.lanes).2⟩

end Sys2Proof.Machine
end

section
/-!
PROOFS. Tags of sectors.
-/

namespace Sys2Proof.Machine

/-- Bit 5 of an address says which half of its line a sector is. -/
theorem bit_five (a : Nat) : bit a 5 = decide (a / 32 % 2 = 1) := by
  unfold bit
  rw [Nat.testBit_eq_decide_div_mod_eq]

/-- The byte of the tag array that holds the tag of a DRAM sector. -/
def tagByteAt (a : Nat) : Nat := 0x1F800000000 + a / 64

theorem State.tagAt_vault {a : Nat} (h : isVault a = true) (s : State) : s.tagAt a = s.vtags.getD (a / 32) 0 := by
  unfold State.tagAt; rw [if_pos h]

theorem State.tagAt_dram {a : Nat} (h : isVault a = false) (s : State) :
    s.tagAt a = if a / 32 % 2 = 1 then (rawByte s.mem (tagByteAt a)).toNat / 16 else (rawByte s.mem (tagByteAt a)).toNat % 16 := by
  unfold State.tagAt
  simp only [h, bit_five, decide_eq_true_eq, tagByteAt, Bool.false_eq_true, if_false]

theorem State.setTagAt_vault {a : Nat} (h : isVault a = true) (s : State) (t : Nat) :
    s.setTagAt a t = { s with vtags := s.vtags.put 0 (a / 32) (t % 16) } := by
  unfold State.setTagAt; rw [if_pos h]

theorem State.setTagAt_dram {a : Nat} (h : isVault a = false) (s : State) (t : Nat) :
    s.setTagAt a t = { s with mem := setByte s.mem (tagByteAt a) (BitVec.ofNat 8
      (if a / 32 % 2 = 1 then (rawByte s.mem (tagByteAt a)).toNat % 16 + 16 * (t % 16)
        else (rawByte s.mem (tagByteAt a)).toNat / 16 * 16 + t % 16)) } := by
  unfold State.setTagAt
  simp only [h, bit_five, decide_eq_true_eq, tagByteAt, Bool.false_eq_true, if_false]

/-- A tag that was set reads back. -/
theorem State.setTagAt_same (s : State) {a t : Nat} (ht : t < 16) : (s.setTagAt a t).tagAt a = t := by
  cases h : isVault a
  case true =>
    rw [State.setTagAt_vault h, State.tagAt_vault h, Table.getD_put, if_pos rfl]
    omega
  case false =>
    rw [State.setTagAt_dram h, State.tagAt_dram h, rawByte_setByte, if_pos rfl, BitVec.toNat_ofNat]
    have hb := (rawByte s.mem (tagByteAt a)).isLt
    split <;> omega

/-- Setting a tag leaves those of other sectors: the other half of the byte in the tag array, and every other byte. -/
theorem State.setTagAt_other (s : State) {a b : Nat} (t : Nat) (hab : a / 32 ≠ b / 32) : (s.setTagAt a t).tagAt b = s.tagAt b := by
  cases ha : isVault a
  case true =>
    rw [State.setTagAt_vault ha]
    cases hb : isVault b
    case true => rw [State.tagAt_vault hb, State.tagAt_vault hb, Table.getD_put, if_neg (Ne.symm hab)]
    case false => rw [State.tagAt_dram hb, State.tagAt_dram hb]
  case false =>
    rw [State.setTagAt_dram ha]
    cases hb : isVault b
    case true => rw [State.tagAt_vault hb, State.tagAt_vault hb]
    case false =>
      rw [State.tagAt_dram hb, State.tagAt_dram hb, rawByte_setByte]
      by_cases hl : tagByteAt b = tagByteAt a
      · have hlt := (rawByte s.mem (tagByteAt a)).isLt
        rw [if_pos hl, hl, BitVec.toNat_ofNat]
        have hh : a / 32 % 2 ≠ b / 32 % 2 := by
          unfold tagByteAt at hl
          have h1 : a / 64 = a / 32 / 2 := (Nat.div_div_eq_div_mul a 32 2).symm
          have h2 : b / 64 = b / 32 / 2 := (Nat.div_div_eq_div_mul b 32 2).symm
          omega
        split <;> split <;> omega
      · rw [if_neg hl]

/-- Settles O24. -/
theorem tagReadsBack : Obligations.TagReadsBack := by
  unfold Obligations.TagReadsBack
  intro s a b t _ ht
  refine ⟨fun _ => s.setTagAt_same ht, fun ha => ?_, s.setTagAt_other t, fun ha => ?_, fun x hx => ?_⟩
  · rw [State.setTagAt_vault ha]; rfl
  · rw [State.setTagAt_vault ha]
  · cases ha : isVault a
    case true => rw [State.setTagAt_vault ha]
    case false => rw [State.setTagAt_dram ha, rawByte_setByte, if_neg (show x ≠ tagByteAt a from hx)]

end Sys2Proof.Machine
end

section
/-!
PROOFS. What a performing store does to memory, byte by byte (R71, R72, R74, R83).
-/

namespace Sys2Proof.Machine

/-- A place where programs may store: general DRAM or a vault. -/
def Storable (a : Nat) : Prop := a < 0x1F7F0000000 ∨ 0x40000000000 ≤ a ∧ a < 0x40600000000

/-- An address outside the array of label words of DRAM frames (R71). -/
def NoLabelWord (x : Nat) : Prop := x < 0x1F7F0000000 ∨ 0x1F800000000 ≤ x

theorem isVault_iff (a : Nat) : isVault a = true ↔ 0x40000000000 ≤ a ∧ a < 0x40600000000 := by
  simp [isVault]

theorem Storable.noLabelWord {a : Nat} (h : Storable a) : NoLabelWord a := by
  unfold Storable NoLabelWord at *; omega

theorem Storable.noDevice {a : Nat} (h : Storable a) : isDevice a = false := by
  unfold Storable at h
  simp only [isDevice, Bool.and_eq_false_iff, decide_eq_false_iff_not]
  omega

theorem State.SameButLines.mem {s t : State} (h : s.SameButLines t) : t.mem = s.mem := by rw [show t = _ from h]

/-! ### The parts of one piece -/

/-- Setting a label writes at most a label word. -/
theorem State.setLabelAt_byte (s : State) {a : Nat} (l : Label) (ha : Storable a) {x : Nat} (hx : NoLabelWord x) :
    rawByte (s.setLabelAt a l).mem x = rawByte s.mem x := by
  unfold State.setLabelAt
  split
  · rfl
  · refine rawByte_setBytes_other _ s.mem _ x ?_
    next h =>
      rw [isVault_iff] at h
      unfold Storable NoLabelWord at *
      simp only [frameLabelAt, leBytes_length]
      omega

theorem State.raiseLabel_byte (s : State) {a : Nat} (l : Label) (ha : Storable a) {x : Nat} (hx : NoLabelWord x) :
    rawByte (s.raiseLabel (.pa a) l).mem x = rawByte s.mem x := by
  unfold State.raiseLabel
  simp only [ha.noDevice, Bool.false_eq_true, if_false]
  exact s.setLabelAt_byte _ ha hx

theorem State.raiseSpan_byte (s : State) {a n : Nat} (l : Label) (ha : ∀ i, i < n → Storable (a + i)) (hn : 0 < n) {x : Nat}
    (hx : NoLabelWord x) : rawByte (s.raiseSpan (.pa a) n l).mem x = rawByte s.mem x := by
  unfold State.raiseSpan
  refine List.foldlRecOn _ _ (motive := fun t : State => rawByte t.mem x = rawByte s.mem x) rfl (fun t ht i _ => ?_)
  exact (t.raiseLabel_byte l (ha (min (32 * i) (n - 1)) (by omega)) hx).trans ht

@[simp] theorem State.clearBad_mem (s : State) (l : Loc) : (s.clearBad l).mem = s.mem := by cases l <;> rfl

@[simp] theorem State.breakReservations_mem (s : State) (l : Loc) : (s.breakReservations l).mem = s.mem := by cases l <;> rfl

@[simp] theorem State.wakeLine_mem (s : State) (l : Loc) : (s.wakeLine l).mem = s.mem := rfl

/-- The bytes that are put read back. -/
theorem State.putBytes_byte (s : State) (k : Nat) {a i : Nat} {bs : List Byte} (hi : i < bs.length) :
    rawByte (s.putBytes k (.pa a) bs).mem (a + i) = bs.getD i 0 := by
  have h (m : Table Byte) : rawByte (setBytes m a bs) (a + i) = bs.getD i 0 := by
    rw [rawByte_setBytes, if_pos (by omega), Nat.add_sub_cancel_left]; rfl
  dsimp only [State.putBytes]
  split
  · exact h _
  · exact h _

/-- Every other byte is as it was, but for the rest of a vault line. -/
theorem State.putBytes_byte_other (s : State) (k : Nat) {a x : Nat} {bs : List Byte} (hx : x < a ∨ a + bs.length ≤ x)
    (hl : isVault x = false ∨ x / 64 ≠ a / 64) : rawByte (s.putBytes k (.pa a) bs).mem x = rawByte s.mem x := by
  dsimp only [State.putBytes]
  split
  · next hv =>
      refine (rawByte_setBytes_other bs _ a x hx).trans ?_
      split
      · rfl
      · refine rawByte_setBytes_other _ s.mem _ x ?_
        rw [isVault_iff] at hv
        simp only [List.length_replicate]
        rcases hl with h | h
        · rw [← Bool.not_eq_true, isVault_iff] at h
          omega
        · omega
  · exact rawByte_setBytes_other bs s.mem a x hx

/-- What one piece does to memory is what its bytes and its label do. -/
theorem performPiece_mem (s : State) (who : Option Nat) (k a : Nat) (bs : List Byte) (lab : Label) :
    ∃ u : State, u.mem = s.mem ∧ (performPiece s who k (.pa a) bs lab).mem = ((u.putBytes k (.pa a) bs).raiseSpan (.pa a) bs.length lab).mem := by
  have hclear (t : State) (is : List Nat) : (is.foldl (fun (t : State) i =>
      if 32 * (i + 1) ≤ bs.length then t.clearBad ((Loc.pa a).plus (32 * i)) else t) t).mem = t.mem :=
    List.foldlRecOn _ _ (motive := fun u : State => u.mem = t.mem) rfl (fun u hu i _ => by split <;> simp [hu])
  unfold performPiece
  cases who with
  | none =>
    refine ⟨flushLine s (a / 64), (flushLine_sameButLines s (a / 64)).mem, ?_⟩
    simp only [State.wakeLine_mem, State.breakReservations_mem]
    split
    · exact hclear _ _
    · rfl
  | some c =>
    refine ⟨cachedWrite s c (a / 64), (cachedWrite_sameButLines s c (a / 64)).mem, ?_⟩
    simp only [State.wakeLine_mem, State.breakReservations_mem]
    split
    · exact hclear _ _
    · rfl

theorem performPiece_byte (s : State) (who : Option Nat) (k : Nat) {a i : Nat} {bs : List Byte} (lab : Label)
    (ha : ∀ i, i < bs.length → Storable (a + i)) (hi : i < bs.length) :
    rawByte (performPiece s who k (.pa a) bs lab).mem (a + i) = bs.getD i 0 := by
  obtain ⟨u, -, h⟩ := performPiece_mem s who k a bs lab
  rw [h, State.raiseSpan_byte _ lab ha (by omega) (ha i hi).noLabelWord, State.putBytes_byte u k hi]

theorem performPiece_byte_other (s : State) (who : Option Nat) (k : Nat) {a x : Nat} {bs : List Byte} (lab : Label)
    (ha : ∀ i, i < bs.length → Storable (a + i)) (hn : 0 < bs.length) (hw : NoLabelWord x) (hx : x < a ∨ a + bs.length ≤ x)
    (hl : isVault x = false ∨ x / 64 ≠ a / 64) :
    rawByte (performPiece s who k (.pa a) bs lab).mem x = rawByte s.mem x := by
  obtain ⟨u, hu, h⟩ := performPiece_mem s who k a bs lab
  rw [h, State.raiseSpan_byte _ lab ha hn hw, State.putBytes_byte_other u k hx hl, hu]

/-! ### All pieces -/

/-- The pieces of a store in order: its bytes read back, for a later piece lies on a later line. -/
theorem performPieces_byte (who : Option Nat) (k : Nat) (lab : Label) (fuel : Nat) : ∀ (s : State) (a : Nat) (bs : List Byte),
    a % 64 + bs.length ≤ 64 * fuel → 0 < bs.length → (∀ i, i < bs.length → Storable (a + i)) →
    (∀ i, i < bs.length → rawByte ((linePieces (.pa a) fuel bs).foldl (fun s p => performPiece s who k p.1 p.2 lab) s).mem (a + i)
      = bs.getD i 0)
    ∧ ∀ x, NoLabelWord x → (x < a ∨ a + bs.length ≤ x) →
      (isVault x = false ∨ x / 64 < a / 64 ∨ (a + bs.length - 1) / 64 < x / 64) →
      rawByte ((linePieces (.pa a) fuel bs).foldl (fun s p => performPiece s who k p.1 p.2 lab) s).mem x = rawByte s.mem x := by
  induction fuel with
  | zero => intro s a bs hf hn; omega
  | succ fuel ih =>
    intro s a bs hf hn ha
    unfold linePieces
    dsimp only
    split
    case isTrue h =>
      exact ⟨fun i hi => performPiece_byte s who k lab ha hi,
        fun x hw hx hl => performPiece_byte_other s who k lab ha hn hw hx (hl.imp_right (fun h => by omega))⟩
    case isFalse h =>
      have htake : (bs.take (64 - a % 64)).length = 64 - a % 64 := by rw [List.length_take]; omega
      have hdrop : (bs.drop (64 - a % 64)).length = bs.length - (64 - a % 64) := List.length_drop
      have ha1 : ∀ i, i < (bs.take (64 - a % 64)).length → Storable (a + i) := fun i hi => ha i (by omega)
      have ha2 : ∀ i, i < (bs.drop (64 - a % 64)).length → Storable (a + (64 - a % 64) + i) :=
        fun i hi => by rw [Nat.add_assoc]; exact ha _ (by omega)
      rw [List.foldl_cons]
      obtain ⟨hin, hout⟩ := ih (performPiece s who k (.pa a) (bs.take (64 - a % 64)) lab) (a + (64 - a % 64))
        (bs.drop (64 - a % 64)) (by omega) (by omega) ha2
      refine ⟨fun i hi => ?_, fun x hw hx hl => ?_⟩
      · by_cases hlt : i < 64 - a % 64
        · refine (hout (a + i) (ha i hi).noLabelWord (by omega) (.inr (by omega))).trans ?_
          rw [performPiece_byte s who k lab ha1 (by omega), List.getD_eq_getElem?_getD, List.getElem?_take_of_lt hlt,
            List.getD_eq_getElem?_getD]
        · have := hin (i - (64 - a % 64)) (by omega)
          rw [show a + (64 - a % 64) + (i - (64 - a % 64)) = a + i by omega] at this
          refine this.trans ?_
          rw [List.getD_eq_getElem?_getD, List.getElem?_drop, List.getD_eq_getElem?_getD,
            show 64 - a % 64 + (i - (64 - a % 64)) = i by omega]
      · exact (hout x hw (by omega) (hl.imp_right (fun h => by omega))).trans
          (performPiece_byte_other s who k lab ha1 (by omega) hw (by omega) (hl.imp_right (fun h => by omega)))

/-- Settles O20. -/
theorem storePerforms : Obligations.StorePerforms := by
  unfold Obligations.StorePerforms
  intro s c k a bs lab hwf hr
  refine ⟨State.perform_memOk s c k (.pa a) bs lab hwf, ?_⟩
  unfold State.perform
  cases bs with
  | nil => exact ⟨fun i hi => absurd hi (Nat.not_lt_zero i), fun x _ _ _ => rfl⟩
  | cons b bs =>
    obtain ⟨hin, hout⟩ := performPieces_byte c k lab ((b :: bs).length / 64 + 2) s a (b :: bs) (by omega) (by simp)
      (fun i hi => by unfold Storable; omega)
    exact ⟨hin, fun x hx hw => hout x hw hx⟩

end Sys2Proof.Machine
end

section
/-!
PROOFS. The store queue of a thread.
-/

namespace Sys2Proof.Machine

/-- Notes of accesses, and the state after them. -/
theorem State.storeAt_queued {s : State} {w : Who} {tg : Target} {bs : List Byte} {lab : Label} {slot : Nat}
    (hdc : tg.dc = false) (hnc : tg.nc = false) (hdev : tg.loc.device = false) :
    s.storeAt w tg bs lab slot =
      (storePieces tg.loc bs).foldl (fun x p => x.enqueue w.thread ⟨p.1, p.2, none, lab, tg.window, false, slot⟩) (s.touch w tg true) := by
  unfold State.storeAt
  simp only [hdc, hnc, Bool.false_eq_true, if_false, Bool.false_and, List.foldl_map]
  cases hl : tg.loc with
  | sp k o => rfl
  | pa a =>
    rw [hl] at hdev
    simp only [show isDevice a = false from hdev, Bool.false_eq_true, if_false]
    rfl

/-! ### STORE_DRAIN -/

variable {s : State} {k : Nat}

theorem State.sendOne_nil (h : (s.thread k).storeQ = []) : s.sendOne k = s := by
  unfold State.sendOne
  simp only [h]

/-- A store that is no window store performs. -/
theorem State.sendOne_plain {e : StoreEnt} {es : List StoreEnt} (h : (s.thread k).storeQ = e :: es) (hw : e.window = none) :
    s.sendOne k = (s.updThread k (fun t => Thread.wakeExit { t with storeQ := es })).performStore (s.thread k).stand false e := by
  unfold State.sendOne State.drainOne
  cases hs : e.sent <;> simp only [h, hw, hs]

/-- A window store that is on its lap stays. -/
theorem State.sendOne_sent {e : StoreEnt} {es : List StoreEnt} {w : Nat × Nat} {a : Nat} (h : (s.thread k).storeQ = e :: es)
    (hw : e.window = some w) (hl : e.loc = .pa a) (hs : e.sent = true) : s.sendOne k = s := by
  unfold State.sendOne
  simp only [h, hw, hl, hs, if_true]

/-- A window store starts its lap. -/
theorem State.sendOne_window {e : StoreEnt} {es : List StoreEnt} {w : Nat × Nat} {a : Nat} (h : (s.thread k).storeQ = e :: es)
    (hw : e.window = some w) (hl : e.loc = .pa a) (hs : e.sent = false) :
    s.sendOne k = { s.updThread k (fun t => { t with storeQ := { e with sent := true } :: es }) with
      windowMsgs := s.windowMsgs ++ [⟨w.2, s.vfOf (s.thread k).stand, w.1, k, a, e.bytes, e.tag, e.label⟩] } := by
  unfold State.sendOne
  simp only [h, hw, hl, hs, Bool.false_eq_true, if_false]
  rfl

/-- Settles O19. -/
theorem storeQueue : Obligations.StoreQueue := by
  unfold Obligations.StoreQueue
  refine ⟨fun s w tg bs lab slot hdc hnc hdev => State.storeAt_queued hdc hnc hdev, fun s k => ⟨⟨_, rfl⟩, fun h => ?_, fun e es h => ⟨?_, ?_, ?_⟩⟩⟩
  · exact congrArg Host.Outcome.next (State.sendOne_nil h)
  · exact fun w a hw hl hs => congrArg Host.Outcome.next (State.sendOne_sent h hw hl hs)
  · exact fun hw => congrArg Host.Outcome.next (State.sendOne_plain h hw)
  · intro w a hw hl hs
    refine ⟨_, congrArg Host.Outcome.next (State.sendOne_window h hw hl hs), rfl, rfl, rfl, fun j hj => ?_⟩
    exact (s.updThread_thread k j _).trans (if_neg (fun hc => hj hc.1))

end Sys2Proof.Machine
end

section
/-!
PROOFS. A scratchpad load whose thread has queued a tag.
-/

namespace Sys2Proof.Machine

/-- LD of 32 bits of the own scratchpad at the pointer in V4. -/
def tagLoad : MFmt := { x := 1, gn := 0, gp := 7, d := 8, a := 4, b := 0, spc := 1, ord := 0, sco := 0, sz := 4, var := 0, dl := 0 }

/-- A tag for a sector of a window page, as TAGSET queues it: it has no bytes. -/
def queuedTag : StoreEnt := ⟨.pa 0x40000000000, [], some 1, 0, some (0, 0), false, 0⟩

/-- A stand of function 1 on core 0 with a program area of 128 KiB and one stage of one thread. -/
def loadStand : Stand :=
  { newStand (newGrid 1 0 none 0 0) 1 0 0 false 0 with
    stages := [{ ent := 0x1000, threads := 1, quota := 256, com := false, cqd := 0, weight := 1, qloc := 0, qesz := 0, qcap := 0, qptr := 0 }]
    started := true
    areaA := 0x20000 }

/-- The machine with that stand: its thread, in lane 0 of slot 0, has the pointer 0x1000 in V4 and has queued the tag. -/
def tagQueued : State :=
  { State.reset with
    stands := [(8192, loadStand)]
    threads := [(134217728, { Thread.start 8192 0 0 ⟨0x1000, 0⟩ [(4, 0x1000)] 0 with storeQ := [queuedTag] })]
    slots := [(0, { Slot.empty with stand := 8192, lanes := [(0, 134217728)] })]
    cur := ⟨0, 0, 0, [0], 0x1000, 0, 0, 0x1010, 0x1008⟩ }

/-- The load is legal and its lane executes. -/
theorem tagQueued_runs : tagQueued.Runs (.ld tagLoad) 7 [0] :=
  ⟨_, rfl, Option.isNone_iff_eq_none.mp (by decide +kernel), rfl, by decide +kernel, by decide⟩

/-- Nothing that the statement names stops the load. -/
theorem tagQueued_clean : tagQueued.ordered = true ∧ tagQueued.stands.get? tagQueued.curStand = some loadStand
    ∧ ∀ l ∈ [0], tagQueued.raiseTok 7 [.v tagLoad.ra 1] l = none ∧ tagQueued.watchList (tagQueued.laneWho l) = []
      ∧ tagQueued.ownSpan loadStand l (MFmt.ptr tagLoad (tagQueued.lane l)) tagLoad.disp16 (szBytes tagLoad.z) = true := by
  decide +kernel

/-- The load performs the tag first (R84, R224): the queue of its thread is empty afterwards. -/
theorem tagQueued_drains : (match exec (.ld tagLoad) tagQueued with
    | .next t => (t.lane 0).storeQ
    | _ => [queuedTag]) = [] := by decide +kernel

/-- Refutes O17: a tag that the lane's thread has queued for a window page has no bytes, so it overlaps no span and `ownSpan` lets
it pass; but the check of a load makes such an entry perform, so the thread's queue and the tag of the sector change too. -/
theorem not_scratchpadLoads : ¬ Obligations.ScratchpadLoads := by
  unfold Obligations.ScratchpadLoads
  intro h
  obtain ⟨ho, hs, hc⟩ := tagQueued_clean
  obtain ⟨t, he, hw⟩ := h tagLoad tagQueued 7 [0] loadStand rfl tagQueued_runs ho hs rfl hc
  have hq : (t.lane 0).storeQ = [queuedTag] := by
    rw [hw.1 0 (by decide)]
    rfl
  have hd := tagQueued_drains
  rw [he] at hd
  rw [show (t.lane 0).storeQ = [] from hd] at hq
  cases hq

end Sys2Proof.Machine
end

section
/-!
PROOFS. Numbers in stored bytes, and stores to a scratchpad.
-/

namespace Sys2Proof.Machine

/-! ### Numbers -/

theorem leBytes_getElem? (n : Nat) : ∀ (v i : Nat), i < n → (leBytes n v)[i]? = some (BitVec.ofNat 8 (v / 256 ^ i)) := by
  induction n with
  | zero => intro v i h; omega
  | succ n ih =>
    intro v i h
    cases i with
    | zero => simp [leBytes]
    | succ i =>
      refine (ih (v / 256) i (by omega)).trans ?_
      rw [Nat.div_div_eq_div_mul, ← Nat.pow_succ']

/-- Bytes that are those of a number, from byte `i` of it on, read as that part of the number. -/
theorem rawNat_of_bytes {m : Table Byte} {a k v i : Nat} (h : ∀ j, j < k → rawByte m (a + j) = BitVec.ofNat 8 (v / 256 ^ (i + j))) :
    rawNat m a k = v / 256 ^ i % 256 ^ k := by
  unfold rawNat
  rw [← leNat_leBytes]
  refine congrArg leNat (List.ext_getElem? (fun j => ?_))
  by_cases hj : j < k
  · rw [leBytes_getElem? k _ j hj, rawBytes, List.getElem?_map, List.getElem?_range hj, Option.map_some, h j hj,
      Nat.div_div_eq_div_mul, ← Nat.pow_add]
  · rw [List.getElem?_eq_none (by simp [rawBytes]; omega), List.getElem?_eq_none (by simp; omega)]

/-- Part of a number that was stored. -/
theorem rawNat_setBytes (m : Table Byte) (a n v : Nat) {i k : Nat} (h : i + k ≤ n) :
    rawNat (setBytes m a (leBytes n v)) (a + i) k = v / 256 ^ i % 256 ^ k := by
  refine rawNat_of_bytes (fun j hj => ?_)
  rw [rawByte_setBytes, if_pos (by rw [leBytes_length]; omega), show a + i + j - a = i + j by omega,
    List.getD_eq_getElem?_getD, leBytes_getElem? n v (i + j) (by omega)]
  rfl

/-- A number beside what was stored. -/
theorem rawNat_setBytes_other (m : Table Byte) (bs : List Byte) {a b k : Nat} (h : b + k ≤ a ∨ a + bs.length ≤ b) :
    rawNat (setBytes m a bs) b k = rawNat m b k := by
  unfold rawNat rawBytes
  refine congrArg leNat (List.map_congr_left (fun j hj => ?_))
  rw [List.mem_range] at hj
  exact rawByte_setBytes_other bs m a (b + j) (by omega)

theorem setBytes_append (xs : List Byte) : ∀ (m : Table Byte) (a : Nat) (ys : List Byte),
    setBytes m a (xs ++ ys) = setBytes (setBytes m a xs) (a + xs.length) ys := by
  induction xs with
  | nil => intro m a ys; rfl
  | cons x xs ih =>
    intro m a ys
    rw [List.cons_append, setBytes, ih, setBytes, List.length_cons, Nat.add_assoc, Nat.add_comm 1]

/-! ### Stores to a scratchpad -/

/-- The scratchpad of stand `k` holds `m`. -/
def State.SpIs (s : State) (k : Nat) (m : Table Byte) : Prop := ∃ st, s.stands.get? k = some st ∧ st.sp = m

theorem State.updStand_get? (s : State) (k j : Nat) (f : Stand → Stand) :
    (s.updStand k f).stands.get? j = if j = k then (s.stands.get? j).map f else s.stands.get? j := by
  show Table.get? (Table.modify s.stands k f) j = _
  rw [Table.get?_modify]
  split <;> simp_all

theorem State.SpIs.updStand {s : State} {k : Nat} {m : Table Byte} (h : s.SpIs k m) (j : Nat) {f : Stand → Stand}
    (hf : ∀ st, (f st).sp = st.sp) : (s.updStand j f).SpIs k m := by
  obtain ⟨st, hs, hm⟩ := h
  by_cases hk : k = j
  · exact ⟨f st, by rw [State.updStand_get?, if_pos hk, hs]; rfl, (hf st).trans hm⟩
  · exact ⟨st, by rw [State.updStand_get?, if_neg hk, hs], hm⟩

theorem State.SpIs.putBytes {s : State} {k : Nat} {m : Table Byte} (h : s.SpIs k m) (key o : Nat) (bs : List Byte) :
    (s.putBytes key (.sp k o) bs).SpIs k (setBytes m o bs) := by
  obtain ⟨st, hs, rfl⟩ := h
  exact ⟨{ st with sp := setBytes st.sp o bs }, by dsimp only [State.putBytes]; rw [State.updStand_get?, if_pos rfl, hs]; rfl, rfl⟩

theorem State.SpIs.raiseSpan {s : State} {k : Nat} {m : Table Byte} (h : s.SpIs k m) (j o n : Nat) (lab : Label) :
    (s.raiseSpan (.sp j o) n lab).SpIs k m := by
  unfold State.raiseSpan
  exact List.foldlRecOn _ _ (motive := fun t : State => t.SpIs k m) h (fun t ht i _ => ht.updStand j (fun _ => rfl))

/-- A piece of a store to a scratchpad. -/
theorem State.SpIs.performPiece {s : State} {k : Nat} {m : Table Byte} (h : s.SpIs k m) (who : Option Nat) (key o : Nat)
    (bs : List Byte) (lab : Label) : (performPiece s who key (.sp k o) bs lab).SpIs k (setBytes m o bs) := by
  have hp := (h.putBytes key o bs).raiseSpan k o bs.length lab
  have hc (is : List Nat) {t : State} (ht : t.SpIs k (setBytes m o bs)) : (is.foldl (fun (t : State) i =>
      if 32 * (i + 1) ≤ bs.length then t.clearBad ((Loc.sp k o).plus (32 * i)) else t) t).SpIs k (setBytes m o bs) :=
    List.foldlRecOn _ _ (motive := fun u : State => u.SpIs k (setBytes m o bs)) ht (fun u hu i _ => by
      split
      · exact hu.updStand k (fun _ => rfl)
      · exact hu)
  unfold Machine.performPiece
  dsimp only
  split
  · exact hc _ hp
  · exact hp

theorem State.SpIs.performPieces {k : Nat} (who : Option Nat) (key : Nat) (lab : Label) (fuel : Nat) :
    ∀ (s : State) (m : Table Byte) (o : Nat) (bs : List Byte), o % 64 + bs.length ≤ 64 * fuel → 0 < fuel → s.SpIs k m →
      ((linePieces (.sp k o) fuel bs).foldl (fun s p => Machine.performPiece s who key p.1 p.2 lab) s).SpIs k (setBytes m o bs) := by
  induction fuel with
  | zero => intro s m o bs hf h0; omega
  | succ fuel ih =>
    intro s m o bs hf _ h
    unfold linePieces
    dsimp only
    split
    case isTrue hl => exact h.performPiece who key o bs lab
    case isFalse hl =>
      have htake : (bs.take (64 - o % 64)).length = 64 - o % 64 := by rw [List.length_take]; omega
      have hdrop : (bs.drop (64 - o % 64)).length = bs.length - (64 - o % 64) := List.length_drop
      have he := setBytes_append (bs.take (64 - o % 64)) m o (bs.drop (64 - o % 64))
      rw [List.take_append_drop, htake] at he
      rw [he]
      exact ih _ _ _ _ (by omega) (by omega) (h.performPiece who key o (bs.take (64 - o % 64)) lab)

/-- A store to a scratchpad sets its bytes. -/
theorem State.SpIs.perform {s : State} {k : Nat} {m : Table Byte} (h : s.SpIs k m) (who : Option Nat) (key o : Nat)
    (bs : List Byte) (lab : Label) : (s.perform who key (.sp k o) bs lab).SpIs k (setBytes m o bs) := by
  unfold State.perform
  split
  · next hn => rw [List.isEmpty_iff.mp hn]; exact h
  · exact State.SpIs.performPieces who key lab _ s m o bs (by omega) (by omega) h

end Sys2Proof.Machine
end

section
/-!
PROOFS. WAITW and barriers.
-/

namespace Sys2Proof.Machine

/-- Settles O27: the instructions are checks of lanes with acts that the statement writes out; WAITW's lane by its two outcomes. -/
theorem waitsAndBarriers : Obligations.WaitsAndBarriers := by
  unfold Obligations.WaitsAndBarriers
  refine ⟨fun f => completesStay_of (fun s => ⟨_, rfl, ?_⟩), fun f => ⟨?_, ?_, ?_, ?_⟩⟩
  · refine congrArg (fun act => Host.Outcome.next (s.issue f.gn f.gp (illWaitw f s) (fun ex => s.eachLaneStay ex (State.waitwCheck f) act)))
      (funext fun s => funext fun v => ?_)
    refine congrArg (fun r : List (Nat × List Out) × Label × List Nat × State =>
        (r.2.2.2.commit (r.1.map Prod.fst) [.v f.rd (szRegs f.z)] (r.2.2.2.labelL f.gp.toNat (r.1.map Prod.fst)
          (s.curSlot.srcLabel [MFmt.addr f, .v f.rb (szRegs f.z)]) r.2.1) r.1, r.2.2.1))
      (congrArg (fun g => List.foldl g _ v) (funext fun x => funext fun p => ?_))
    unfold State.waitwLane waitwHolds
    dsimp only
    by_cases hc : condHolds (f.v % 8)
        (if 8 ≤ f.v then sext (x.2.2.2.loadAt (x.2.2.2.laneWho p.1) p.2 (szBytes f.z)).1.v (32 * szRegs f.z)
          else ((x.2.2.2.loadAt (x.2.2.2.laneWho p.1) p.2 (szBytes f.z)).1.v : Int))
        (if 8 ≤ f.v then sext ((x.2.2.2.lane p.1).regNat f.rb (szRegs f.z)) (32 * szRegs f.z)
          else ((x.2.2.2.lane p.1).regNat f.rb (szRegs f.z) : Int)) = true
    · simp only [if_pos hc]
    · simp only [if_neg hc]
  · exact onceCompletes_of (fun _ => ⟨_, rfl, rfl⟩)
  · exact completesStay_of (fun _ => ⟨_, rfl, rfl⟩)
  · exact completesStay_of (fun _ => ⟨_, rfl, rfl⟩)
  · exact completesStay_of (fun _ => ⟨_, rfl, rfl⟩)

end Sys2Proof.Machine
end

section
/-!
PROOFS. Phases of barriers and transaction barriers.
-/

namespace Sys2Proof.Machine

/-- What a change of every thread of a stand leaves under a key. -/
theorem State.mapStand_get? (s : State) (stand j : Nat) (f : Nat → Thread → Thread) :
    (s.mapStand stand f).threads.get? j = (s.threads.get? j).map (fun t => if t.stand = stand then f j t else t) := by
  rw [← Table.get?_mapVals (fun k t => if t.stand = stand then f k t else t)]
  refine congrArg (fun g => Table.get? (s.threads.map g) j) (funext fun p => ?_)
  dsimp only
  split
  · rfl
  · rfl

/-- A thread of the stand whose phase completes. -/
def Thread.phased (b : Nat) (t : Thread) : Thread :=
  match t.wait with
  | .barrier b' _ dest => if b' = b then t.wakeTo dest else t
  | .arrive b' => if b' = b then t.wake else t
  | _ => t

theorem State.completePhase_get? (s : State) (k b j : Nat) {th : Thread} (h : s.threads.get? j = some th) (hk : th.stand = k) :
    (s.completePhase k b).threads.get? j = some (th.phased b) := by
  unfold State.completePhase
  rw [State.mapStand_get?]
  simp only [State.updStand_threads, h, Option.map_some, hk, if_true]
  rfl

theorem State.completePhase_stand (s : State) (k b : Nat) {st : Stand} (h : s.stands.get? k = some st) :
    (s.completePhase k b).stands.get? k = some { st with
      barriers := st.barriers.modify b Barrier.nextPhase, gen := if b < 16 then (st.gen + 1) % 8 else st.gen } := by
  show Table.get? (Table.modify s.stands k _) k = _
  rw [Table.get?_modify, if_pos rfl, h]
  rfl

/-- An unlinked barrier is tested. -/
theorem State.testBarrier_eq {s : State} {k b : Nat} {st : Stand} {x : Barrier} (hs : s.stands.get? k = some st)
    (hb : st.barriers.get? b = some x) (hl : x.link = none) :
    s.testBarrier k b = if 1 ≤ x.arr ∧ x.exp ≤ x.arr then s.completePhase k b else s := by
  unfold State.testBarrier
  simp only [hs, hb, hl, Option.isNone_none, Bool.true_and, Bool.and_eq_true, decide_eq_true_eq]

/-- Settles O28. -/
theorem barrierPhases : Obligations.BarrierPhases := by
  unfold Obligations.BarrierPhases
  intro s k b st x hs hb hl
  rw [State.testBarrier_eq hs hb hl]
  refine ⟨fun h1 h2 => ?_, fun h => if_neg (by omega)⟩
  rw [if_pos ⟨h1, h2⟩]
  refine ⟨_, _, rfl, s.completePhase_stand k b hs, ?_, fun c hc => ?_, rfl, fun j th hj hst => ⟨fun p d hw => ?_, fun hw => ?_, fun hw => ?_⟩, rfl⟩
  · rw [Table.get?_modify, if_pos rfl, hb]
    simp only [Option.map_some, Barrier.nextPhase, hl, Option.map_none]
  · exact Table.get?_modify_ne _ _ hc
  · rw [s.completePhase_get? k b j hj hst]
    simp only [Thread.phased, hw, if_true]
    rfl
  · rw [s.completePhase_get? k b j hj hst]
    simp only [Thread.phased, hw, if_true]
    rfl
  · rw [s.completePhase_get? k b j hj hst]
    simp only [Thread.phased, hw]

section
variable {f : MFmt} {srcs : List Src} {s0 s : State} {l : Nat} {tg : Target} {t : TBar} {b : Word}

/-- TBARE.TEST. -/
theorem State.tbareLane_test (hs : s0.drainQ (s0.laneKey l) = s) (ht : s.tbar s.curStand tg.loc.off = t)
    (hb : (s.lane l).reg f.rb = b) (hv : f.v = 3) :
    State.tbareLane f srcs s0 l tg = (some (.val (if t.ph = b.getLsbD 0 then 0 else 1)), s.labelOf 0 0 tg.loc, false, s) := by
  subst hb ht hs
  exact if_pos hv

/-- TBARE.WAIT. -/
theorem State.tbareLane_wait (hs : s0.drainQ (s0.laneKey l) = s) (ht : s.tbar s.curStand tg.loc.off = t)
    (hb : (s.lane l).reg f.rb = b) (hv : f.v = 2) :
    State.tbareLane f srcs s0 l tg = if t.ph = b.getLsbD 0 then
        (none, 0, true, s.updLane l (fun th => th.sleep (.tbar tg.loc.off t.ph s.cur.nextPC)))
      else (none, 0, false, s) := by
  subst hb ht hs
  exact (if_neg (by omega)).trans (if_pos hv)

/-- An arrival, with or without expected bytes. -/
theorem State.tbareLane_arrive (hs : s0.drainQ (s0.laneKey l) = s) (ht : s.tbar s.curStand tg.loc.off = t)
    (hb : (s.lane l).reg f.rb = b) (hv : f.v ≤ 1) :
    State.tbareLane f srcs s0 l tg = if t.expa < t.arr + 1 then
        (none, 0, true, s.updLane l (fun th => th.sleep (.tbarArrive tg.loc.off)))
      else (some (.val (if t.ph then 1 else 0)), s.labelOf 0 0 tg.loc, false, s.putTbar s.curStand tg.loc.off
        { t with arr := t.arr + 1, byt := if f.v = 1 then (t.byt + b.toNat) % 2 ^ 32 else t.byt } (s.writeLabel f.gp srcs l)) := by
  subst hb ht hs
  exact (if_neg (by omega)).trans (if_neg (by omega))

end

/-- Settles O29: TBARI is done by the lowest lane; TBARE's lane by its cases; and the completion test. -/
theorem transactionBarriers : Obligations.TransactionBarriers := by
  unfold Obligations.TransactionBarriers
  refine ⟨fun f => ⟨onceCompletes_of (fun _ => ⟨_, rfl, rfl⟩), completesStay_of (fun _ => ⟨_, rfl, rfl⟩)⟩,
    fun f srcs s0 l k o tg => ?_⟩
  intro s hl hk t b q
  have ho : tg.loc.off = o := by rw [hl]; rfl
  have hs : s0.drainQ (s0.laneKey l) = s := rfl
  have ht : s.tbar s.curStand tg.loc.off = t := by rw [ho, ← hk]
  have hb : (s.lane l).reg f.rb = b := rfl
  have hq : State.tbareLane f srcs s0 l tg = q := rfl
  clear_value q t b s
  subst hk ho
  refine ⟨fun hv => ?_, fun hv hp => ?_, fun hv hp => ?_, fun hv hx => ?_, fun hv hx => ?_, fun u h1 h2 => ?_, fun u h => ?_⟩
  · rw [← hq, State.tbareLane_test hs ht hb hv]
    exact ⟨rfl, rfl⟩
  · rw [← hq, State.tbareLane_wait hs ht hb hv, if_pos hp]
  · rw [← hq, State.tbareLane_wait hs ht hb hv, if_neg hp]
  · rw [← hq, State.tbareLane_arrive hs ht hb hv, if_pos hx]
  · rw [← hq, State.tbareLane_arrive hs ht hb hv, if_neg (by omega)]
    exact ⟨rfl, rfl⟩
  · unfold TBar.settle
    rw [if_pos (by simp [h1, h2])]
  · unfold TBar.settle
    rw [if_neg (by simpa [Classical.or_iff_not_imp_left] using h)]

end Sys2Proof.Machine
end

section
/-!
PROOFS. Queues.
-/

namespace Sys2Proof.Machine

/-! ### One lane -/

section
variable {f : MFmt} {s s1 s2 : State} {l : Nat} {q : Que} {t : Target}

theorem State.qenqLane_open (h : s.queOpen f f.disp8 true 1 l none = (.ok q, s1)) :
    (q.legal (some f.z) = false → s.qenqLane f l = (.bad queFlt, s1))
    ∧ (q.legal (some f.z) = true → q.count = q.cap → s.qenqLane f l = (.wait 7, s1))
    ∧ (q.legal (some f.z) = true → q.count ≠ q.cap →
        s1.queCheck (s.laneWho l) (queReq f f.disp8 (s.lane l) (q.entryOff q.tail) (szBytes f.z) true 1) = (.ok t, s2) →
        s.qenqLane f l = (.done none 0, s2.quePush f (s.laneWho l) q t ((s.lane l).regNat f.rb (szRegs f.z))
          (s.writeLabel f.gp [MFmt.addr f, .v f.rb (szRegs f.z)] l))) := by
  unfold State.qenqLane
  refine ⟨fun hl => ?_, fun hl hc => ?_, fun hl hc hq => ?_⟩
  · simp only [h, hl, Bool.not_false, if_true]
  · simp only [h, hl, hc, Bool.not_true, Bool.false_eq_true, if_false, if_true]
  · simp only [h, hl, hc, hq, Bool.not_true, Bool.false_eq_true, if_false]

theorem State.qdeqLane_open (h : s.queOpen f f.disp8 true 0 l none = (.ok q, s1)) :
    (q.legal (some f.z) = false → s.qdeqLane f l = (.bad queFlt, s1))
    ∧ (q.legal (some f.z) = true → q.count = 0 → f.v = 0 → s.qdeqLane f l = (.wait 6, s1))
    ∧ (q.legal (some f.z) = true → q.count ≠ 0 →
        s1.queCheck (s.laneWho l) (queReq f f.disp8 (s.lane l) (q.entryOff q.head) (szBytes f.z) false 0) = (.ok t, s2) →
        s2.badSpan t.loc (szBytes f.z) = false →
        s.qdeqLane f l = (.done (some (s2.quePop f (s.laneWho l) q t).1.v) (q.label ||| (s2.quePop f (s.laneWho l) q t).1.label),
          (s2.quePop f (s.laneWho l) q t).2)) := by
  unfold State.qdeqLane
  refine ⟨fun hl => ?_, fun hl hc hv => ?_, fun hl hc hq hb => ?_⟩
  · simp only [h, hl, Bool.not_false, if_true]
  · simp [h, hl, hc, hv]
  · simp only [h, hl, hc, hq, hb, Bool.not_true, Bool.false_eq_true, if_false]

theorem State.qpeekLane_open (h : s.queOpen f f.disp16 false 0 l none = (.ok q, s1)) :
    (f.v = 1 → q.legal none = true → s.qpeekLane f l = (.done (some q.count) q.label, s1.touch (s.laneWho l) q.desc false))
    ∧ (f.v ≠ 1 → q.legal (some f.z) = true → q.count ≤ (s.lane l).rank → s.qpeekLane f l = (.wait 6, s1)) := by
  unfold State.qpeekLane
  refine ⟨fun hv hl => ?_, fun hv hl hc => ?_⟩
  · simp only [h, hv, hl, Bool.not_true, Bool.false_eq_true, if_false, if_true]
  · simp only [h, hv, hl, hc, Bool.not_true, Bool.false_eq_true, if_false, if_true]

end

/-! ### The bytes of a queue in a scratchpad -/

/-- The descriptor's words after they were put: CAP with ESZ, HEAD, TAIL. -/
theorem State.SpIs.quePut {s : State} {k o : Nat} {m : Table Byte} {q : Que} (h : s.SpIs k m) (hq : q.desc.loc = .sp k o) (w : Who)
    (cfg head tail : Nat) (lab : Label) : (s.quePut w q cfg head tail lab).SpIs k
      (setBytes m o (leBytes 12 (cfg + head % 2 ^ 32 * 2 ^ 32 + tail % 2 ^ 32 * 2 ^ 64))) := by
  unfold State.quePut
  rw [hq]
  exact h.perform _ _ o _ lab

/-- A descriptor reads back word by word. -/
theorem rawNat_descriptor (m : Table Byte) (o : Nat) {cfg head tail : Nat} (hc : cfg < 2 ^ 32) :
    let n := setBytes m o (leBytes 12 (cfg + head % 2 ^ 32 * 2 ^ 32 + tail % 2 ^ 32 * 2 ^ 64))
    rawNat n o 4 = cfg ∧ rawNat n (o + 4) 4 = head % 2 ^ 32 ∧ rawNat n (o + 8) 4 = tail % 2 ^ 32 := by
  refine ⟨(rawNat_setBytes m o 12 _ (i := 0) (by decide)).trans ?_, (rawNat_setBytes m o 12 _ (by decide)).trans ?_,
    (rawNat_setBytes m o 12 _ (by decide)).trans ?_⟩
  · omega
  · omega
  · omega

theorem Que.cfg_lt {q : Que} (hc : q.cap < 2 ^ 16) (he : q.esz < 3) : q.cfg < 2 ^ 32 := by
  unfold Que.cfg; omega

theorem State.bytesOf_sp {s : State} {k : Nat} {st : Stand} (hs : s.stands.get? k = some st) (key o n : Nat) :
    s.bytesOf key (.sp k o) n = rawBytes st.sp o n := by
  unfold State.bytesOf rawBytes
  simp only [Loc.plus, State.byteOf, hs]

theorem map_range_getD (xs : List Byte) : (List.range xs.length).map (fun i => xs.getD i 0#8) = xs := by
  refine List.ext_getElem (by simp) (fun i h1 h2 => ?_)
  simp [List.getD_eq_getElem?_getD, List.getElem?_eq_getElem h2]

/-- A load of a place of a scratchpad whose thread has no queued store. -/
theorem State.loadAt_sp {s : State} {w : Who} {t : Target} {k o : Nat} (n : Nat) {st : Stand} (hs : s.stands.get? k = some st)
    (hq : (s.thread w.thread).storeQ = []) (ht : t.tlb = none) (hd : t.dc = false) (hn : t.nc = false) (hl : t.loc = .sp k o) :
    (s.loadAt w t n).1.v = rawNat st.sp o n ∧ (s.loadAt w t n).2 = s := by
  have hb := State.bytesOf_sp hs t.key o n
  have hlen : (rawBytes st.sp o n).length = n := by simp [rawBytes]
  unfold State.loadAt State.loadMem
  simp only [ht, hl, hd, hn, Thread.touching, hq, List.filter_nil, List.isEmpty_nil, Bool.not_true, Bool.false_and, Bool.not_false,
    Bool.and_self, Bool.or_true, if_true, State.performRead, Bool.false_eq_true, if_false, dcByte, queuedByte, List.foldl_nil, hb]
  refine ⟨?_, trivial⟩
  have := map_range_getD (rawBytes st.sp o n)
  rw [hlen] at this
  rw [this]
  rfl

section
variable {f : MFmt} {s : State} {w : Who} {q : Que} {t : Target} {k o : Nat} {st : Stand}

/-- An entry that was put, and the descriptor after it. -/
theorem State.quePush_bytes (v : Nat) (lab : Label) (hs : s.stands.get? k = some st) (hq : (s.thread w.thread).storeQ = [])
    (ht : t.tlb = none) (hd : q.desc.loc = .sp k o) (hc : q.cap < 2 ^ 16) (he : q.esz < 3) (hh : q.head < 2 ^ 32)
    (hl : t.loc = .sp k (o + q.entryOff q.tail)) :
    ∃ st', (s.quePush f w q t v lab).stands.get? k = some st'
      ∧ rawNat st'.sp (o + q.entryOff q.tail) (szBytes f.z) = v % 2 ^ (8 * szBytes f.z)
      ∧ rawNat st'.sp o 4 = q.cfg ∧ rawNat st'.sp (o + 4) 4 = q.head ∧ rawNat st'.sp (o + 8) 4 = (q.tail + 1) % 2 ^ 32 := by
  have h0 : s.SpIs k st.sp := ⟨st, hs, rfl⟩
  have hpush : s.quePush f w q t v lab = State.quePut (s.perform (if t.nc then none else some w.core) t.key
      (.sp k (o + q.entryOff q.tail)) (leBytes (szBytes f.z) v) lab) w q q.cfg q.head (q.tail + 1) lab := by
    unfold State.quePush State.drainQ State.touch
    simp only [hq, ht, hl, List.foldl_nil]
  obtain ⟨st', hst, hsp⟩ := (h0.perform (if t.nc then none else some w.core) t.key (o + q.entryOff q.tail)
    (leBytes (szBytes f.z) v) lab).quePut hd w q.cfg q.head (q.tail + 1) lab
  obtain ⟨h1, h2, h3⟩ := rawNat_descriptor (setBytes st.sp (o + q.entryOff q.tail) (leBytes (szBytes f.z) v)) o
    (head := q.head) (tail := q.tail + 1) (Que.cfg_lt hc he)
  refine ⟨st', by rw [hpush]; exact hst, ?_, by rw [hsp, h1], by rw [hsp, h2, Nat.mod_eq_of_lt hh], by rw [hsp, h3]⟩
  rw [hsp, rawNat_setBytes_other _ _ (by right; rw [leBytes_length]; unfold Que.entryOff; omega)]
  have := rawNat_setBytes st.sp (o + q.entryOff q.tail) (szBytes f.z) v (i := 0) (k := szBytes f.z) (by omega)
  rw [Nat.add_zero, Nat.pow_zero, Nat.div_one] at this
  rw [this, Nat.pow_mul]

/-- An entry that is taken, and the descriptor after it. -/
theorem State.quePop_bytes (hs : s.stands.get? k = some st) (hq : (s.thread w.thread).storeQ = [])
    (hqt : q.desc.tlb = none) (ht : t.tlb = none) (hdc : t.dc = false) (hnc : t.nc = false)
    (hd : q.desc.loc = .sp k o) (hc : q.cap < 2 ^ 16) (he : q.esz < 3) (htl : q.tail < 2 ^ 32)
    (hl : t.loc = .sp k (o + q.entryOff q.head)) :
    (s.quePop f w q t).1.v = rawNat st.sp (o + q.entryOff q.head) (szBytes f.z)
    ∧ ∃ st', (s.quePop f w q t).2.stands.get? k = some st'
      ∧ rawNat st'.sp o 4 = q.cfg ∧ rawNat st'.sp (o + 4) 4 = (q.head + 1) % 2 ^ 32 ∧ rawNat st'.sp (o + 8) 4 = q.tail := by
  have hopen : (s.drainQ w.thread).touch w q.desc true = s := by
    unfold State.drainQ State.touch
    simp only [hq, hqt, List.foldl_nil]
  obtain ⟨hv, hstate⟩ := State.loadAt_sp (szBytes f.z) hs hq ht hdc hnc hl
  have h0 : s.SpIs k st.sp := ⟨st, hs, rfl⟩
  obtain ⟨st', hst, hsp⟩ := h0.quePut hd w q.cfg (q.head + 1) q.tail 0
  obtain ⟨h1, h2, h3⟩ := rawNat_descriptor st.sp o (head := q.head + 1) (tail := q.tail) (Que.cfg_lt hc he)
  unfold State.quePop
  dsimp only
  rw [hopen, hstate]
  exact ⟨hv, st', hst, by rw [hsp, h1], by rw [hsp, h2], by rw [hsp, h3, Nat.mod_eq_of_lt htl]⟩

end

/-- Settles O26. -/
theorem queues : Obligations.Queues := by
  unfold Obligations.Queues
  refine ⟨fun f => ⟨?_, ?_, ?_, ?_⟩, fun f s s1 s2 l q t => ⟨fun h => ?_, fun h => ?_, fun h => ?_⟩, ?_⟩
  · exact onceCompletes_of (fun _ => ⟨_, rfl, rfl⟩)
  · exact queueCompletes_of (f := f) (fun _ => ⟨_, rfl, rfl⟩)
  · exact queueCompletes_of (f := f) (fun _ => ⟨_, rfl, rfl⟩)
  · exact queueCompletes_of (f := f) (fun _ => ⟨_, rfl, rfl⟩)
  · exact State.qenqLane_open h
  · exact State.qdeqLane_open h
  · exact State.qpeekLane_open h
  · intro f s w q t k o v lab st hs hq hqt ht hdc hnc hd _ hc he _ hh htl
    exact ⟨State.quePush_bytes v lab hs hq ht hd hc he hh, State.quePop_bytes hs hq hqt ht hdc hnc hd hc he htl⟩

end Sys2Proof.Machine
end

section
/-!
PROOFS. EXIT, join points and SWR.
-/

namespace Sys2Proof.Machine

/-- An instruction whose lanes only raise, and which then acts for the lanes that did not and says which of them stay. -/
theorem acts_of_eachLaneStay {i : Instr} {srcs : List Src} {t : State → BitVec 3 → List Nat → State} {gn : BitVec 1} {gp : BitVec 3}
    {bad : State → Option Flt} {act : State → State → List (Nat × Unit) → State × List Nat}
    (hx : ∀ s : State, s.useOf i = some ⟨gn, gp, bad s⟩
      ∧ exec i s = .next (s.issue gn gp (bad s) (fun ex => s.eachLaneStay ex (State.raiseOnly gp srcs) (act s))))
    (ht : ∀ (s : State) (ex : List Nat), (act s s (ex.map (fun l => (l, ())))).1.advance
      (s.othersOf (act s s (ex.map (fun l => (l, ())))).2) = t s gp ex) : Acts i srcs t :=
  actsIf_of hx (fun s ex hn hc _ => (State.eachLaneStay_clean (act s) hn hc).trans (ht s ex))

/-- The elements that are not among those that pass a test are those that fail it. -/
theorem filter_not_contains (p : Nat → Bool) (xs : List Nat) :
    xs.filter (fun x => !(xs.filter p).contains x) = xs.filter (fun x => !p x) := by
  refine List.filter_congr (fun x hx => ?_)
  simp [hx]

/-- Settles O12. -/
theorem exitsAndJoinPoints : Obligations.ExitsAndJoinPoints := by
  unfold Obligations.ExitsAndJoinPoints
  refine ⟨fun f => ?_, fun f => ⟨?_, ?_, ?_⟩⟩
  · refine acts_of_eachLaneStay (fun _ => ⟨rfl, rfl⟩) (fun s ex => ?_)
    simp only [fst_lanes, filter_not_contains]
  · refine actsIf_of (fun _ => ⟨rfl, rfl⟩) (fun s ex hn hc _ => (State.eachLane_clean _ hn hc).trans ?_)
    simp only [fst_lanes]
  · refine acts_of_eachLaneStay (fun _ => ⟨rfl, rfl⟩) (fun s ex => ?_)
    simp only [fst_lanes, Thread.joinPending]
  · refine acts_of_eachLane (fun _ => ⟨rfl, rfl⟩) (fun s ex _ => ?_)
    simp only [fst_lanes, Thread.joinPending]

/-! ### SWR -/

section
variable {f : SFmt} {s : State} {ex : List Nat}

/-- The value that a lane of SWR writes. -/
def State.swrVal (s : State) (f : SFmt) (l : Nat) : Nat := (s.lane l).regNat f.ra (s.specialWords f.n)

/-- Lanes that do not raise all write. -/
theorem State.swrVals_eq (hc : ∀ l ∈ ex, s.raiseTok f.gp [.v f.ra (s.specialWords f.n)] l = none) :
    s.swrVals f ex = ex.map (fun l => (l, s.swrVal f l)) := by
  unfold State.swrVals
  dsimp only
  rw [List.filter_eq_self.mpr (fun l hl => by simp [State.raiseOf, hc l hl])]
  rfl

/-- The highest lane with its value. -/
theorem getLast?_pairs (g : Nat → Nat) (hn : ex ≠ []) : (ex.map (fun l => (l, g l))).getLast? = some (ex.getLastD 0, g (ex.getLastD 0)) := by
  rw [List.getLast?_map, List.getLastD_eq_getLast?, List.getLast?_eq_some_getLast hn]
  rfl

/-- What SWR does where no lane raises: `w` of the state after the stores, with every lane's value and the label. -/
theorem swr_acts {t : State → BitVec 3 → List Nat → State} {ok : State → BitVec 3 → Nat → Prop}
    (h : ∀ (s : State) (ex : List Nat), ex ≠ [] →
      (if f.n = 0x0A then (s.drainLanes ex).setRmode (s.swrVal f (ex.getLastD 0))
        else if f.n < 0x200 then (s.drainLanes ex).swrSup f.n (ex.map (fun l => (l, s.swrVal f l)))
          (s.labelL f.gp.toNat ex (s.curSlot.srcLabel [.v f.ra (s.specialWords f.n)]) 0)
        else (s.drainLanes ex).swrMgmt f.n (s.swrVal f (ex.getLastD 0))).advance s.cur.lanes = t s f.gp ex) :
    ActsIf (.swr f) (fun s => [.v f.ra (s.specialWords f.n)]) ok t := by
  refine actsIf_of (fun _ => ⟨rfl, rfl⟩) (fun s ex hn hc _ => ?_)
  dsimp only
  rw [State.eachLane_clean _ hn hc, State.swrVals_eq hc]
  simp only [getLast?_pairs (s.swrVal f) hn, fst_lanes]
  exact h s ex hn

end

/-- Settles O15: each register is one branch of SWR. -/
theorem specialWrites : Obligations.SpecialWrites := by
  unfold Obligations.SpecialWrites
  intro f src any val last each
  have hsup {n : Nat} (hn : f.n = n) (h0 : n ≠ 0x0A) (h1 : n < 0x200) {ok : State → BitVec 3 → Nat → Prop}
      {t : State → BitVec 3 → List Nat → State} (h : ∀ (s : State) (ex : List Nat), ex ≠ [] →
        ((s.drainLanes ex).swrSup n (ex.map (fun l => (l, s.swrVal f l)))
          (s.labelL f.gp.toNat ex (s.curSlot.srcLabel [.v f.ra (s.specialWords f.n)]) 0)).advance s.cur.lanes = t s f.gp ex) :
      ActsIf (.swr f) src ok t :=
    swr_acts (fun s ex hne => by rw [hn, if_neg h0, if_pos h1, ← h s ex hne, hn])
  have hmgmt {n : Nat} (hn : f.n = n) (h1 : 0x200 ≤ n) {ok : State → BitVec 3 → Nat → Prop}
      {t : State → BitVec 3 → List Nat → State} (h : ∀ (s : State) (ex : List Nat), ex ≠ [] →
        ((s.drainLanes ex).swrMgmt n (s.swrVal f (ex.getLastD 0))).advance s.cur.lanes = t s f.gp ex) : ActsIf (.swr f) src ok t :=
    swr_acts (fun s ex hne => by rw [hn, if_neg (by omega), if_neg (by omega)]; exact h s ex hne)
  refine ⟨fun hi => ?_, fun hi => ?_, fun hi => ?_, fun hi => ?_, fun hi => ?_, fun hi => ?_, fun hi => ?_, fun hi => ?_, fun hi => ?_⟩
  · have h : f.n = 0x0A := congrArg BitVec.toNat hi
    exact swr_acts (fun s ex _ => by rw [if_pos h]; rfl)
  · exact hsup (congrArg BitVec.toNat hi) (by decide) (by decide) (fun s ex _ => by
      rw [State.swrSup, if_pos (by rfl), List.foldl_map]; rfl)
  · exact hsup (congrArg BitVec.toNat hi) (by decide) (by decide) (fun s ex _ => by
      rw [State.swrSup, if_neg (by decide), if_pos (by rfl), List.foldl_map]; rfl)
  · exact hsup (congrArg BitVec.toNat hi) (by decide) (by decide) (fun s ex _ => by
      rw [State.swrSup, if_neg (by decide), if_neg (by decide), if_pos (by rfl), List.foldl_map]; rfl)
  · have h : f.n = 0x111 := congrArg BitVec.toNat hi
    exact hsup rfl (by omega) (by omega) (fun s ex _ => by
      rw [State.swrSup, if_neg (by omega), if_neg (by omega), if_neg (by omega), if_pos h, List.map_map]; rfl)
  · obtain ⟨h1, h2, h3, h4, h5⟩ := hi
    have hne {x : BitVec 16} (h : f.imm ≠ x) : f.n ≠ x.toNat := fun e => h (BitVec.eq_of_toNat_eq e)
    have hlt : f.n / 0x100 = 1 := h1
    refine hsup rfl (by omega) (by omega) (fun s ex hx => ?_)
    rw [State.swrSup, if_neg (show f.n ≠ 0x103 from hne h2), if_neg (show f.n ≠ 0x106 from hne h3),
      if_neg (show f.n ≠ 0x10F from hne h4), if_neg (show f.n ≠ 0x111 from hne h5), getLast?_pairs _ hx]
    rfl
  · exact hmgmt (congrArg BitVec.toNat hi) (by decide) (fun s ex _ => rfl)
  · exact hmgmt (congrArg BitVec.toNat hi) (by decide) (fun s ex _ => rfl)
  · exact hmgmt (congrArg BitVec.toNat hi) (by decide) (fun s ex _ => rfl)

end Sys2Proof.Machine
end

section
/-!
PROOFS. Tokens, messages, bursts and copies.
-/

namespace Sys2Proof.Machine

/-! ### XWAIT -/

/-- The token of a lane is read and its status cleared. -/
def Thread.readSb (k : Nat) (t : Thread) : Thread := t.setSb k (t.sb k).read

theorem Token.status_false (x : Token) : x.status false = x.info.toNat + x.ring.toNat * 2 ^ 16 + x.code.toNat * 2 ^ 24 := by
  simp [Token.status]

/-- What a lane of XWAIT does that does not raise and whose status faults nothing. -/
def State.waitAns (s : State) (k l : Nat) : WaitAns :=
  if ((s.lane l).sb k).count = 0 then .word (((s.lane l).sb k).status false) else .stay

/-- One lane of XWAIT. -/
theorem State.waitLane_eq {s : State} {gp : BitVec 3} {k l : Nat} {trap : Bool} (hr : s.raiseTok gp [] l = none)
    (hc : ((s.lane l).sb k).count = 0 → ((s.lane l).sb k).code ≠ 1 ∧ (trap = true → ((s.lane l).sb k).code = 0)) :
    s.waitLane gp k trap l = (s.waitAns k l,
      if ((s.lane l).sb k).count = 0 then s.updLane l (Thread.readSb k) else s) := by
  unfold State.waitLane State.waitAns State.raiseOf
  simp only [hr, Option.map_none]
  by_cases h0 : ((s.lane l).sb k).count = 0
  · obtain ⟨h1, ht⟩ := hc h0
    rw [if_neg (by simpa using h0), if_neg h1, if_pos h0, if_pos h0, if_neg]
    · rfl
    · intro h
      simp only [Bool.and_eq_true, decide_eq_true_eq] at h
      exact h.2 (ht h.1)
  · rw [if_pos (by simpa using h0), if_neg h0, if_neg h0]

/-- Whether a lane raises depends on its thread. -/
theorem State.raiseTok_congr {s x : State} {gp : BitVec 3} {srcs : List Src} {l : Nat} (h : x.lane l = s.lane l)
    (hr : s.raiseTok gp srcs l = none) : x.raiseTok gp srcs l = none := by
  rw [State.raiseTok_eq_none] at *
  rw [h]
  exact hr

/-- The lanes of XWAIT in order: each changes its own thread alone, so each finds its token as it was at the start. -/
theorem waitLanes_eq {s : State} {gp : BitVec 3} {k : Nat} {trap : Bool} (ls : List Nat) : ∀ x : State, x.laneKey = s.laneKey →
    (ls.map s.laneKey).Nodup → (∀ l ∈ ls, x.lane l = s.lane l) → (∀ l ∈ ls, s.raiseTok gp [] l = none) →
    (∀ l ∈ ls, ((s.lane l).sb k).count = 0 → ((s.lane l).sb k).code ≠ 1 ∧ (trap = true → ((s.lane l).sb k).code = 0)) →
    waitLanes (fun s l => s.waitLane gp k trap l) x ls = (ls.map (fun l => (l, s.waitAns k l)),
      (ls.filter (fun l => ((s.lane l).sb k).count = 0)).foldl (fun x l => x.updLane l (Thread.readSb k)) x) := by
  induction ls with
  | nil => intro x _ _ _ _ _; rfl
  | cons l ls ih =>
    intro x hk hn hx hr hc
    rw [List.map_cons, List.nodup_cons] at hn
    have hxl := hx l List.mem_cons_self
    have hstep : x.waitLane gp k trap l = _ := State.waitLane_eq (State.raiseTok_congr hxl (hr l List.mem_cons_self))
      (by rw [hxl]; exact hc l List.mem_cons_self)
    have hother : ∀ m ∈ ls, (x.updLane l (Thread.readSb k)).lane m = s.lane m := fun m hm => by
      refine Eq.trans ?_ (hx m (List.mem_cons_of_mem _ hm))
      refine (State.updThread_thread x (x.laneKey l) (x.laneKey m) _).trans (if_neg ?_)
      rintro ⟨he, -⟩
      rw [hk] at he
      exact hn.1 (he ▸ List.mem_map_of_mem hm)
    have hans : x.waitAns k l = s.waitAns k l := by unfold State.waitAns; rw [hxl]
    unfold waitLanes
    simp only [hstep, hxl, hans]
    by_cases h0 : ((s.lane l).sb k).count = 0
    · have := ih (x.updLane l (Thread.readSb k)) hk hn.2 hother (fun m hm => hr m (List.mem_cons_of_mem _ hm))
        (fun m hm => hc m (List.mem_cons_of_mem _ hm))
      rw [if_pos h0, this, List.filter_cons_of_pos (by simpa using h0), List.foldl_cons, List.map_cons]
    · have := ih x hk hn.2 (fun m hm => hx m (List.mem_cons_of_mem _ hm)) (fun m hm => hr m (List.mem_cons_of_mem _ hm))
        (fun m hm => hc m (List.mem_cons_of_mem _ hm))
      rw [if_neg h0, this, List.filter_cons_of_neg (by simpa using h0), List.map_cons]

/-- What lanes that pass a test give. -/
theorem filterMap_pairs {α β : Type} {F : Nat × α → Option β} {a : Nat → α} (p : Nat → Bool) (h : Nat → β)
    (hF : ∀ l, F (l, a l) = if p l = true then some (h l) else none) (ls : List Nat) :
    (ls.map (fun l => (l, a l))).filterMap F = (ls.filter p).map h := by
  induction ls with
  | nil => rfl
  | cons l ls ih =>
    rw [List.map_cons, List.filterMap_cons, hF l, ih]
    by_cases h : p l = true <;> simp [h]

/-- Settles O30. -/
theorem tokenWaits : Obligations.TokenWaits := by
  unfold Obligations.TokenWaits
  intro f s gp ex k hr ho hc hok free held s1 s2
  obtain ⟨hb, rfl, hx, hn⟩ := hr.use rfl
  have hsub : List.Sublist ex s.cur.lanes := hx ▸ State.execLanes_sublist s f.gn f.gp
  have hlanes := waitLanes_eq (k := k) (trap := decide (f.s 3 1 = 1)) ex s rfl ((hsub.map _).nodup (State.ordered_keys ho))
    (fun _ _ => rfl) hc (fun l hl h0 => ⟨(hok l hl h0).1, fun ht => (hok l hl h0).2 (by simpa using ht)⟩)
  refine congrArg Host.Outcome.next ((State.issue_runs hb (by rw [hx]; exact hn)).trans ?_)
  rw [hx]
  dsimp only
  rw [hlanes, filterMap_pairs (fun _ => false) (fun l => (l, Flt.plain 0 0)) (fun l => ?bad),
    filterMap_pairs (fun l => decide (((s.lane l).sb k).count ≠ 0)) id (fun l => ?stay),
    filterMap_pairs (fun l => decide (((s.lane l).sb k).count = 0)) (fun l => (l, [Out.val (((s.lane l).sb k).status false)]))
      (fun l => ?word)]
  case bad | stay | word => by_cases h0 : ((s.lane l).sb k).count = 0 <;> simp [State.waitAns, h0]
  have hnil : ex.filter (fun _ => false) = [] := List.filter_eq_nil_iff.mpr (fun _ _ => by simp)
  simp only [hnil, List.map_nil, State.park, List.nil_append, List.map_id, map_fst_map, Token.status_false]
  rfl

/-! ### Messages -/

/-- An element of blocks of one length, laid end to end. -/
theorem getElem?_flatMap_blocks {β : Type} (g : Nat → List β) (n : Nat) (hg : ∀ x, (g x).length = n) {i : Nat} (hi : i < n) :
    ∀ (xs : List Nat) (j : Nat), (xs.flatMap g)[n * j + i]? = xs[j]?.bind (fun x => (g x)[i]?) := by
  intro xs
  induction xs with
  | nil => intro j; rfl
  | cons x xs ih =>
    intro j
    rw [List.flatMap_cons]
    cases j with
    | zero =>
      rw [List.getElem?_append_left (by rw [hg]; omega)]
      simp
    | succ j =>
      rw [List.getElem?_append_right (by rw [hg, Nat.mul_succ]; omega), hg, Nat.mul_succ,
        show n * j + n + i - n = n * j + i by omega, ih j]
      rfl

/-- A span of registers by its last word. -/
theorem Thread.regNat_succ (t : Thread) (n : Nat) : ∀ r, t.regNat r (n + 1) = t.regNat r n + (t.reg (r + n)).toNat * 2 ^ (32 * n) := by
  induction n with
  | zero => intro r; simp [Thread.regNat]
  | succ n ih =>
    intro r
    rw [Thread.regNat, ih (r + 1), Thread.regNat, show r + 1 + n = r + (n + 1) by omega, show 32 * (n + 1) = 32 * n + 32 by omega,
      Nat.pow_add, Nat.mul_add, ← Nat.add_assoc, Nat.mul_left_comm (2 ^ 32), Nat.mul_comm (2 ^ 32) (2 ^ (32 * n))]

/-- The words of a message, as a lane sent them. -/
theorem State.sendMsg_word (f : YFmt) (s : State) (ex : List Nat) {l i : Nat} (hl : l < 32) (hi : i < YFmt.words f) :
    (s.sendMsg f ex).words.getD (YFmt.words f * l + i) 0#32 = if l ∈ ex then (s.lane l).reg (f.ra + i) else 0#32 := by
  unfold State.sendMsg
  dsimp only
  rw [List.getD_eq_getElem?_getD, getElem?_flatMap_blocks _ (YFmt.words f) (fun x => by simp) hi, List.getElem?_range hl]
  simp [hi]

/-- Settles O31: the words of one lane lie together, in the order of its registers. -/
theorem messages : Obligations.Messages := by
  unfold Obligations.Messages
  refine ⟨fun f => ⟨groupCompletes_of (fun _ => ⟨_, rfl, rfl⟩), groupCompletes_of (fun _ => ⟨_, rfl, rfl⟩)⟩, fun f s ex l hl _ => ?_⟩
  have h (n : Nat) : n ≤ YFmt.words f → (List.range n).foldl (fun v i => v + ((s.sendMsg f ex).words.getD (YFmt.words f * l + i) 0#32).toNat
      * 2 ^ (32 * i)) 0 = if l ∈ ex then (s.lane l).regNat f.ra n else 0 := by
    induction n with
    | zero => intro _; simp [Thread.regNat]
    | succ n ih =>
      intro hn
      rw [List.range_succ, List.foldl_append, ih (by omega), List.foldl_cons, List.foldl_nil, State.sendMsg_word f s ex hl hn,
        Thread.regNat_succ]
      split <;> simp
  exact h (YFmt.words f) (Nat.le_refl _)

/-- Settles O32. -/
theorem burstsAndReleases : Obligations.BurstsAndReleases := by
  unfold Obligations.BurstsAndReleases
  intro f
  exact ⟨groupCompletes_of (fun _ => ⟨_, rfl, rfl⟩), groupCompletes_of (fun _ => ⟨_, rfl, rfl⟩),
    groupCompletes_of (fun _ => ⟨_, rfl, rfl⟩), groupCompletes_of (fun _ => ⟨_, rfl, rfl⟩)⟩

/-! ### Copies -/

/-- Lines enough for `n` bytes. -/
theorem le_ceilDiv (n : Nat) : n ≤ 64 * ceilDiv n 64 := by
  unfold ceilDiv; omega

/-- Settles O57: consecutive slices share their end, rounded to a line and cut at the length. -/
theorem copies : Obligations.Copies := by
  unfold Obligations.Copies
  refine ⟨fun f => ⟨groupCompletes_of (fun _ => ⟨_, rfl, rfl⟩), groupCompletes_of (fun _ => ⟨_, rfl, rfl⟩)⟩, fun n k hn hk => ⟨?_, ?_, fun c hc => ?_⟩⟩
  · simp [sliceOf]
  · have := le_ceilDiv n
    simp only [sliceOf]
    rw [Nat.sub_add_cancel hk, Nat.mul_div_cancel_left _ hk]
    omega
  · simp only [sliceOf]
    omega

end Sys2Proof.Machine
end

section
/-!
PROOFS. The matrix engine: sums, multiplies and rows.
-/

namespace Sys2Proof.Machine

/-! ### Sums -/

/-- Adding up as one goes is the sum. -/
theorem foldl_add_eq (g : Nat → Int) (ks : List Nat) : ∀ a : Int, ks.foldl (fun a k => a + g k) a = a + (ks.map g).sum := by
  induction ks with
  | nil => intro a; simp
  | cons k ks ih => intro a; rw [List.foldl_cons, ih, List.map_cons, List.sum_cons, Int.add_assoc]

/-- The set bits below a position, counted. -/
theorem popCount_eq (n : Nat) : ∀ v, popCount n v = ((List.range n).filter (fun i => v.testBit i)).length := by
  induction n with
  | zero => intro v; rfl
  | succ n ih =>
    intro v
    rw [popCount, ih, List.range_succ_eq_map, List.filter_cons, List.filter_map, Nat.testBit_zero]
    simp only [Function.comp_def, Nat.testBit_succ]
    rcases Nat.mod_two_eq_zero_or_one v with h | h <;> simp [h, Nat.add_comm]

/-- One more position counts its own bit. -/
theorem popCount_succ (v n : Nat) : popCount (n + 1) v = popCount n v + if v.testBit n then 1 else 0 := by
  rw [popCount_eq, popCount_eq, List.range_succ, List.filter_append, List.length_append, List.filter_cons, List.filter_nil]
  cases v.testBit n <;> rfl

theorem popCount_mono (v : Nat) {t u : Nat} (h : t ≤ u) : popCount t v ≤ popCount u v := by
  induction h with
  | refl => exact Nat.le_refl _
  | step _ ih => rw [popCount_succ]; omega

/-- A kept position has a rank below the limit and its bit is set. -/
theorem keptRank_iff (mask n t r : Nat) : keptRank mask n t = some r ↔ mask.testBit t = true ∧ popCount t mask < n ∧ popCount t mask = r := by
  unfold keptRank bit
  simp only [Bool.and_eq_true, decide_eq_true_eq]
  split
  next h => simp [h]
  next h =>
    refine ⟨fun e => (by cases e), fun e => ?_⟩
    obtain ⟨h1, h2, -⟩ := e
    exact absurd ⟨h1, h2⟩ h

/-- Two kept positions of one rank are one: past a set bit the count is higher. -/
theorem keptRank_inj {mask n t u r : Nat} (ht : keptRank mask n t = some r) (hu : keptRank mask n u = some r) : t = u := by
  rw [keptRank_iff] at ht hu
  obtain ⟨bt, -, rt⟩ := ht
  obtain ⟨bu, -, ru⟩ := hu
  have key {a b : Nat} (ha : mask.testBit a = true) (hab : a < b) : popCount a mask < popCount b mask := by
    have h1 := popCount_succ mask a
    have h2 := popCount_mono mask (show a + 1 ≤ b from hab)
    rw [if_pos ha] at h1
    omega
  rcases Nat.lt_trichotomy t u with h | h | h
  · exact absurd (key bt h) (by omega)
  · exact h
  · exact absurd (key bu h) (by omega)

/-- Settles O36. -/
theorem matrixSums : Obligations.MatrixSums := by
  unfold Obligations.MatrixSums
  refine ⟨fun x c sparse macs r n old hc => ?_, fun mask n t u r => ⟨fun h => ?_, keptRank_inj⟩⟩
  · unfold Matrix.accumulate wrap
    rw [hc]
    dsimp only
    rw [foldl_add_eq, Int.toNat_of_nonneg (Int.emod_nonneg _ (by decide))]
  · rw [keptRank_iff] at h
    obtain ⟨hb, hlt, rfl⟩ := h
    exact ⟨hlt, hb, popCount_eq t mask⟩

/-! ### Multiplies -/

section
variable {f : XFmt} {kind : MKind} {s s1 : State} {gp : BitVec 3} {l : Nat} {ls : List Nat} {a : Accepted}

/-- A multiply form whose group acts once. -/
theorem State.runMma_group (hb : illMma f kind s = none) (he : s.execLanes f.gn f.gp = l :: ls) (hk : kind ≠ .mmar)
    (ha : s.accepting (l :: ls) = false) (hr : ∀ m ∈ l :: ls, s.groupTok f.gp (XFmt.mmaSrcs f kind) [] (l = m) m = none)
    (hc : State.mmaCheck f kind s l (l :: ls) = (.ok a, s1)) : s.runMma f kind = State.mmaAccept f kind s1 l (l :: ls) a := by
  unfold State.runMma
  rw [State.issue_runs hb (by simp [he]), he, if_neg (by simp [ha]), if_neg hk]
  exact State.runGroup_passes rfl he hr hc

/-- MMAR, none of whose lanes raises. -/
theorem State.runMma_mmar (hb : illMma f .mmar s = none) (he : s.execLanes f.gn f.gp = l :: ls)
    (ha : s.accepting (l :: ls) = false) (hr : ∀ m ∈ l :: ls, s.raiseTok f.gp [] m = none)
    (hc : State.mmaCheck f .mmar s l (l :: ls) = (.ok a, s1)) : s.runMma f .mmar = State.mmaAccept f .mmar s1 l (l :: ls) a := by
  have hbad : badLanes (checkLanes (State.raiseOnly f.gp []) s (l :: ls)).1 = [] := by
    rw [show checkLanes (State.raiseOnly f.gp []) s (l :: ls) = _ from State.raiseOnly_passes hr]
    exact badLanes_ok _
  unfold State.runMma
  rw [State.issue_runs hb (by simp [he]), he, if_neg (by simp [ha]), if_pos rfl]
  have hall : (l :: ls).filter (fun _ => true) = l :: ls := List.filter_eq_self.mpr (fun _ _ => rfl)
  simp only [hbad, ite_self, State.park, List.any_nil, Bool.not_false, hall, hc]

end

/-- Settles O34. -/
theorem matrixMultiplies : Obligations.MatrixMultiplies := by
  unfold Obligations.MatrixMultiplies
  intro f s s1 gp l ls a ha
  refine ⟨fun i kind hi hr ht hc => ?_, fun hr ht hc => ?_⟩
  · simp only [List.mem_cons, Prod.mk.injEq, List.not_mem_nil, or_false] at hi
    rcases hi with ⟨rfl, rfl⟩ | ⟨rfl, rfl⟩ | ⟨rfl, rfl⟩
    all_goals
      obtain ⟨hb, rfl, hx, -⟩ := hr.use rfl
      exact congrArg Host.Outcome.next (State.runMma_group hb hx (by decide) ha ht hc)
  · obtain ⟨hb, rfl, hx, -⟩ := hr.use rfl
    exact congrArg Host.Outcome.next (State.runMma_mmar hb hx ha ht hc)

/-! ### Rows -/

/-- Settles O35. -/
theorem matrixRows : Obligations.MatrixRows := by
  unfold Obligations.MatrixRows
  intro q s o os r rs hq hk hr s1
  refine ⟨?_, fun row => rfl⟩
  refine congrArg Host.Outcome.next ?_
  simp only [hq, hr, if_neg hk, Bool.and_eq_true, List.isEmpty_iff, decide_eq_true_eq, Bool.not_eq_true', Option.isNone_iff_eq_none]
  rfl

end Sys2Proof.Machine
end

section
/-!
PROOFS. Launches and joins, watchpoints, translations, and the configuration ring.
-/

namespace Sys2Proof.Machine

/-- Settles O38: both are the model's own body once their check has passed every lane. -/
theorem launching : Obligations.Launching := by
  unfold Obligations.Launching
  refine fun f => ⟨?_, completesStay_of (fun _ => ⟨_, rfl, rfl⟩)⟩
  intro s gp ex v s1 hr hp
  obtain ⟨hb, rfl, hx, hn⟩ := hr.use rfl
  refine congrArg Host.Outcome.next ((State.issue_runs hb (by rw [hx]; exact hn)).trans ?_)
  rw [hx]
  exact State.eachLane_passes _ hn hp

/-! ### WPSET, WPCLR and TLBI -/

section
variable {f : SFmt}

/-- WPSET of thread scope sets the watchpoint of every executing lane. -/
theorem wpset_thread (h : bits f.imm.toNat 0 3 = 0) : Acts (.wpset f) [.v f.ra 4] (fun s _ ex => (ex.foldl (fun x l => x.updLane l (fun t =>
    { t with wps := t.wps.insert (bits f.imm.toNat 3 5) ((x.lane l).watchpoint f.ra) })) s).advance s.cur.lanes) :=
  acts_of_eachLane (fun _ => ⟨rfl, congrArg Host.Outcome.next (if_pos h)⟩) (fun s ex _ => by
    simp only [List.foldl_map, wpPut, if_true])

/-- WPCLR of thread scope clears it. -/
theorem wpclr_thread (h : bits f.imm.toNat 0 3 = 0) : Acts (.wpclr f) [] (fun s _ ex => (ex.foldl (fun x l => x.updLane l (fun t =>
    { t with wps := t.wps.erase (bits f.imm.toNat 3 5) })) s).advance s.cur.lanes) :=
  acts_of_eachLane (fun _ => ⟨rfl, congrArg Host.Outcome.next (if_pos h)⟩) (fun s ex _ => by
    simp only [List.foldl_map, wpPut, Bool.false_eq_true, if_false])

/-- WPSET of a wider scope sets one watchpoint, of the scope that the lowest lane is in. -/
theorem wpset_wide (h : bits f.imm.toNat 0 3 ≠ 0) : GroupCompletes (.wpset f) [.v f.ra 4] [] (fun s _ _ => (.ok (), s)) (fun s _ l _ _ =>
    (s.setWatch l (bits f.imm.toNat 0 3) (bits f.imm.toNat 3 5) (some ((s.lane l).watchpoint f.ra))).advance s.cur.lanes) :=
  groupCompletes_of (fun _ => ⟨_, rfl, congrArg Host.Outcome.next (if_neg h)⟩)

/-- WPCLR of a wider scope clears it. -/
theorem wpclr_wide (h : bits f.imm.toNat 0 3 ≠ 0) : GroupCompletes (.wpclr f) [] [] (fun s _ _ => (.ok (), s)) (fun s _ l _ _ =>
    (s.setWatch l (bits f.imm.toNat 0 3) (bits f.imm.toNat 3 5) none).advance s.cur.lanes) :=
  groupCompletes_of (fun _ => ⟨_, rfl, congrArg Host.Outcome.next (if_neg h)⟩)

/-- TLBI drops the entries of the page that its check answers. -/
theorem tlbi_completes (f : SFmt) : GroupCompletes (.tlbi f) (tlbiSrcs f) [] (State.tlbiCheck f)
    (fun s _ _ _ page => (s.updCore s.cur.core (fun c => { c with tlb := c.tlb.filter (fun e =>
      !(e.vf = s.vfOf s.curStand && (f.s 0 1 = 1 || e.vpn = page))) })).advance s.cur.lanes) :=
  groupCompletes_of (fun _ => ⟨_, rfl, rfl⟩)

/-- Where no access past a going translation is yet to perform, TLBI's check passes. -/
theorem State.tlbiCheck_ok {s : State} {l : Nat} {ex : List Nat}
    (h : s.pastTranslation s.cur.core (s.vfOf s.curStand) (((s.coreAt s.cur.core).tlb.filter (tlbiHits f (s.vfOf s.curStand)
      ((s.lane l).regNat f.ra 2 % 2 ^ 56 / 0x10000))).flatMap (s.framesOf s.cur.core)) = false) :
    State.tlbiCheck f s l ex = (.ok ((s.lane l).regNat f.ra 2 % 2 ^ 56 / 0x10000), s) :=
  if_neg (ne_true_of_eq_false h)

end

theorem State.advance_mem (s : State) (ls : List Nat) : (s.advance ls).mem = s.mem := by
  rw [(s.advance_pcs ls).1]

theorem State.advance_coreAt (s : State) (ls : List Nat) (k : Nat) : (s.advance ls).coreAt k = s.coreAt k := by
  rw [(s.advance_pcs ls).1]; rfl

/-- Looking an entry up after TLBI of a page. -/
theorem Core.lookup_filter {f : SFmt} (hf : f.s 0 1 = 0) (c : Core) (v page w vpn : Nat) :
    Core.lookup { c with tlb := c.tlb.filter (fun e => !(e.vf = v && (f.s 0 1 = 1 || e.vpn = page))) } w vpn
      = if w = v ∧ vpn = page then none else c.lookup w vpn := by
  unfold Core.lookup
  rw [List.find?_filter]
  split
  · next h =>
    obtain ⟨rfl, rfl⟩ := h
    refine List.find?_eq_none.mpr (fun e _ => ?_)
    by_cases hw : e.vf = w <;> by_cases hp : e.vpn = vpn <;> simp [hf, hw, hp]
  · next h =>
    refine congrArg (fun p => c.tlb.find? p) (funext fun e => ?_)
    by_cases h1 : e.vf = w ∧ e.vpn = vpn
    · obtain ⟨rfl, rfl⟩ := h1
      simp [hf, Classical.not_and_iff_not_or_not.mp h]
    · simp [show (decide (e.vf = w) && decide (e.vpn = vpn)) = false by simpa using h1]

/-- Settles O39. -/
theorem watchpointsAndTranslations : Obligations.WatchpointsAndTranslations := by
  unfold Obligations.WatchpointsAndTranslations
  refine ⟨fun f => ⟨fun h => ⟨wpset_thread h, wpclr_thread h⟩, fun h => ⟨wpset_wide h, wpclr_wide h⟩, tlbi_completes f⟩, ?_⟩
  intro f s gp l ls v page hr hf hc hp
  refine ⟨_, tlbi_completes f s gp l ls page s hr hc (State.tlbiCheck_ok hp), State.advance_mem _ _, fun w vpn => ?_⟩
  refine (congrArg (fun c => Core.lookup c w vpn) (State.advance_coreAt _ _ _)).trans ?_
  exact (congrArg (fun c => Core.lookup c w vpn) (Table.getD_insert _ _ _ _ _)).trans
    ((congrArg (fun c => Core.lookup c w vpn) (if_pos rfl)).trans (Core.lookup_filter hf _ v page w vpn))

end Sys2Proof.Machine
end

section
/-!
PROOFS. The configuration ring and the block of CTXSV and CTXLD.
-/

namespace Sys2Proof.Machine

/-! ### Fields of a block -/

section
variable {as bs : List Byte} {off n m : Nat}

/-- A field that lies behind a part of a block. -/
theorem blockField_skip (h : as.length ≤ off) : blockField (as ++ bs) off n = blockField bs (off - as.length) n := by
  unfold blockField
  rw [List.drop_append, List.drop_eq_nil_of_le h, List.nil_append]

/-- A field that lies inside the first part. -/
theorem blockField_inside (h : off + n ≤ as.length) : blockField (as ++ bs) off n = blockField as off n := by
  unfold blockField
  rw [List.drop_append_of_le_length (by omega), List.take_append_of_le_length (by rw [List.length_drop]; omega)]

/-- The field that the first part is. -/
theorem blockField_front (h0 : off = 0) (h : as.length = n) : blockField (as ++ bs) off n = leNat as := by
  rw [h0, blockField_inside (by omega), blockField, List.drop_zero, ← h, List.take_length]

end

/-- Parts of one length. -/
theorem length_flatMap_const {f : Nat → List Byte} {n : Nat} (hf : ∀ k, (f k).length = n) (ks : List Nat) :
    (ks.flatMap f).length = n * ks.length := by
  induction ks with
  | nil => rfl
  | cons k ks ih => rw [List.flatMap_cons, List.length_append, hf, ih, List.length_cons, Nat.mul_succ, Nat.add_comm]

/-- A field that is one of several parts of one length. -/
theorem blockField_flat {f : Nat → List Byte} {n : Nat} (hf : ∀ k, (f k).length = n) {m : Nat} :
    ∀ {k : Nat}, k < m → blockField ((List.range m).flatMap f) (n * k) n = leNat (f k) := by
  intro k hk
  have hsplit : List.range m = List.range k ++ k :: (List.range (m - k - 1)).map (fun i => k + 1 + i) := by
    conv => lhs; rw [show m = k + ((m - k - 1) + 1) by omega, List.range_add, List.range_succ_eq_map]
    simp [Function.comp_def]; intro a _; omega
  rw [hsplit, List.flatMap_append, List.flatMap_cons, blockField_skip (by simp [length_flatMap_const hf]),
    length_flatMap_const hf, List.length_range, blockField_front (Nat.sub_self _) (hf k)]

/-! ### Masks -/

theorem foldl_mask_testBit (i : Nat) (ls : List Nat) (m : Nat) :
    (ls.foldl (fun m l => m ||| 2 ^ l) m).testBit i = (m.testBit i || ls.contains i) := by
  induction ls generalizing m with
  | nil => simp
  | cons l ls ih =>
    rw [List.foldl_cons, ih, Nat.testBit_or, Nat.testBit_two_pow, List.contains_cons, Bool.or_assoc]
    rw [show (i == l) = decide (l = i) by rw [Bool.eq_iff_iff, beq_iff_eq, decide_eq_true_iff, eq_comm]]

/-- The mask of a list has the bits of its elements. -/
theorem maskOf_testBit (ls : List Nat) (i : Nat) : (maskOf ls).testBit i = ls.contains i := by
  rw [maskOf, foldl_mask_testBit, Nat.zero_testBit, Bool.false_or]

/-- It is below the power that is above its elements. -/
theorem maskOf_lt {ls : List Nat} {n : Nat} (h : ∀ l ∈ ls, l < n) : maskOf ls < 2 ^ n := by
  refine Nat.lt_pow_two_of_testBit _ (fun i hi => ?_)
  rw [maskOf_testBit, ← Bool.not_eq_true, List.contains_iff_mem]
  exact fun hm => absurd (h i hm) (by omega)

/-! ### The block of a thread -/

namespace Thread
variable (t : Thread) (sl : Slot) (q v : Nat)

/-- The first 48 bytes of a block: quota, function, predicates, tokens' places, NEXT, the carried label and the predicates' tokens. -/
def blockHead : List Byte :=
  leBytes 2 q ++ (leBytes 2 v ++ ([t.preds] ++ ([BitVec.ofNat 8 (maskOf (t.predTok.keys))] ++ ([t.next.setWidth 8] ++ ([0#8]
    ++ (leBytes 8 t.carried.toNat ++ (List.range 8).flatMap (fun k => leBytes 4 (t.predTok.getD k 0#32).toNat)))))))

/-- The 96 bytes of the statuses and their labels. -/
def blockSbs : List Byte :=
  (List.range 8).flatMap (fun k => leBytes 4 ((t.sb k).code.toNat + (t.sb k).ring.toNat * 2 ^ 8 + (t.sb k).info.toNat * 2 ^ 16))
    ++ (List.range 8).flatMap (fun k => leBytes 8 (t.sb k).label.toNat)

/-- The 200 bytes of the join points and the 128 of the ring. -/
def blockJoins : List Byte :=
  (leBytes 8 (maskOf t.joins.keys) ++ (List.range 16).flatMap (fun k => leBytes 4 (t.joinMask sl k))
    ++ (List.range 16).flatMap (fun k => leBytes 8 (match t.joins.get? k with
      | some j => j.label.toNat
      | none => 0)))
  ++ (List.range 4).flatMap (fun k => (List.range 4).flatMap (fun i => leBytes 8 ((t.ring.getD k RingRec.empty).word i)))

/-- The 1,024 bytes of the registers. -/
def blockRegs : List Byte := (List.range 256).flatMap (fun r => leBytes 4 (if r < q then (t.reg r).toNat else 0))

theorem blockHead_length : (t.blockHead q v).length = 48 := by
  simp [blockHead, List.map_const']

theorem blockSbs_length : t.blockSbs.length = 96 := by
  simp [blockSbs, List.map_const']

theorem blockJoins_length : (t.blockJoins sl).length = 328 := by
  simp [blockJoins, List.map_const']

theorem blockRegs_length : (t.blockRegs q).length = 1024 := by
  rw [blockRegs, length_flatMap_const (fun _ => leBytes_length 4 _), List.length_range]

/-- A block by its parts, the rest zero. -/
theorem toBlock_eq : t.toBlock sl q v = t.blockHead q v ++ (t.blockSbs ++ (leBytes 32 (maskOf t.poison) ++ (t.blockJoins sl
    ++ (t.blockRegs q ++ List.replicate 520 0#8)))) := by
  have h : t.toBlock sl q v = (fun body => body ++ List.replicate (2048 - body.length) 0#8)
      (t.blockHead q v ++ (t.blockSbs ++ (leBytes 32 (maskOf t.poison) ++ (t.blockJoins sl ++ t.blockRegs q)))) := by
    simp only [toBlock, blockHead, blockSbs, blockJoins, blockRegs, List.append_assoc, List.cons_append, List.nil_append] <;> rfl
  rw [h]
  simp only [List.length_append, blockHead_length, blockSbs_length, leBytes_length, blockJoins_length, blockRegs_length, List.append_assoc,
    Nat.reduceAdd, Nat.reduceSub, -List.reduceReplicate]

theorem toBlock_length : (t.toBlock sl q v).length = 2048 := by
  rw [toBlock_eq]
  simp only [List.length_append, blockHead_length, blockSbs_length, leBytes_length, blockJoins_length, blockRegs_length,
    List.length_replicate, Nat.reduceAdd, -List.reduceReplicate]

/-- A field of the head. -/
theorem toBlock_head {off n : Nat} (h : off + n ≤ 48) : blockField (t.toBlock sl q v) off n = blockField (t.blockHead q v) off n := by
  rw [toBlock_eq, blockField_inside (by rw [blockHead_length]; exact h)]

theorem block_quota (h : q < 2 ^ 16) : blockField (t.toBlock sl q v) 0 2 = q := by
  rw [toBlock_head _ _ _ _ (by omega), blockHead, blockField_front (by rfl) (leBytes_length 2 q), leNat_leBytes]
  exact Nat.mod_eq_of_lt (by omega)

theorem block_function (h : v < 2 ^ 16) : blockField (t.toBlock sl q v) 2 2 = v := by
  rw [toBlock_head _ _ _ _ (by omega), blockHead, blockField_skip (by simp), leBytes_length, blockField_front (by rfl) (leBytes_length 2 v),
    leNat_leBytes]
  exact Nat.mod_eq_of_lt (by omega)

/-- The head behind quota and function. -/
theorem block_head4 {off n : Nat} (h0 : 4 ≤ off) (h : off + n ≤ 48) : blockField (t.toBlock sl q v) off n
    = blockField ([t.preds] ++ ([BitVec.ofNat 8 (maskOf (t.predTok.keys))] ++ ([t.next.setWidth 8] ++ ([0#8]
      ++ (leBytes 8 t.carried.toNat ++ (List.range 8).flatMap (fun k => leBytes 4 (t.predTok.getD k 0#32).toNat)))))) (off - 4) n := by
  rw [toBlock_head _ _ _ _ h, blockHead, blockField_skip (by simp; omega), leBytes_length, blockField_skip (by simp; omega), leBytes_length]
  rfl

theorem block_preds : blockField (t.toBlock sl q v) 4 1 = t.preds.toNat := by
  rw [block_head4 _ _ _ _ (by omega) (by omega), blockField_front (by rfl) (by rfl)]
  simp [leNat]

theorem block_predToks (h : ∀ p ∈ t.predTok, p.1 < 7) : blockField (t.toBlock sl q v) 5 1 = maskOf t.predTok.keys := by
  have hm : maskOf t.predTok.keys < 2 ^ 7 := maskOf_lt (fun l hl => by
    obtain ⟨p, hp, rfl⟩ := List.mem_map.mp hl
    exact h p hp)
  rw [block_head4 _ _ _ _ (by omega) (by omega), blockField_skip (by simp), blockField_front (by rfl) (by rfl)]
  simp [leNat]
  omega

theorem block_next : blockField (t.toBlock sl q v) 6 1 = t.next.toNat := by
  rw [block_head4 _ _ _ _ (by omega) (by omega), blockField_skip (by simp), blockField_skip (by simp), blockField_front (by rfl) (by rfl)]
  have := t.next.isLt
  simp [leNat]
  omega

theorem block_carried : blockField (t.toBlock sl q v) 8 8 = t.carried.toNat := by
  rw [block_head4 _ _ _ _ (by omega) (by omega), blockField_skip (by simp), blockField_skip (by simp), blockField_skip (by simp),
    blockField_skip (by simp), blockField_front (by rfl) (leBytes_length 8 _), leNat_leBytes]
  exact Nat.mod_eq_of_lt (by have := t.carried.isLt; omega)

theorem block_predTok {k : Nat} (h : k < 8) : blockField (t.toBlock sl q v) (16 + 4 * k) 4 = (t.predTok.getD k 0#32).toNat := by
  rw [block_head4 _ _ _ _ (by omega) (by omega), blockField_skip (by simp; omega), blockField_skip (by simp; omega),
    blockField_skip (by simp; omega), blockField_skip (by simp; omega), blockField_skip (by simp; omega)]
  simp only [List.length_cons, List.length_nil, leBytes_length]
  rw [show 16 + 4 * k - 4 - (0 + 1) - (0 + 1) - (0 + 1) - (0 + 1) - 8 = 4 * k by omega, blockField_flat (fun _ => leBytes_length 4 _) h,
    leNat_leBytes]
  exact Nat.mod_eq_of_lt (BitVec.isLt _)

theorem block_poison (h : ∀ r ∈ t.poison, r < 256) : blockField (t.toBlock sl q v) 144 32 = maskOf t.poison := by
  rw [toBlock_eq, blockField_skip (by simp [blockHead_length]), blockHead_length, blockField_skip (by simp [blockSbs_length]), blockSbs_length,
    blockField_front (by rfl) (leBytes_length 32 _), leNat_leBytes]
  exact Nat.mod_eq_of_lt (Nat.lt_of_lt_of_le (maskOf_lt h) (Nat.le_refl _))

theorem block_reg {r : Nat} (h : r < q) (hq : q ≤ 256) : blockField (t.toBlock sl q v) (504 + 4 * r) 4 = (t.reg r).toNat := by
  rw [toBlock_eq, blockField_skip (by rw [blockHead_length]; omega), blockHead_length, blockField_skip (by rw [blockSbs_length]; omega),
    blockSbs_length, blockField_skip (by rw [leBytes_length]; omega), leBytes_length, blockField_skip (by rw [blockJoins_length]; omega),
    blockJoins_length, blockField_inside (by rw [blockRegs_length]; omega), blockRegs,
    show 504 + 4 * r - 48 - 96 - 32 - 328 = 4 * r by omega, blockField_flat (fun _ => leBytes_length 4 _) (by omega), if_pos h, leNat_leBytes]
  exact Nat.mod_eq_of_lt (BitVec.isLt _)

/-! ### What CTXLD reads back -/

/-- A map whose places below `n` were put in turn. -/
theorem getD_foldl_put {α : Type} [DecidableEq α] (d : α) (g : Nat → α) (n k : Nat) (h : k < n) :
    Table.getD ((List.range n).foldl (fun m r => Table.put m d r (g r)) []) k d = g k := by
  induction n with
  | zero => omega
  | succ n ih =>
    rw [List.range_succ, List.foldl_append, List.foldl_cons, List.foldl_nil, Table.getD_put]
    split
    · subst ‹k = n›; rfl
    · exact ih (by omega)

/-- A map into which places of a list were inserted in turn. -/
theorem get?_foldl_insert {α : Type} (g : Nat → α) (ks : List Nat) (m : Table α) (k : Nat) :
    Table.get? (ks.foldl (fun m r => Table.insert m r (g r)) m) k = if k ∈ ks then some (g k) else m.get? k := by
  induction ks generalizing m with
  | nil => simp
  | cons r ks ih =>
    rw [List.foldl_cons, ih, Table.get?_insert]
    by_cases h1 : k = r <;> by_cases h2 : k ∈ ks <;> simp [h1, h2]

/-- A place that a map lists. -/
theorem get?_isSome_iff {α : Type} (m : Table α) (k : Nat) : (m.get? k).isSome = m.keys.contains k := by
  induction m with
  | nil => rfl
  | cons p m ih =>
    obtain ⟨i, x⟩ := p
    have hk : Table.keys ((i, x) :: m) = i :: Table.keys m := rfl
    rw [Table.get?, hk, List.contains_cons, ← ih]
    by_cases h : k = i <;> simp [h]

variable {t q}

theorem ofBlock_reg (hq : q ≤ 256) {r : Nat} (h : r < q) : (t.ofBlock sl q (t.toBlock sl q v)).reg r = t.reg r := by
  refine (getD_foldl_put 0#32 _ q r h).trans ?_
  rw [t.block_reg sl q v h hq, BitVec.ofNat_toNat, BitVec.setWidth_eq]

theorem ofBlock_pred {k : Nat} (h : k < 8) : (t.ofBlock sl q (t.toBlock sl q v)).pred k = t.pred k := by
  have hp : (t.ofBlock sl q (t.toBlock sl q v)).preds = BitVec.ofNat 8 (blockField (t.toBlock sl q v) 4 1) ||| 0x80#8 := rfl
  simp only [Thread.pred, hp, block_preds, BitVec.ofNat_toNat, BitVec.setWidth_eq, BitVec.getLsbD_or]
  by_cases h7 : k = 7
  · simp [h7]
  · have : (0x80#8).getLsbD k = false := by
      revert h7 h; revert k; decide
    rw [this, Bool.or_false]

theorem ofBlock_predTok? (h : ∀ p ∈ t.predTok, p.1 < 7) (k : Nat) : (t.ofBlock sl q (t.toBlock sl q v)).predTok? k = t.predTok? k := by
  have hkey : ∀ k, t.predTok.keys.contains k = true → k < 7 := fun k hk => by
    obtain ⟨p, hp, rfl⟩ := List.mem_map.mp (List.contains_iff_mem.mp hk)
    exact h p hp
  unfold Thread.predTok?
  split
  · rfl
  · refine (get?_foldl_insert _ _ [] k).trans ?_
    have hm : k ∈ (List.range 7).filter (bit (blockField (t.toBlock sl q v) 5 1)) ↔ k < 7 ∧ (t.predTok.get? k).isSome = true := by
      rw [List.mem_filter, List.mem_range, block_predToks _ _ _ _ h, bit, maskOf_testBit, get?_isSome_iff]
    cases hg : t.predTok.get? k with
    | none => exact if_neg (by rw [hm, hg]; simp)
    | some w =>
      have hk := hkey k (by rw [← get?_isSome_iff, hg]; rfl)
      rw [if_pos (hm.mpr ⟨hk, by rw [hg]; rfl⟩), block_predTok _ _ _ _ (by omega), Table.getD_of_get? hg, BitVec.ofNat_toNat,
        BitVec.setWidth_eq]

theorem ofBlock_poison (hq : q ≤ 256) (h : ∀ r ∈ t.poison, r < q) (r : Nat) :
    (t.ofBlock sl q (t.toBlock sl q v)).poison.contains r = t.poison.contains r := by
  have hp : (t.ofBlock sl q (t.toBlock sl q v)).poison = lanesOf q (blockField (t.toBlock sl q v) 144 32) := rfl
  rw [hp, block_poison _ _ _ _ (fun x hx => Nat.lt_of_lt_of_le (h x hx) hq), Bool.eq_iff_iff, List.contains_iff_mem, lanesOf, List.mem_filter,
    List.mem_range, maskOf_testBit, List.contains_iff_mem]
  exact ⟨And.right, fun hm => ⟨h r hm, hm⟩⟩

theorem ofBlock_carried : (t.ofBlock sl q (t.toBlock sl q v)).carried = t.carried := by
  have hp : (t.ofBlock sl q (t.toBlock sl q v)).carried = BitVec.ofNat 64 (blockField (t.toBlock sl q v) 8 8) := rfl
  rw [hp, block_carried, BitVec.ofNat_toNat, BitVec.setWidth_eq]

theorem ofBlock_next : (t.ofBlock sl q (t.toBlock sl q v)).next = t.next := by
  have hp : (t.ofBlock sl q (t.toBlock sl q v)).next = BitVec.ofNat 2 (blockField (t.toBlock sl q v) 6 1) := rfl
  rw [hp, block_next, BitVec.ofNat_toNat, BitVec.setWidth_eq]

end Thread

/-- Settles O58. -/
theorem ringAndContext : Obligations.RingAndContext := by
  unfold Obligations.RingAndContext
  refine ⟨fun f => ⟨?_, ?_, ?_, ?_⟩, ?_⟩
  · refine acts_of_eachLane (fun _ => ⟨rfl, rfl⟩) (fun s ex _ => ?_)
    simp only [fst_lanes] <;> rfl
  · refine acts_of_eachLane (fun _ => ⟨rfl, rfl⟩) (fun s ex _ => ?_)
    simp only [fst_lanes] <;> rfl
  · exact groupCompletes_of (fun _ => ⟨_, rfl, rfl⟩)
  · refine groupCompletes_of (fun s => ⟨_, rfl, congrArg (fun t => Host.Outcome.next (s.runCtx f false t)) ?_⟩)
    funext s l ex a
    match a with
    | none => rfl
    | some ((x, p), ts) =>
      have hw : (s.laneWho l).thread = s.laneKey l := rfl
      simp only [Bool.or_eq_true, decide_eq_true_eq, hw]
  · intro t sl q v hq hv htok hpo bs u
    exact ⟨t.toBlock_length sl q v, t.block_quota sl q v (by omega), t.block_function sl q v hv, fun r hr => t.ofBlock_reg sl v hq hr,
      fun k hk => Thread.ofBlock_pred sl v hk, Thread.ofBlock_predTok? sl v htok, Thread.ofBlock_poison sl v hq hpo,
      Thread.ofBlock_carried sl v, Thread.ofBlock_next sl v⟩

end Sys2Proof.Machine
end

section
/-!
PROOFS. Taking an exception and returning from one.
-/

namespace Sys2Proof.Machine

/-! ### Lanes that park with one fault -/

/-- Lanes with one fault are one group. -/
theorem faultGroups_same (insn n : Nat) (l : Nat) (ls : List Nat) (f : Flt) :
    faultGroups insn (n + 1) ((l :: ls).map (fun l => (l, f))) = [(l :: ls).map (fun l => (l, f))] := by
  have hs : f.sameGroup insn f = true := by simp [Flt.sameGroup]
  have ht : (ls.map (fun l => (l, f))).filter (fun q => f.sameGroup insn q.2) = ls.map (fun l => (l, f)) :=
    List.filter_eq_self.mpr (by simp [hs])
  have hn : (ls.map (fun l => (l, f))).filter (fun q => !(f.sameGroup insn q.2)) = [] :=
    List.filter_eq_nil_iff.mpr (by simp [hs])
  rw [List.map_cons, faultGroups, ht, hn]
  cases n <;> rfl

/-- Off the management core they park as one sub-warp. -/
theorem State.park_same {s : State} {ls : List Nat} (f : Flt) (hn : ls ≠ []) (hm : s.onMgmt = false) :
    s.park (ls.map (fun l => (l, f))) = s.parkGroup f (f.page s.cur.at_) (ls.map (fun l => (l, f))) := by
  obtain ⟨l, ls, rfl⟩ := List.exists_cons_of_ne_nil hn
  unfold State.park
  simp only [List.map_cons, hm, Bool.false_eq_true, if_false]
  rw [← List.map_cons (f := fun l => (l, f)), faultGroups_same]
  rfl

/-- A thread that parks. -/
def Thread.toParked (t : Thread) : Thread := { t with status := .parked, wait := .none }

/-- The issuing slot with one sub-warp more. -/
def State.parkSlot (s : State) (f : Flt) (ls : List Nat) (sl : Slot) : Slot :=
  let num := s.curSlot.freeNum
  let gen := BitVec.ofNat 8 (s.curSlot.gens.getD num 0 + 1)
  { sl with
    parked := sl.parked ++ [{
      num := num, gen := gen, code := BitVec.ofNat 8 f.code, dfr := f.dfr, info := BitVec.ofNat 16 f.info,
      page := f.page s.cur.at_, hyp := f.hyp (isHandler s.curStand), dest := s.cur.nextPC, mark := none, seq := none, arrival := s.tick,
      lanes := ls.map (fun l => { lane := l, thread := s.laneKey l, addr := f.addr, det := f.det, ipa := f.ipa,
                                  attached := f.attached, label := f.label }) }]
    gens := sl.gens.insert num gen.toNat }

/-- The trap record of lanes that park. -/
def State.parkRec (s : State) (f : Flt) (ls : List Nat) : TrapRec :=
  let num := s.curSlot.freeNum
  let gen := BitVec.ofNat 8 (s.curSlot.gens.getD num 0 + 1)
  let st := s.curStand
  { code := BitVec.ofNat 8 f.code, dfr := f.dfr, info := BitVec.ofNat 16 f.info, page := f.page s.cur.at_, grid := gridOf st,
    stand := st, stage := s.curSlot.stage, hyp := f.hyp (isHandler st), hdl := isHandler st, vf := s.vfOf st,
    org := s.vfOrigin (s.vfOf st), clk := s.clk s.cur.core, opened := s.clk s.cur.core, nl := ls.length,
    slots := BitVec.ofNat 64 (2 ^ (16 * s.cur.quad + s.cur.slot)), parks := [(s.cur.slotKey, num, gen.toNat)],
    kill := none, arrival := s.tick }

/-- The lanes parked, before the fault is recorded. -/
def State.parkLanes (s : State) (f : Flt) (ls : List Nat) : State :=
  ls.foldl (fun s l => s.updLane l Thread.toParked) (s.updSlot s.cur.slotKey (s.parkSlot f ls))

/-- A fault that is neither a stop nor a recoverable page fault. -/
structure Flt.Recorded (f : Flt) : Prop where
  stop : f.stop = false
  code : f.code ≠ 0x0B ∨ f.dfr = true

/-- Off the management core the lanes park and the fault joins the core's coalescer. -/
theorem State.parkAll_eq {s : State} {ls : List Nat} {f : Flt} (hf : f.Recorded) (hn : ls ≠ []) (hm : s.onMgmt = false) :
    s.parkAll ls f = ((s.parkLanes f ls).joinTrap s.cur.core (s.parkRec f ls)).advance (s.othersOf ls) := by
  have hc : (decide (f.code = 0x0B) && !f.dfr) = false := by
    rcases hf.code with h | h <;> simp [h]
  have hs : (ls.map (fun l => (l, f))).any (fun p => p.2.stop) = false := by simp [hf.stop]
  unfold State.parkAll
  rw [State.park_same f hn hm]
  unfold State.parkGroup
  simp only [hc, hs, Bool.false_eq_true, if_false, List.length_map, List.map_map, List.foldl_map, Function.comp_def]
  rfl

/-! ### What parking leaves -/

section
variable {s : State} {f : Flt} {ls : List Nat}

theorem State.parkLanes_acts (key : Nat → Nat) : ActsOn key (fun s l => s.updLane l Thread.toParked) (fun _ => Thread.toParked) :=
  ActsOn.updLane key (fun _ => Thread.toParked)

/-- The slot keeps its lanes. -/
theorem State.parkSlot_laneKey (ho : s.ordered = true) : (s.updSlot s.cur.slotKey (s.parkSlot f ls)).laneKey = s.laneKey :=
  State.updSlot_laneKey s _ (State.ordered_slot ho) (fun _ => rfl)

theorem State.parkLanes_laneKey (ho : s.ordered = true) : (s.parkLanes f ls).laneKey = s.laneKey :=
  (State.parkLanes_acts _).fold_laneKey ls (State.parkSlot_laneKey ho)

theorem State.parkLanes_rest (ho : s.ordered = true) :
    s.parkLanes f ls = { s.updSlot s.cur.slotKey (s.parkSlot f ls) with threads := (s.parkLanes f ls).threads } :=
  (State.parkLanes_acts _).fold_rest ls _ (State.parkSlot_laneKey ho)

theorem State.parkLanes_ordered (ho : s.ordered = true) : (s.parkLanes f ls).ordered = true :=
  (State.parkLanes_acts _).fold_ordered ls _ (State.parkSlot_laneKey ho) (State.updSlot_ordered s _ ho (fun _ => rfl))

/-- A parked lane. -/
theorem State.parkLanes_lane (ho : s.ordered = true) (hs : List.Sublist ls s.cur.lanes) {l : Nat} (hl : l ∈ ls) :
    (s.parkLanes f ls).lane l = (s.lane l).toParked := by
  refine ((State.parkLanes_acts _).fold_lane_of_ordered (State.parkSlot_laneKey ho)
    (State.updSlot_ordered s _ ho (fun _ => rfl)) hs hl).trans (congrArg Thread.toParked ?_)
  exact congrArg s.thread (congrFun (State.parkSlot_laneKey ho) l)

/-- Another lane of the group. -/
theorem State.parkLanes_lane_other (ho : s.ordered = true) (hs : List.Sublist ls s.cur.lanes) {l : Nat} (hl : l ∈ s.cur.lanes)
    (hn : l ∉ ls) : (s.parkLanes f ls).lane l = s.lane l := by
  refine ((State.parkLanes_acts _).fold_lane_other (State.parkSlot_laneKey ho)
    (State.updSlot_ordered s _ ho (fun _ => rfl)) hs hl hn).trans ?_
  exact congrArg s.thread (congrFun (State.parkSlot_laneKey ho) l)

/-- Any other thread. -/
theorem State.parkLanes_thread (ho : s.ordered = true) {k : Nat} (hk : k ∉ ls.map s.laneKey) :
    (s.parkLanes f ls).thread k = s.thread k :=
  (State.parkLanes_acts _).fold_thread_other (State.parkSlot_laneKey ho) ls k hk

/-- What `parkAll` leaves of lanes, threads, the issuing slot and the rest of the machine. -/
structure State.ParkedIn (s t : State) (ls : List Nat) (f : Flt) : Prop where
  lane : ∀ l ∈ ls, t.lane l = { s.lane l with status := .parked, wait := .none }
  other : ∀ l ∈ s.cur.lanes, l ∉ ls → t.lane l = { s.lane l with pc := s.cur.nextPC }
  thread : ∀ k, k ∉ s.cur.lanes.map s.laneKey → t.thread k = s.thread k
  slot : t.curSlot = s.parkSlot f ls s.curSlot
  rest : ∃ full, t = { s.updCore s.cur.core (·.join full (s.parkRec f ls)) with threads := t.threads, slots := t.slots }

theorem State.parkAll_parked (ho : s.ordered = true) (hn : ls ≠ []) (hs : List.Sublist ls s.cur.lanes) (hf : f.Recorded)
    (hm : s.onMgmt = false) : s.ParkedIn (s.parkAll ls f) ls f := by
  rw [State.parkAll_eq hf hn hm]
  have hk := State.parkLanes_laneKey (f := f) (ls := ls) ho
  have hr := State.parkLanes_rest (f := f) (ls := ls) ho
  have hop := State.parkLanes_ordered (f := f) (ls := ls) ho
  have hl := fun {l} (h : l ∈ ls) => State.parkLanes_lane (f := f) ho hs h
  have hl' := fun {l} (h : l ∈ s.cur.lanes) (h' : l ∉ ls) => State.parkLanes_lane_other (f := f) ho hs h h'
  have ht := fun {k} (h : k ∉ ls.map s.laneKey) => State.parkLanes_thread (f := f) (ls := ls) ho h
  have hc : (s.updSlot s.cur.slotKey (s.parkSlot f ls)).curSlot = s.parkSlot f ls s.curSlot :=
    State.updSlot_curSlot s _ (State.ordered_slot ho)
  generalize s.parkLanes f ls = a at *
  obtain ⟨T, rfl⟩ : ∃ T, a = { s.updSlot s.cur.slotKey (s.parkSlot f ls) with threads := T } := ⟨_, hr⟩
  clear hr
  -- the record touches neither threads nor slots
  generalize ha : { s.updSlot s.cur.slotKey (s.parkSlot f ls) with threads := T } = a at *
  have hP := State.sendLanes_acts s.laneKey s.cur.nextPC
  have hkj : (a.joinTrap s.cur.core (s.parkRec f ls)).laneKey = s.laneKey := hk
  have hoj : (a.joinTrap s.cur.core (s.parkRec f ls)).ordered = true := hop
  have hcur : a.cur = s.cur := by rw [← ha]; rfl
  have hadv : (a.joinTrap s.cur.core (s.parkRec f ls)).advance (s.othersOf ls)
      = (s.othersOf ls).foldl (fun s' l => s'.updLane l (fun t => { t with pc := s.cur.nextPC })) (a.joinTrap s.cur.core (s.parkRec f ls)) := by
    rw [← ha]; rfl
  have hos : List.Sublist (s.othersOf ls) (a.joinTrap s.cur.core (s.parkRec f ls)).cur.lanes := by
    show List.Sublist _ a.cur.lanes
    rw [hcur]; exact List.filter_sublist
  have hmem : ∀ l, l ∈ s.othersOf ls ↔ l ∈ s.cur.lanes ∧ l ∉ ls := by simp [State.othersOf]
  have hrest := hP.fold_rest (s.othersOf ls) _ hkj
  rw [hadv]
  constructor
  case lane =>
    intro l h
    refine (hP.fold_lane_other hkj hoj hos ?_ (fun h' => ((hmem l).mp h').2 h)).trans (hl h)
    show l ∈ a.cur.lanes
    rw [hcur]; exact hs.subset h
  case other =>
    intro l h h'
    refine (hP.fold_lane_of_ordered hkj hoj hos ((hmem l).mpr ⟨h, h'⟩)).trans ?_
    exact congrArg (fun t : Thread => { t with pc := s.cur.nextPC }) (hl' h h')
  case thread =>
    intro k h
    refine (hP.fold_thread_other hkj (s.othersOf ls) k (fun h' => h ((List.filter_sublist.map _).subset h'))).trans ?_
    exact ht (fun h' => h ((hs.map _).subset h'))
  case slot =>
    rw [hrest, ← ha]; exact hc
  case rest =>
    refine ⟨a.queueFull (s.parkRec f ls), ?_⟩
    rw [hrest, ← ha]; rfl

end

/-- Settles O42. -/
theorem exceptionEntry : Obligations.ExceptionEntry := by
  unfold Obligations.ExceptionEntry
  intro s ls f ho hn hs hstop hcode
  refine ⟨fun hm => ?_, fun hm => ?_⟩
  · obtain ⟨hl, hl', ht, hc, hr⟩ := State.parkAll_parked ho hn hs ⟨hstop, hcode⟩ hm
    exact ⟨hl, hl', ht, hc, hr⟩
  · obtain ⟨l, ls, rfl⟩ := List.exists_cons_of_ne_nil hn
    unfold State.parkAll State.park
    simp only [List.map_cons, hm, if_true, List.foldl_cons, List.foldl_map]

/-! ### Returning -/

section
variable {s : State} {h : Word} {b : Found} {skip : Bool}

/-- One lane of a sub-warp resumes. -/
def State.resumeLane (skip : Bool) (dest : PC) (s : State) (k : Nat) : State :=
  if skip then (s.updThread k (Thread.resume skip dest)).dropOps k else s.updThread k (Thread.resume skip dest)

theorem State.resumeLanes_eq (s : State) (sub : Parked) (skip : Bool) :
    s.resumeLanes sub skip = (sub.lanes.map (·.thread)).foldl (State.resumeLane skip sub.dest) s := by
  rw [List.foldl_map]
  rfl

/-- It changes its thread, and the stands' interrupted operations. -/
theorem State.resumeLane_rest (s : State) (dest : PC) (k : Nat) : State.resumeLane skip dest s k
    = { s with threads := (State.resumeLane skip dest s k).threads, stands := (State.resumeLane skip dest s k).stands } := by
  cases skip <;> rfl

theorem State.resumeLane_get? (s : State) (dest : PC) (k j : Nat) : (State.resumeLane skip dest s k).threads.get? j
    = if j = k then (s.threads.get? j).map (Thread.resume skip dest) else s.threads.get? j := by
  cases skip <;> exact State.updThread_get? s k j _

theorem State.foldl_resumeLane_rest (dest : PC) (ks : List Nat) : ∀ s : State, ks.foldl (State.resumeLane skip dest) s
    = { s with threads := (ks.foldl (State.resumeLane skip dest) s).threads
               stands := (ks.foldl (State.resumeLane skip dest) s).stands } := by
  induction ks with
  | nil => intro s; rfl
  | cons k ks ih =>
    intro s
    rw [List.foldl_cons]
    refine (ih _).trans ?_
    rw [State.resumeLane_rest s dest k]

/-- Each thread of distinct ones resumes once, and no other. -/
theorem State.foldl_resumeLane_get? (dest : PC) (j : Nat) (ks : List Nat) : ∀ s : State, ks.Nodup →
    (ks.foldl (State.resumeLane skip dest) s).threads.get? j
      = if j ∈ ks then (s.threads.get? j).map (Thread.resume skip dest) else s.threads.get? j := by
  induction ks with
  | nil => intro s _; simp
  | cons k ks ih =>
    intro s hn
    obtain ⟨hk, hn⟩ := List.nodup_cons.mp hn
    rw [List.foldl_cons, ih _ hn, State.resumeLane_get?]
    by_cases hj : j = k
    · subst hj; simp [hk]
    · simp [hj]

/-- Where a sub-warp that is not saved stands. -/
theorem State.findSub_live (hf : s.findSub h = some b) (hs : b.saved = false) :
    b.slot = handleSlot h ∧ b.sub.num = handleNum h ∧ (s.slots.get? (handleSlot h)).isSome = true := by
  have hnum : b.sub.num = handleNum h := by
    have := List.find?_some hf
    simp only [Bool.and_eq_true, decide_eq_true_eq] at this
    exact this.1.1
  have hmem := List.mem_of_find?_eq_some hf
  unfold State.parkedAt at hmem
  rcases List.mem_append.mp hmem with hl | hl
  · cases hg : s.slots.get? (handleSlot h) with
    | none => rw [hg] at hl; cases hl
    | some sl =>
      rw [hg] at hl
      obtain ⟨p, _, rfl⟩ := List.mem_map.mp hl
      exact ⟨rfl, hnum, rfl⟩
  · -- a saved stand's sub-warps are marked as saved
    obtain ⟨e, _, he⟩ := List.mem_flatMap.mp hl
    split at he
    · split at he
      · obtain ⟨p, _, rfl⟩ := List.mem_map.mp he
        cases hs
      · cases he
    · cases he

/-- Dropping the elements with one number. -/
theorem filterMap_drop (n : Nat) (ps : List Parked) :
    ps.filterMap (fun p => if p.num = n then none else some p) = ps.filter (fun p => p.num ≠ n) := by
  rw [← List.filterMap_eq_filter]
  refine congrArg (fun g => ps.filterMap g) (funext fun p => ?_)
  by_cases hp : p.num = n <;> simp [Option.guard, hp]

/-- A slot without the sub-warps of one number. -/
def Slot.dropSub (n : Nat) (sl : Slot) : Slot :=
  { sl with parked := sl.parked.filterMap (fun p => if p.num = n then none else some p) }

/-- Settles O43. -/
theorem exceptionReturn : Obligations.ExceptionReturn := by
  unfold Obligations.ExceptionReturn
  intro s h b skip hf hnd
  refine ⟨fun hs => ?_, fun hs => ?_⟩
  · obtain ⟨hslot, hnum, hex⟩ := State.findSub_live hf hs
    intro t
    have hget (j : Nat) := State.foldl_resumeLane_get? (skip := skip) b.sub.dest j (b.sub.lanes.map (·.thread)) s hnd
    have ht : t = State.updSlot ((b.sub.lanes.map (·.thread)).foldl (State.resumeLane skip b.sub.dest) s) (handleSlot h)
        (Slot.dropSub (handleNum h)) := by
      show s.resumeSub b skip = _
      unfold State.resumeSub State.updSub
      rw [State.resumeLanes_eq, hs, hslot, hnum]
      rfl
    have hrest := State.foldl_resumeLane_rest (skip := skip) b.sub.dest (b.sub.lanes.map (·.thread)) s
    rw [ht]
    refine ⟨fun p hp th hth => ?_, fun k hk => ?_, ?_, ?_⟩
    · have hg := hget p.thread
      rw [if_pos (List.mem_map.mpr ⟨p, hp, rfl⟩), hth] at hg
      exact (Table.getD_of_get? hg).trans (by cases skip <;> rfl)
    · refine Table.getD_congr ((hget k).trans (if_neg ?_))
      rintro hm
      obtain ⟨p, hp, e⟩ := List.mem_map.mp hm
      exact hk p hp e
    · rw [← filterMap_drop]
      refine congrArg Slot.parked (Table.getD_map (u := s.slots) (f := Slot.dropSub (handleNum h)) ?_ hex)
      refine (State.updSlot_get? _ _ _ _).trans ((if_pos rfl).trans ?_)
      rw [hrest]
    · have hmem := congrArg State.mem hrest
      exact hmem
  · unfold State.resumeSub State.updSub
    rw [if_pos hs, if_pos hs]
    exact ⟨rfl, rfl⟩

end

end Sys2Proof.Machine
end

section
/-!
PROOFS. Guards, illegal uses, unassigned words and privileged instructions.
-/

namespace Sys2Proof.Machine

/-! ### The faults of a use -/

/-- The fault of a use, if it has one, is illegal or privileged. -/
def UseFault (o : Option Flt) : Prop := ∀ f, o = some f → (f.code = 0x01 ∨ f.code = 0x02) ∧ f.stop = false

@[simp] theorem useFault_none : UseFault none := fun _ h => by cases h

@[simp] theorem useFault_illegal (ok beyond : Bool) : UseFault (illegal ok beyond) := by
  unfold illegal
  intro f h
  split at h
  · cases h; exact ⟨Or.inl rfl, rfl⟩
  · split at h
    · cases h; exact ⟨Or.inl rfl, rfl⟩
    · cases h

@[simp] theorem useFault_firstFault {a b : Option Flt} (ha : UseFault a) (hb : UseFault b) : UseFault (firstFault a b) := by
  cases a with
  | none => exact hb
  | some x => exact ha

@[simp] theorem useFault_privileged (s : State) : UseFault s.privileged := by
  unfold State.privileged
  intro f h
  split at h
  · cases h
  · cases h; exact ⟨Or.inr rfl, rfl⟩

@[simp] theorem useFault_featured (s : State) (i : Nat) : UseFault (s.featured i) := by
  unfold State.featured
  intro f h
  split at h
  · cases h; exact ⟨Or.inl rfl, rfl⟩
  · cases h

@[simp] theorem useFault_unclaimed (s : State) : UseFault s.unclaimed := by
  unfold State.unclaimed
  intro f h
  split at h
  · cases h
  · cases h; exact ⟨Or.inl rfl, rfl⟩

@[simp] theorem useFault_ite {c : Prop} [Decidable c] {a b : Option Flt} (ha : UseFault a) (hb : UseFault b) :
    UseFault (if c then a else b) := by
  split
  · exact ha
  · exact hb

/-- Every use that is not one of the register classes. -/
theorem useFault_actUse {s : State} {i : Instr} {u : Use} (h : s.actUse i = some u) : UseFault u.bad := by
  unfold State.actUse at h
  split at h <;> cases h <;>
    simp [illLd, illSt, illAtomic, illAtom, illAtomc, illRed, illFence, illHint, illTagset, illTagget, illBcst, illPres, illDcq,
      illLbrd, illLbor, illClrseg, illQinit, illQenq, illQdeq, illQpeek, illWaitw, illBari, illBara, illBarw, illBars, illTbari, illTbare,
      illBare, illBra, illCall, illIndirect, illRgrp, illJset, illJoin, illElect, illChk, illCode, illIret, illTrig, illSrd, illSwr,
      illMark, illHalt, illBlock, illWload, illWloadr, illWclr, illMma, illMstat, illMdrain, State.accBad, illXcopy, illXkick, illXwait,
      illTest, illSend, illRecv, illObsend, illObrecv, illObstat, illRel, illWatch, illProfrd, illTlbi, illCtx, illLaunch, illJoinGrid,
      illRing]

/-- Every use. -/
theorem useFault_useOf {s : State} {i : Instr} {u : Use} (h : s.useOf i = some u) : UseFault u.bad := by
  unfold State.useOf at h
  split at h
  · cases h; exact useFault_illegal _ _
  · cases h; exact useFault_illegal _ _
  · exact useFault_actUse h

theorem UseFault.recorded {f : Flt} (h : UseFault (some f)) : f.Recorded := by
  obtain ⟨hc, hs⟩ := h f rfl
  exact ⟨hs, Or.inl (by omega)⟩

/-! ### Going on -/

/-- Going on with the whole group. -/
theorem State.advance_group {s : State} (ho : s.ordered = true) :
    (∀ l ∈ s.cur.lanes, (s.advance s.cur.lanes).lane l = { s.lane l with pc := s.cur.nextPC })
    ∧ (∀ k, k ∉ s.cur.lanes.map s.laneKey → (s.advance s.cur.lanes).thread k = s.thread k)
    ∧ s.advance s.cur.lanes = { s with threads := (s.advance s.cur.lanes).threads } := by
  have hP := State.sendLanes_acts s.laneKey s.cur.nextPC
  exact ⟨fun l hl => hP.fold_lane_of_ordered rfl ho (List.Sublist.refl _) hl, fun k hk => hP.fold_thread_other rfl _ k hk,
    hP.fold_rest _ s rfl⟩

/-- A privileged instruction below supervisor level. -/
theorem firstFault_unprivileged {s : State} (h : isHandler s.curStand = false) (b : Option Flt) :
    firstFault s.privileged b = some (.plain 0x02 0) := by
  simp [State.privileged, h, firstFault]

/-- An instruction of the management core elsewhere. -/
theorem illegal_off {a : Bool} (h : a = false) (b : Bool) : illegal a b = some (.plain 0x01 0) := by
  simp [illegal, h]

/-- Settles O59. -/
theorem guardsAndFaults : Obligations.GuardsAndFaults := by
  unfold Obligations.GuardsAndFaults
  refine ⟨fun i s u hu ho => ?_, fun s => ⟨fun w he => ?_, fun w he => ?_, rfl⟩, fun s f i he => ⟨fun hi hh => ?_, fun hi hm => ?_⟩⟩
  · refine ⟨fun he => ?_, fun f he hb hm => ?_⟩
    · obtain ⟨hl, ht, hr⟩ := State.advance_group ho
      exact ⟨_, exec_no_lane hu he, hl, ht, hr⟩
    · have hp := State.parkAll_parked ho he (s.execLanes_sublist u.gn u.gp) (hb ▸ useFault_useOf hu).recorded hm
      refine ⟨_, exec_illegal hu hb he, hp.lane, hp.other, hp.thread, ?_⟩
      obtain ⟨full, hr⟩ := hp.rest
      rw [hr]
      exact ⟨rfl, rfl, rfl⟩
  · exact congrArg Host.Outcome.next (by simp [State.issue, he])
  · exact congrArg Host.Outcome.next (by simp [State.issue, he])
  · simp only [List.mem_cons, List.not_mem_nil, or_false] at hi
    rcases hi with rfl | rfl | rfl | rfl <;> exact exec_illegal (u := ⟨f.gn, f.gp, _⟩) rfl (firstFault_unprivileged hh _) he
  · simp only [List.mem_cons, List.not_mem_nil, or_false] at hi
    rcases hi with rfl | rfl | rfl <;> exact exec_illegal (u := ⟨f.gn, f.gp, _⟩) rfl (illegal_off (by simp [hm]) _) he

end Sys2Proof.Machine
end

section
/-!
PROOFS. Poison and labels of register instructions, and pair words.
-/

namespace Sys2Proof.Machine

/-! ### Poison that a thread takes -/

theorem mem_insertNat {x y : Nat} {xs : List Nat} : y ∈ insertNat x xs ↔ y = x ∨ y ∈ xs := by
  induction xs with
  | nil => simp [insertNat]
  | cons z zs ih =>
    unfold insertNat
    split
    · simp
    · split
      · subst ‹x = z›; simp
      · rw [List.mem_cons, ih, List.mem_cons, or_left_comm]

theorem Thread.mem_poisonReg {t : Thread} {r j : Nat} {k : Word} : j ∈ (t.poisonReg r k).poison ↔ j = r ∨ j ∈ t.poison :=
  mem_insertNat

/-- Poison of several registers. -/
theorem Thread.mem_foldl_poisonReg (r j : Nat) (k : Word) (is : List Nat) : ∀ t : Thread,
    j ∈ (is.foldl (fun t i => t.poisonReg (r + i) k) t).poison ↔ (∃ i ∈ is, j = r + i) ∨ j ∈ t.poison := by
  induction is with
  | nil => simp
  | cons i is ih =>
    intro t
    rw [List.foldl_cons, ih, Thread.mem_poisonReg]
    simp only [List.mem_cons, exists_eq_or_imp]
    rw [or_left_comm, or_assoc]

/-- A token leaves what is poisoned so. -/
theorem Thread.poison_take {t : Thread} {d : Dst} {k : Word} {ow j : Nat} (h : j ∈ t.poison) : j ∈ (t.take d (.tok k ow)).poison := by
  cases d with
  | v r n => exact (Thread.mem_foldl_poisonReg r j k _ t).mpr (Or.inr h)
  | p r =>
    show j ∈ (t.poisonPred r k).poison
    unfold Thread.poisonPred
    split <;> exact h

theorem Thread.poison_takeAll {k : Word} {ow j : Nat} (ds : List Dst) : ∀ {t : Thread}, j ∈ t.poison →
    j ∈ (t.takeAll ds (ds.map (fun _ => .tok k ow))).poison := by
  induction ds with
  | nil => exact fun h => h
  | cons d ds ih => exact fun h => ih (Thread.poison_take h)

/-- Every register of a destination that takes a token is poisoned. -/
theorem Thread.takeAll_poisons {k : Word} {ow r n j : Nat} (hr : r ≤ j) (hj : j < r + n) (ds : List Dst) : ∀ {t : Thread}, .v r n ∈ ds →
    j ∈ (t.takeAll ds (ds.map (fun _ => .tok k ow))).poison := by
  induction ds with
  | nil => exact fun h => by cases h
  | cons d ds ih =>
    intro t h
    rcases List.mem_cons.mp h with rfl | h
    · refine Thread.poison_takeAll ds ((Thread.mem_foldl_poisonReg r j k _ t).mpr (Or.inl ⟨j - r, ?_, by omega⟩))
      rw [List.mem_range]; omega
    · exact ih h

/-! ### Labels that a slot takes -/

/-- The label of a destination after a write under `lab`. -/
def newLabel (whole : Bool) (lab old : Label) : Label := if whole then lab else old ||| lab

theorem newLabel_twice (whole : Bool) (lab old : Label) : newLabel whole lab (newLabel whole lab old) = newLabel whole lab old := by
  cases whole
  · simp [newLabel, BitVec.or_assoc]
  · rfl

section
variable {whole : Bool} {lab : Label}

theorem Slot.setRegLabel_regLabel (sl : Slot) (r j : Nat) (l : Label) :
    (sl.setRegLabel r l).regLabel j = if j = r then l else sl.regLabel j :=
  Table.getD_insert _ _ _ _ _

/-- Labels of several registers. -/
theorem Slot.foldl_setRegLabel (r j : Nat) (is : List Nat) : ∀ sl : Slot,
    (is.foldl (fun sl i => sl.setRegLabel (r + i) (newLabel whole lab (sl.regLabel (r + i)))) sl).regLabel j
      = if ∃ i ∈ is, j = r + i then newLabel whole lab (sl.regLabel j) else sl.regLabel j := by
  induction is with
  | nil => intro sl; simp
  | cons i is ih =>
    intro sl
    rw [List.foldl_cons, ih, Slot.setRegLabel_regLabel]
    by_cases h1 : j = r + i
    · subst h1
      by_cases h2 : ∃ i' ∈ is, r + i = r + i'
      · rw [if_pos h2, if_pos rfl, if_pos ⟨i, List.mem_cons_self, rfl⟩, newLabel_twice]
      · rw [if_neg h2, if_pos rfl, if_pos ⟨i, List.mem_cons_self, rfl⟩]
    · simp [h1]

/-- A register's label after one destination. -/
theorem Slot.labelDst_regLabel (sl : Slot) (d : Dst) (j : Nat) : (sl.labelDst whole lab d).regLabel j = sl.regLabel j
    ∨ (sl.labelDst whole lab d).regLabel j = newLabel whole lab (sl.regLabel j) := by
  cases d with
  | v r n =>
    have h := Slot.foldl_setRegLabel (whole := whole) (lab := lab) r j (List.range n) sl
    split at h
    · exact Or.inr h
    · exact Or.inl h
  | p r =>
    refine Or.inl ?_
    show (sl.setPredLabel r _).regLabel j = _
    unfold Slot.setPredLabel
    split <;> rfl

/-- A register of the destination takes the new label. -/
theorem Slot.labelDst_regLabel_of_mem (sl : Slot) {r n j : Nat} (hr : r ≤ j) (hj : j < r + n) :
    (sl.labelDst whole lab (.v r n)).regLabel j = newLabel whole lab (sl.regLabel j) := by
  refine (Slot.foldl_setRegLabel (whole := whole) (lab := lab) r j (List.range n) sl).trans (if_pos ⟨j - r, ?_, by omega⟩)
  rw [List.mem_range]; omega

theorem Slot.setPredLabel_predLabel (sl : Slot) {r k : Nat} (hk : k < 7) (l : Label) :
    (sl.setPredLabel r l).predLabel k = if k = r then l else sl.predLabel k := by
  have h7 : k ≠ 7 := by omega
  unfold Slot.setPredLabel Slot.predLabel
  by_cases hr : r = 7
  · rw [if_pos hr, if_neg (show k ≠ r by omega)]
  · rw [if_neg hr, if_neg h7, if_neg h7]
    exact Table.getD_insert _ _ _ _ _

/-- A predicate's label after one destination. -/
theorem Slot.labelDst_predLabel (sl : Slot) (d : Dst) {k : Nat} (hk : k < 7) : (sl.labelDst whole lab d).predLabel k = sl.predLabel k
    ∨ (sl.labelDst whole lab d).predLabel k = newLabel whole lab (sl.predLabel k) := by
  cases d with
  | v r n =>
    exact Or.inl ((List.range n).foldlRecOn _ (motive := fun x : Slot => x.predLabel k = sl.predLabel k) rfl (fun _ h _ _ => h))
  | p r =>
    have h := Slot.setPredLabel_predLabel sl (r := r) hk (newLabel whole lab (sl.predLabel r))
    split at h
    · subst ‹k = r›; exact Or.inr h
    · exact Or.inl h

theorem Slot.labelDst_predLabel_of_mem (sl : Slot) {k : Nat} (hk : k < 7) :
    (sl.labelDst whole lab (.p k)).predLabel k = newLabel whole lab (sl.predLabel k) :=
  (Slot.setPredLabel_predLabel sl hk _).trans (if_pos rfl)

/-- A field of a slot that each destination keeps or takes under the new label, and destination `d0` takes, has taken it. -/
theorem Slot.foldl_labelDst {g : Slot → Label} {d0 : Dst}
    (hd : ∀ (sl : Slot) (d : Dst), g (sl.labelDst whole lab d) = g sl ∨ g (sl.labelDst whole lab d) = newLabel whole lab (g sl))
    (h0 : ∀ sl : Slot, g (sl.labelDst whole lab d0) = newLabel whole lab (g sl)) (ds : List Dst) :
    ∀ sl : Slot, (d0 ∈ ds ∨ ∃ x, g sl = newLabel whole lab x) →
      g (ds.foldl (Slot.labelDst · whole lab) sl) = newLabel whole lab (g sl) := by
  induction ds with
  | nil =>
    rintro sl (h | ⟨x, h⟩)
    · cases h
    · rw [List.foldl_nil, h, newLabel_twice]
  | cons d ds ih =>
    intro sl h
    rw [List.foldl_cons]
    have key : g (sl.labelDst whole lab d) = newLabel whole lab (g sl) → g (ds.foldl (Slot.labelDst · whole lab) (sl.labelDst whole lab d))
        = newLabel whole lab (g sl) := fun e => by
      rw [ih _ (Or.inr ⟨_, e⟩), e, newLabel_twice]
    rcases h with h | h
    · rcases List.mem_cons.mp h with rfl | h
      · exact key (h0 sl)
      · rcases hd sl d with e | e
        · rw [ih _ (Or.inl h), e]
        · exact key e
    · rcases hd sl d with e | e
      · rw [ih _ (Or.inr (by rw [e]; exact h)), e]
      · exact key e

end

/-- Settles O41. -/
theorem poisonAndLabels : Obligations.PoisonAndLabels := by
  unfold Obligations.PoisonAndLabels
  intro i s op hi ho hb he ex lab next
  obtain ⟨hl, hl', ht, hc, _, hr⟩ := State.runAlu_wrote s op ho hb he
  have hlab : op.label s (s.execLanes op.gn op.gp) = lab := by simp [Alu.label, State.labelL, lab, ex]
  rw [hlab] at hc
  refine ⟨_, exec_eq_runAlu hi, fun l h => ⟨fun k hk => ?_, fun hk => ?_⟩, hl', ht, fun r n hd j h1 h2 => ?_, fun k hk hd => ?_, hr⟩
  · have ho : op.outs s l = op.dsts.map (fun _ => .tok k (s.laneKey l)) := by
      unfold Alu.outs; dsimp only; rw [hk]
    refine ⟨by rw [hl l h, ho], fun r n hd j h1 h2 => ?_⟩
    rw [hl l h, ho, List.contains_iff_mem]
    exact Thread.takeAll_poisons h1 h2 op.dsts hd
  · rw [hl l h, Alu.outs_clean op s l hk]
  · rw [hc]
    exact Slot.foldl_labelDst (g := fun sl => sl.regLabel j) (fun sl d => sl.labelDst_regLabel d j)
      (fun sl => sl.labelDst_regLabel_of_mem h1 h2) op.dsts _ (Or.inl hd)
  · rw [hc]
    exact Slot.foldl_labelDst (g := fun sl => sl.predLabel k) (fun sl d => sl.labelDst_predLabel d hk)
      (fun sl => sl.labelDst_predLabel_of_mem hk) op.dsts _ (Or.inl hd)

/-! ### Pair words -/

/-- Lanes `ex` of an ordered group took `out` in their destinations, and nothing but threads and the issuing slot's labels changed. -/
structure State.Took (s t : State) (ex : List Nat) (ds : List Dst) (out : Nat → List Out) : Prop where
  keys : t.laneKey = s.laneKey
  ordered : t.ordered = true
  lane : ∀ l ∈ s.cur.lanes, t.lane l = if l ∈ ex then (s.lane l).takeAll ds (out l) else s.lane l
  thread : ∀ k, k ∉ s.cur.lanes.map s.laneKey → t.thread k = s.thread k
  slot : ∀ k, k ≠ s.cur.slotKey → t.slotAt k = s.slotAt k
  rest : t = { s with threads := t.threads, slots := t.slots }

/-- What committing results leaves. -/
theorem State.commit_took {s : State} {ex : List Nat} (ds : List Dst) (lab : Label) {out : Nat → List Out} (ho : s.ordered = true)
    (hs : List.Sublist ex s.cur.lanes) (hw : ∀ l, ∀ o ∈ out l, o.ownedBy (s.laneKey l)) :
    s.Took (s.commit ex ds lab (ex.map (fun l => (l, out l)))) ex ds out := by
  by_cases he : ex = []
  · subst he
    have : s.commit [] ds lab ([].map (fun l => (l, out l))) = s := by simp [State.commit, State.labelDsts]
    rw [this]
    exact ⟨rfl, ho, fun _ _ => by simp, fun _ _ => rfl, fun _ _ => rfl, rfl⟩
  · rw [State.commit_eq s ex ds lab out he]
    have hA := State.writeOuts_acts s.laneKey ds out hw
    have hr := hA.fold_rest ex s rfl
    have hoA := hA.fold_ordered ex s rfl ho
    have hlA := fun {l} (hl : l ∈ ex) => hA.fold_lane_of_ordered rfl ho hs hl
    have hnA := fun {l} (hl : l ∈ s.cur.lanes) (hn : l ∉ ex) => hA.fold_lane_other rfl ho hs hl hn
    have htA := fun k (hk : k ∉ ex.map s.laneKey) => hA.fold_thread_other rfl ex k hk
    generalize ex.foldl (fun s l => s.writeOuts (s.laneKey l) ds (out l)) s = a at *
    obtain ⟨T, rfl⟩ : ∃ T, a = { s with threads := T } := ⟨_, hr⟩
    generalize hF : (fun sl : Slot => ds.foldl (fun sl d => sl.labelDst (State.wholeSlot { s with threads := T } ex) lab d) sl) = F
    have hFl : ∀ sl, (F sl).lanes = sl.lanes := fun sl => by rw [← hF]; exact Slot.labelDsts_lanes _ lab ds sl
    have hkb := State.updSlot_laneKey { s with threads := T } F (State.ordered_slot hoA) hFl
    refine ⟨hkb, State.updSlot_ordered { s with threads := T } F hoA hFl, fun l hl => ?_,
      fun k hk => htA k (fun h => hk ((hs.map _).subset h)), fun k hk => ?_, rfl⟩
    · refine (congrArg (State.thread { s with threads := T }) (congrFun hkb l)).trans ?_
      split
      · exact hlA ‹_›
      · exact hnA hl ‹_›
    · exact Table.getD_congr ((State.updSlot_get? _ _ _ _).trans (if_neg hk))

/-- A legal use has no fault in its encoding. -/
theorem Alu.ok_of_bad {op : Alu} {q : Nat} (h : op.bad q = none) : op.ok = true := by
  cases ho : op.ok with
  | true => rfl
  | false =>
    rw [Alu.bad, illegal_off ho] at h
    cases h

/-- What the two halves of a legal pair leave. -/
theorem State.pair_took {s : State} (a b : Alu) (ho : s.ordered = true) :
    let ea := s.execLanes a.gn a.gp
    let eb := s.execLanes b.gn b.gp
    let t := (b.effect s (a.effect s s ea) eb).advance s.cur.lanes
    (∀ l ∈ s.cur.lanes, t.lane l =
      { (fun u : Thread => if l ∈ eb then u.takeAll b.dsts (b.outs s l) else u)
          (if l ∈ ea then (s.lane l).takeAll a.dsts (a.outs s l) else s.lane l) with pc := s.cur.nextPC })
    ∧ (∀ k, k ∉ s.cur.lanes.map s.laneKey → t.thread k = s.thread k)
    ∧ (∀ k, k ≠ s.cur.slotKey → t.slotAt k = s.slotAt k)
    ∧ t = { s with threads := t.threads, slots := t.slots } := by
  intro ea eb t
  have h1 : s.Took (a.effect s s ea) ea a.dsts (a.outs s) :=
    State.commit_took a.dsts _ ho (s.execLanes_sublist _ _) (Alu.outs_owned a s)
  generalize hx : a.effect s s ea = x at *
  have hcx : x.cur = s.cur := by rw [h1.rest]
  have h2 : x.Took (b.effect s x eb) eb b.dsts (b.outs s) :=
    State.commit_took b.dsts _ h1.ordered (hcx ▸ s.execLanes_sublist _ _) (fun l o hm => h1.keys ▸ Alu.outs_owned b s l o hm)
  generalize hy : b.effect s x eb = y at *
  have hcy : y.cur = s.cur := by rw [h2.rest]; exact hcx
  have ht : t = y.advance y.cur.lanes := by rw [hcy, ← hy, ← hx]
  obtain ⟨hl, hth, hr⟩ := State.advance_group h2.ordered
  rw [ht]
  have hk : y.laneKey = s.laneKey := h2.keys.trans h1.keys
  rw [hcy] at hl hth hr ⊢
  rw [hk] at hth
  refine ⟨fun l h => ?_, fun k h => ?_, fun k h => ?_, ?_⟩
  · rw [hl l h, h2.lane l (hcx.symm ▸ h), h1.lane l h]
  · rw [hth k h, h2.thread k (by rw [hcx, h1.keys]; exact h), h1.thread k h]
  · rw [hr]
    exact (h2.slot k (by rw [hcx]; exact h)).trans (h1.slot k h)
  · rw [hr, h2.rest, h1.rest]

/-- Settles O40. -/
theorem pairWords : Obligations.PairWords := by
  unfold Obligations.PairWords
  intro x y s a b ea eb ex half
  have hex (h : ex ≠ []) : (s.cur.lanes.filter (fun l => ea.contains l || eb.contains l)).isEmpty = false := by
    rw [List.isEmpty_eq_false_iff]; exact h
  refine ⟨fun h => ?_, fun h hb => ?_, fun h hp ha hb ho => ?_⟩
  · refine congrArg Host.Outcome.next (if_pos ?_)
    rw [List.isEmpty_iff]; exact h
  · refine congrArg Host.Outcome.next ((if_neg (ne_true_of_eq_false (hex h))).trans ?_)
    rw [illegal_off hb]
    rfl
  · refine ⟨_, congrArg Host.Outcome.next ((if_neg (ne_true_of_eq_false (hex h))).trans ?_), State.pair_took a b ho⟩
    have hok : illegal (pairOk x y a b && a.ok && b.ok) false = none := by
      rw [hp, Alu.ok_of_bad ha, Alu.ok_of_bad hb]; rfl
    rw [hok, ha, hb]
    rfl

end Sys2Proof.Machine
end

section
/-!
PROOFS. Instructions and events that complete where nothing stops them.
-/

namespace Sys2Proof.Machine

/-! ### The store queue and messages -/

/-- The oldest store, no window store, of a place that can still be written. -/
theorem exec_storeDrain {s : State} {k : Nat} {e : StoreEnt} {es : List StoreEnt} (hq : (s.thread k).storeQ = e :: es)
    (hw : e.window = none) {s1 : State} (h1 : s1 = s.updThread k (fun t => Thread.wakeExit { t with storeQ := es }))
    (hl : s1.placeLive e.loc = true) (hp : s1.partialBad e.loc e.bytes.length = false) :
    exec (.storeDrain k) s = .next (s1.perform (some (s1.coreOf (s.thread k).stand)) (s1.keyOf (s1.vfOf (s.thread k).stand))
      e.loc e.bytes e.label) := by
  subst h1
  refine congrArg Host.Outcome.next ((State.sendOne_plain hq hw).trans ?_)
  unfold State.performStore
  simp only [hl, hp, hw, Bool.not_true, Bool.false_eq_true, if_false]

/-- A circuit after a change of one. -/
theorem State.updCircuit_circuit {s : State} {k r : Nat} {st : Stand} (hs : s.stands.get? k = some st) (f : Circuit → Circuit) (j : Nat) :
    (s.updCircuit k r f).circuit k j = if j = r then f (s.circuit k r) else s.circuit k j := by
  have hg : (s.updCircuit k r f).stands.get? k
      = some { st with circuits := st.circuits.put ⟨[], []⟩ r (f (st.circuits.getD r ⟨[], []⟩)) } := by
    refine (State.updStand_get? s k k _).trans ?_
    rw [if_pos rfl, hs]
    rfl
  unfold State.circuit
  simp only [hg, hs]
  exact Table.getD_put _ _ _ _ _

/-- The oldest message that crosses a circuit arrives. -/
theorem exec_messageArrival {s : State} {k r : Nat} {st : Stand} (hs : s.stands.get? k = some st) {m : Msg} {ms : List Msg}
    (hm : (s.circuit k r).flight = m :: ms) : ∃ t, exec (.messageArrival k r) s = .next t
      ∧ t.circuit k r = ⟨ms, (s.circuit k r).waiting ++ [m]⟩ ∧ (∀ j, j ≠ r → t.circuit k j = s.circuit k j)
      ∧ t = { s with stands := t.stands } := by
  refine ⟨s.updCircuit k r (fun c => ⟨ms, c.waiting ++ [m]⟩), congrArg Host.Outcome.next ?_, ?_, fun j hj => ?_, rfl⟩
  · simp only [hm]
  · rw [State.updCircuit_circuit hs, if_pos rfl]
  · rw [State.updCircuit_circuit hs, if_neg hj]

/-! ### The multiply forms -/

/-- An operation that enters the engine stands last in its quadrant's queue. -/
theorem State.enterEngine_last (s : State) (ex : List Nat) (o : MOp) :
    ((s.enterEngine ex o).quadAt s.cur.quadKey).matrix.queue.getLast? = some o := by
  have hq (x : State) (g : Quad → Quad) (k : Nat) : (x.updQuad k g).quadAt k = g (x.quadAt k) :=
    (Table.getD_insert _ _ _ _ _).trans (if_pos rfl)
  unfold State.enterEngine State.updMx
  rw [hq, List.getLast?_concat]

/-- A multiply form that is accepted is the last operation of its quadrant's queue. -/
theorem State.mmaAccept_enters {f : XFmt} {kind : MKind} {s : State} {l : Nat} {ex : List Nat} {a : Accepted}
    (hc : s.continued ex = none) {s2 : State} {v1 v2 : (List Word × Label × Bool) × State}
    (h2 : s2 = a.dest.foldl (fun x t => x.touchAll (s.laneWho l) t true)
      ((a.scales ++ [a.shape, a.svec, a.bvec]).foldl (fun x t => x.touchAll (s.laneWho l) t false) s))
    (hv1 : v1 = s2.readVec s.curStand a.svec) (hv2 : v2 = v1.2.readVec s.curStand a.bvec)
    (h3 : v1.1.2.2 = false) (h4 : v2.1.2.2 = false) (h5 : a.shape.any (fun p => s.badSpan p.1.loc 64) = false) :
    ∃ o, ((State.mmaAccept f kind s l ex a).quadAt v2.2.cur.quadKey).matrix.queue.getLast? = some o
      ∧ o.kind = kind ∧ o.cfg = a.cfg ∧ o.eblock = a.ep ∧ o.last = a.cfg.m ∧ o.accepted = 0 ∧ o.rows = [] ∧ o.lanes.map Prod.fst = ex
      ∧ o.tok = f.token ∧ o.dreg = f.rd ∧ o.areg = f.ra ∧ o.acc = f.rj ∧ o.macs = f.macros ∧ o.clear = decide (f.s 0 1 = 1)
      ∧ o.svec = v1.1.1 ∧ o.bvec = v2.1.1 := by
  subst h2 hv1 hv2
  unfold State.mmaAccept
  dsimp only
  rw [if_neg (by rw [h3, h4, h5]; decide), hc]
  exact ⟨_, State.enterEngine_last _ _ _, rfl, rfl, rfl, rfl, rfl, rfl, map_fst_map _ ex, rfl, rfl, rfl, rfl, rfl, rfl, rfl, rfl⟩

/-- A multiply form whose checks pass is accepted. -/
theorem exec_multiply {f : XFmt} {s s1 : State} {gp : BitVec 3} {l : Nat} {ls : List Nat} {a : Accepted} {i : Instr} {kind : MKind}
    (hi : (i, kind) ∈ [(Instr.mma f, MKind.mma), (.mmasp f, .mmasp), (.mconv f, .mconv), (.mmar f, .mmar)]) (hr : s.Runs i gp (l :: ls))
    (ha : s.accepting (l :: ls) = false) (ht : ∀ m ∈ l :: ls, s.groupTok gp (XFmt.mmaSrcs f kind) [] (l = m) m = none)
    (hc : State.mmaCheck f kind s l (l :: ls) = (.ok a, s1)) : exec i s = .next (State.mmaAccept f kind s1 l (l :: ls) a) := by
  simp only [List.mem_cons, Prod.mk.injEq, List.not_mem_nil, or_false] at hi
  rcases hi with ⟨rfl, rfl⟩ | ⟨rfl, rfl⟩ | ⟨rfl, rfl⟩ | ⟨rfl, rfl⟩
  case inr.inr.inr =>
    obtain ⟨hb, rfl, hx, -⟩ := hr.use rfl
    refine congrArg Host.Outcome.next (State.runMma_mmar hb hx ha (fun m hm => ?_) hc)
    have := ht m hm
    simpa [State.groupTok, XFmt.mmaSrcs] using this
  all_goals
    obtain ⟨hb, rfl, hx, -⟩ := hr.use rfl
    exact congrArg Host.Outcome.next (State.runMma_group hb hx (by decide) ha ht hc)

/-- Lanes that do not raise a list of sources do not raise for their group. -/
theorem State.groupTok_none {s : State} {gp : BitVec 3} {srcs : List Src} {l : Nat} {ls : List Nat}
    (h : ∀ m ∈ ls, s.raiseTok gp srcs m = none) : ∀ m ∈ ls, s.groupTok gp srcs [] (l = m) m = none := by
  intro m hm
  have hr := h m hm
  unfold State.groupTok
  rw [List.append_nil]
  split
  · exact hr
  · rw [State.raiseTok_eq_none] at hr ⊢
    exact ⟨hr.1, fun x hx => by cases hx⟩

/-- Settles O60. -/
theorem remainingCompletions : Obligations.RemainingCompletions := by
  unfold Obligations.RemainingCompletions
  refine ⟨?_, ?_, ?_, ?_, ?_, ?_⟩
  · intro s k e es hq hw st s1 hl hp
    exact exec_storeDrain hq hw rfl hl hp
  · intro s k r st hs
    refine ⟨fun hm => congrArg Host.Outcome.next ?_, fun m ms hm => exec_messageArrival hs hm⟩
    simp only [hm]
  · intro f s gp ex k hr ho hc hok s1
    have hfree : ex.filter (fun l => decide (((s.lane l).sb (f.s 0 3)).count = 0)) = ex :=
      List.filter_eq_self.mpr (fun l hl => by simpa using (hok l hl).1)
    have hheld : ex.filter (fun l => decide (((s.lane l).sb (f.s 0 3)).count ≠ 0)) = [] :=
      List.filter_eq_nil_iff.mpr (fun l hl => by simpa using (hok l hl).1)
    refine (tokenWaits f s gp ex hr ho hc (fun l hl _ => (hok l hl).2)).trans ?_
    simp only [hfree, hheld, List.foldl_nil, s.othersOf_nil]
    rfl
  · intro f s gp l ls scope idx
    by_cases h : scope = 0
    · refine ⟨fun hr hc => ?_, fun hr hc => ?_⟩
      · exact (wpset_thread h s gp (l :: ls) hr hc (fun _ _ => trivial)).trans (by rw [if_pos h])
      · exact (wpclr_thread h s gp (l :: ls) hr hc (fun _ _ => trivial)).trans (by rw [if_pos h])
    · refine ⟨fun hr hc => ?_, fun hr hc => ?_⟩
      · exact (wpset_wide h s gp l ls () s hr (State.groupTok_none hc) rfl).trans (by rw [if_neg h])
      · exact (wpclr_wide h s gp l ls () s hr (State.groupTok_none hc) rfl).trans (by rw [if_neg h])
  · intro f s gp l ls v page hr hc hp
    exact tlbi_completes f s gp l ls page s hr hc (State.tlbiCheck_ok hp)
  · intro f s s1 gp l ls a i kind hi hr ha ht hc hn w s2 v1 v2 h1 h2 h3
    obtain ⟨o, ho⟩ := State.mmaAccept_enters (f := f) (kind := kind) hn rfl rfl rfl h1 h2 h3
    exact ⟨_, o, exec_multiply hi hr ha ht hc, ho⟩

end Sys2Proof.Machine
end

section
/-!
PROOFS. What a step runs, the words that the spec writes out, and the machine after reset.
-/

namespace Sys2Proof.Machine

/-! ### Steps -/

/-- What a refresh changes: which groups are held, what the schedule knows of ready groups, and what launches lack. -/
theorem State.refresh_inputs (s : State) : s.refresh.inputs = s.inputs := by
  unfold State.refresh State.noteLack
  split <;> rfl

/-- With an input waiting the step runs its event. -/
theorem step_event {s : State} {x : Input} {xs : List Input} (h : s.inputs = x :: xs) :
    step s = onNext State.closeEvent (exec x.event { s.refresh with inputs := xs, stim := x.stim }) := by
  have ha : s.refresh.act = .event x.event { s.refresh with inputs := xs, stim := x.stim } := by
    unfold State.act
    rw [State.refresh_inputs, h]
  unfold step
  rw [ha]

/-- The group that a step prepares to issue. -/
def Plan.cur (p : Plan) : Cur :=
  { core := p.slot / 64, quad := p.slot / 16 % 4, slot := p.slot % 16, lanes := p.group.lanes, hdr := p.group.pc.hdr,
    idx := p.group.pc.idx, cnt := p.group.pc.idx, next := p.group.pc.hdr, at_ := p.group.pc.hdr + 8 }

section
variable {s s1 : State} {p : Plan} {cl : Clause} {i : Instr} {n : Nat}

/-- A planned group whose clause is fetched runs the instruction at its index, where nothing waits or raises. -/
theorem State.tryGroup_issues (hf : State.fetchClause { s with cur := p.cur } (State.laneWho { s with cur := p.cur } (p.group.lanes.headD 0)) p.group.pc.hdr = (.ok cl, s1))
    (hi : clauseInstr cl p.group.pc.idx = (i, n)) (hw : i ≠ .clauseNotWellFormed) {s2 : State}
    (h2 : s2 = { s1 with cur := { p.cur with cnt := cl.header.cnt.toNat, next := nextClause p.group.pc.hdr cl.header
                                             at_ := p.group.pc.hdr + n } })
    (h0 : p.group.pc.idx = 0 → p.group.lanes.any (fun l => (s2.lane l).waitsOn cl.header.wait.toNat) = false
      ∧ s2.clauseRaise cl.header.wait.toNat = none)
    (hp : p.group.lanes.any (fun l => State.epiloguePending { s with cur := p.cur } (State.laneKey { s with cur := p.cur } l)) = false) :
    State.tryGroup s p = .issue p i s2 := by
  have hprep : s.prepare p.slot p.group.lanes p.group.pc = .run i s2 := by
    subst h2
    have hraise : (if p.group.pc.idx = 0 then State.clauseRaise { s1 with cur := { p.cur with
        cnt := cl.header.cnt.toNat, next := nextClause p.group.pc.hdr cl.header, at_ := p.group.pc.hdr + n } } cl.header.wait.toNat
        else none) = none := by
      split
      · exact (h0 ‹_›).2
      · rfl
    have hwait : (decide (i ≠ .clauseNotWellFormed) && decide (p.group.pc.idx = 0) && p.group.lanes.any (fun l =>
        (State.lane { s1 with cur := { p.cur with cnt := cl.header.cnt.toNat, next := nextClause p.group.pc.hdr cl.header
                                                  at_ := p.group.pc.hdr + n } } l).waitsOn cl.header.wait.toNat)) = false := by
      by_cases h : p.group.pc.idx = 0
      · rw [(h0 h).1, Bool.and_false]
      · simp [h]
    unfold State.prepare
    simp only [Plan.cur] at hf hp hraise hwait
    simp only [hf, hi, hp, hw, hwait, hraise, Bool.false_eq_true, if_false, Plan.cur]
  unfold State.tryGroup
  rw [hprep]

end

/-- Settles O50. -/
theorem stepRuns : Obligations.StepRuns := by
  unfold Obligations.StepRuns
  refine ⟨fun s x xs h => step_event h, ?_, ?_⟩
  · intro u s s1 p cl i n lanes pc c s0 hact hf hi hw s2 h0 hp
    have ht : State.tryGroup s p = .issue p i s2 := State.tryGroup_issues hf hi hw rfl h0 hp
    unfold step
    rw [hact, ht]
  · intro cl xs idx x i rest hb hok hx hd
    unfold clauseInstr
    have hbad : (decide (idx = 0) && !bodyOk cl.header xs) = false := by
      by_cases h : idx = 0
      · simp [hok h]
      · simp [h]
    simp only [hb, hbad, hx, hd, Bool.false_eq_true, if_false]

/-! ### Reset -/

/-- A device register after reset. -/
theorem State.reset_reg (pa : Nat) : State.reset.reg pa = mmioReset pa := rfl

/-- A context block's register is zero. -/
theorem mmioReset_ctx {v : Nat} (h : v < 1024) : mmioReset (ctxAt v 0) = 0#64 := by
  unfold mmioReset ctxAt
  simp only [Bool.and_eq_true, decide_eq_true_eq]
  repeat rw [if_neg (by omega)]

/-- A partition's control register has only its default age. -/
theorem mmioReset_pctl {p : Nat} (h : p < 48) : mmioReset (pctlAt p) = 0x640000#64 := by
  unfold mmioReset pctlAt
  simp only [Bool.and_eq_true, decide_eq_true_eq]
  rw [if_neg (by omega), if_neg (by omega), if_neg (by omega), if_pos (by omega)]

/-- Settles O54. -/
theorem resetState : Obligations.ResetState := by
  unfold Obligations.ResetState
  refine ⟨⟨rfl, rfl, rfl, rfl, rfl, rfl, rfl, rfl, rfl, rfl, fun v hv => ?_, fun p hp => ?_, fun pa => ?_, rfl, rfl, rfl,
    fun g r => ⟨rfl, rfl⟩⟩, rfl, fun a => rfl⟩
  · simp [State.vfEnabled, State.field, State.reset_reg, mmioReset_ctx hv, bits]
  · simp [State.partEnabled, State.field, State.reset_reg, mmioReset_pctl hp, bits]
  · have hb : rawByte State.reset.mem (0x1F800000000 + pa / 64) = 0#8 := rfl
    unfold State.tagAt
    split
    · rfl
    · simp [hb]

/-- Settles O51: each word is decoded by evaluation. -/
theorem decodedWords : Obligations.DecodedWords := by
  unfold Obligations.DecodedWords
  refine ⟨?_, ?_, ?_, ?_, ?_, ?_, ?_, ?_, ?_, ?_⟩ <;> rfl

end Sys2Proof.Machine
end

section
/-!
PROOFS. Steps of the memory system: coherence, laps, commits, host accesses and zeroed frames.
-/

namespace Sys2Proof.Machine

/-! ### States of lines -/

section
variable {s : State} {b c n : Nat}

/-- Two clusters have two keys of a line. -/
theorem lineKey_inj (h : lineKey b n = lineKey c n) : b = c := by
  unfold lineKey at h; omega

theorem isAgent_of_lt (h : c < 384) : isAgent c = true := by simp [isAgent, h]

/-- A line's state after one cluster's changes. -/
theorem State.setMoesi_moesi (s : State) (b c n : Nat) (x : Option Moesi) :
    (s.setMoesi c n x).moesi b n = if b = c then x else s.moesi b n := by
  unfold State.moesi
  have hk : (lineKey b n = lineKey c n) ↔ b = c := ⟨lineKey_inj, fun h => h ▸ rfl⟩
  cases x with
  | some _ => exact (Table.get?_insert _ _ _ _).trans (by simp only [hk])
  | none => exact (Table.get?_erase _ _ _).trans (by simp only [hk])

/-- A cluster that has a state of a line is among its holders. -/
theorem State.mem_holders {x : Moesi} (hb : b < 512) (h : s.moesi b n = some x) : (b, x) ∈ s.holders n := by
  have hmem : ∀ (t : Table Moesi) (k : Nat) (x : Moesi), t.get? k = some x → (k, x) ∈ t := by
    intro t k x
    induction t with
    | nil => exact fun h => by cases h
    | cons p t ih =>
      obtain ⟨j, y⟩ := p
      intro h
      rw [Table.get?] at h
      split at h
      · cases h; subst ‹k = j›; exact List.mem_cons_self
      · exact List.mem_cons_of_mem _ (ih h)
  refine List.mem_filterMap.mpr ⟨(lineKey b n, x), hmem _ _ _ h, ?_⟩
  have h1 : lineKey b n / 512 = n := by unfold lineKey; omega
  have h2 : lineKey b n % 512 = b := by unfold lineKey; omega
  simp only [h1, h2, if_true]

/-! ### RdS -/

/-- What a holder of a line becomes when another reads it, if it changes (R87). -/
def Moesi.afterRead : Moesi → Option Moesi
  | .m => some .o
  | .e => some .s
  | _ => none

/-- A state of a line that another cluster may share. -/
def Shareable (x : Option Moesi) : Prop := x ≠ some .m ∧ x ≠ some .e

/-- What a message of RdS does at a holder. -/
def snoopRead (n : Nat) (s : State) (h : Nat × Moesi) : State :=
  match h.2 with
  | .m => s.setMoesi h.1 n (some .o)
  | .e => s.setMoesi h.1 n (some .s)
  | _ => s

theorem snoopRead_moesi (s : State) (h : Nat × Moesi) :
    (snoopRead n s h).moesi b n = if b = h.1 then h.2.afterRead.or (s.moesi b n) else s.moesi b n := by
  obtain ⟨c, x⟩ := h
  cases x
  case m => exact s.setMoesi_moesi b c n (some .o)
  case e => exact s.setMoesi_moesi b c n (some .s)
  all_goals exact (ite_self _).symm

section
variable {hs : List (Nat × Moesi)}

/-- Whether a cluster holds the line does not change. -/
theorem snoopReads_none (hn : s.moesi b n = none → ∀ h ∈ hs, h.1 ≠ b) :
    (hs.foldl (snoopRead n) s).moesi b n = none ↔ s.moesi b n = none := by
  induction hs generalizing s with
  | nil => rfl
  | cons h hs ih =>
    have hstep := snoopRead_moesi (b := b) (n := n) s h
    have hiff : (snoopRead n s h).moesi b n = none ↔ s.moesi b n = none := by
      rw [hstep]
      split
      · cases hm : s.moesi b n with
        | none => exact absurd ‹b = h.1›.symm (hn hm h List.mem_cons_self)
        | some x => simp
      · rfl
    rw [List.foldl_cons, ih
      (fun h0 x hx => hn (hiff.mp h0) x (List.mem_cons_of_mem _ hx)), hiff]

/-- A shareable state stays shareable. -/
theorem snoopReads_shareable (hc : Shareable (s.moesi b n)) : Shareable ((hs.foldl (snoopRead n) s).moesi b n) := by
  induction hs generalizing s with
  | nil => exact hc
  | cons h hs ih =>
    refine ih ?_
    rw [snoopRead_moesi s h]
    split
    · obtain ⟨c, x⟩ := h
      cases x
      case m | e => exact ⟨by simp [Moesi.afterRead], by simp [Moesi.afterRead]⟩
      all_goals exact hc
    · exact hc

/-- Every holder that is asked ends in a shareable state. -/
theorem snoopReads_shares (hm : ∀ x, s.moesi b n = some x → (b, x) ∈ hs) : Shareable ((hs.foldl (snoopRead n) s).moesi b n) := by
  have key : ∀ (hs : List (Nat × Moesi)) (s : State) (x : Moesi), (b, x) ∈ hs → x.afterRead.isSome = true →
      Shareable ((hs.foldl (snoopRead n) s).moesi b n) := by
    intro hs
    induction hs with
    | nil => exact fun _ _ h => by cases h
    | cons h hs ih =>
      intro s x hx hr
      rcases List.mem_cons.mp hx with rfl | hx
      · refine snoopReads_shareable (hs := hs) ?_
        rw [snoopRead_moesi s (b, x), if_pos rfl]
        cases x <;> simp_all [Shareable, Moesi.afterRead]
      · exact ih _ x hx hr
  cases h0 : s.moesi b n with
  | none => exact snoopReads_shareable (by rw [h0]; exact ⟨by simp, by simp⟩)
  | some x =>
    cases hr : x.afterRead with
    | none => exact snoopReads_shareable (by rw [h0]; cases x <;> simp_all [Shareable, Moesi.afterRead])
    | some y => exact key hs s x (hm x h0) (by rw [hr]; rfl)

end

/-- No state, no holder. -/
theorem State.not_holder (h : s.moesi b n = none) : ∀ x ∈ s.holders n, x.1 ≠ b := by
  have hnone : ∀ (t : Table Moesi) (k : Nat), t.get? k = none → ∀ p ∈ t, p.1 ≠ k := by
    intro t k
    induction t with
    | nil => exact fun _ _ hp => by cases hp
    | cons p t ih =>
      obtain ⟨j, y⟩ := p
      intro h q hq
      rw [Table.get?] at h
      split at h
      · cases h
      · rcases List.mem_cons.mp hq with rfl | hq
        · exact Ne.symm ‹_›
        · exact ih h q hq
  intro x hx hb
  obtain ⟨p, hp, he⟩ := List.mem_filterMap.mp hx
  split at he
  · cases he
    refine hnone _ _ h p hp ?_
    unfold lineKey
    dsimp only at hb
    omega
  · cases he

/-- RdS of a line that the cluster does not hold. -/
theorem flumeRdS_moesi :
    (flumeRdS s c n).moesi c n = some (if (s.holders n).any (fun h => h.1 ≠ c) then .s else .e)
    ∧ ∀ b, b < 384 → b ≠ c → Shareable ((flumeRdS s c n).moesi b n) ∧ ((flumeRdS s c n).moesi b n = none ↔ s.moesi b n = none) := by
  have hd : flumeRdS s c n = (((s.holders n).filter (fun h => h.1 ≠ c)).foldl (snoopRead n) s).setMoesi c n
      (some (if ((s.holders n).filter (fun h => h.1 ≠ c)).isEmpty then .e else .s)) := rfl
  rw [hd]
  refine ⟨?_, fun b hb hbc => ?_⟩
  · rw [State.setMoesi_moesi, if_pos rfl]
    refine congrArg some ?_
    by_cases h : (s.holders n).any (fun h => h.1 ≠ c) = true
    · rw [if_pos h, if_neg]
      rw [List.isEmpty_iff, List.filter_eq_nil_iff]
      obtain ⟨x, hx, hn⟩ := List.any_eq_true.mp h
      exact fun hf => hf x hx hn
    · rw [if_neg h, if_pos]
      rw [List.isEmpty_iff, List.filter_eq_nil_iff]
      exact fun x hx hn => h (List.any_eq_true.mpr ⟨x, hx, hn⟩)
  · rw [State.setMoesi_moesi, if_neg hbc]
    refine ⟨snoopReads_shares (fun x hx => ?_), snoopReads_none (fun h0 h hm => ?_)⟩
    · exact List.mem_filter.mpr ⟨State.mem_holders (by omega) hx, by simpa using hbc⟩
    · exact State.not_holder h0 h (List.mem_filter.mp hm).1

/-! ### RdX, Upg and Wb -/

/-- Copies elsewhere go. -/
theorem invalidateOthers_moesi (hb : b < 512) (hbc : b ≠ c) : (invalidateOthers s c n).moesi b n = none := by
  have hstep (s : State) (h : Nat × Moesi) : (if h.1 = c then s else s.setMoesi h.1 n none).moesi b n
      = if b = h.1 then none else s.moesi b n := by
    split
    · rw [if_neg (by omega)]
    · exact s.setMoesi_moesi b h.1 n none
  have key : ∀ (hs : List (Nat × Moesi)) (s : State), (s.moesi b n = none ∨ ∃ h ∈ hs, h.1 = b) →
      (hs.foldl (fun s h => if h.1 = c then s else s.setMoesi h.1 n none) s).moesi b n = none := by
    intro hs
    induction hs with
    | nil =>
      rintro s (h | ⟨x, h, _⟩)
      · exact h
      · cases h
    | cons h hs ih =>
      intro s hor
      refine ih _ ?_
      rw [hstep s h]
      by_cases e : b = h.1
      · exact Or.inl (if_pos e)
      · rw [if_neg e]
        refine hor.imp_right ?_
        rintro ⟨x, hx, hxb⟩
        rcases List.mem_cons.mp hx with rfl | hx
        · exact absurd hxb.symm e
        · exact ⟨x, hx, hxb⟩
  refine key _ s ?_
  cases h0 : s.moesi b n with
  | none => exact Or.inl rfl
  | some x => exact Or.inr ⟨_, State.mem_holders hb h0, rfl⟩

/-- The requester alone holds the line, to write it. -/
theorem flumeRdX_moesi : (flumeRdX s c n).moesi c n = some .m ∧ ∀ b, b < 384 → b ≠ c → (flumeRdX s c n).moesi b n = none := by
  unfold flumeRdX
  refine ⟨?_, fun b hb hbc => ?_⟩
  · rw [State.setMoesi_moesi, if_pos rfl]
  · rw [State.setMoesi_moesi, if_neg hbc, invalidateOthers_moesi (by omega) hbc]

/-- A line that is written back leaves the cluster. -/
theorem flumeWb_moesi (h : s.moesi c n = some .m ∨ s.moesi c n = some .o) :
    (flumeWb s c n).moesi c n = none ∧ (flumeWb s c n).backing.get? n = none := by
  have hd : flumeWb s c n = { (s.setMoesi c n none) with backing := s.backing.erase n } := by
    unfold flumeWb
    rcases h with h | h <;> simp only [h]
  rw [hd]
  exact ⟨(s.setMoesi_moesi c c n none).trans (if_pos rfl), (Table.get?_erase _ _ _).trans (if_pos rfl)⟩

end

/-! ### Zeroed frames -/

/-- A map from which keys were dropped. -/
theorem Table.get?_filterT_key {α : Type} (p : Nat → Bool) (t : Table α) (k : Nat) :
    (t.filterT (fun a _ => p a)).get? k = if p k then t.get? k else none := by
  unfold Table.filterT
  induction t with
  | nil => exact (ite_self _).symm
  | cons q t ih =>
    obtain ⟨j, x⟩ := q
    rw [List.filter_cons]
    by_cases hj : p j = true
    · rw [if_pos hj, Table.get?, Table.get?, ih]
      by_cases e : k = j
      · subst e; simp [hj]
      · simp [e]
    · rw [if_neg hj, ih, Table.get?]
      by_cases e : k = j
      · subst e; simp [hj]
      · simp [e]

/-- Memory from which bytes were dropped. -/
theorem rawByte_filterT (p : Nat → Bool) (m : Table Byte) (a : Nat) :
    rawByte (m.filterT (fun a _ => p a)) a = if p a then rawByte m a else 0 := by
  unfold rawByte Table.getD
  rw [Table.get?_filterT_key]
  by_cases h : p a = true
  · rw [if_pos h, if_pos h]
  · rw [if_neg h, if_neg h]
    rfl

/-- The places that zeroing a frame keeps. -/
def frameKeeps (f a : Nat) : Bool :=
  !(a / 0x10000 = f) && !(!isVault (f * 0x10000) && 0x1F800000000 + f * 0x10000 / 64 ≤ a && a < 0x1F800000000 + f * 0x10000 / 64 + 1024)

theorem State.setLabelAt_mem {a : Nat} (h : isVault a = false) (s : State) (l : Label) :
    (s.setLabelAt a l).mem = setBytes s.mem (frameLabelAt a) (leBytes 8 l.toNat) := by
  unfold State.setLabelAt
  rw [if_neg (by rw [h]; decide)]

/-- What zeroing a frame leaves of memory: the label of a DRAM frame is written. -/
theorem exec_frameZero_mem {s : State} {f : Nat} (hf : f = bits s.wr.value.toNat 0 36) (hw : s.wrAllowed = true)
    (hd : s.isDram (f * 0x10000) = true ∨ isVault (f * 0x10000) = true) : ∃ t lab, exec .frameZero s = .next t
      ∧ t.mem = if isVault (f * 0x10000) then s.mem.filterT (fun a _ => frameKeeps f a)
          else setBytes (s.mem.filterT (fun a _ => frameKeeps f a)) (frameLabelAt (f * 0x10000)) (leBytes 8 lab) := by
  subst hf
  have hz : (!(s.isDram (bits s.wr.value.toNat 0 36 * 0x10000) || isVault (bits s.wr.value.toNat 0 36 * 0x10000))) = false := by
    rcases hd with h | h <;> simp [h]
  change ∃ t lab, execFrameZero s = .next t ∧ _
  unfold execFrameZero
  dsimp only
  rw [if_neg (by simp [hw]), if_neg (by rw [hz]; decide)]
  by_cases hv : isVault (bits s.wr.value.toNat 0 36 * 0x10000) = true
  · exact ⟨_, 0, congrArg Host.Outcome.next (if_pos hv), (if_pos hv).symm⟩
  · exact ⟨_, _, congrArg Host.Outcome.next (if_neg hv), (State.setLabelAt_mem (Bool.eq_false_iff.mpr hv) _ _).trans (if_neg hv).symm⟩

/-- A zeroed frame reads zero. -/
theorem exec_frameZero {s : State} {f : Nat} (hf : f = bits s.wr.value.toNat 0 36) (hw : s.wrAllowed = true)
    (hd : s.isDram (f * 0x10000) = true ∨ isVault (f * 0x10000) = true) : ∃ t, exec .frameZero s = .next t
      ∧ (∀ i, i < 0x10000 → rawByte t.mem (f * 0x10000 + i) = 0)
      ∧ ∀ x, x / 0x10000 ≠ f → (x < 0x1F7F0000000 ∨ 0x1F800000000 + 0x4000000000 ≤ x) → rawByte t.mem x = rawByte s.mem x := by
  obtain ⟨t, lab, ht, hm⟩ := exec_frameZero_mem hf hw hd
  have hz (i : Nat) (hi : i < 0x10000) : rawByte (s.mem.filterT (fun a _ => frameKeeps f a)) (f * 0x10000 + i) = 0 := by
    rw [rawByte_filterT, if_neg]
    simp [frameKeeps, show (f * 0x10000 + i) / 0x10000 = f by omega]
  have hk (hdv : isVault (f * 0x10000) = false → f * 0x10000 < 0x1F7F0000000) (x : Nat) (hx : x / 0x10000 ≠ f)
      (hr : x < 0x1F7F0000000 ∨ 0x1F800000000 + 0x4000000000 ≤ x) :
      rawByte (s.mem.filterT (fun a _ => frameKeeps f a)) x = rawByte s.mem x := by
    rw [rawByte_filterT, if_pos]
    unfold frameKeeps
    cases hv : isVault (f * 0x10000)
    · have := hdv hv
      simp only [Bool.not_false, Bool.true_and, Bool.and_eq_true, Bool.not_eq_true', decide_eq_false_iff_not, Bool.and_eq_false_iff]
      omega
    · simp [hx]
  have hdram : isVault (f * 0x10000) = false → f * 0x10000 < 0x1F7F0000000 := fun hv => by
    have h := hd.resolve_right (by rw [hv]; decide)
    have hl : f * 0x10000 < s.dramEnd := of_decide_eq_true h
    unfold State.dramEnd dramTop at hl
    omega
  refine ⟨t, ht, fun i hi => ?_, fun x hx hr => ?_⟩
  all_goals
    rw [hm]
    split
  · exact hz i hi
  · next hv =>
    have := hdram (Bool.eq_false_iff.mpr hv)
    rw [rawByte_setBytes_other _ _ _ _ (by simp only [frameLabelAt, leBytes_length]; omega)]
    exact hz i hi
  · exact hk hdram x hx hr
  · next hv =>
    have := hdram (Bool.eq_false_iff.mpr hv)
    rw [rawByte_setBytes_other _ _ _ _ (by simp only [frameLabelAt, leBytes_length]; omega)]
    exact hk hdram x hx hr

/-! ### Other events of memory -/

/-- A window store completes its lap. -/
theorem exec_flumeWst {s : State} {c : Nat} {m : WinMsg} (hm : s.windowMsgs.find? (fun x => x.cluster = c) = some m)
    (hb : s.partialBad (.pa m.pa) m.bytes.length = false) {s1 : State}
    (h1 : s1 = { s with windowMsgs := s.windowMsgs.erase m }.updThread m.thread (fun t => match t.storeQ with
      | e :: es => if e.sent then Thread.wakeExit { t with storeQ := es } else t
      | [] => t)) :
    exec (.flumeWst c) s = .next (match m.tag with
      | some g => s1.tagWindow m.vf m.sset m.cluster m.pa g m.label
      | none => if m.bytes = [] then s1.raiseWindow m.vf m.sset m.cluster m.pa m.label
          else s1.performWindow m.vf m.sset m.cluster m.pa m.bytes m.label) := by
  subst h1
  refine congrArg Host.Outcome.next ?_
  unfold State.lapOne State.applyWindow
  cases ht : m.tag <;> simp only [hm, hb, ht, Bool.false_eq_true, if_false, List.isEmpty_iff] <;> rfl

/-- A linked barrier arrives at its record. -/
theorem exec_linkedArrival {s : State} {k b : Nat} {st : Stand} {x : Barrier} {l : BarLink} (hs : s.stands.get? k = some st)
    (hb : st.barriers.get? b = some x) (hl : x.link = some l) (hd : x.linkDue = true) {r : Nat × Nat × Nat} (hr : r = s.linkRecord st.vf l.rcd) :
    exec (.linkedArrival k b) s = .next ((s.setLinkRecord k l.rcd r.1 (r.2.1 + 1) r.2.2).updStand k (fun st =>
      { st with barriers := st.barriers.modify b (fun y => { y with link := some { l with arrived := true, ph := r.2.2 = 1 } }) })) := by
  subst hr
  refine congrArg Host.Outcome.next ?_
  unfold State.linkStep
  simp only [hs, hb, hl, hd, if_true]

/-- A thread that waits on a device register reads it again. -/
theorem exec_waitwReread {s : State} {k n : Nat} {th : Thread} (hg : s.threads.get? k = some th) (hw : th.wait = .word n true) :
    ∃ t, exec (.waitwReread k) s = .next t ∧ t.thread k = { th with status := .active, wait := .none }
      ∧ (∀ j, j ≠ k → t.thread j = s.thread j) ∧ t = { s with threads := t.threads } := by
  have ht : s.thread k = th := Table.getD_of_get? hg
  refine ⟨s.updThread k Thread.wake, congrArg Host.Outcome.next ?_, ?_, fun j hj => ?_, rfl⟩
  · simp only [ht, hw]
  · rw [State.updThread_thread, if_pos ⟨rfl, by rw [hg]; rfl⟩, ht]
    rfl
  · rw [State.updThread_thread, if_neg (fun h => hj h.1)]

/-- An aligned word or double is atomic for a host core. -/
theorem hostAtomic_of {a n : Nat} (h : (n = 4 ∨ n = 8) ∧ a % n = 0) : hostAtomic a n = true := by
  obtain ⟨h1 | h1, h2⟩ := h <;> subst h1 <;> simp [hostAtomic, h2]

section
variable {s : State} {h a n : Nat} {md : HostMode}

/-- A host core's load from memory. -/
theorem exec_hostLoad {r : HostRead} {x : State} (hx : x = s.hostStarts) (hr : x.hostRuns h = true) (hn : 0 < n) (h1 : x.exists? a = true)
    (h2 : x.exists? (a + n - 1) = true) (hb : x.hostBarred h a = false) (hd : isDevice a = false)
    (ha : r = .plain ∨ (n = 4 ∨ n = 8) ∧ a % n = 0) : exec (.hostLoad h ⟨a, md, r⟩ n) s = .next (
      let old := x.bytesOf md.key (.pa a) n
      if x.hostMayRead h (x.labelSpan md.key (x.hostLabel h) (.pa a) n) = true ∧ x.badSpan (.pa a) n = false then
        ((x.hostReads (hostWho md h) md.key a n).hostAfterRead h a n md (leNat old) r).answerHost h (some old)
      else x.answerHost h none) := by
  subst hx
  have hat : (hostReadAtomic r && !hostAtomic a n) = false := by
    rcases ha with rfl | ha
    · rfl
    · rw [hostAtomic_of ha, Bool.not_true, Bool.and_false]
  refine congrArg Host.Outcome.next ?_
  dsimp only
  rw [if_neg (by simp only [hr, Bool.not_true, Bool.false_or, decide_eq_true_eq]; omega), if_neg (by simp only [h1, h2, hb, hat]; decide),
    if_neg (by rw [hd]; decide)]
  cases hm : s.hostStarts.hostMayRead h (s.hostStarts.labelSpan md.key (s.hostStarts.hostLabel h) (.pa a) n) <;>
    cases hs : s.hostStarts.badSpan (.pa a) n <;> rfl

/-- A host core's store to memory. -/
theorem exec_hostStore {bs : List Byte} {sc : Bool} {x : State} (hx : x = s.hostStarts) (hr : x.hostRuns h = true) (hn : bs ≠ [])
    (h1 : x.exists? a = true) (h2 : x.exists? (a + bs.length - 1) = true) (hb : x.hostBarred h a = false) (hd : isDevice a = false)
    (hp : x.partialBad (.pa a) bs.length = false) (ha : sc = true → (bs.length = 4 ∨ bs.length = 8) ∧ a % bs.length = 0) :
    exec (.hostStore h ⟨a, md, sc⟩ bs) s = .next (
      let y := x.perform (hostWho md h) md.key (.pa a) bs (x.hostLabel h)
      if sc = false then y else if x.reservations.get? h = some (a / 64) then y.answerSc h true else x.answerSc h false) := by
  subst hx
  have hat : (sc && !hostAtomic a bs.length) = false := by
    cases sc
    · rfl
    · rw [hostAtomic_of (ha rfl), Bool.not_true, Bool.and_false]
  have hl : bs.length ≠ 0 := fun h => hn (List.length_eq_zero_iff.mp h)
  refine congrArg Host.Outcome.next ?_
  dsimp only
  rw [if_neg (by simp only [hr, Bool.not_true, Bool.false_or, decide_eq_true_eq]; exact hl), if_neg (by simp only [h1, h2, hb, hat]; decide),
    if_neg (by rw [hd]; decide), if_neg (by rw [hp]; decide)]
  cases sc
  · rfl
  · simp only [State.hostReserved, Bool.not_true, Bool.false_eq_true, if_false, decide_eq_true_eq, Bool.true_eq_false]

end

/-- Settles O44. -/
theorem memoryEvents : Obligations.MemoryEvents := by
  unfold Obligations.MemoryEvents
  intro s
  refine ⟨?_, ?_, ?_, ?_, ?_, ?_, ?_, ?_, ?_, ?_, ?_, ?_⟩
  · intro c n hc hl hm
    have hx : exec (.flumeRds c n) s = .next (flumeRdS s c n) :=
      congrArg Host.Outcome.next (if_neg (by rw [isAgent_of_lt hc, hl, hm]; decide))
    obtain ⟨h1, h2⟩ := flumeRdS_moesi (s := s) (c := c) (n := n)
    refine ⟨_, hx, (flumeRdS_sameButLines s c n).mem, h1, fun b hb hbc => ?_⟩
    obtain ⟨⟨h3, h4⟩, h5⟩ := h2 b hb hbc
    exact ⟨h3, h4, h5⟩
  · intro c n i hc hi
    have hx : exec i s = .next (flumeRdX (s.keepBacking n) c n) := by
      rcases hi with ⟨rfl, hl⟩ | ⟨rfl, hm⟩
      · exact congrArg Host.Outcome.next (if_neg (by rw [isAgent_of_lt hc, hl]; decide))
      · refine congrArg Host.Outcome.next ?_
        rcases hm with hm | hm <;> simp only [hm] <;> rfl
    exact ⟨_, hx, ((s.keepBacking_sameButLines n).trans (flumeRdX_sameButLines _ c n)).mem, flumeRdX_moesi⟩
  · intro c n _ h
    exact ⟨_, rfl, (flumeWb_sameButLines s c n).mem, flumeWb_moesi h⟩
  · intro c m hm hb s1
    exact exec_flumeWst hm hb rfl
  · intro k q hq
    refine congrArg Host.Outcome.next ?_
    simp only [hq]
  · intro k b st x l hs hb hl hd r
    exact exec_linkedArrival hs hb hl hd rfl
  · intro k n th hg hw
    exact exec_waitwReread hg hw
  · intro h a n md r x hr hn h1 h2 hb hd ha
    exact exec_hostLoad rfl hr hn h1 h2 hb hd ha
  · intro h a bs md sc x hr hn h1 h2 hb hd hp ha
    exact exec_hostStore rfl hr hn h1 h2 hb hd hp ha
  · intro f hw hd _
    exact exec_frameZero rfl hw hd
  · intro q g n hn hg
    refine congrArg Host.Outcome.next ((if_neg (by omega)).trans ?_)
    simp only [hg]
  · intro h g n x hn hg
    refine congrArg Host.Outcome.next ((if_neg (by omega)).trans ?_)
    simp only [hg]

end Sys2Proof.Machine
end

section
/-!
PROOFS. Steps of the matrix, copy and optical engines.
-/

namespace Sys2Proof.Machine

variable {s : State}

/-! ### The matrix engine -/

/-- The WLOAD at the head of an engine queue completes. -/
theorem exec_wloadComplete {q : Nat} {o : MOp} {os : List MOp} (hq : (s.quadAt q).matrix.queue = o :: os) (hk : o.kind = .wload)
    {s2 : State} (h2 : s2 = State.loadPieces q o (s.updMx q (fun x => o.macs.foldl (fun x i =>
      x.updMac i (fun m => { m.blank o.cfg o.wkind with label := m.label ||| o.label })) x)) ((o.cfg.wload o.wkind o.macs.length).zip o.sources))
    (he : (s2.quadAt q).matrix.queue.isEmpty = false) : exec (.wloadComplete q) s = .next (s2.finishOp q o) := by
  subst h2
  refine congrArg Host.Outcome.next ?_
  simp only [hq, hk, ne_eq, not_true_eq_false, if_false, he, Bool.false_eq_true]

/-- The engine takes a row. -/
theorem exec_rowAccept {q : Nat} {o : MOp} {g : List Nat × Label × Bool} {a : RowIn} {s1 s2 : State}
    (hq : (s.quadAt q).matrix.queue.find? (fun o => o.accepted < o.last) = some o) (hk : o.kind ≠ .mmar)
    (hr : ((s.quadAt q).matrix.queue.map (fun o => o.rows.length)).sum < 2) (hl : s.lanesThere o = true) (hs : (s.quadAt q).stopped = none)
    {s0 : State} (h0 : s0 = { s with cur := o.cur }) {w : Who} (hw : w = s0.who ((o.lanes.map Prod.snd).headD noThread) o.stand o.cur.core)
    (h1 : s0.fetchScales o w o.accepted = (.ok g, s1)) (h2 : s1.fetchRow o w o.accepted = (.ok a, s2)) (hab : a.bad = false)
    (hgb : g.2.2 = false) :
    exec (.rowAccept q) s = .next (s2.rowTaken q o (some ⟨o.accepted, a.elems, g.1, a.label ||| g.2.1, a.poison⟩)) := by
  subst h0
  refine congrArg Host.Outcome.next ?_
  have hrun : (decide (2 ≤ ((s.quadAt q).matrix.queue.map (fun o => o.rows.length)).sum) || !s.lanesThere o
      || (s.quadAt q).stopped.isSome) = false := by
    simp [hl, hs, hr]
  have hkind : (decide (o.kind = .mmar) && !(o.lanes.any (fun p => decide (p.1 = o.accepted)))) = false := by simp [hk]
  rcases hn : o.lanes with _ | ⟨p, ps⟩
  all_goals
    simp only [hn, List.map_nil, List.map_cons, List.headD_nil, List.headD_cons] at hw hkind
    simp only [hq, hrun, hn, hkind, ← hw, h1, h2, hab, hgb, Bool.false_eq_true, if_false, Bool.or_self]

/-- An epilogue to registers. -/
theorem exec_epilogue {q : Nat} {o : MOp} {os : List MOp} {e : Block} (hq : (s.quadAt q).matrix.queue = o :: os) (he : o.eblock = some e)
    (hm : e.toMem = false) (hf : o.final = true) (ha : o.accepted = o.last) (hr : o.rows = []) {s1 : State}
    (h1 : s1 = { s with cur := o.cur }.updMx q (fun x => (x.opClear o).updAcc o.acc (fun a => { a with label := a.label ||| x.opLabel o })))
    {rows : List Nat} (hrows : rows = rowsOf o.kind o.cfg.m (o.lanes.map Prod.fst)) {x : Matrix} (hx : x = (s1.quadAt q).matrix) :
    exec (.epilogue q) s = .next ((((rows.map (fun m => (m, x.outRow o e m))).foldl (fun s r => match o.lanes.find? (fun p => p.1 = r.1) with
      | some p => s.outRegs p.2 o.dreg e.out.width r.2 e.rowRegs
      | none => s) (s1.updMx q (Matrix.clrRead o e rows))).labelDsts (o.lanes.map Prod.fst) [.v o.dreg e.rowRegs]
        ((x.accAt o.acc).label ||| e.label ||| o.velabel)).finishOp q o) := by
  subst h1 hrows hx
  refine congrArg Host.Outcome.next ?_
  have hdue : (!o.final || decide (o.accepted ≠ o.last) || !o.rows.isEmpty) = false := by simp [hf, ha, hr]
  simp only [hq, he, hdue, hm, Bool.false_eq_true, if_false] <;> rfl

/-! ### Copies -/

/-- The place of a destination within its line of 64 bytes. -/
def Loc.lineOff (l : Loc) : Nat :=
  match l with
  | .pa a => a % 64
  | .sp _ o => o % 64

/-- A copy writes its next part. -/
theorem exec_copyLineArrival {k : Nat} {c : Command} {m : Move} {ms : List Move} {p : Span} {ps : List Span}
    (hc : s.commands.get? k = some c) (hk : c.kind = .copy) (hm : c.moves = m :: ms) (hd : m.dst = p :: ps) (hf : m.far = none)
    (ht : m.tba = none) {n : Nat} (hn : n = min (min (64 - p.loc.lineOff) p.len) 64) (h0 : n ≠ 0) {r : (List Byte × Label × Bool) × State}
    (hr : r = s.moveBytes c m p n []) (hb : r.1.2.2 = false) : exec (.copyLineArrival k []) s = .next
      (((r.2.writeSpans c.stand (c.threads.headD noThread) (takeSpans m.dst n) r.1.1 (c.label ||| m.label ||| r.1.2.1)).updCmd k (fun c =>
        { c with moves := trimMoves (m.rest n) ms })).settleLines k) := by
  refine congrArg Host.Outcome.next ?_
  rcases hl : p.loc with a | ⟨x, o⟩
  all_goals
    simp only [hl, Loc.lineOff] at hn
    simp only [hc, hk, hm, hd, hf, hl, Option.isSome_none, Bool.false_eq_true, if_false, ← hn, if_neg h0, ← hr, hb, State.creditMove, ht]

/-! ### Bursts -/

section
variable {k : Nat} {b : Burst}

/-- A port sends its oldest burst. -/
theorem exec_burstTransmit {p : Nat} {ks : List Nat} (hq : s.portQueues.getD p [] = k :: ks) (hu : s.portUp p = true)
    (hb : s.bursts.get? k = some b) : exec (.burstTransmit p) s = .next { s with
      portQueues := s.portQueues.put [] p ks
      bursts := s.bursts.insert k { b with sent := true }
      outputs := s.outputs ++ [.burst p b.path b.peer b.tag b.data.length b.data] } := by
  refine congrArg Host.Outcome.next ?_
  simp only [hq, hu, Bool.not_true, Bool.false_eq_true, if_false, hb]

theorem State.endBurst_eq (hb : s.bursts.get? k = some b) (code : Byte) (info : BitVec 16) :
    s.endBurst k code info = { s.tokensDown b.threads b.tok code info b.label with bursts := s.bursts.erase k } := by
  unfold State.endBurst
  simp only [hb]

/-- A burst that was sent is answered. -/
theorem exec_burstAck (hb : s.bursts.get? k = some b) (hs : b.sent = true) (r : Bool) : exec (.burstAck k r) s = .next
    { s.tokensDown b.threads b.tok (if r then 0x05 else 0x00) (if r then 0 else b.info) b.label with bursts := s.bursts.erase k } := by
  refine congrArg Host.Outcome.next ?_
  simp only [hb, hs, Bool.not_true, Bool.false_eq_true, if_false, State.endBurst_eq hb]
  cases r <;> rfl

/-- A burst that was sent is lost. -/
theorem exec_ackTimeout (hb : s.bursts.get? k = some b) (hs : b.sent = true) : exec (.ackTimeout k) s = .next
    { s.tokensDown b.threads b.tok 0x04 0 b.label with
      bursts := s.bursts.erase k, dstLost := bumpCount s.dstLost (256 * b.vf + b.dst) 1 } := by
  refine congrArg Host.Outcome.next ?_
  simp only [hb, hs, if_true, State.endBurst_eq hb]

end

/-- A burst arrives at a post. -/
theorem exec_burstArrival {port : Nat} {peer : BitVec 16} {tag : BitVec 6} {data : List Byte} {i : Nat} {p : Nat × Command}
    (hu : s.portUp port = true) (hc : s.portCircuit port (fun i => s.field (circuitAt port i) 16 16 = peer.toNat) = some i)
    (ht : tag ≠ 0x3F) (he : s.vfEnabled (s.field (circuitAt port i) 0 10) = true)
    (hf : s.commands.find? (fun p => p.2.kind = .recv && p.2.vf = s.field (circuitAt port i) 0 10 && p.2.tag = tag.toNat && p.2.got.isNone
      && data.length ≤ p.2.len) = some p) :
    exec (.burstArrival port peer tag data) s = .next (s.updCmd p.1 (fun c => { c with
      got := some data.length, peer := peer, inLabel := s.reg (circuitAt port i + 8), moves := c.moves.map (fun m => { m with fill := data }) })) := by
  refine congrArg Host.Outcome.next ?_
  simp only [hu, hc, if_neg ht, he, hf, Bool.not_true, Bool.false_eq_true, if_false]

/-- A burst that has no circuit is refused. -/
theorem exec_burstArrival_refused {port : Nat} {peer : BitVec 16} {tag : BitVec 6} {data : List Byte} (hu : s.portUp port = true)
    (hc : s.portCircuit port (fun i => s.field (circuitAt port i) 16 16 = peer.toNat) = none) :
    exec (.burstArrival port peer tag data) s = .next (s.refuseBurst port peer none) := by
  refine congrArg Host.Outcome.next ?_
  simp only [hu, hc, Bool.not_true, Bool.false_eq_true, if_false]

/-- A post that a burst met completes. -/
theorem exec_receiveComplete {k n : Nat} {c : Command} (hc : s.commands.get? k = some c) (hk : c.kind = .recv) (hg : c.got = some n)
    {lab : Label} (hlab : lab = c.label ||| c.inLabel) {th : Nat} (hth : th = c.threads.headD noThread) {s1 : State}
    (h1 : s1 = c.moves.foldl (fun s m => s.writeSpans c.stand th (takeSpans m.dst n) (m.fill.take n) lab) s)
    (hs : (s1.commands.get? k).isSome = true) {s3 : State}
    (h3 : s3 = (c.lines.foldl (fun s ln => s.setPresence ln true) s1).writeSpans c.stand th [⟨.sp c.stand c.recOff, 16, none⟩]
      (recvRecord n c.peer c.inLabel) lab) :
    exec (.receiveComplete k) s = .next { (s3.tokensDown c.threads c.tok 0 0 0) with commands := s3.commands.erase k } := by
  subst hlab hth h3
  refine congrArg Host.Outcome.next ?_
  have hn : (s1.commands.get? k).isNone = false := by rw [← Option.not_isSome, hs]; rfl
  simp only [hc, hk, hg, ← h1, hn, Bool.false_eq_true, if_false]

/-- A circuit is turned off. -/
theorem exec_circuitDisable (hw : s.wrAllowed = true) {n i v : Nat} (hn : n = (s.wr.pa - 0x080400000000) / 0x200) (h96 : n < 96)
    (hi : i = (s.wr.pa % 0x200 - 0x100) / 16) (hv : v = s.field s.wr.pa 0 10)
    (hb : bits s.wr.value.toNat 0 10 = v ∨ s.circuitBusy n i = false) :
    exec .circuitDisable s = .next ((((s.burstsOf (fun b => b.vf = v && (b.port = n && b.circuit = i))).foldl (fun s b =>
      s.tokensDown b.2.threads b.2.tok 0x06 0 b.2.label) s).stopEgress v (fun b => b.port = n && b.circuit = i)).2.2.writePort s.wr.pa s.wr.value) := by
  subst hn hi hv
  refine congrArg Host.Outcome.next ?_
  have h1 : (!s.wrAllowed || decide (96 ≤ (s.wr.pa - 0x080400000000) / 0x200)) = false := by simp [hw, h96]
  have h2 : (decide (bits s.wr.value.toNat 0 10 ≠ s.field s.wr.pa 0 10)
      && s.circuitBusy ((s.wr.pa - 0x080400000000) / 0x200) ((s.wr.pa % 0x200 - 0x100) / 16)) = false := by
    rcases hb with hb | hb <;> simp [hb]
  dsimp only
  rw [if_neg (by rw [h1]; decide), if_neg (by rw [h2]; decide)]

/-- Settles O45. -/
theorem engineEvents : Obligations.EngineEvents := by
  unfold Obligations.EngineEvents
  intro s
  refine ⟨?_, ?_, ?_, ?_, ?_, ?_, ?_, ?_, ?_, ?_, ?_, ?_, ?_, ?_, ?_⟩
  · intro q o os hq hk s1 s2 he
    exact exec_wloadComplete hq hk rfl he
  · intro q o g a s1 s2 hq hk hr hl hs s0 w h1 h2 ha hg
    exact exec_rowAccept hq hk hr hl hs rfl rfl h1 h2 ha hg
  · intro q o os e hq he hm hf ha hr s1 x rows
    exact exec_epilogue hq he hm hf ha hr rfl rfl rfl
  · intro k c m ms p ps hc hk hm hd hf ht n r h0 hb
    exact exec_copyLineArrival hc hk hm hd hf ht rfl h0 rfl hb
  · intro k c hc hk hm
    refine ⟨_, congrArg Host.Outcome.next ?_, rfl⟩
    simp only [hc, hk, hm, ne_eq, not_true_eq_false, decide_false, List.isEmpty_nil, Bool.not_true, Bool.or_self, Bool.false_eq_true, if_false]
  · intro p k ks b hq hu hb
    exact exec_burstTransmit hq hu hb
  · intro k b r hb hs
    exact ⟨exec_burstAck hb hs r, exec_ackTimeout hb hs⟩
  · intro port peer tag data i p hu hc ht v he hf
    exact exec_burstArrival hu hc ht he hf
  · intro port peer tag data hu hc
    exact exec_burstArrival_refused hu hc
  · intro k c n hc hk hg lab th s1 hs s3
    exact exec_receiveComplete hc hk hg rfl rfl rfl hs rfl
  · intro port peer len hu
    exact congrArg Host.Outcome.next (if_neg (by rw [hu]; decide))
  · intro n mine v hw hn hb
    exact exec_circuitDisable hw rfl hn rfl rfl hb
  · intro p l hp hl
    exact congrArg Host.Outcome.next ((if_neg (by simp [hp, hl])).trans rfl)
  · intro p l wl hp s1 hw
    refine congrArg Host.Outcome.next ((if_neg (by simp [hp])).trans ?_)
    simp only [Bool.not_true, Bool.false_eq_true, if_false, if_true]
    change (match s1.portSpare p (fun wl => s1.trained (64 + p) wl) with
      | some wl => s1.mapLane p 8 wl
      | none => _) = _
    rw [hw]
  · intro p hp hl
    exact congrArg Host.Outcome.next (if_neg (by simp [hp, hl]))

end Sys2Proof.Machine
end

section
/-!
PROOFS. The events of the distributor, the scheduler and the debug unit (O46). Each lemma says what one event answers where it is due.
-/

namespace Sys2Proof.Machine

section
variable {s : State} {k : Nat} {g : Grid} {st : Stand}

/-- A warp forms where a target qualifies and a slot is open. -/
theorem exec_warpForm {q sk : Nat} {sks : List Nat} {f : Forming}
    (hf : leastBy (fun f => 2 ^ 64 - oldest f.ws) (firstStages (s.forming q)) = some f) (ho : s.openSlots q = sk :: sks) :
    exec (.warpForm q) s = .next (s.formWarp q sk f) := by
  refine congrArg Host.Outcome.next ?_
  rw [hf, ho]

/-- The oldest record that is due goes to its queue. -/
theorem exec_trapRecordClose {c : Nat} {r : TrapRec} {n h e : Nat} (hr : (s.coreAt c).open4.find? (s.trapDue c) = some r)
    (hq : s.queueFor r = .takes n h e) : exec (.trapRecordClose c) s
      = .next (((s.writeTrap c r n h e).updCore c (fun x => { x with open4 := x.open4.erase r })).takeIn c) := by
  refine congrArg Host.Outcome.next ?_
  rw [hr]
  dsimp only
  rw [hq]

/-- A record of 64 bytes on an open port with room is submitted. -/
theorem exec_launchSubmit {h v : Nat} {data : List Byte} (hd : data.length = 64) (ho : s.launchOpen v = true)
    (hr : s.gridsIn (s.vfPart v) s.handleLive < 4096) {r : Nat × Nat × Bool × State}
    (h1 : r = s.submitGrid v 0 (some h) (leNat data) (s.vfLabel v) 0) :
    exec (.launchSubmit h v data) s = .next { r.2.2.2 with lhnd := r.2.2.2.lhnd.put 0 (1024 * h + v) (BitVec.ofNat 64
      (r.1 % 2 ^ 32 + (if r.2.1 ≠ 0 then 2 ^ 33 + r.2.1 * 2 ^ 34 else 0) + (if r.2.2.1 then 2 ^ 42 else 0))) } := by
  subst h1
  exact congrArg Host.Outcome.next ((if_neg (by simp [hd, ho])).trans (if_neg (by omega)))

/-- A launch that waits for nothing takes its place. -/
theorem exec_launchClaim {x y : Nat} {rs : Table (BitVec 512)} (hg : s.grids.get? k = some g) (hw : g.state = .waiting) (hf : g.fail = none)
    (hd : g.deps.all (s.depMet g.vf) = true)
    (hp : (if g.pinned then (if s.inPartition (s.vfPart g.vf) g.x0 g.y0 g.width g.height then some (g.x0, g.y0) else none)
      else s.choosePosition k g) = some (x, y))
    (hm : g.pinned = true ∨ s.mtxBlocked g x y = false) (hr : s.loadRoutes g = some rs) {g1 : Grid}
    (h1 : g1 = { g with x0 := x, y0 := y, routes := rs, state := .placing }) {s0 : State}
    (h0 : s0 = s.distMark g.vf (g.f 128 64) (if g.f 128 64 = 0 then 0 else 4096) false) (hl : s.linksFull g1 = false) :
    exec (.launchClaim k) s = .next ((State.distWrite { s0 with grids := s0.grids.insert k g1 } g1.vf (g1.cptr + 64)
      (State.coreMap { s0 with grids := s0.grids.insert k g1 } g1) 0).addStands k g1) := by
  subst h1 h0
  refine congrArg Host.Outcome.next ?_
  rw [hg]
  dsimp only
  rw [if_neg (by simp [hw, hf, hd]), hp]
  dsimp only
  rw [if_neg (by rcases hm with hm | hm <;> simp [hm]), hr]
  dsimp only
  rw [if_neg (by rw [hl]; decide)]

/-- The first pending stand with room reserves it, where no other stand of the partition has one reserved. -/
theorem exec_standPlace {p : Nat} {x : Nat × Grid} {s0 : State} (h0 : s0 = (s.beginTurns p).preemptFor p)
    (hc : s0.stands.any (fun z => z.2.chosen && !z.2.exited && s0.vfPart z.2.vf = p) = false)
    (hx : leastBy (fun z => z.2.placeKey z.1) ((s0.waitingStands p).filter (fun z => s0.hasRoom z.1)) = some x) :
    exec (.standPlace p) s = .next (s0.reserve x.1) := by
  subst h0
  refine congrArg Host.Outcome.next ((if_neg (by rw [hc]; decide)).trans ?_)
  rw [hx]

/-- A chosen stand starts. -/
theorem exec_standStart (hk : s.stands.get? k = some st) (hc : st.chosen = true) (hs : st.started = false) (he : st.exited = false)
    {s1 s2 s3 : State} (h1 : s1 = s.updStand k (fun st => st.begin (s.raceMode st.vf) (s.clk st.core) s.nextId))
    (h2 : s2 = { s1 with
      nextId := s.nextId + 1
      grids := s1.grids.modify st.grid (fun g => g.noteStart st.num s.cycles)
      remains := s1.remains.filterT (fun _ r => r.core ≠ st.core) })
    (h3 : s3 = ((s2.startVaultQueues k).classifyStand k).settleGang st.grid st.num) :
    exec (.standStart k) s = .next ((s3.settlePlaced st.grid).noteSusp.traceRecord st.vf st.core 0 1 st.num) := by
  subst h3 h2 h1
  refine congrArg Host.Outcome.next ?_
  rw [hk]
  exact if_neg (by simp [hc, hs, he])

/-- A gang's patience runs out. -/
theorem exec_gangPatienceExpire {n : Nat} (hg : s.grids.get? k = some g) (h2 : 2 ≤ g.gang) (he : g.expired.contains n = false)
    (hf : g.fail = none) (ha : s.gangAge g n g.patience = true) (hs : (s.members k g n).all (fun p => p.2.started) = false) :
    exec (.gangPatienceExpire k n) s = .next (State.preemptFor
      { s with grids := s.grids.modify k (fun g => { g with expired := g.expired ++ [n] }) } (s.vfPart g.vf)).noteLack := by
  refine congrArg Host.Outcome.next ?_
  rw [hg]
  have h2' : ¬ g.gang < 2 := by omega
  exact if_neg (by simp only [he, hf, ha, hs, h2']; decide)

/-- The last submitted gang of a deadlock is saved. -/
theorem exec_gangRelief {p : Nat} {x y : Nat × Nat} (hx : (s.stuckGangs p).find? (fun x => (s.waitsFor x).isSome) = some x)
    (hy : leastBy (fun y => 2 ^ 64 - (y.1 * 8192 + y.2)) (s.stuckReach ((s.stuckGangs p).length + 1) [x]) = some y)
    (hg : s.grids.get? y.1 = some g) : exec (.gangRelief p) s = .next (State.callSave { s with grids := s.grids.modify y.1 (fun g =>
      { g with expired := g.expired.filter (· != y.2), firstStart := g.firstStart.erase y.2 }) }
      ((s.members y.1 g y.2).filterMap (fun p => if p.2.started && !p.2.exited && p.2.saved.isNone then some p.1 else none))) := by
  refine congrArg Host.Outcome.next ?_
  dsimp only
  rw [hx]
  dsimp only
  rw [hy]
  dsimp only
  rw [hg]

/-- A turn that is over passes on, or goes on where no other function waits. -/
theorem exec_sliceEnd {p v w : Nat} (hs : s.switching p = false) (hc : s.curOf p = some v) (ht : s.turnOver p v = true)
    (hn : s.nextTaker p (v + 1) = some w) :
    exec (.sliceEnd p) s = .next (if w = v then s.updFunction v (fun f => { f with inTurn := false })
      else ((s.updFunction v (fun f => { f with inTurn := true })).setField (pctlAt p) 1 1 1).settleSwitch p) := by
  refine congrArg Host.Outcome.next ?_
  rw [if_neg (by rw [hs]; decide), hc]
  dsimp only
  rw [if_neg (by rw [ht]; decide), hn]

/-- A stand that is called to leave, and that nothing holds, is saved and leaves its site. -/
theorem exec_contextSave {st1 : Stand} (hk : s.stands.get? k = some st) (hp : st.savePending = true) (hs : st.started = true)
    (he : st.exited = false) (hv : st.saved = none) (hz : st.stuckFrozen = false) (hd : s.saveDeferred st = false) {s1 s3 s4 : State}
    (h1 : s1 = (List.range 4).foldl (fun s q => s.interruptAll k (4 * st.core + q) 64) s)
    (h3 : s3 = ((s1.threads.filterMap (fun p => if p.2.stand = k then some p.1 else none)).foldl State.drainQ s1).withdrawPosts k)
    (hk1 : s3.stands.get? k = some st1) (he1 : st1.exited = false) (hw : s3.saveWaits k st1 = false) (hf : s3.saveFault st1 true = none)
    (h4 : s4 = (s3.saveWrite st1.vf (s3.saveFrames st1 true)).foldSlots k) :
    exec (.contextSave k) s = .next ((((s4.leaveSite k).updStand k (fun st =>
      { st with saved := some (s4.contextOf k st1), savePending := false, frozen := none })).settleFrz st1.vf).settleSwitch (s.vfPart st.vf)) := by
  subst h1 h4
  refine congrArg Host.Outcome.next ?_
  rw [hk]
  dsimp only
  rw [if_neg (by simp [hp, hs, he, hv, hz, hd]), ← h3, hk1]
  dsimp only
  rw [if_neg (by simp [he1, hw]), hf]

/-- A saved stand whose room is reserved comes back. -/
theorem exec_contextRestore {sv : SavedState} (hk : s.stands.get? k = some st) (hv : st.saved = some sv) (hc : st.chosen = true)
    (he : st.exited = false) (hz : st.stuckFrozen = false) (hf : s.saveFault st false = none) (hb : s.saveBad st = false) {s1 : State}
    (h1 : s1 = s.putBack k st sv) :
    exec (.contextRestore k) s = .next (((State.settlePlaced { s1 with grids := s1.grids.modify st.grid (fun g => g.noteStart st.num s.cycles) }
      st.grid).settleFrz st.vf).settleSwitch (s.vfPart st.vf)) := by
  subst h1
  refine congrArg Host.Outcome.next ?_
  rw [hk]
  dsimp only
  rw [hv]
  dsimp only
  rw [if_neg (by simp [hc, he, hz]), if_neg (by rw [hb]; decide), hf]

/-- A debug stop that is requested stops the quadrant with cause 2. -/
theorem exec_debugStopRequest (hq : s.isQdbg = true) (hn : (s.writeQdbg.quadAt (qdbgQuad s.wr.pa)).stopped = none) :
    exec .debugStopRequest s = .next ((s.writeQdbg.stopQuad (qdbgQuad s.wr.pa / 4) (qdbgQuad s.wr.pa % 4) 2 ((s.free 2).toNat % 256)
      ((s.free 0).toNat) ((s.free 1).toNat % 32) []).finishStop (qdbgQuad s.wr.pa / 4) (qdbgQuad s.wr.pa % 4)) :=
  congrArg Host.Outcome.next ((if_neg (by rw [hq]; decide)).trans (if_neg (by rw [hn]; decide)))

/-- A stopped quadrant resumes; the records that waited join the core's coalescer. -/
theorem exec_debugResume {sp : StopRec} (hq : s.isQdbg = true) (hs : (s.quadAt (qdbgQuad s.wr.pa)).stopped = some sp)
    (hb : bit s.wr.value.toNat 1 = false) {n : Nat} (hn : n = qdbgQuad s.wr.pa) :
    exec .debugResume s = .next (sp.recs.foldl (fun x r => x.joinTrap (n / 4) { r with opened := x.clk (n / 4) })
      ((s.updQuad n (fun q => { q with stopped := none })).setField (dbgAt (n / 4) (0x40 + 8 * (n % 4))) 1 2 0)).writeQdbg := by
  subst hn
  refine congrArg Host.Outcome.next ((if_neg (by rw [hq]; decide)).trans ((if_neg (by rw [hb]; decide)).trans ?_))
  unfold State.resumeQuad
  rw [hs]

end

/-- Settles O46, event by event. -/
theorem schedulingEvents : Obligations.SchedulingEvents := by
  unfold Obligations.SchedulingEvents
  intro s
  refine ⟨?_, ?_, ?_, ?_, ?_, ?_, ?_, ?_, ?_, ?_, ?_, ?_, ?_, ?_, ?_, ?_, ?_, ?_⟩
  · intro q f sk sks hf ho
    exact exec_warpForm hf ho
  · intro c
    rfl
  · intro c r n h e hr hq
    exact exec_trapRecordClose hr hq
  · intro h v data hd ho hr r
    exact exec_launchSubmit hd ho hr rfl
  · intro k g x y rs hg hw hf hd hp hm hr g1 s0 hl
    exact exec_launchClaim hg hw hf hd hp hm hr rfl rfl hl
  · intro p x s0 hc hx
    exact exec_standPlace rfl hc hx
  · intro k st hk hc hs he s1 s2 s3
    exact exec_standStart hk hc hs he rfl rfl rfl
  · intro k g n hg h2 he hf ha hs
    exact exec_gangPatienceExpire hg h2 he hf ha hs
  · intro p x y g hx hy hg
    exact exec_gangRelief hx hy hg
  · intro k hd
    exact congrArg Host.Outcome.next (if_pos hd)
  · intro p v w hs hc ht hn
    exact exec_sliceEnd hs hc ht hn
  · intro k st st1 hk hp hs he hv hz hd s1 s3 hk1 he1 hw hf s4
    exact exec_contextSave hk hp hs he hv hz hd rfl rfl hk1 he1 hw hf rfl
  · intro k st sv hk hv hc he hz hf hb s1
    exact exec_contextRestore hk hv hc he hz hf hb rfl
  · intro q
    rfl
  · intro hq hn k
    exact exec_debugStopRequest hq hn
  · intro st hq hs hb k
    exact exec_debugResume hq hs hb rfl
  · rfl
  · rfl

end Sys2Proof.Machine
end

section
/-!
PROOFS. The register writes that act on functions, partitions, policies and parked sub-warps, and the gate (O47). Each lemma says what
one event answers where its agent may write there.
-/

namespace Sys2Proof.Machine

section
variable {s : State} {v : Nat}

/-- A partition whose rectangle fits is enabled. -/
theorem exec_partitionEnable {p : Nat} (hp : s.wrPart = some p) (hf : s.partFit p = true) :
    exec .partitionEnable s = .next ((s.writePctl p s.wr.value).setField (pctlAt p) 0 1 1) := by
  refine congrArg Host.Outcome.next ?_
  rw [hp]
  exact if_pos hf

/-- A partition is torn down. -/
theorem exec_partitionDisable {p : Nat} (hp : s.wrPart = some p) :
    exec .partitionDisable s = .next (((s.writePctl p s.wr.value).tearPartition p).setField (pctlAt p) 0 1 0) := by
  refine congrArg Host.Outcome.next ?_
  rw [hp]

/-- A function that nothing blocks is enabled. -/
theorem exec_vfEnable (hv : s.wrVctl = some v) (hm : s.mgmtDown = false) (hb : (s.writeVctl v s.wr.value).enableBlocked v = false) {s2 : State}
    (h2 : s2 = ((s.writeVctl v s.wr.value).resetRegs (runningRegs v)).fillKey ((s.writeVctl v s.wr.value).vfKey v)) :
    exec .vfEnable s = .next (State.setField { s2 with functions := s2.functions.insert v Function.empty } (ctxAt v 0) 0 1 1) := by
  subst h2
  refine congrArg Host.Outcome.next ?_
  rw [hv]
  exact (if_neg (by rw [hm]; decide)).trans (if_neg (by rw [hb]; decide))

/-- A function is torn down. -/
theorem exec_vfTeardown (hv : s.wrVctl = some v) : exec .vfTeardown s = .next ((s.writeVctl v s.wr.value).tearDown v) := by
  refine congrArg Host.Outcome.next ?_
  rw [hv]

/-- What is frozen of a function is replayed. -/
theorem exec_saveReplay (hv : s.frozenVf = some v) {s1 : State}
    (h1 : s1 = (s.stands.filterMap (fun p => if p.2.vf = v && p.2.frozen.isSome then some p.2.core else none)).foldl (fun s c =>
      s.updCore c (fun x => { x with tlb := x.tlb.filter (fun e => e.vf ≠ v) })) s) :
    exec .saveReplay s = .next { s1 with stands := s1.stands.mapVals (fun _ (st : Stand) =>
      if st.vf = v then { st with frozen := st.frozen.map (fun f => { f with replay := true }) } else st) } := by
  subst h1
  refine congrArg Host.Outcome.next ?_
  rw [hv]

/-- A function with something frozen is torn down. -/
theorem exec_saveKill (hv : s.frozenVf = some v) : exec .saveKill s = .next (s.tearDown v) := by
  refine congrArg Host.Outcome.next ?_
  rw [hv]

/-- A handler stand is made where its site has room and a slot is open. -/
theorem exec_handlerCreate (hv : s.wrVf = some v) {n core quota : Nat} (hn : n = s.wr.value.toNat)
    (hc : core = 80 * bits n 8 7 + bits n 1 7) (hq : quota = 8 * (bits n 17 5 + 1)) {s1 : State}
    (h1 : s1 = s.setReg (supAt v 0x101) (s.wr.value &&& hctlMask)) (hen : s.vfEnabled v = true) (hx : bits n 1 7 < 80) (hy : bits n 8 7 < 96)
    (hr : s.handlerRoom v core quota (bits n 15 2) = true) {sk : Nat} {sks : List Nat}
    (ho : s.openSlots (4 * core + bits n 15 2) = sk :: sks) {st : Stand}
    (hst : st = s1.handlerStand v core quota (bits n 15 2) (!s.mayPlace v)) :
    exec .handlerCreate s = .next ((State.seatHandler { s1 with
      stands := s1.stands.insert v { st with barriers := st.freshBarriers }, nextId := s1.nextId + 1 } v sk).updFunction v (fun f =>
        { f with handler := true })).noteSusp := by
  subst hst h1 hc hq hn
  refine congrArg Host.Outcome.next ?_
  rw [hv]
  have hok : (!s.vfEnabled v || decide (80 ≤ bits s.wr.value.toNat 1 7) || decide (96 ≤ bits s.wr.value.toNat 8 7)
      || !s.handlerRoom v (80 * bits s.wr.value.toNat 8 7 + bits s.wr.value.toNat 1 7) (8 * (bits s.wr.value.toNat 17 5 + 1))
        (bits s.wr.value.toNat 15 2)) = false := by
    simp only [hen, hr, decide_eq_false (Nat.not_le.mpr hx), decide_eq_false (Nat.not_le.mpr hy)]; decide
  dsimp only
  rw [if_neg (by rw [hok]; decide), ho]

/-- The handler stand of a function goes. -/
theorem exec_handlerTeardown (hv : s.wrVf = some v) :
    exec .handlerTeardown s = .next ((s.dropHandler v).setReg (supAt v 0x101) (s.wr.value &&& hctlMask)) := by
  refine congrArg Host.Outcome.next ?_
  rw [hv]

/-- A migrated page is replayed: the sub-warps that wait for it go on. -/
theorem exec_migrationReplay (hv : s.wrVf = some v) {m : MigRec} (hm : (s.functions.getD v Function.empty).migIds.find? (fun m =>
      m.written.map Prod.fst = some (bits s.wr.value.toNat 0 16)) = some m) {s2 : State}
    (h2 : s2 = (s.dropFrame v m.page).updFunction v (fun f => { f with migIds := f.migIds.filter (fun x => x.page ≠ m.page) })) :
    exec .migrationReplay s = .next (((s2.allParked v).filter (fun f => f.sub.onPage m.page)).foldl (fun s f => s.resumeSub f false) s2) := by
  subst h2
  refine congrArg Host.Outcome.next ?_
  rw [hv]
  dsimp only
  rw [hm]

/-- A write through %pval reaches what the writer's selection names. -/
theorem exec_pvalWrite (hv : s.wrVf = some v) : exec .pvalWrite s = .next (s.writePval v (match s.wr.agent with
    | .thread k => (s.thread k).sel
    | _ => s.pageSel v)) := by
  refine congrArg Host.Outcome.next ?_
  rw [hv]
  cases h : s.wr.agent <;> rfl

/-- A write through HPVAL reaches what the hypervisor's selection names. -/
theorem exec_hpvalWrite (hv : s.wrVf = some v) : exec .hpvalWrite s = .next (s.writePval v (s.hypSel v)) := by
  refine congrArg Host.Outcome.next ?_
  rw [hv]

/-- A forwarded event signals the function's supervisor. -/
theorem exec_forwardEvent (hv : s.wrVf = some v) : exec .forwardEvent s
    = .next (if s.ctxAddr v 0x78 = 0 then s else s.signal (s.ctxAddr v 0x78) (s.wr.value.setWidth 32)) := by
  refine congrArg Host.Outcome.next ?_
  rw [hv]

section
variable {f : Found} (hf : s.wrSub = some f)
include hf

/-- A parked sub-warp goes on at its instruction. -/
theorem exec_presRetry : exec .presRetry s = .next (s.resumeSub f false) := by
  refine congrArg Host.Outcome.next ?_
  rw [hf]

/-- A parked sub-warp goes on past its instruction. -/
theorem exec_presSkip : exec .presSkip s = .next (s.resumeSub f true) := by
  refine congrArg Host.Outcome.next ?_
  rw [hf]

/-- The stand of a parked sub-warp whose record was written fails. -/
theorem exec_presKill_written {n : Nat} (hn : f.sub.seq = some n) :
    exec .presKill s = .next (s.failStandAt f.stand f.sub.code (some n) false f.sub.killAt) := by
  refine congrArg Host.Outcome.next ?_
  rw [hf]
  dsimp only
  rw [hn]

/-- The stand of a parked sub-warp without a written record fails, through its record where one is open. -/
theorem exec_presKill_open (hn : f.sub.seq = none) : exec .presKill s = .next (if s.recordOpen f = true then
    (s.killRecord f).failStandAt f.stand f.sub.code none true f.sub.killAt
      else s.failStandAt f.stand f.sub.code none false f.sub.killAt) := by
  refine congrArg Host.Outcome.next ?_
  rw [hf]
  dsimp only
  rw [hn]

end

section
variable (hg : s.gateRuns = true)
include hg

/-- A policy that is well formed and signed takes the first free slot. -/
theorem exec_policyInstall {blen k : Nat} (hl : blen = 64 + 16 * polNdst (s.blob 64)) {blob : List Byte} (hb : blob = s.blob (blen + 3373 * 64))
    (hok : policyOk (blob.take blen) = true) (hs : s.signFault blob (blob.take blen) blen = none)
    (hk : (List.range 1024).find? (fun k => (s.policies.get? k).isNone) = some k) : exec .policyInstall s = .next (State.gateStatus
      { s with policies := s.policies.insert k ⟨s.policyGens.getD k 0, blob.take blen, polBudget (blob.take blen), polMaxrel (blob.take blen)⟩ }
      0 0 (k + 1024 * s.policyGens.getD k 0)) := by
  change execPolicyInstall s = _
  unfold execPolicyInstall
  dsimp only [-Nat.reduceMul]
  rw [if_neg (by rw [hg]; decide), ← hl, ← hb, if_neg (by rw [hok]; decide), hs]
  dsimp only
  rw [hk]

/-- A policy that is not well formed is refused. -/
theorem exec_policyInstall_illFormed {blen : Nat} (hl : blen = 64 + 16 * polNdst (s.blob 64)) {blob : List Byte}
    (hb : blob = s.blob (blen + 3373 * 64)) (hok : policyOk (blob.take blen) = false) : exec .policyInstall s = .next (s.gateStatus 1 0 0) := by
  change execPolicyInstall s = _
  unfold execPolicyInstall
  dsimp only [-Nat.reduceMul]
  rw [if_neg (by rw [hg]; decide), ← hl, ← hb, if_pos (by rw [hok]; decide)]

/-- A policy that is there is removed. -/
theorem exec_policyRemove (h : (s.policy (bits s.wr.value.toNat 2 16)).isSome = true) :
    exec .policyRemove s = .next ((s.dropPolicy (bits s.wr.value.toNat 2 16 % 1024)).gateStatus 0 0 0) := by
  obtain ⟨p, hp⟩ := Option.isSome_iff_exists.mp h
  refine congrArg Host.Outcome.next ((if_neg (by rw [hg]; decide)).trans ?_)
  rw [hp]

/-- A handle of no policy is refused. -/
theorem exec_policyRemove_none (h : s.policy (bits s.wr.value.toNat 2 16) = none) :
    exec .policyRemove s = .next (s.gateStatus 5 0 0) := by
  refine congrArg Host.Outcome.next ((if_neg (by rw [hg]; decide)).trans ?_)
  rw [h]

/-- New keys of an origin drop the policies that it signed. -/
theorem exec_keyRegister {o : Nat} (ho : o = bits s.wr.value.toNat 2 6) : exec .keyRegister s
    = .next (((s.policies.filterMap (fun p => if bit (polOset p.2.body) o then some p.1 else none)).foldl State.dropPolicy
      (State.measure { s with originKeys := s.originKeys.insert o (s.blob 1984) } 2 (BitVec.ofNat 8 o :: s.blob 1984))).gateStatus 0 0 0) := by
  subst ho
  exact congrArg Host.Outcome.next (if_neg (by rw [hg]; decide))

end

section
variable {r : Release} {rs : List Release} (hg : s.gate = r :: rs) (hl : s.gateLogFull = false) (hk : r.kind ≠ 1 ∨ s.mgmtDown = false)

include hl hk in
theorem gateRelease_due : ¬ ((s.gateLogFull || (r.kind = 1 && s.mgmtDown)) = true) := by
  rcases hk with hk | hk <;> simp [hl, hk]

include hg hl hk

/-- A release that the gate refuses is logged with its reason, and its token falls. -/
theorem exec_gateRelease_refused {res : Nat} (hr : State.relRefusal { s with gate := rs } r = some res) : exec .gateRelease s
    = .next ((State.gateLog { s with gate := rs } r res).tokensDown r.threads r.tok 0x02 (BitVec.ofNat 16 (s.field (gateAt 0x28) 0 32)) r.label) := by
  refine congrArg Host.Outcome.next ?_
  rw [hg]
  refine (if_neg (gateRelease_due hl hk)).trans ?_
  dsimp only
  rw [hr]

/-- A release that the gate passes is charged to its policy, logged and emitted. -/
theorem exec_gateRelease_passed (hr : State.relRefusal { s with gate := rs } r = none) : exec .gateRelease s
    = .next ((State.gateLog { s with
        gate := rs
        policies := s.policies.modify (r.handle.toNat % 1024) (fun p => p.spend r.data.length) } r (if r.kind = 2 then 1 else 0)).emit r
      (BitVec.ofNat 16 (s.field (gateAt 0x28) 0 32))) := by
  refine congrArg Host.Outcome.next ?_
  rw [hg]
  refine (if_neg (gateRelease_due hl hk)).trans ?_
  dsimp only
  rw [hr]

end

end

/-- Settles O47, register by register. -/
theorem functionEvents : Obligations.FunctionEvents := by
  unfold Obligations.FunctionEvents
  intro s
  refine ⟨?_, ?_, ?_, ?_, ?_, ?_, ?_⟩
  · intro p hp
    exact ⟨exec_partitionEnable hp, exec_partitionDisable hp⟩
  · intro v hv
    exact ⟨fun hm hb => exec_vfEnable hv hm hb rfl, exec_vfTeardown hv⟩
  · intro v hv
    exact ⟨exec_saveReplay hv rfl, exec_saveKill hv⟩
  · intro v hv
    refine ⟨?_, exec_handlerTeardown hv, fun m hm => exec_migrationReplay hv hm rfl, exec_pvalWrite hv, exec_hpvalWrite hv,
      exec_forwardEvent hv⟩
    intro sk sks hen hx hy hr ho
    exact exec_handlerCreate hv rfl rfl rfl rfl hen hx hy hr ho rfl
  · intro f hf
    exact ⟨exec_presRetry hf, exec_presSkip hf, fun n hn => exec_presKill_written hf hn, exec_presKill_open hf⟩
  · intro hg blen blob h o
    exact ⟨fun k hok hs hk => exec_policyInstall hg rfl rfl hok hs hk, exec_policyInstall_illFormed hg rfl rfl, exec_policyRemove hg,
      exec_policyRemove_none hg, exec_keyRegister hg rfl⟩
  · intro r rs hg hl hk seq
    exact ⟨fun res hr => exec_gateRelease_refused hg hl hk hr, exec_gateRelease_passed hg hl hk⟩

end Sys2Proof.Machine
end

section
/-!
PROOFS. The management domain (O48): its wake events, rings and eyes, the writes of its registers, and the requests over its port.
-/

namespace Sys2Proof.Machine

section
variable {s : State}

/-! ### Waking -/

/-- The bit of the wake mask for a source (R383). -/
def wakeBit : WakeSource → Nat
  | .port => 0
  | .ring => 1
  | .timer => 2

theorem State.wakeMgmt_eq (s : State) (src : WakeSource) : s.wakeMgmt src
    = { s with mgmt := { s.mgmt with halted := s.mgmt.halted && !bit s.mgmt.mwake.toNat (wakeBit src) } } := by
  have hw : s.wakeMgmt src = if bit s.mgmt.mwake.toNat (wakeBit src) then { s with mgmt := { s.mgmt with halted := false } } else s := by
    cases src <;> rfl
  rw [hw]
  cases hb : bit s.mgmt.mwake.toNat (wakeBit src)
  · simp only [Bool.false_eq_true, if_false, Bool.not_false, Bool.and_true]
  · simp only [if_true, Bool.not_true, Bool.and_false]

theorem State.wakeMgmt_bringUp (s : State) (src : WakeSource) : (s.wakeMgmt src).bringUp = s.bringUp := by
  rw [State.wakeMgmt_eq]
  rfl

theorem State.wakeMgmt_portServes (s : State) (src : WakeSource) : (s.wakeMgmt src).portServes = s.portServes := by
  rw [State.wakeMgmt_eq]
  rfl

theorem State.wakeMgmt_stim (s : State) (src : WakeSource) : (s.wakeMgmt src).stim = s.stim := by
  rw [State.wakeMgmt_eq]

/-! ### Rings and eyes -/

/-- A ring search ends in LOCK with its heater code, or in LFAIL. -/
theorem exec_ringSearch {n i : Nat} (hr : ringExists n i = true) (hw : isWlc n i = true) (hb : bits (s.ringReg n i).toNat 0 3 = 1) (ok : Bool)
    (heat : Byte) : exec (.ringSearch n i ok heat) s = .next ((s.setRing n i (if ok then
      putField (putField (s.ringReg n i) 1 1 1) 8 8 heat.toNat else putField (s.ringReg n i) 2 1 1)).wakeMgmt .ring) := by
  refine congrArg Host.Outcome.next ((if_neg (by simp [hr, hw, hb])).trans ?_)
  cases ok <;> rfl

/-- Eye training ends in TDONE or TFAIL. -/
theorem exec_eyeTraining {n i : Nat} {eyeh eyew : Byte} (hr : ringExists n i = true) (hw : isWlc n i = true)
    (ht : bit (s.ringReg n i).toNat 3 = true) (hl : bit (s.ringReg n i).toNat 1 = true) {r1 : Double}
    (h1 : r1 = putField (putField (putField (s.ringReg n i) 3 1 0) 16 8 eyeh.toNat) 24 8 eyew.toNat) :
    exec (.eyeTraining n i eyeh eyew) s = .next ((State.settleGuarantee s (portOfNode n) (s.setRing n i
      (putField r1 (if 40 ≤ eyeh.toNat ∧ 32 ≤ eyew.toNat then 4 else 5) 1 1))).wakeMgmt .ring) := by
  subst h1
  refine congrArg Host.Outcome.next ((if_neg (by simp [hr, hw, ht, hl])).trans ?_)
  simp only [Bool.and_eq_true, decide_eq_true_eq]

/-! ### Power-on -/

/-- What the self-test finds changes neither memory nor stands, launches, host cores or threads. -/
theorem State.withFound_fields (found : List (Nat × Bool)) : ∀ s : State, (s.withFound found).mem = s.mem ∧ (s.withFound found).stands = s.stands
    ∧ (s.withFound found).grids = s.grids ∧ (s.withFound found).hostHeld = s.hostHeld ∧ (s.withFound found).threads = s.threads := by
  unfold State.withFound
  induction found with
  | nil => exact fun s => ⟨rfl, rfl, rfl, rfl, rfl⟩
  | cons p ps ih =>
    intro s
    obtain ⟨hm, hs, hg, hh, ht⟩ := ih (if p.1 < 7680 then s.setSite p.1 (if p.2 then 1 else 2) else s)
    rw [List.foldl_cons, hm, hs, hg, hh, ht]
    split <;> exact ⟨rfl, rfl, rfl, rfl, rfl⟩

theorem putField_low_toNat (v : Double) {x : Nat} (hx : x < 16) : (putField v 0 4 x).toNat % 16 = x := by
  unfold putField bits
  rw [BitVec.toNat_ofNat]
  have hv := v.isLt
  omega

/-- The management core's thread is there at ROM. -/
theorem State.atRom_mgmtThread (s : State) : (s.atRom.threads.get? mgmtThread).isSome = true := by
  change (State.reset.threads.get? mgmtThread).isSome = true
  decide

theorem State.updThread_thread_self {k : Nat} (h : (s.threads.get? k).isSome = true) (f : Thread → Thread) :
    (s.updThread k f).thread k = f (s.thread k) := by
  obtain ⟨x, hx⟩ := Option.isSome_iff_exists.mp h
  simp only [State.updThread, State.thread, Table.getD, Table.get?_modify, hx, if_true, Option.map_some]

/-- A verified image runs from a machine at ROM with one measurement; any other leaves the device in SAFE. -/
theorem exec_powerOn (s : State) (found : List (Nat × Bool)) (image : List Byte) : ∃ t, exec (.powerOn found image) s = .next t
    ∧ if Config.vendorVerify image = true then t.flash = image ∧ t.measures = [⟨0, BitVec.ofNat 384 (beNat (sha384 image))⟩] ∧ t.mem = []
        ∧ t.stands = [] ∧ t.grids = [] ∧ t.hostHeld = true
      else t.bringUp = 15 ∧ (t.thread mgmtThread).status = .parked := by
  refine ⟨(s.atRom.withFound found).rom image, rfl, ?_⟩
  obtain ⟨hm, hs, hg, hh, ht⟩ := State.withFound_fields found s.atRom
  have hth := s.atRom_mgmtThread
  rw [← ht] at hth
  unfold State.rom
  generalize s.atRom.withFound found = x at hm hs hg hh hth
  split
  · exact ⟨rfl, rfl, hm, hs, hg, hh⟩
  · refine ⟨putField_low_toNat _ (by decide), ?_⟩
    have hp := State.updThread_thread_self (s := State.measure { x with flash := image, measures := [] } 0 image) hth
      (fun t => { t with status := .parked })
    exact congrArg Thread.status hp

/-! ### Features, %mstate and register writes -/

/-- GO confirms the features, or marks the error. -/
theorem exec_featureConfirm (hw : s.wrAllowed = true) (hf : s.field (featAt 0x40) 1 1 ≠ 1) : exec .featureConfirm s
    = .next (s.setReg (featAt 0x40) (if (List.range 4).any (fun i =>
      ((s.reg (featAt (0x20 + 8 * i))).toNat &&& (2 ^ 64 - 1 - (s.reg (featAt (8 * i))).toNat)) ≠ 0) then 4 else 2)) :=
  congrArg Host.Outcome.next (if_neg (by simp [hw, hf]))

section
variable {n : Nat} (hn : bits s.wr.value.toNat 0 4 = n) (hb : bit s.wr.value.toNat 4 = false)
include hn hb

theorem exec_mstateWrite : exec .mstateWrite s = .next (if n = 15 then s.fatalStop
    else if 7 ≤ n || s.bringUp = 15 then s else (s.endStep n).setBringUp n) := by
  refine congrArg Host.Outcome.next ?_
  dsimp only
  rw [hn, hb]
  rfl

end

/-- A register write to a context block stores the register of its function. -/
theorem exec_registerWrite_ctx {v off : Nat} (hv : v < 1024) (ho : off < 0x100) (hw : s.wrAllowed = true)
    (hpa : s.wr.pa = 0x080600000000 + 0x100 * v + off) : exec .registerWrite s = .next (s.writeCtx v off s.wr.value) := by
  refine congrArg Host.Outcome.next ?_
  dsimp only
  have hdiv : (s.wr.pa - 0x080600000000) / 0x100 = v := by omega
  have hmod : s.wr.pa % 0x100 = off := by omega
  rw [if_neg (by rw [hw]; decide), if_neg (by omega), if_neg (by omega), if_neg (by simp only [Bool.and_eq_true, decide_eq_true_eq]; omega),
    if_neg (by omega), if_pos (by omega), if_pos (by omega), hdiv, hmod]

/-- A lane map on distinct wavelengths is stored; another sets RERR. -/
theorem exec_lmapWrite {node : Nat} (hn : node = (s.wr.pa - 2 ^ 53) / 1024) {ok : Bool}
    (hok : ok = mapOk ((List.range 9).map (fun i => bits s.wr.value.toNat (4 * i) 4)) 10) (hr : ringExists node 16 = true)
    (ha : s.wr.agent = .mgmt) : exec .lmapWrite s = .next (if ok = false then s.setRerr
      else State.settleGuarantee s (portOfNode node) (s.setRing node 16 (BitVec.ofNat 64 (s.wr.value.toNat % 2 ^ 36)))) := by
  subst hn
  refine congrArg Host.Outcome.next ((if_neg (by rw [hr, ha]; decide)).trans ?_)
  rw [← hok]
  cases ok <;> rfl

/-- A field map on distinct wavelengths is stored; another sets RERR. -/
theorem exec_fmapWrite {node idx : Nat} (hn : node = (s.wr.pa - 2 ^ 53) / 1024) (hi : idx = (s.wr.pa - 2 ^ 53) % 1024) {s1 : State}
    (h1 : s1 = s.setRing node idx s.wr.value) (h48 : node < 48) (hlo : 48 ≤ idx) (hhi : idx < 51) (ha : s.wr.agent = .mgmt) :
    exec .fmapWrite s = .next (if mapOk (fmapList (s1.fmap node)) 35 then s1 else s.setRerr) := by
  subst h1
  change execFmapWrite s = _
  unfold execFmapWrite
  dsimp only
  rw [← hn, ← hi, if_neg]
  simp only [Bool.or_eq_true, decide_eq_true_eq, ha, ne_eq, not_true_eq_false, or_false]
  omega

/-! ### The management port -/

/-- A request that the port serves, and whose condition holds, is answered after the wake event. -/
theorem State.serve_eq {w : State} (hw : w = s.wakeMgmt .port) (hp : w.portServes = true) {c : Bool} (hc : c = true) (f : State → State) :
    s.serve c f = .next (f w) := by
  subst hw
  rw [State.wakeMgmt_portServes] at hp
  exact congrArg Host.Outcome.next (if_pos (by rw [hp, hc]; rfl))

theorem State.code_eq {n : Nat} (h : ∃ b bs, s.stim.datagram = b :: bs ∧ b.toNat = n) : s.code = some n := by
  obtain ⟨b, bs, hd, hn⟩ := h
  rw [State.code, hd, ← hn]
  rfl

/-- A chunk written at a place of the flash reads back from there. -/
theorem flash_chunk (flash chunk : List Byte) (at_ i : Nat) (hi : i < chunk.length) :
    (flash.take at_ ++ List.replicate (at_ - flash.length) 0#8 ++ chunk ++ flash.drop (at_ + chunk.length))[at_ + i]? = chunk[i]? := by
  have hlen : (flash.take at_ ++ List.replicate (at_ - flash.length) 0#8).length = at_ := by
    simp only [List.length_append, List.length_take, List.length_replicate]
    omega
  rw [List.getElem?_append_left (by rw [List.length_append, hlen]; omega), List.getElem?_append_right (by omega), hlen,
    Nat.add_sub_cancel_left]

section
variable {w : State} (hw : w = s.wakeMgmt .port) (hp : w.portServes = true)
include hw hp

/-- STATUS answers %mstate, the core map and the fatal records. -/
theorem exec_status (hc : s.code = some 1) : exec .status s = .next (w.reply (leBytes 8 w.mgmt.mstate.toNat
    ++ (if w.mapGen = 0 then [] else (List.range 2144).map w.mapByte) ++ w.fatals.flatten)) := by
  change execStatus s = _
  unfold execStatus
  rw [State.serve_eq hw hp (decide_eq_true hc)]

/-- LOG answers the measurement entries. -/
theorem exec_log (hc : s.code = some 2) (hb : 1 ≤ s.bringUp) :
    exec .log s = .next (w.reply (w.logBytes (leNat ((w.stim.datagram.drop 1).take 4)))) := by
  have h : (decide (s.code = some 2) && decide (1 ≤ s.bringUp)) = true := by simp [hc, hb]
  change execLog s = _
  unfold execLog
  rw [State.serve_eq hw hp h]

/-- REPORT answers the signed entries. -/
theorem exec_report (hc : s.code = some 3) (hb : 1 ≤ s.bringUp) {m : List Byte}
    (hm : m = reportTitle ++ (w.stim.datagram.drop 1).take 32 ++ w.logBytes 0) :
    exec .report s = .next (w.reply (m ++ Config.ed25519Sign m ++ Config.mldsaSign m)) := by
  subst hm
  have h : (decide (s.code = some 3) && decide (1 ≤ s.bringUp)) = true := by simp [hc, hb]
  change execReport s = _
  unfold execReport
  rw [State.serve_eq hw hp h]

/-- STREAM answers the queued data of a stream, and empties it. -/
theorem exec_stream (hc : s.code = some 5) (hb : s.bringUp = 6) {n : Nat} (hn : n = (w.stim.datagram.getD 1 0#8).toNat) :
    exec .stream s = .next { w with outputs := w.outputs ++ [.reply (w.streams.getD n [])], streams := w.streams.erase n } := by
  subst hn
  have h : (decide (s.code = some 5) && decide (s.bringUp = 6)) = true := by simp [hc, hb]
  change execStream s = _
  unfold execStream
  rw [State.serve_eq hw hp h]
  rfl

/-- A firmware chunk that is not the last is kept in the flash. -/
theorem exec_fwload (hc : s.code = some 4) (hb : s.bringUp = 15 ∨ s.bringUp = 6) (hl : (w.stim.datagram.getD 1 0#8).toNat = 0) :
    ∃ t, exec .fwload s = .next t ∧ t = { w with flash := t.flash }
      ∧ ∀ i, i < (w.stim.datagram.drop 6).length → t.flash[leNat ((w.stim.datagram.drop 2).take 4) + i]? = (w.stim.datagram.drop 6)[i]? := by
  have h : (decide (s.code = some 4) && (decide (s.bringUp = 15) || decide (s.bringUp = 6))) = true := by
    rcases hb with hb | hb <;> simp [hc, hb]
  refine ⟨_, (show execFwload s = _ from State.serve_eq hw hp h _).trans (congrArg Host.Outcome.next (if_pos hl)), rfl, ?_⟩
  intro i hi
  exact flash_chunk _ _ _ i hi

/-- A datagram of no code is answered with 0 and logged. -/
theorem exec_unknownRequest (hu : s.unknownCode = true) : exec .unknownRequest s = .next ((w.reply [0#8]).logIgnored 0 false .mgmt) := by
  change execUnknownRequest s = _
  unfold execUnknownRequest
  rw [State.serve_eq hw hp hu]

end

end

/-- Settles O48, event by event. -/
theorem managementEvents : Obligations.ManagementEvents := by
  unfold Obligations.ManagementEvents
  intro s
  refine ⟨?_, ?_, ?_, ?_, ?_, ?_, ?_, ?_, ?_, ?_⟩
  · intro src
    refine ⟨_, congrArg Host.Outcome.next (s.wakeMgmt_eq src), rfl, ?_⟩
    cases src <;> rfl
  · intro n i ok heat hr hw hb
    exact exec_ringSearch hr hw hb ok heat
  · intro n i eyeh eyew hr hw ht hl r1
    exact exec_eyeTraining hr hw ht hl rfl
  · intro found image
    exact exec_powerOn s found image
  · intro hw hf
    exact exec_featureConfirm hw hf
  · intro n hn hb
    refine ⟨fun h6 hs => ?_, fun h6 hs => ?_, fun h15 => ?_⟩
    · rw [exec_mstateWrite hn hb, if_neg (by omega), if_neg (by simp only [hs, decide_false, Bool.or_false, decide_eq_true_eq]; omega)]
    · rw [exec_mstateWrite hn hb, if_neg (by omega), if_pos (by simp [hs])]
    · rw [exec_mstateWrite hn hb, if_pos h15]
  · intro v off hv ho hw hpa
    exact exec_registerWrite_ctx hv ho hw hpa
  · intro node ok hr ha
    exact exec_lmapWrite rfl rfl hr ha
  · intro node idx s1 h48 hlo hhi ha
    exact exec_fmapWrite rfl rfl rfl h48 hlo hhi ha
  · intro w code hp
    exact ⟨fun hc => exec_status rfl hp (State.code_eq hc), fun hc hb => exec_log rfl hp (State.code_eq hc) hb,
      fun hc hb => exec_report rfl hp (State.code_eq hc) hb rfl, fun hc hb hl => exec_fwload rfl hp (State.code_eq hc) hb hl,
      fun hc hb => exec_stream rfl hp (State.code_eq hc) hb rfl, exec_unknownRequest rfl hp⟩

end Sys2Proof.Machine
end

section
/-!
PROOFS. Failures and repairs (O49): retests, links, contained errors, scrubs, folded records, channels in relocation and the watchdog.
-/

namespace Sys2Proof.Machine

section
variable {s : State}

/-! ### Sites and links -/

section
variable {x : Nat} {a b : Bool} {s1 : State} (hx : x < 7680) (h1 : s1 = { s with retests := s.retests.filter (· ≠ (x, a, b)) })
include hx h1

/-- A retest that is due publishes the map, or retires the site first. -/
theorem exec_retest (hw : s.retestWaits x = false) :
    exec (.retest x a b) s = .next (if a = true ∧ b = true then s1.publish else s1.retire x (if b then 1 else 2)) := by
  subst h1
  refine congrArg Host.Outcome.next ((if_neg (by omega)).trans ((if_neg (by rw [hw]; decide)).trans ?_))
  simp only [Bool.and_eq_true]

/-- A retest that must wait is noted again. -/
theorem exec_retest_waits (hw : s.retestWaits x = true) :
    exec (.retest x a b) s = .next { s1 with retests := s1.retests ++ [(x, a, b)] } := by
  subst h1
  exact congrArg Host.Outcome.next ((if_neg (by omega)).trans (if_pos hw))

end

/-- A link that retries is counted and folded. -/
theorem exec_linkRetry {x : Nat} {p : MeshPort} (hx : x < 7680) {k : Nat} (hk : k = 4 * x + portDir p) : exec (.linkRetry x p) s
    = .next (State.foldError { s with linkRetries := s.linkRetries.put 0 k (s.linkRetries.getD k 0 + 1) } 0x10 0 x (portDir p)) := by
  subst hk
  exact congrArg Host.Outcome.next (if_neg (by omega))

/-- A link between two routers that pass goes down: the grids over it fail, and the map is published. -/
theorem exec_linkDown {x y : Nat} {p : MeshPort} (hx : x < 7680) (hy : hopFrom x (portDir p) = some y)
    (hr : 16 ≤ s.linkRetries.getD (4 * x + portDir p) 0) {s1 s2 : State}
    (h1 : s1 = (s.grids.filterMap (fun g => if g.2.state ≠ .ended && s.gridOver g.1 g.2 x y then some g.1 else none)).foldl
      (fun s k => s.failGrid k ⟨0xE0, none, false, 0⟩) s)
    (h2 : s2 = { s1 with linkRetries := s1.linkRetries.erase (4 * x + portDir p) }) :
    exec (.linkDown x p true true) s = .next (s2.logError 0x11 1 0x3FF 0 x 1 (s2.siteState x)).publish := by
  subst h1
  change execLinkDown x p true true s = _
  unfold execLinkDown
  rw [hy]
  dsimp only
  rw [if_neg (by simp only [Bool.or_eq_true, decide_eq_true_eq]; omega), ← h2]
  simp only [Bool.true_or, Bool.and_self, if_true]

/-- A wavelength whose margin alarms moves to the lowest free spare. -/
theorem exec_marginAlarm {w x new : Nat} {heat : Byte} (hb : s.bringUp ≠ 15) (hw : w < 48) (hx : (fmapList (s.fmap w)).contains x = true)
    (hh : heat.toNat ≤ 7 ∨ 248 ≤ heat.toNat) (hn : (List.range 36).find? (s.spareFree w) = some new) {s1 s2 : State} (h1 : s1 = s.light w new)
    (h2 : s2 = s1.setRing w x (putField (putField (s1.ringReg w x) 4 1 0) 5 1 1)) :
    exec (.marginAlarm w x heat) s = .next ((s2.setFmap w (remap (s2.fmap w) x new)).foldError 0x20 0 w (x + new * 2 ^ 6)) := by
  subst h2 h1
  change execMarginAlarm w x heat s = _
  unfold execMarginAlarm
  rw [if_neg (by simp only [hx, Bool.or_eq_true, Bool.and_eq_true, decide_eq_true_eq, Bool.not_true, Bool.false_eq_true, or_false]; omega), hn]

/-! ### Contained errors and scrubs -/

/-- A bad sector of memory is marked and recorded. -/
theorem exec_uncorrectable_sector {pa : Nat} (hp : s.isDram pa = true ∨ isVault pa = true) : exec (.uncorrectableError (.sector pa)) s
    = .next ((s.markBad (.pa pa)).logContained (if isVault pa then 5 else 6) 0x3FF (pa / 32 * 32) (s.siteOfPa pa)) :=
  congrArg Host.Outcome.next (if_pos (Bool.or_eq_true_iff.mpr hp))

theorem scrub_inRange {c x : Nat} (hc : c < 1024) (hx : 32 * x < 2 ^ 41) (hch : channelOf (32 * x) = c) :
    ¬ ((decide (1024 ≤ c) || decide (2 ^ 41 ≤ 32 * x) || decide (channelOf (32 * x) ≠ c)) = true) := by
  rw [hch]
  simp only [Bool.or_eq_true, decide_eq_true_eq, ne_eq, not_true_eq_false, or_false]
  omega

/-- A corrected DRAM sector is counted; the 256th of a pass declares the channel failing. -/
theorem exec_dramScrub {c x : Nat} (hc : c < 1024) (hx : 32 * x < 2 ^ 41) (hch : channelOf (32 * x) = c) {s1 s2 : State} {n : Nat}
    (h1 : s1 = s.foldError 6 (32 * x) (s.entrySite c) ((s.free 56).toNat)) (hn : n = s.channelErrors.getD c 0 + 1)
    (h2 : s2 = { s1 with channelErrors := s1.channelErrors.put 0 c n }) :
    exec (.dramScrub c x true false) s = .next (if n = 256 then s2.channelFailing c else s2) := by
  subst h2 h1 hn
  change execDramScrub c x true false s = _
  unfold execDramScrub
  rw [if_neg (scrub_inRange hc hx hch)]
  simp only [Bool.true_and, decide_eq_true_eq, if_true, Bool.false_eq_true, if_false]

/-- A corrected vault line marks its row, which is remapped when the pass before corrected it too. -/
theorem exec_vaultScrub {c n : Nat} (hc : c < 384) (hn : n < 2 ^ 20) {row : Nat} (hrow : row = rowKey c n) {s1 s2 : State}
    (h1 : s1 = s.foldError 5 (0x40000000000 + c * 0x4000000 + 64 * n) (s.vaultPort c n) ((s.free 56).toNat))
    (h2 : s2 = { s1 with rowErrors := s.rowErrors.put 0 row (s.rowErrors.getD row 0 ||| 1) }) :
    exec (.vaultScrub c n true false) s = .next (if bit (s.rowErrors.getD row 0) 1 then s2.remapRow c row else s2) := by
  subst h2 h1 hrow
  refine congrArg Host.Outcome.next ((if_neg ?_).trans ?_)
  · simp only [Bool.or_eq_true, decide_eq_true_eq]
    omega
  · simp only [Bool.true_and, if_true, Bool.false_eq_true, if_false]

/-- A corrected scratchpad line is counted. -/
theorem exec_scratchpadScrub {c b n : Nat} (hc : c < 7680) (hb : b < 32) (hn : n < 512) :
    exec (.scratchpadScrub c b n true) s = .next (s.foldError 2 0 c ((s.free 56).toNat)) := by
  refine congrArg Host.Outcome.next (if_neg ?_)
  simp only [Bool.or_eq_true, decide_eq_true_eq, Bool.not_true, Bool.false_eq_true, or_false]
  omega

/-- A fold whose window ends becomes one record. -/
theorem exec_errorFoldExpire {k : Nat} {f : Fold} (hf : s.folds.get? k = some f) : exec (.errorFoldExpire k) s = .next (State.logError
    { s with folds := s.folds.erase k } f.kind (if f.kind = 0x0B then 3 else 0) f.vf f.pa f.loc f.cnt f.info.toNat) := by
  refine congrArg Host.Outcome.next ?_
  rw [hf]

/-! ### Policies, the watchdog and channels -/

/-- A policy that fails its check is dropped. -/
theorem exec_policyCheckFail {h : BitVec 16} (hp : (s.policy h.toNat).isSome = true) :
    exec (.policyCheckFail h) s = .next ((s.dropPolicy (h.toNat % 1024)).logError 0x60 3 0x3FF 0 s.noLoc 1 h.toNat) := by
  obtain ⟨p, hp⟩ := Option.isSome_iff_exists.mp hp
  refine congrArg Host.Outcome.next ?_
  rw [hp]

/-- The watchdog restarts a verified image, and stops the device under any other. -/
theorem exec_watchdogRestart (s : State) (image : List Byte) : exec (.watchdogRestart image) s = .next (if Config.vendorVerify image = false then
    s.fatalStop else (State.measure { s.startMgmt with
      flash := image
      mgmt := { s.mgmt with rmode := 1, mwake := 0, mtimer := 0, halted := false, held := [] }
      inputs := s.mgmt.held ++ s.inputs } 0 image).logError 0x70 3 0x3FF 0 s.noLoc 1 0) := by
  refine congrArg Host.Outcome.next ?_
  cases hv : Config.vendorVerify image
  · exact (if_pos rfl).trans (if_pos rfl).symm
  · exact (if_neg (by decide)).trans (if_neg (by decide)).symm

/-- ACK starts the relocation of the channel in process. -/
theorem exec_channelAck (hw : s.wrAllowed = true) (hf : s.field (errAt 0x20) 10 2 = 1) :
    exec .channelAck s = .next ((s.setField (errAt 0x20) 10 2 2).setField (errAt 0x20) 12 1 1) :=
  congrArg Host.Outcome.next ((if_neg (by rw [hw]; decide)).trans (if_neg (by rw [hf]; decide)))

/-- A relocated channel is retired, and one that waits comes into process. -/
theorem exec_relocationComplete (hf : s.field (errAt 0x20) 10 2 = 2) {ch : Nat} (hch : ch = s.field (errAt 0x20) 0 10) {s2 : State}
    (h2 : s2 = ((State.setField { s with retired := insertNat ch s.retired } (errAt 0x20) 10 3 0).publish).logError 0x31 3 0x3FF 0 s.noLoc 1 ch) :
    exec .relocationComplete s = .next (match s2.failing with
      | [] => s2
      | c :: cs => State.channelFailing { s2 with failing := cs } c) := by
  subst hch
  change execRelocationComplete s = _
  unfold execRelocationComplete
  dsimp only
  rw [if_neg (by rw [hf]; decide)]
  cases hs : s2.failing <;> simp only [← h2, hs]

end

/-- Settles O49, event by event. -/
theorem failureEvents : Obligations.FailureEvents := by
  unfold Obligations.FailureEvents
  intro s
  refine ⟨?_, ?_, ?_, ?_, ?_, ?_, ?_, ?_, ?_, ?_, ?_, ?_, ?_, ?_, ?_, ?_⟩
  · intro x a b hx s1
    exact ⟨exec_retest hx rfl, exec_retest_waits hx rfl⟩
  · intro x p hx k
    exact exec_linkRetry hx rfl
  · intro x p y hx hy hr s1 s2
    exact exec_linkDown hx hy hr rfl rfl
  · intro w x heat new hb hw hx hh hn s1 s2
    exact exec_marginAlarm hb hw hx hh hn rfl rfl
  · intro n x
    rfl
  · intro pa hp
    exact exec_uncorrectable_sector hp
  · intro k o
    rfl
  · intro t
    rfl
  · intro c x hc hx hch
    exact exec_dramScrub hc hx hch rfl rfl rfl
  · intro c n hc hn row s1
    exact exec_vaultScrub hc hn rfl rfl rfl
  · intro c b n hc hb hn
    exact exec_scratchpadScrub hc hb hn
  · intro k f hf
    exact exec_errorFoldExpire hf
  · intro h hp
    exact exec_policyCheckFail hp
  · intro image
    exact exec_watchdogRestart s image
  · intro hw hf
    exact exec_channelAck hw hf
  · intro hf ch s2
    exact exec_relocationComplete hf rfl rfl

end Sys2Proof.Machine
end
